-- ==== Sys2Proof/Word.lean ====
section
/-!
DEFINITION. The word type, the register numbers and the operand codes of the instruction words.
Codes are those of 02 R53, 03 R74 to R82, R94, 05 R110, R116, R117, 06 R140, R155, R157, 08 R218.
-/

namespace Sys2Proof

/-- A general register or an instruction word (01 R28, 03 R70). -/
abbrev Word := BitVec 64

/-- A byte of memory (00 R3). -/
abbrev Byte := BitVec 8

/-- Register numbers by kind (03 R75). -/
abbrev XReg := Fin 64
abbrev VReg := Fin 32
abbrev KReg := Fin 8
abbrev MReg := Fin 8

/-- The guard of a full word (03 R74): the predicate register and the negation bit. -/
structure Guard where
  neg : Bool
  k : KReg
deriving DecidableEq, Repr

/-- Guard 0b0000: always holds. -/
def Guard.always : Guard := ⟨false, 0⟩

/-- Operand width W of the scalar integer instructions (05 R110). -/
inductive IntW where
  | w64 | w32 | w16 | w8
deriving DecidableEq, Repr

def IntW.bits : IntW → Nat
  | .w64 => 64
  | .w32 => 32
  | .w16 => 16
  | .w8 => 8

def IntW.code : IntW → Nat
  | .w64 => 0
  | .w32 => 1
  | .w16 => 2
  | .w8 => 3

def IntW.ofCode (n : Nat) : IntW :=
  if n = 0 then .w64 else if n = 1 then .w32 else if n = 2 then .w16 else .w8

/-- Element types (03 R76). -/
inductive Ty where
  | i8 | i16 | i32 | i64 | n8 | n16 | n32 | n64 | f32 | f16 | bf16 | e4m3 | e5m2 | lg6
deriving DecidableEq, Repr

def Ty.code : Ty → Nat
  | .i8 => 0 | .i16 => 1 | .i32 => 2 | .i64 => 3 | .n8 => 4 | .n16 => 5 | .n32 => 6 | .n64 => 7
  | .f32 => 8 | .f16 => 9 | .bf16 => 10 | .e4m3 => 11 | .e5m2 => 12 | .lg6 => 13

def Ty.ofCode : Nat → Option Ty
  | 0 => some .i8 | 1 => some .i16 | 2 => some .i32 | 3 => some .i64
  | 4 => some .n8 | 5 => some .n16 | 6 => some .n32 | 7 => some .n64
  | 8 => some .f32 | 9 => some .f16 | 10 => some .bf16 | 11 => some .e4m3 | 12 => some .e5m2
  | 13 => some .lg6
  | _ => none

/-- Element width in bits (06 R136). -/
def Ty.bits : Ty → Nat
  | .i8 => 8 | .i16 => 16 | .i32 => 32 | .i64 => 64 | .n8 => 8 | .n16 => 16 | .n32 => 32 | .n64 => 64
  | .f32 => 32 | .f16 => 16 | .bf16 => 16 | .e4m3 => 8 | .e5m2 => 8 | .lg6 => 8

def Ty.isInt : Ty → Bool
  | .i8 | .i16 | .i32 | .i64 | .n8 | .n16 | .n32 | .n64 => true
  | _ => false

def Ty.isSigned : Ty → Bool
  | .i8 | .i16 | .i32 | .i64 => true
  | _ => false

/-- The three formats of the packed floating instructions (06 R137). -/
def Ty.isPacked : Ty → Bool
  | .f32 | .f16 | .bf16 => true
  | _ => false

/-- A floating format 16 bits wide or narrower (02 R54). -/
def Ty.isNarrowFloat : Ty → Bool
  | .f16 | .bf16 | .e4m3 | .e5m2 | .lg6 => true
  | _ => false

/-- Rounding codes (02 R53). -/
inductive Rm where
  | dyn | rne | rtz | rup | rdn | rna | sr
deriving DecidableEq, Repr

def Rm.code : Rm → Nat
  | .dyn => 0 | .rne => 1 | .rtz => 2 | .rup => 3 | .rdn => 4 | .rna => 5 | .sr => 6

def Rm.ofCode : Nat → Option Rm
  | 0 => some .dyn | 1 => some .rne | 2 => some .rtz | 3 => some .rup | 4 => some .rdn
  | 5 => some .rna | 6 => some .sr
  | _ => none

/-- Integer conditions (05 R116). -/
inductive Cond where
  | eq | ne | lt | le | gt | ge
deriving DecidableEq, Repr

def Cond.code : Cond → Nat
  | .eq => 0 | .ne => 1 | .lt => 2 | .le => 3 | .gt => 4 | .ge => 5

def Cond.ofCode : Nat → Option Cond
  | 0 => some .eq | 1 => some .ne | 2 => some .lt | 3 => some .le | 4 => some .gt | 5 => some .ge
  | _ => none

/-- Floating conditions (06 R140). -/
inductive FCond where
  | eq | ne | lt | le | gt | ge | un | ord
deriving DecidableEq, Repr

def FCond.code : FCond → Nat
  | .eq => 0 | .ne => 1 | .lt => 2 | .le => 3 | .gt => 4 | .ge => 5 | .un => 6 | .ord => 7

def FCond.ofCode (n : Nat) : FCond :=
  match n with
  | 0 => .eq | 1 => .ne | 2 => .lt | 3 => .le | 4 => .gt | 5 => .ge | 6 => .un | _ => .ord

/-- Destination selector KD of FCMP and VCMP (06 R140). -/
inductive CmpDest where
  | vec | any | all
deriving DecidableEq, Repr

def CmpDest.code : CmpDest → Nat
  | .vec => 0 | .any => 1 | .all => 2

def CmpDest.ofCode : Nat → Option CmpDest
  | 0 => some .vec | 1 => some .any | 2 => some .all
  | _ => none

/-- Predicate operations of KOP (05 R117). -/
inductive KopOp where
  | and | or | xor | andn | orn | nand | nor | xnor
deriving DecidableEq, Repr

def KopOp.code : KopOp → Nat
  | .and => 0 | .or => 1 | .xor => 2 | .andn => 3 | .orn => 4 | .nand => 5 | .nor => 6 | .xnor => 7

def KopOp.ofCode (n : Nat) : KopOp :=
  match n with
  | 0 => .and | 1 => .or | 2 => .xor | 3 => .andn | 4 => .orn | 5 => .nand | 6 => .nor | _ => .xnor

def KopOp.eval : KopOp → Bool → Bool → Bool
  | .and, p, q => p && q
  | .or, p, q => p || q
  | .xor, p, q => p != q
  | .andn, p, q => p && !q
  | .orn, p, q => p || !q
  | .nand, p, q => !(p && q)
  | .nor, p, q => !(p || q)
  | .xnor, p, q => p == q

/-- Scopes (01 R38). -/
inductive Scope where
  | pl | form | cl | die | pkg | sys
deriving DecidableEq, Repr

def Scope.code : Scope → Nat
  | .pl => 0 | .form => 1 | .cl => 2 | .die => 3 | .pkg => 4 | .sys => 5

def Scope.ofCode : Nat → Option Scope
  | 0 => some .pl | 1 => some .form | 2 => some .cl | 3 => some .die | 4 => some .pkg | 5 => some .sys
  | _ => none

/-- Access sizes (03 R78). -/
inductive MSize where
  | b8 | b16 | b32 | b64 | b128
deriving DecidableEq, Repr

def MSize.code : MSize → Nat
  | .b8 => 0 | .b16 => 1 | .b32 => 2 | .b64 => 3 | .b128 => 4

def MSize.ofCode : Nat → Option MSize
  | 0 => some .b8 | 1 => some .b16 | 2 => some .b32 | 3 => some .b64 | 4 => some .b128
  | _ => none

def MSize.bytes : MSize → Nat
  | .b8 => 1 | .b16 => 2 | .b32 => 4 | .b64 => 8 | .b128 => 16

/-- HINT (03 R78); code 3 is reserved. -/
inductive Hint where
  | normal | stream | keep
deriving DecidableEq, Repr

def Hint.code : Hint → Nat
  | .normal => 0 | .stream => 1 | .keep => 2

def Hint.ofCode : Nat → Option Hint
  | 0 => some .normal | 1 => some .stream | 2 => some .keep
  | _ => none

/-- ORD (03 R78). -/
inductive Order where
  | none | acq | rel | ar
deriving DecidableEq, Repr

def Order.code : Order → Nat
  | .none => 0 | .acq => 1 | .rel => 2 | .ar => 3

def Order.ofCode (n : Nat) : Order :=
  match n with
  | 0 => .none | 1 => .acq | 2 => .rel | _ => .ar

/-- The part of a format M modifier that every access carries (03 R78). -/
structure MMod where
  seg : Bool
  hint : Hint
  ord : Order
  scope : Scope
deriving DecidableEq, Repr

/-- SHFL modes (06 R155). -/
inductive ShflMode where
  | idx | up | down | xor
deriving DecidableEq, Repr

def ShflMode.code : ShflMode → Nat
  | .idx => 0 | .up => 1 | .down => 2 | .xor => 3

def ShflMode.ofCode (n : Nat) : ShflMode :=
  match n with
  | 0 => .idx | 1 => .up | 2 => .down | _ => .xor

/-- RED and SCAN operations (06 R157). -/
inductive RedOp where
  | add | min | max | and | or | xor | minidx | maxidx
deriving DecidableEq, Repr

def RedOp.code : RedOp → Nat
  | .add => 0 | .min => 1 | .max => 2 | .and => 3 | .or => 4 | .xor => 5 | .minidx => 6 | .maxidx => 7

def RedOp.ofCode (n : Nat) : RedOp :=
  match n with
  | 0 => .add | 1 => .min | 2 => .max | 3 => .and | 4 => .or | 5 => .xor | 6 => .minidx | _ => .maxidx

/-- SENDA operation and element type (08 R218). -/
inductive SendOp where
  | add | min | max
deriving DecidableEq, Repr

def SendOp.code : SendOp → Nat
  | .add => 0 | .min => 1 | .max => 2

def SendOp.ofCode : Nat → Option SendOp
  | 0 => some .add | 1 => some .min | 2 => some .max
  | _ => none

inductive SendTy where
  | f32 | bf16 | i64
deriving DecidableEq, Repr

def SendTy.code : SendTy → Nat
  | .f32 => 0 | .bf16 => 1 | .i64 => 2

def SendTy.ofCode : Nat → Option SendTy
  | 0 => some .f32 | 1 => some .bf16 | 2 => some .i64
  | _ => none

def SendTy.bytes : SendTy → Nat
  | .f32 => 4 | .bf16 => 2 | .i64 => 8

/-- The flags of a copy command (08 R218). -/
structure CopyMod where
  seg : Bool
  hint : Hint
  acq : Bool
  rel : Bool
  scope : Scope
deriving DecidableEq, Repr

/-- Short opcodes of a dual word's slots (03 R94). -/
inductive SOp where
  | nop | add | sub | mull | and | or | xor | andn | shl | shr | sar | min | max | minn | maxn | mov
  | cmpEq | cmpNe | cmpLtI | cmpGeI | cmpLtN | cmpGeN
  | ldN8 | ldN16 | ldN32 | ldB64 | ldI8 | ldI16 | ldI32
  | stB8 | stB16 | stB32 | stB64
  | vaddI32 | vsubI32 | faddF32 | fmulF32 | br
deriving DecidableEq, Repr

def SOp.code : SOp → Nat
  | .nop => 0x00 | .add => 0x01 | .sub => 0x02 | .mull => 0x03 | .and => 0x04 | .or => 0x05
  | .xor => 0x06 | .andn => 0x07 | .shl => 0x08 | .shr => 0x09 | .sar => 0x0A | .min => 0x0B
  | .max => 0x0C | .minn => 0x0D | .maxn => 0x0E | .mov => 0x0F
  | .cmpEq => 0x10 | .cmpNe => 0x11 | .cmpLtI => 0x12 | .cmpGeI => 0x13 | .cmpLtN => 0x14
  | .cmpGeN => 0x15
  | .ldN8 => 0x18 | .ldN16 => 0x19 | .ldN32 => 0x1A | .ldB64 => 0x1B | .ldI8 => 0x1C
  | .ldI16 => 0x1D | .ldI32 => 0x1E
  | .stB8 => 0x20 | .stB16 => 0x21 | .stB32 => 0x22 | .stB64 => 0x23
  | .vaddI32 => 0x28 | .vsubI32 => 0x29 | .faddF32 => 0x2A | .fmulF32 => 0x2B | .br => 0x30

def SOp.ofCode : Nat → Option SOp
  | 0x00 => some .nop | 0x01 => some .add | 0x02 => some .sub | 0x03 => some .mull
  | 0x04 => some .and | 0x05 => some .or | 0x06 => some .xor | 0x07 => some .andn
  | 0x08 => some .shl | 0x09 => some .shr | 0x0A => some .sar | 0x0B => some .min
  | 0x0C => some .max | 0x0D => some .minn | 0x0E => some .maxn | 0x0F => some .mov
  | 0x10 => some .cmpEq | 0x11 => some .cmpNe | 0x12 => some .cmpLtI | 0x13 => some .cmpGeI
  | 0x14 => some .cmpLtN | 0x15 => some .cmpGeN
  | 0x18 => some .ldN8 | 0x19 => some .ldN16 | 0x1A => some .ldN32 | 0x1B => some .ldB64
  | 0x1C => some .ldI8 | 0x1D => some .ldI16 | 0x1E => some .ldI32
  | 0x20 => some .stB8 | 0x21 => some .stB16 | 0x22 => some .stB32 | 0x23 => some .stB64
  | 0x28 => some .vaddI32 | 0x29 => some .vsubI32 | 0x2A => some .faddF32 | 0x2B => some .fmulF32
  | 0x30 => some .br
  | _ => none

/-- The second operand of a slot (03 R81, R82): the 11-bit immediate as written, or a register. -/
inductive SOpnd where
  | imm (v : BitVec 11)
  | reg (r : Fin 64)
deriving DecidableEq, Repr

/-- One slot of a dual word (03 R81). -/
structure Slot where
  op : SOp
  d : Fin 64
  a : Fin 64
  s : SOpnd
deriving DecidableEq, Repr

/-- Port states (19 R429). -/
inductive PortState where
  | down | training | up | degraded | retraining | failed
deriving DecidableEq, Repr

def PortState.code : PortState → Nat
  | .down => 0 | .training => 1 | .up => 2 | .degraded => 3 | .retraining => 4 | .failed => 5

/-- A unit that the platform tests and replaces (20 R454). -/
inductive PUnit_ where
  | quad (die cluster quad : Nat)
  | cluster (die cluster : Nat)
  | bank (die slice bank : Nat)
  | channel (stack channel : Nat)
  | lane (port lane : Nat)
deriving DecidableEq, Repr

/-- Floor division by a power of two and the low bits: the two ways the model takes a field. -/
def fieldAt (n lo width : Nat) : Nat := n / 2 ^ lo % 2 ^ width

/-- Sign extension of the low `w` bits of `n` to an integer (00 R10 `sext`). -/
def sextInt (w n : Nat) : Int :=
  if n % 2 ^ w < 2 ^ (w - 1) then (n % 2 ^ w : Int) else (n % 2 ^ w : Int) - 2 ^ w

end Sys2Proof
end

