-- ==== Sys2Proof/Syntax.lean ====
section
/-!
DEFINITION. The instruction set: one constructor per row of the opcode table (03 R89 to R94 and the steps
that engines, the front end, the host and the platform make on their own).  A word's constructor carries its
fields.  A step's constructor carries nothing: which object moves, and what the device or the outside chooses, stand
in `State.pick` (logs 1, 20).
-/

namespace Sys2Proof

/-- The instructions of the machine. -/
inductive Instr where
  | nop (g : Guard)
  | add (g : Guard) (d : XReg) (a : XReg) (b : XReg) (w : IntW) (u : Bool) (sat : Bool)
  | sub (g : Guard) (d : XReg) (a : XReg) (b : XReg) (w : IntW) (u : Bool) (sat : Bool)
  | mull (g : Guard) (d : XReg) (a : XReg) (b : XReg) (w : IntW) (u : Bool) (sat : Bool)
  | mulh (g : Guard) (d : XReg) (a : XReg) (b : XReg) (w : IntW)
  | mulhn (g : Guard) (d : XReg) (a : XReg) (b : XReg) (w : IntW)
  | div (g : Guard) (d : XReg) (a : XReg) (b : XReg) (w : IntW)
  | divn (g : Guard) (d : XReg) (a : XReg) (b : XReg) (w : IntW)
  | rem (g : Guard) (d : XReg) (a : XReg) (b : XReg) (w : IntW)
  | remn (g : Guard) (d : XReg) (a : XReg) (b : XReg) (w : IntW)
  | shladd (g : Guard) (d : XReg) (a : XReg) (b : XReg) (w : IntW) (u : Bool) (sh : Fin 8)
  | and (g : Guard) (d : XReg) (a : XReg) (b : XReg) (w : IntW) (u : Bool)
  | or (g : Guard) (d : XReg) (a : XReg) (b : XReg) (w : IntW) (u : Bool)
  | xor (g : Guard) (d : XReg) (a : XReg) (b : XReg) (w : IntW) (u : Bool)
  | andn (g : Guard) (d : XReg) (a : XReg) (b : XReg) (w : IntW) (u : Bool)
  | orn (g : Guard) (d : XReg) (a : XReg) (b : XReg) (w : IntW) (u : Bool)
  | xnor (g : Guard) (d : XReg) (a : XReg) (b : XReg) (w : IntW) (u : Bool)
  | shl (g : Guard) (d : XReg) (a : XReg) (b : XReg) (w : IntW) (u : Bool)
  | shr (g : Guard) (d : XReg) (a : XReg) (b : XReg) (w : IntW)
  | sar (g : Guard) (d : XReg) (a : XReg) (b : XReg) (w : IntW)
  | rol (g : Guard) (d : XReg) (a : XReg) (b : XReg) (w : IntW) (u : Bool)
  | ror (g : Guard) (d : XReg) (a : XReg) (b : XReg) (w : IntW) (u : Bool)
  | min (g : Guard) (d : XReg) (a : XReg) (b : XReg) (w : IntW)
  | max (g : Guard) (d : XReg) (a : XReg) (b : XReg) (w : IntW)
  | minn (g : Guard) (d : XReg) (a : XReg) (b : XReg) (w : IntW)
  | maxn (g : Guard) (d : XReg) (a : XReg) (b : XReg) (w : IntW)
  | cmp (g : Guard) (d : KReg) (a : XReg) (b : XReg) (w : IntW) (u : Bool) (c : Cond)
  | sel (g : Guard) (d : XReg) (a : XReg) (b : XReg) (c : KReg)
  | clz (g : Guard) (d : XReg) (a : XReg) (w : IntW)
  | ctz (g : Guard) (d : XReg) (a : XReg) (w : IntW)
  | popc (g : Guard) (d : XReg) (a : XReg) (w : IntW)
  | brev (g : Guard) (d : XReg) (a : XReg) (w : IntW) (u : Bool)
  | bswap (g : Guard) (d : XReg) (a : XReg) (w : IntW) (u : Bool)
  | bfx (g : Guard) (d : XReg) (a : XReg) (u : Bool) (pos : Fin 64) (len : Fin 64)
  | bfi (g : Guard) (d : XReg) (a : XReg) (b : XReg) (pos : Fin 64) (len : Fin 64)
  | ext (g : Guard) (d : XReg) (a : XReg) (w : IntW) (u : Bool)
  | mov (g : Guard) (d : XReg) (a : XReg)
  | kop (g : Guard) (d : KReg) (a : KReg) (b : KReg) (op : KopOp)
  | kmovToX (g : Guard) (d : XReg) (a : KReg)
  | kmovToK (g : Guard) (d : KReg) (a : XReg)
  | yield (g : Guard)
  | addi (g : Guard) (d : XReg) (a : XReg) (imm : BitVec 32)
  | cmpi (g : Guard) (d : KReg) (a : XReg) (imm : BitVec 32) (u : Bool) (c : Cond)
  | movi (g : Guard) (d : XReg) (imm : BitVec 32)
  | movhi (g : Guard) (d : XReg) (imm : BitVec 32)
  | mullImm (g : Guard) (d : XReg) (a : XReg) (imm : BitVec 32)
  | andImm (g : Guard) (d : XReg) (a : XReg) (imm : BitVec 32)
  | orImm (g : Guard) (d : XReg) (a : XReg) (imm : BitVec 32)
  | xorImm (g : Guard) (d : XReg) (a : XReg) (imm : BitVec 32)
  | andnImm (g : Guard) (d : XReg) (a : XReg) (imm : BitVec 32)
  | shlImm (g : Guard) (d : XReg) (a : XReg) (n : Fin 64)
  | shrImm (g : Guard) (d : XReg) (a : XReg) (n : Fin 64)
  | sarImm (g : Guard) (d : XReg) (a : XReg) (n : Fin 64)
  | rolImm (g : Guard) (d : XReg) (a : XReg) (n : Fin 64)
  | rorImm (g : Guard) (d : XReg) (a : XReg) (n : Fin 64)
  | minImm (g : Guard) (d : XReg) (a : XReg) (imm : BitVec 32)
  | maxImm (g : Guard) (d : XReg) (a : XReg) (imm : BitVec 32)
  | minnImm (g : Guard) (d : XReg) (a : XReg) (imm : BitVec 32)
  | maxnImm (g : Guard) (d : XReg) (a : XReg) (imm : BitVec 32)
  | fadd (g : Guard) (d : VReg) (a : VReg) (b : VReg) (t : Ty) (rm : Rm)
  | fsub (g : Guard) (d : VReg) (a : VReg) (b : VReg) (t : Ty) (rm : Rm)
  | fmul (g : Guard) (d : VReg) (a : VReg) (b : VReg) (t : Ty) (rm : Rm)
  | ffma (g : Guard) (d : VReg) (a : VReg) (b : VReg) (c : VReg) (t : Ty) (rm : Rm)
  | ffms (g : Guard) (d : VReg) (a : VReg) (b : VReg) (c : VReg) (t : Ty) (rm : Rm)
  | fmin (g : Guard) (d : VReg) (a : VReg) (b : VReg) (t : Ty)
  | fmax (g : Guard) (d : VReg) (a : VReg) (b : VReg) (t : Ty)
  | fabs (g : Guard) (d : VReg) (a : VReg) (t : Ty)
  | fneg (g : Guard) (d : VReg) (a : VReg) (t : Ty)
  | fcmp (g : Guard) (d : Fin 64) (a : VReg) (b : VReg) (t : Ty) (kd : CmpDest) (c : FCond)
  | fsel (g : Guard) (d : VReg) (a : VReg) (b : VReg) (c : VReg) (t : Ty)
  | frcp (g : Guard) (d : VReg) (a : VReg) (t : Ty)
  | frsq (g : Guard) (d : VReg) (a : VReg) (t : Ty)
  | fsqrt (g : Guard) (d : VReg) (a : VReg) (t : Ty) (rm : Rm)
  | fexp2 (g : Guard) (d : VReg) (a : VReg) (t : Ty)
  | flog2 (g : Guard) (d : VReg) (a : VReg) (t : Ty)
  | fcvt (g : Guard) (d : VReg) (a : VReg) (t : Ty) (st : Ty) (rm : Rm) (p : Fin 8)
  | fpack (g : Guard) (d : VReg) (a : VReg) (b : VReg) (c : XReg) (t : Ty) (rm : Rm) (p : Fin 8)
  | funpack (g : Guard) (d : VReg) (a : VReg) (c : XReg) (st : Ty) (p : Fin 8)
  | fdot (g : Guard) (d : VReg) (a : VReg) (b : VReg) (t : Ty) (st : Ty) (rm : Rm) (sat : Bool)
  | fsum (g : Guard) (d : VReg) (a : VReg) (st : Ty) (rm : Rm)
  | fclass (g : Guard) (d : VReg) (a : VReg) (t : Ty)
  | vmov (g : Guard) (d : VReg) (a : VReg)
  | vbcast (g : Guard) (d : VReg) (a : XReg) (t : Ty)
  | vextr (g : Guard) (d : XReg) (a : VReg) (t : Ty) (i : Fin 16)
  | vins (g : Guard) (d : VReg) (a : XReg) (t : Ty) (i : Fin 16)
  | vadd (g : Guard) (d : VReg) (a : VReg) (b : VReg) (t : Ty) (sat : Bool)
  | vsub (g : Guard) (d : VReg) (a : VReg) (b : VReg) (t : Ty) (sat : Bool)
  | vmul (g : Guard) (d : VReg) (a : VReg) (b : VReg) (t : Ty) (sat : Bool)
  | vmin (g : Guard) (d : VReg) (a : VReg) (b : VReg) (t : Ty)
  | vmax (g : Guard) (d : VReg) (a : VReg) (b : VReg) (t : Ty)
  | vand (g : Guard) (d : VReg) (a : VReg) (b : VReg)
  | vor (g : Guard) (d : VReg) (a : VReg) (b : VReg)
  | vxor (g : Guard) (d : VReg) (a : VReg) (b : VReg)
  | vshl (g : Guard) (d : VReg) (a : VReg) (b : VReg) (t : Ty)
  | vshr (g : Guard) (d : VReg) (a : VReg) (b : VReg) (t : Ty)
  | vpopc (g : Guard) (d : VReg) (a : VReg) (t : Ty)
  | vcmp (g : Guard) (d : Fin 64) (a : VReg) (b : VReg) (t : Ty) (kd : CmpDest) (c : Cond)
  | shfl (g : Guard) (d : Fin 64) (a : Fin 64) (b : XReg) (c : XReg) (t : Ty) (mode : ShflMode) (id : Bool) (v : Bool)
  | voteAny (g : Guard) (d : KReg) (a : KReg) (c : XReg)
  | voteAll (g : Guard) (d : KReg) (a : KReg) (c : XReg)
  | voteUni (g : Guard) (d : KReg) (a : KReg) (c : XReg)
  | ballot (g : Guard) (d : XReg) (a : KReg) (c : XReg)
  | red (g : Guard) (d : XReg) (a : XReg) (b : XReg) (c : XReg) (t : Ty) (rm : Rm) (sat : Bool) (op : RedOp) (id : Bool)
  | scan (g : Guard) (d : XReg) (a : XReg) (b : XReg) (c : XReg) (t : Ty) (rm : Rm) (sat : Bool) (op : RedOp) (id : Bool) (excl : Bool)
  | elect (g : Guard) (d : KReg) (c : XReg)
  | matchLanes (g : Guard) (d : XReg) (a : XReg) (c : XReg) (t : Ty)
  | exch (g : Guard) (d : Fin 64) (a : Fin 64) (b : XReg) (p : KReg) (s : XReg) (v : Bool)
  | mma (d : MReg) (a : XReg) (b : XReg) (c : XReg) (kq : Fin 1024) (hint : Hint) (seg : Bool)
  | mzero (d : MReg)
  | mclr (mask : Fin 256)
  | mmov (d : MReg) (a : MReg)
  | mmovTov (g : Guard) (d : VReg) (a : MReg) (r : Fin 8) (h : Bool)
  | mmovTom (g : Guard) (d : MReg) (a : VReg) (r : Fin 8) (h : Bool)
  | mres (g : Guard) (d : XReg)
  | mdrain (a : XReg) (b : MReg) (t : Ty) (rm : Rm) (scope : Scope) (clr : Bool)
  | mdrainr (d : XReg) (a : XReg) (b : MReg) (c : XReg) (t : Ty) (rm : Rm) (clr : Bool)
  | mpass
  | mwait
  | mwaitAll
  | trayCfg (g : Guard) (d : XReg) (a : XReg) (b : XReg)
  | inboxqTake (g : Guard) (d : XReg) (a : XReg) (b : XReg)
  | inboxqCount (g : Guard) (d : XReg)
  | fuse
  | split
  | refuse (d : XReg)
  | divqState (g : Guard) (d : XReg)
  | divqJoin (g : Guard) (d : XReg)
  | divqLimit (g : Guard) (d : XReg) (a : XReg)
  | binit (g : Guard) (a : XReg) (b : XReg) (scope : Scope)
  | barr (g : Guard) (d : XReg) (a : XReg) (grp : Bool)
  | bwait (g : Guard) (d : XReg) (a : XReg) (b : XReg)
  | bsync (g : Guard) (d : XReg) (a : XReg) (grp : Bool)
  | bbreak (g : Guard) (a : XReg)
  | waitm (g : Guard) (d : XReg) (a : XReg)
  | rrel (d : XReg) (a : XReg)
  | rwait (g : Guard) (d : XReg) (a : XReg) (b : XReg)
  | rqryState (g : Guard) (d : XReg) (a : XReg)
  | rqryInj (g : Guard) (d : XReg) (a : XReg)
  | rqryRet (g : Guard) (d : XReg) (a : XReg)
  | rqryEnc (g : Guard) (d : XReg) (a : XReg)
  | rqryMiss (g : Guard) (d : XReg) (a : XReg)
  | rqryLost (g : Guard) (d : XReg) (a : XReg)
  | evcfgBind (g : Guard) (d : XReg) (a : XReg) (b : XReg)
  | evcfgFree (g : Guard) (d : XReg) (a : XReg)
  | evcfgPset (g : Guard) (d : XReg) (a : XReg) (b : XReg)
  | evrd (g : Guard) (d : XReg) (a : XReg) (b : XReg) (c : XReg)
  | evrdStat (g : Guard) (d : XReg) (a : XReg) (b : XReg)
  | evwr (g : Guard) (d : XReg) (a : XReg) (b : XReg) (c : XReg)
  | jcntInj (g : Guard) (d : XReg) (a : XReg)
  | jcntCons (g : Guard) (d : XReg) (a : XReg)
  | jcntRep (g : Guard) (d : XReg) (a : XReg)
  | jcntCalls (g : Guard) (d : XReg) (a : XReg)
  | jrepTake (g : Guard) (d : XReg) (a : XReg) (b : XReg)
  | jrepCount (g : Guard) (d : XReg) (a : XReg)
  | jrepClose (g : Guard) (d : XReg) (a : XReg)
  | ld (g : Guard) (d : XReg) (a : XReg) (b : XReg) (off : BitVec 20) (sx : Bool) (m : MMod) (sz : MSize)
  | st (g : Guard) (a : XReg) (b : XReg) (off : BitVec 20) (m : MMod) (sz : MSize)
  | ldv (g : Guard) (d : VReg) (a : XReg) (b : XReg) (off : BitVec 20) (m : MMod) (sz : MSize)
  | stv (g : Guard) (a : XReg) (b : VReg) (off : BitVec 20) (m : MMod) (sz : MSize)
  | cas (g : Guard) (d : XReg) (a : XReg) (b : XReg) (off : BitVec 20) (m : MMod) (sz : MSize)
  | pref (g : Guard) (a : XReg) (b : XReg) (off : BitVec 20) (seg : Bool) (hint : Hint) (scope : Scope)
  | clean (g : Guard) (a : XReg) (b : XReg) (off : BitVec 20) (seg : Bool) (hint : Hint) (scope : Scope)
  | inval (g : Guard) (a : XReg) (b : XReg) (off : BitVec 20) (seg : Bool) (hint : Hint) (scope : Scope)
  | mon (g : Guard) (a : XReg) (b : XReg) (off : BitVec 20) (seg : Bool) (hint : Hint) (scope : Scope)
  | amoAdd (g : Guard) (d : XReg) (a : XReg) (b : XReg) (off : BitVec 20) (m : MMod) (sz : MSize)
  | amoAnd (g : Guard) (d : XReg) (a : XReg) (b : XReg) (off : BitVec 20) (m : MMod) (sz : MSize)
  | amoOr (g : Guard) (d : XReg) (a : XReg) (b : XReg) (off : BitVec 20) (m : MMod) (sz : MSize)
  | amoXor (g : Guard) (d : XReg) (a : XReg) (b : XReg) (off : BitVec 20) (m : MMod) (sz : MSize)
  | amoMin (g : Guard) (d : XReg) (a : XReg) (b : XReg) (off : BitVec 20) (m : MMod) (sz : MSize)
  | amoMax (g : Guard) (d : XReg) (a : XReg) (b : XReg) (off : BitVec 20) (m : MMod) (sz : MSize)
  | amoMinn (g : Guard) (d : XReg) (a : XReg) (b : XReg) (off : BitVec 20) (m : MMod) (sz : MSize)
  | amoMaxn (g : Guard) (d : XReg) (a : XReg) (b : XReg) (off : BitVec 20) (m : MMod) (sz : MSize)
  | amoSwap (g : Guard) (d : XReg) (a : XReg) (b : XReg) (off : BitVec 20) (m : MMod) (sz : MSize)
  | br (g : Guard) (disp : BitVec 24)
  | brd (g : Guard) (disp : BitVec 24) (join : BitVec 14)
  | jmp (g : Guard) (a : XReg) (disp : BitVec 24)
  | call (g : Guard) (l : XReg) (disp : BitVec 24)
  | ret (g : Guard) (a : XReg)
  | jind (g : Guard) (a : XReg) (join : BitVec 14)
  | callind (g : Guard) (l : XReg) (a : XReg) (join : BitVec 14)
  | join
  | get (g : Guard) (d : XReg) (a : XReg) (b : XReg) (c : XReg) (m : CopyMod)
  | put (g : Guard) (d : XReg) (a : XReg) (b : XReg) (c : XReg) (m : CopyMod)
  | send (g : Guard) (d : XReg) (a : XReg) (b : XReg) (c : XReg) (m : CopyMod)
  | senda (g : Guard) (d : XReg) (a : XReg) (b : XReg) (c : XReg) (op : SendOp) (et : SendTy) (ordered : Bool) (m : CopyMod)
  | sendv (g : Guard) (d : XReg) (a : XReg) (b : XReg) (c : XReg) (m : CopyMod)
  | cwait (g : Guard) (a : XReg) (b : XReg)
  | cwaitZero (g : Guard) (a : XReg)
  | ctest (g : Guard) (d : XReg) (a : XReg)
  | fence (g : Guard) (scope : Scope)
  | exit (g : Guard) (a : XReg) (n : Fin 8) (grp : Bool)
  | post (g : Guard) (d : XReg) (a : XReg) (b : XReg)
  | barx (d : XReg) (a : XReg) (b : XReg) (scope : Scope)
  | quiet (d : XReg) (a : XReg) (b : XReg) (scope : Scope)
  | ratt (g : Guard) (d : XReg) (a : XReg)
  | rattDet (g : Guard) (d : XReg) (a : XReg)
  | rinj (g : Guard) (d : XReg) (a : XReg) (b : XReg) (c : XReg)
  | rmap (g : Guard) (d : XReg) (a : XReg) (b : XReg)
  | evsend (g : Guard) (d : XReg) (a : VReg)
  | evadv (g : Guard) (d : XReg) (a : XReg) (b : XReg) (scope : Scope)
  | iinv (g : Guard) (a : XReg) (b : XReg) (scope : Scope)
  | isync
  | trap (g : Guard) (code : BitVec 16)
  | scall (g : Guard) (code : BitVec 16)
  | eret
  | wfi (g : Guard) (d : XReg) (a : XReg)
  | mfc (g : Guard) (d : XReg) (sel : Fin 64)
  | mtc (g : Guard) (a : XReg) (sel : Fin 64)
  | rid (g : Guard) (d : XReg) (sel : Fin 64)
  | dualWord (s0 : Slot) (s1 : Slot)
  | exchComplete
  | exchBreak
  | mmaRowStep
  | mmaComplete
  | mmaPreemptStop
  | drainWrite
  | mdrainrWake
  | passArrival
  | watchFire
  | waitmTimeout
  | joinComplete
  | stackRotation
  | convergentRelease
  | copyChunk
  | sendaApply
  | sendvCommit
  | destRangeAck
  | sourceRangeRelease
  | successorDecrement
  | barxNotice
  | barxBreak
  | quietTimeout
  | tileTransfer
  | tileArrival
  | encounterImageCopy
  | dwellExpiry
  | tileRetire
  | ringAbandon
  | eventArrival
  | eventDelivery
  | fireAction
  | engineResume
  | engineAbort
  | ctxFault
  | ctxKill
  | violation
  | create
  | reside
  | preempt
  | restore
  | kill
  | destroy
  | load
  | loadChecksDone
  | unload
  | lqcfg
  | ttcfg
  | xqcfg
  | peercfg
  | landcfg
  | cpagecfg
  | dbind
  | portcfg
  | portstat
  | domain
  | rcperiod
  | scrubperiod
  | ptpsrc
  | funccfg
  | commandDoorbell
  | launchDoorbell
  | hostBar2Write
  | spdmRequest
  | launchTake
  | timetableStart
  | placement
  | boundaryChangeComplete
  | recordArrival
  | spillReturn
  | mailboxAccept
  | dispatch
  | trayTimer
  | launchCounterDecrement
  | contextIdle
  | preemptBoundary
  | shellComplete
  | saveDeadline
  | rollCall
  | rollCallPass2
  | sendSlotTake
  | packetAck
  | retransmitTimeout
  | packetArrival
  | transportCompletion
  | receiveAbandon
  | congestionUpdate
  | trainingEnd
  | laneRetire
  | retrainRequest
  | mclPortTimeout
  | mclFlitReplay
  | routeSwitch
  | ptpMessage
  | ptpHoldover
  | ptsTick
  | rebase
  | scrubGranule
  | scrubPassStart
  | keyErase
  | poison
  | selfTest
  | spareMapIn
  | unitFailure
  | throttleMeasure
  | moduleReset
  | clusterPowerUp
  | firmwareUpdate
  | decodeTableInstall
  | wfiTimeout
  | spuriousReturn
  | killDiscardComplete
  | quadEmptyTimeout
  | linkClockRelock
deriving DecidableEq, Repr

end Sys2Proof
end

