-- ==== Sys2Proof/WellFormed.lean ====
section
/-!
DEFINITION. Well-formed instructions: the limits that the spec puts on the fields of a word beyond their kinds.  A word
that breaks one raises RESERVED_FIELD, or BAD_REGISTER for a selector (03 R75, R85); dual words also obey 03 R84.
-/

namespace Sys2Proof

/-- The type has FP16, BF16, E4M3, E5M2 or LOG6 elements: what a scaled part holds (06 R144, R145). -/
def Ty.isPart (t : Ty) : Bool := t.isNarrowFloat

/-- The types a drain writes (07 R179). -/
def Ty.isDrain : Ty → Bool
  | .f32 | .f16 | .bf16 | .e4m3 | .e5m2 => true
  | _ => false

/-- The part of a conversion lies below the ratio of the widths (06 R143). -/
def partOk (t st : Ty) (p : Nat) : Bool := p < max t.bits st.bits / min t.bits st.bits

/-- The allowed pairs of FDOT, and the fields that each leaves reserved (06 R146). -/
def dotOk (t st : Ty) (rm : Rm) (sat : Bool) : Bool :=
  match t with
  | .f32 => (match st with
      | .bf16 | .f16 | .e4m3 | .e5m2 | .lg6 => true
      | _ => false) && !sat
  | .i32 => st == .i8 && rm == .dyn
  | _ => false

/-- Operations and types of RED (06 R157); the rounding mode belongs to .add.f32, SAT to integer .add. -/
def redOk (t : Ty) (rm : Rm) (sat : Bool) (op : RedOp) (id : Bool) (b : XReg) : Bool :=
  (if t == .f32 then op == .add || op == .min || op == .max
   else t.isInt && !((op == .minidx || op == .maxidx) && (t == .i64 || t == .n64))) &&
  (rm == .dyn || (op == .add && t == .f32)) && (!sat || (op == .add && t.isInt)) && (id || b.val == 0)

/-- Vector elements fit in a register. -/
def idxOk (t : Ty) (i : Nat) : Bool := i < 128 / t.bits

def XReg.even (r : XReg) : Bool := r.val % 2 == 0

/-- Scopes of BARX, and of QUIET and EVADV (14 R341, 17 R404, 16 R384). -/
def Scope.wide (s : Scope) : Bool := 3 ≤ s.code
def Scope.cluster (s : Scope) : Bool := 2 ≤ s.code

/-! Slots (03 R82, R84, R94). -/

/-- The kind of short instruction, by how it uses its fields. -/
inductive SKind where
  | nop | alu | shift | mov | cmp | load | store | vec | br
deriving DecidableEq, Repr

def SOp.kind : SOp → SKind
  | .nop => .nop
  | .add | .sub | .mull | .and | .or | .xor | .andn | .min | .max | .minn | .maxn => .alu
  | .shl | .shr | .sar => .shift
  | .mov => .mov
  | .cmpEq | .cmpNe | .cmpLtI | .cmpGeI | .cmpLtN | .cmpGeN => .cmp
  | .ldN8 | .ldN16 | .ldN32 | .ldB64 | .ldI8 | .ldI16 | .ldI32 => .load
  | .stB8 | .stB16 | .stB32 | .stB64 => .store
  | .vaddI32 | .vsubI32 | .faddF32 | .fmulF32 => .vec
  | .br => .br

def SOpnd.isImm : SOpnd → Bool
  | .imm _ => true
  | .reg _ => false

def SOpnd.regs : SOpnd → List Nat
  | .imm _ => []
  | .reg r => [r.val]

/-- A register number outside its kind (03 R75). -/
def Slot.badReg (s : Slot) : Bool :=
  match s.op.kind with
  | .cmp => 8 ≤ s.d.val
  | .vec => 32 ≤ s.d.val || 32 ≤ s.a.val || s.s.regs.any (32 ≤ ·)
  | _ => false

/-- The reserved fields of a slot are zero. -/
def Slot.fieldsOk (s : Slot) : Bool :=
  match s.op.kind with
  | .nop => s.d.val == 0 && s.a.val == 0 && s.s == .imm 0
  | .mov => s.a.val == 0
  | .shift => match s.s with
    | .imm v => v.toNat < 64
    | .reg _ => true
  | .vec => !s.s.isImm
  | .br => s.s.isImm && s.d.val == 0 && s.a.val == 0
  | _ => true

/-- The registers a slot reads and the register it writes. -/
def Slot.reads (s : Slot) : List Nat :=
  match s.op.kind with
  | .nop | .br => []
  | .mov => s.s.regs
  | .store => s.a.val :: s.d.val :: s.s.regs
  | _ => s.a.val :: s.s.regs

def Slot.writes (s : Slot) : Option Nat :=
  match s.op.kind with
  | .nop | .store | .br => none
  | _ => some s.d.val

def Slot.isMem (s : Slot) : Bool := s.op.kind == .load || s.op.kind == .store

/-- No register one slot reads lies in the bank of the other's destination. -/
def bankFree (w : Option Nat) (reads : List Nat) : Bool :=
  match w with
  | none => true
  | some d => reads.all (fun r => r % 4 != d % 4)

/-- The four rules of 03 R84. -/
def pairOk (s0 s1 : Slot) : Bool :=
  (match s0.writes, s1.writes with
   | some a, some b => a % 4 != b % 4
   | _, _ => true) &&
  bankFree s0.writes s1.reads && bankFree s1.writes s0.reads && !(s0.isMem && s1.isMem) && s0.op.kind != .br

/-- The guard of an instruction that has one (03 R74). -/
def Instr.guard? : Instr → Option Guard
  | .nop g | .add g .. | .sub g .. | .mull g .. | .mulh g .. | .mulhn g .. | .div g .. | .divn g .. | .rem g ..
  | .remn g .. | .shladd g .. | .and g .. | .or g .. | .xor g .. | .andn g .. | .orn g .. | .xnor g ..
  | .shl g .. | .shr g .. | .sar g .. | .rol g .. | .ror g .. | .min g .. | .max g .. | .minn g .. | .maxn g ..
  | .cmp g .. | .sel g .. | .clz g .. | .ctz g .. | .popc g .. | .brev g .. | .bswap g .. | .bfx g ..
  | .bfi g .. | .ext g .. | .mov g .. | .kop g .. | .kmovToX g .. | .kmovToK g .. | .yield g | .addi g ..
  | .cmpi g .. | .movi g .. | .movhi g .. | .mullImm g .. | .andImm g .. | .orImm g .. | .xorImm g ..
  | .andnImm g .. | .shlImm g .. | .shrImm g .. | .sarImm g .. | .rolImm g .. | .rorImm g .. | .minImm g ..
  | .maxImm g .. | .minnImm g .. | .maxnImm g .. | .fadd g .. | .fsub g .. | .fmul g .. | .ffma g ..
  | .ffms g .. | .fmin g .. | .fmax g .. | .fabs g .. | .fneg g .. | .fcmp g .. | .fsel g .. | .frcp g ..
  | .frsq g .. | .fsqrt g .. | .fexp2 g .. | .flog2 g .. | .fcvt g .. | .fpack g .. | .funpack g ..
  | .fdot g .. | .fsum g .. | .fclass g .. | .vmov g .. | .vbcast g .. | .vextr g .. | .vins g .. | .vadd g ..
  | .vsub g .. | .vmul g .. | .vmin g .. | .vmax g .. | .vand g .. | .vor g .. | .vxor g .. | .vshl g ..
  | .vshr g .. | .vpopc g .. | .vcmp g .. | .shfl g .. | .voteAny g .. | .voteAll g .. | .voteUni g ..
  | .ballot g .. | .red g .. | .scan g .. | .elect g .. | .matchLanes g .. | .exch g .. | .mmovTov g ..
  | .mmovTom g .. | .mres g .. | .trayCfg g .. | .inboxqTake g .. | .inboxqCount g .. | .divqState g ..
  | .divqJoin g .. | .divqLimit g .. | .binit g .. | .barr g .. | .bwait g .. | .bsync g .. | .bbreak g ..
  | .waitm g .. | .rwait g .. | .rqryState g .. | .rqryInj g .. | .rqryRet g .. | .rqryEnc g ..
  | .rqryMiss g .. | .rqryLost g .. | .evcfgBind g .. | .evcfgFree g .. | .evcfgPset g .. | .evrd g ..
  | .evrdStat g .. | .evwr g .. | .jcntInj g .. | .jcntCons g .. | .jcntRep g .. | .jcntCalls g ..
  | .jrepTake g .. | .jrepCount g .. | .jrepClose g .. | .ld g .. | .st g .. | .ldv g .. | .stv g ..
  | .cas g .. | .pref g .. | .clean g .. | .inval g .. | .mon g .. | .amoAdd g .. | .amoAnd g .. | .amoOr g ..
  | .amoXor g .. | .amoMin g .. | .amoMax g .. | .amoMinn g .. | .amoMaxn g .. | .amoSwap g .. | .br g ..
  | .brd g .. | .jmp g .. | .call g .. | .ret g .. | .jind g .. | .callind g .. | .get g .. | .put g ..
  | .send g .. | .senda g .. | .sendv g .. | .cwait g .. | .cwaitZero g .. | .ctest g .. | .fence g ..
  | .exit g .. | .post g .. | .ratt g .. | .rattDet g .. | .rinj g .. | .rmap g .. | .evsend g .. | .evadv g ..
  | .iinv g .. | .trap g .. | .scall g .. | .wfi g .. | .mfc g .. | .mtc g .. | .rid g .. => some g
  | .mma .. | .mzero .. | .mclr .. | .mmov .. | .mdrain .. | .mdrainr .. | .mpass | .mwait | .mwaitAll | .fuse
  | .split | .refuse .. | .rrel .. | .join | .barx .. | .quiet .. | .isync | .eret | .dualWord ..
  | .exchComplete | .exchBreak | .mmaRowStep | .mmaComplete | .mmaPreemptStop | .drainWrite | .mdrainrWake
  | .passArrival | .watchFire | .waitmTimeout | .joinComplete | .stackRotation | .convergentRelease
  | .copyChunk | .sendaApply | .sendvCommit | .destRangeAck | .sourceRangeRelease | .successorDecrement
  | .barxNotice | .barxBreak | .quietTimeout | .tileTransfer | .tileArrival | .encounterImageCopy
  | .dwellExpiry | .tileRetire | .ringAbandon | .eventArrival | .eventDelivery | .fireAction | .engineResume
  | .engineAbort | .ctxFault | .ctxKill | .violation | .create | .reside | .preempt | .restore | .kill
  | .destroy | .load | .loadChecksDone | .unload | .lqcfg | .ttcfg | .xqcfg | .peercfg | .landcfg | .cpagecfg
  | .dbind | .portcfg | .portstat | .domain | .rcperiod | .scrubperiod | .ptpsrc | .funccfg | .commandDoorbell
  | .launchDoorbell | .hostBar2Write | .spdmRequest | .launchTake | .timetableStart | .placement
  | .boundaryChangeComplete | .recordArrival | .spillReturn | .mailboxAccept | .dispatch | .trayTimer
  | .launchCounterDecrement | .contextIdle | .preemptBoundary | .shellComplete | .saveDeadline | .rollCall
  | .rollCallPass2 | .sendSlotTake | .packetAck | .retransmitTimeout | .packetArrival | .transportCompletion
  | .receiveAbandon | .congestionUpdate | .trainingEnd | .laneRetire | .retrainRequest | .mclPortTimeout
  | .mclFlitReplay | .routeSwitch | .ptpMessage | .ptpHoldover | .ptsTick | .rebase | .scrubGranule
  | .scrubPassStart | .keyErase | .poison | .selfTest | .spareMapIn | .unitFailure | .throttleMeasure
  | .moduleReset | .clusterPowerUp | .firmwareUpdate | .decodeTableInstall | .wfiTimeout | .spuriousReturn
  | .killDiscardComplete | .quadEmptyTimeout | .linkClockRelock => none

/-- The guard is not k0 negated (03 R74). -/
def Instr.guardOk (i : Instr) : Bool := i.guard? != some ⟨true, 0⟩

/-- The fields keep the limits of the instruction's description. -/
def Instr.limits : Instr → Bool
  | .bswap _ _ _ w _ => w != .w8
  | .bfx _ _ _ _ pos len => pos.val + (len.val + 1) ≤ 64
  | .bfi _ _ _ _ pos len => pos.val + (len.val + 1) ≤ 64
  | .fadd _ _ _ _ t _ | .fsub _ _ _ _ t _ | .fmul _ _ _ _ t _ => t.isPacked
  | .ffma _ _ _ _ _ t _ | .ffms _ _ _ _ _ t _ => t.isPacked
  | .fmin _ _ _ _ t | .fmax _ _ _ _ t => t.isPacked
  | .fabs _ _ _ t | .fneg _ _ _ t | .fclass _ _ _ t => t.isPacked
  | .fcmp _ d _ _ t kd _ => t.isPacked && (match kd with | .vec => d.val < 32 | _ => d.val < 8)
  | .frcp _ _ _ t | .frsq _ _ _ t | .fexp2 _ _ _ t | .flog2 _ _ _ t => t.isPacked
  | .fsqrt _ _ _ t _ => t.isPacked
  | .fcvt _ _ _ t src _ p => (!t.isInt || !src.isInt) && t != src && partOk t src p.val
  | .fpack _ _ _ _ _ t _ p => t.isPart && p.val < 16 / t.bits
  | .funpack _ _ _ _ src p => src.isPart && p.val < 32 / src.bits
  | .fdot _ _ _ _ t src rm sat => dotOk t src rm sat
  | .fsum _ _ _ src _ => src.isPacked
  | .vextr _ _ _ t i | .vins _ _ _ t i => idxOk t i.val
  | .vadd _ _ _ _ t _ | .vsub _ _ _ _ t _ | .vmul _ _ _ _ t _ => t.isInt
  | .vmin _ _ _ _ t | .vmax _ _ _ _ t | .vshl _ _ _ _ t | .vshr _ _ _ _ t => t.isInt
  | .vpopc _ _ _ t => t.isInt
  | .vcmp _ d _ _ t kd _ => t.isInt && (match kd with | .vec => d.val < 32 | _ => d.val < 8)
  | .shfl _ d a _ _ t _ _ v => if v then t == .i8 && d.val < 32 && a.val < 32 else t.isInt
  | .matchLanes _ _ _ _ t => t.isInt
  | .red _ _ _ b _ t rm sat op id => redOk t rm sat op id b
  | .scan _ _ _ b _ t rm sat op id _ => redOk t rm sat op id b && op != .minidx && op != .maxidx
  | .exch _ d a _ _ _ v => !v || (d.val < 32 && a.val < 32)
  | .mma _ a b _ _ _ _ => XReg.even a && XReg.even b
  | .mdrain a _ t _ _ _ => XReg.even a && t.isDrain
  | .mdrainr _ a _ _ t _ _ => XReg.even a && t.isDrain
  | .ld _ _ _ _ _ _ _ sz => sz != .b128
  | .st _ _ _ _ _ sz => sz != .b128
  | .cas _ _ _ _ _ _ sz => sz == .b32 || sz == .b64
  | .amoAdd _ _ _ _ _ _ sz | .amoAnd _ _ _ _ _ _ sz | .amoOr _ _ _ _ _ _ sz | .amoXor _ _ _ _ _ _ sz
  | .amoMin _ _ _ _ _ _ sz | .amoMax _ _ _ _ _ _ sz | .amoMinn _ _ _ _ _ _ sz | .amoMaxn _ _ _ _ _ _ sz
  | .amoSwap _ _ _ _ _ _ sz => sz == .b32 || sz == .b64
  | .get _ _ _ b _ _ | .put _ _ _ b _ _ | .send _ _ _ b _ _ => XReg.even b
  | .senda _ _ _ b _ _ _ _ _ => XReg.even b
  | .sendv _ _ _ b c _ => XReg.even b && XReg.even c && c.val != 0
  | .exit _ a n grp => n.val ≤ 4 && (n.val != 0 || (a.val == 0 && !grp))
  | .barx _ _ _ sc => sc.wide
  | .quiet _ _ _ sc => sc.cluster
  | .evadv _ _ _ _ sc => sc.cluster
  | .rinj _ _ _ b _ => XReg.even b
  | .mfc _ _ n | .mtc _ _ n => n.val < 16
  | .rid _ _ n => n.val < 12
  | .dualWord s0 s1 => !s0.badReg && !s1.badReg && s0.fieldsOk && s1.fieldsOk && pairOk s0 s1
  | .nop .. | .add .. | .sub .. | .mull .. | .mulh .. | .mulhn .. | .div .. | .divn .. | .rem .. | .remn ..
  | .shladd .. | .and .. | .or .. | .xor .. | .andn .. | .orn .. | .xnor .. | .shl .. | .shr .. | .sar ..
  | .rol .. | .ror .. | .min .. | .max .. | .minn .. | .maxn .. | .cmp .. | .sel .. | .clz .. | .ctz ..
  | .popc .. | .brev .. | .ext .. | .mov .. | .kop .. | .kmovToX .. | .kmovToK .. | .yield .. | .addi ..
  | .cmpi .. | .movi .. | .movhi .. | .mullImm .. | .andImm .. | .orImm .. | .xorImm .. | .andnImm ..
  | .shlImm .. | .shrImm .. | .sarImm .. | .rolImm .. | .rorImm .. | .minImm .. | .maxImm .. | .minnImm ..
  | .maxnImm .. | .fsel .. | .vmov .. | .vbcast .. | .vand .. | .vor .. | .vxor .. | .voteAny .. | .voteAll ..
  | .voteUni .. | .ballot .. | .elect .. | .mzero .. | .mclr .. | .mmov .. | .mmovTov .. | .mmovTom ..
  | .mres .. | .mpass | .mwait | .mwaitAll | .trayCfg .. | .inboxqTake .. | .inboxqCount .. | .fuse | .split
  | .refuse .. | .divqState .. | .divqJoin .. | .divqLimit .. | .binit .. | .barr .. | .bwait .. | .bsync ..
  | .bbreak .. | .waitm .. | .rrel .. | .rwait .. | .rqryState .. | .rqryInj .. | .rqryRet .. | .rqryEnc ..
  | .rqryMiss .. | .rqryLost .. | .evcfgBind .. | .evcfgFree .. | .evcfgPset .. | .evrd .. | .evrdStat ..
  | .evwr .. | .jcntInj .. | .jcntCons .. | .jcntRep .. | .jcntCalls .. | .jrepTake .. | .jrepCount ..
  | .jrepClose .. | .ldv .. | .stv .. | .pref .. | .clean .. | .inval .. | .mon .. | .br .. | .brd .. | .jmp ..
  | .call .. | .ret .. | .jind .. | .callind .. | .join | .cwait .. | .cwaitZero .. | .ctest .. | .fence ..
  | .post .. | .ratt .. | .rattDet .. | .rmap .. | .evsend .. | .iinv .. | .isync | .trap .. | .scall ..
  | .eret | .wfi .. | .exchComplete | .exchBreak | .mmaRowStep | .mmaComplete | .mmaPreemptStop | .drainWrite
  | .mdrainrWake | .passArrival | .watchFire | .waitmTimeout | .joinComplete | .stackRotation
  | .convergentRelease | .copyChunk | .sendaApply | .sendvCommit | .destRangeAck | .sourceRangeRelease
  | .successorDecrement | .barxNotice | .barxBreak | .quietTimeout | .tileTransfer | .tileArrival
  | .encounterImageCopy | .dwellExpiry | .tileRetire | .ringAbandon | .eventArrival | .eventDelivery
  | .fireAction | .engineResume | .engineAbort | .ctxFault | .ctxKill | .violation | .create | .reside
  | .preempt | .restore | .kill | .destroy | .load | .loadChecksDone | .unload | .lqcfg | .ttcfg | .xqcfg
  | .peercfg | .landcfg | .cpagecfg | .dbind | .portcfg | .portstat | .domain | .rcperiod | .scrubperiod
  | .ptpsrc | .funccfg | .commandDoorbell | .launchDoorbell | .hostBar2Write | .spdmRequest | .launchTake
  | .timetableStart | .placement | .boundaryChangeComplete | .recordArrival | .spillReturn | .mailboxAccept
  | .dispatch | .trayTimer | .launchCounterDecrement | .contextIdle | .preemptBoundary | .shellComplete
  | .saveDeadline | .rollCall | .rollCallPass2 | .sendSlotTake | .packetAck | .retransmitTimeout
  | .packetArrival | .transportCompletion | .receiveAbandon | .congestionUpdate | .trainingEnd | .laneRetire
  | .retrainRequest | .mclPortTimeout | .mclFlitReplay | .routeSwitch | .ptpMessage | .ptpHoldover | .ptsTick
  | .rebase | .scrubGranule | .scrubPassStart | .keyErase | .poison | .selfTest | .spareMapIn | .unitFailure
  | .throttleMeasure | .moduleReset | .clusterPowerUp | .firmwareUpdate | .decodeTableInstall | .wfiTimeout
  | .spuriousReturn | .killDiscardComplete | .quadEmptyTimeout | .linkClockRelock => true

/-- A well-formed instruction. -/
def Instr.wf (i : Instr) : Bool := i.guardOk && i.limits

end Sys2Proof
end

