-- ==== Sys2Proof/Decode.lean ====
section
/-!
DEFINITION. Instruction words (03 R70 to R95): the encoder, written from the encoding tables, and the decoder.  The
decoder reads the fields of the instruction that the opcode names and refuses the word unless every bit of it is
accounted for: a bit of an unused field, or a code the instruction does not accept, is a reserved field (03 R75).
-/

namespace Sys2Proof

/-! Fields. -/

def Guard.code (g : Guard) : Nat := 8 * g.neg.toNat + g.k.val

def MMod.code (m : MMod) : Nat := m.seg.toNat * 2^11 + m.hint.code * 2^9 + m.ord.code * 2^6 + m.scope.code * 2^3

def CopyMod.code (m : CopyMod) : Nat :=
  m.seg.toNat * 2^9 + m.hint.code * 2^7 + m.acq.toNat * 2^6 + m.rel.toNat * 2^5 + m.scope.code

/-- The fields every full word has (03 R73): opcode, bits 53:48, bits 47:42, guard, and bits 37:0. -/
structure Full where
  op : Nat
  d : Nat
  a : Nat
  g : Nat
  low : Nat
deriving DecidableEq, Repr

def Full.word (f : Full) : Word := BitVec.ofNat 64 (f.op * 2^54 + f.d * 2^48 + f.a * 2^42 + f.g * 2^38 + f.low)

def Full.of (w : Word) : Full :=
  ⟨fieldAt w.toNat 54 9, fieldAt w.toNat 48 6, fieldAt w.toNat 42 6, fieldAt w.toNat 38 4, fieldAt w.toNat 0 38⟩

/-- Bits of the low part. -/
def Full.at_ (f : Full) (lo width : Nat) : Nat := fieldAt f.low lo width

def toX (n : Nat) : Fin 64 := ⟨n % 64, Nat.mod_lt _ (by decide)⟩
def toV (n : Nat) : VReg := ⟨n % 32, Nat.mod_lt _ (by decide)⟩
def toK (n : Nat) : Fin 8 := ⟨n % 8, Nat.mod_lt _ (by decide)⟩
def toFin16 (n : Nat) : Fin 16 := ⟨n % 16, Nat.mod_lt _ (by decide)⟩
def toFin256 (n : Nat) : Fin 256 := ⟨n % 256, Nat.mod_lt _ (by decide)⟩
def toFin1024 (n : Nat) : Fin 1024 := ⟨n % 1024, Nat.mod_lt _ (by decide)⟩

def Full.guard (f : Full) : Guard := ⟨f.g / 8 % 2 == 1, toK f.g⟩

/-- The modifier of format M, bits 11 to 3 (03 R78). -/
def MMod.ofCode (n : Nat) : MMod :=
  ⟨fieldAt n 11 1 == 1, (Hint.ofCode (fieldAt n 9 2)).getD .normal, Order.ofCode (fieldAt n 6 2),
    (Scope.ofCode (fieldAt n 3 3)).getD .pl⟩

/-- The flags of a copy command (08 R218). -/
def CopyMod.ofCode (n : Nat) : CopyMod :=
  ⟨fieldAt n 9 1 == 1, (Hint.ofCode (fieldAt n 7 2)).getD .normal, fieldAt n 6 1 == 1, fieldAt n 5 1 == 1,
    (Scope.ofCode (fieldAt n 0 3)).getD .pl⟩

/-! The encoder. -/

def SOpnd.bits : SOpnd → Nat
  | .imm v => v.toNat
  | .reg r => 2^11 + r.val

/-- A slot's 31 bits (03 R81). -/
def Slot.bits (s : Slot) : Nat := s.op.code * 2^24 + s.d.val * 2^18 + s.a.val * 2^12 + s.s.bits

/-- A dual word (03 R70). -/
def dualBits (s0 s1 : Slot) : Word := BitVec.ofNat 64 (2^63 + s0.bits * 2^31 + s1.bits)

/-- The words of format A, scalar (03 R89). -/
def encA0 : Instr → Option Word
  | .nop g => some (Full.mk 0x000 0 0 g.code (0)).word
  | .add g d a b w u sat =>
      some (Full.mk 0x001 d.val a.val g.code (b.val * 2^32 + w.code * 2^17 + u.toNat * 2^16 + sat.toNat * 2^15)).word
  | .sub g d a b w u sat =>
      some (Full.mk 0x002 d.val a.val g.code (b.val * 2^32 + w.code * 2^17 + u.toNat * 2^16 + sat.toNat * 2^15)).word
  | .mull g d a b w u sat =>
      some (Full.mk 0x003 d.val a.val g.code (b.val * 2^32 + w.code * 2^17 + u.toNat * 2^16 + sat.toNat * 2^15)).word
  | .mulh g d a b w => some (Full.mk 0x004 d.val a.val g.code (b.val * 2^32 + w.code * 2^17)).word
  | .mulhn g d a b w => some (Full.mk 0x005 d.val a.val g.code (b.val * 2^32 + w.code * 2^17)).word
  | .div g d a b w => some (Full.mk 0x006 d.val a.val g.code (b.val * 2^32 + w.code * 2^17)).word
  | .divn g d a b w => some (Full.mk 0x007 d.val a.val g.code (b.val * 2^32 + w.code * 2^17)).word
  | .rem g d a b w => some (Full.mk 0x008 d.val a.val g.code (b.val * 2^32 + w.code * 2^17)).word
  | .remn g d a b w => some (Full.mk 0x009 d.val a.val g.code (b.val * 2^32 + w.code * 2^17)).word
  | .shladd g d a b w u sh =>
      some (Full.mk 0x00A d.val a.val g.code (b.val * 2^32 + w.code * 2^17 + u.toNat * 2^16 + sh.val)).word
  | .and g d a b w u => some (Full.mk 0x010 d.val a.val g.code (b.val * 2^32 + w.code * 2^17 + u.toNat * 2^16)).word
  | .or g d a b w u => some (Full.mk 0x011 d.val a.val g.code (b.val * 2^32 + w.code * 2^17 + u.toNat * 2^16)).word
  | .xor g d a b w u => some (Full.mk 0x012 d.val a.val g.code (b.val * 2^32 + w.code * 2^17 + u.toNat * 2^16)).word
  | .andn g d a b w u => some (Full.mk 0x013 d.val a.val g.code (b.val * 2^32 + w.code * 2^17 + u.toNat * 2^16)).word
  | .orn g d a b w u => some (Full.mk 0x014 d.val a.val g.code (b.val * 2^32 + w.code * 2^17 + u.toNat * 2^16)).word
  | .xnor g d a b w u => some (Full.mk 0x015 d.val a.val g.code (b.val * 2^32 + w.code * 2^17 + u.toNat * 2^16)).word
  | .shl g d a b w u => some (Full.mk 0x016 d.val a.val g.code (b.val * 2^32 + w.code * 2^17 + u.toNat * 2^16)).word
  | .shr g d a b w => some (Full.mk 0x017 d.val a.val g.code (b.val * 2^32 + w.code * 2^17)).word
  | .sar g d a b w => some (Full.mk 0x018 d.val a.val g.code (b.val * 2^32 + w.code * 2^17)).word
  | .rol g d a b w u => some (Full.mk 0x019 d.val a.val g.code (b.val * 2^32 + w.code * 2^17 + u.toNat * 2^16)).word
  | .ror g d a b w u => some (Full.mk 0x01A d.val a.val g.code (b.val * 2^32 + w.code * 2^17 + u.toNat * 2^16)).word
  | .min g d a b w => some (Full.mk 0x01B d.val a.val g.code (b.val * 2^32 + w.code * 2^17)).word
  | .max g d a b w => some (Full.mk 0x01C d.val a.val g.code (b.val * 2^32 + w.code * 2^17)).word
  | .minn g d a b w => some (Full.mk 0x01D d.val a.val g.code (b.val * 2^32 + w.code * 2^17)).word
  | .maxn g d a b w => some (Full.mk 0x01E d.val a.val g.code (b.val * 2^32 + w.code * 2^17)).word
  | .cmp g d a b w u c =>
      some (Full.mk 0x020 d.val a.val g.code (b.val * 2^32 + w.code * 2^17 + u.toNat * 2^16 + c.code)).word
  | .sel g d a b c => some (Full.mk 0x021 d.val a.val g.code (b.val * 2^32 + c.val * 2^26)).word
  | .clz g d a w => some (Full.mk 0x022 d.val a.val g.code (w.code * 2^17)).word
  | .ctz g d a w => some (Full.mk 0x023 d.val a.val g.code (w.code * 2^17)).word
  | .popc g d a w => some (Full.mk 0x024 d.val a.val g.code (w.code * 2^17)).word
  | .brev g d a w u => some (Full.mk 0x025 d.val a.val g.code (w.code * 2^17 + u.toNat * 2^16)).word
  | .bswap g d a w u => some (Full.mk 0x026 d.val a.val g.code (w.code * 2^17 + u.toNat * 2^16)).word
  | .bfx g d a u pos len => some (Full.mk 0x027 d.val a.val g.code (u.toNat * 2^16 + len.val * 2^6 + pos.val)).word
  | .bfi g d a b pos len => some (Full.mk 0x028 d.val a.val g.code (b.val * 2^32 + len.val * 2^6 + pos.val)).word
  | .ext g d a w u => some (Full.mk 0x029 d.val a.val g.code (w.code * 2^17 + u.toNat * 2^16)).word
  | .mov g d a => some (Full.mk 0x02A d.val a.val g.code (0)).word
  | .kop g d a b op => some (Full.mk 0x02B d.val a.val g.code (b.val * 2^32 + op.code)).word
  | .kmovToX g d a => some (Full.mk 0x02C d.val a.val g.code (0)).word
  | .kmovToK g d a => some (Full.mk 0x02C d.val a.val g.code (1)).word
  | .yield g => some (Full.mk 0x02D 0 0 g.code (0)).word
  | _ => none

/-- The words of format A, lanes (03 R89). -/
def encA1 : Instr → Option Word
  | .fadd g d a b t rm => some (Full.mk 0x040 d.val a.val g.code (b.val * 2^32 + rm.code * 2^23 + t.code * 2^19)).word
  | .fsub g d a b t rm => some (Full.mk 0x041 d.val a.val g.code (b.val * 2^32 + rm.code * 2^23 + t.code * 2^19)).word
  | .fmul g d a b t rm => some (Full.mk 0x042 d.val a.val g.code (b.val * 2^32 + rm.code * 2^23 + t.code * 2^19)).word
  | .ffma g d a b c t rm =>
      some (Full.mk 0x043 d.val a.val g.code (b.val * 2^32 + c.val * 2^26 + rm.code * 2^23 + t.code * 2^19)).word
  | .ffms g d a b c t rm =>
      some (Full.mk 0x044 d.val a.val g.code (b.val * 2^32 + c.val * 2^26 + rm.code * 2^23 + t.code * 2^19)).word
  | .fmin g d a b t => some (Full.mk 0x045 d.val a.val g.code (b.val * 2^32 + t.code * 2^19)).word
  | .fmax g d a b t => some (Full.mk 0x046 d.val a.val g.code (b.val * 2^32 + t.code * 2^19)).word
  | .fabs g d a t => some (Full.mk 0x047 d.val a.val g.code (t.code * 2^19)).word
  | .fneg g d a t => some (Full.mk 0x048 d.val a.val g.code (t.code * 2^19)).word
  | .fcmp g d a b t kd c =>
      some (Full.mk 0x049 d.val a.val g.code (b.val * 2^32 + t.code * 2^19 + kd.code * 2^3 + c.code)).word
  | .fsel g d a b c t => some (Full.mk 0x04A d.val a.val g.code (b.val * 2^32 + c.val * 2^26 + t.code * 2^19)).word
  | .frcp g d a t => some (Full.mk 0x04B d.val a.val g.code (t.code * 2^19)).word
  | .frsq g d a t => some (Full.mk 0x04C d.val a.val g.code (t.code * 2^19)).word
  | .fsqrt g d a t rm => some (Full.mk 0x04D d.val a.val g.code (rm.code * 2^23 + t.code * 2^19)).word
  | .fexp2 g d a t => some (Full.mk 0x04E d.val a.val g.code (t.code * 2^19)).word
  | .flog2 g d a t => some (Full.mk 0x04F d.val a.val g.code (t.code * 2^19)).word
  | .fcvt g d a t st rm p =>
      some (Full.mk 0x050 d.val a.val g.code (rm.code * 2^23 + t.code * 2^19 + st.code * 2^15 + p.val)).word
  | .fpack g d a b c t rm p =>
      some (Full.mk 0x051 d.val a.val g.code (b.val * 2^32 + c.val * 2^26 + rm.code * 2^23 + t.code * 2^19 + p.val)).word
  | .funpack g d a c st p =>
      some (Full.mk 0x052 d.val a.val g.code (c.val * 2^26 + 8 * 2^19 + st.code * 2^15 + p.val)).word
  | .fdot g d a b t st rm sat =>
      some (Full.mk 0x053 d.val a.val g.code (b.val * 2^32 + rm.code * 2^23 + t.code * 2^19 + st.code * 2^15 + sat.toNat * 2^14)).word
  | .fsum g d a st rm => some (Full.mk 0x054 d.val a.val g.code (rm.code * 2^23 + 8 * 2^19 + st.code * 2^15)).word
  | .fclass g d a t => some (Full.mk 0x055 d.val a.val g.code (t.code * 2^19)).word
  | .vmov g d a => some (Full.mk 0x056 d.val a.val g.code (0)).word
  | .vbcast g d a t => some (Full.mk 0x057 d.val a.val g.code (t.code * 2^19)).word
  | .vextr g d a t i => some (Full.mk 0x058 d.val a.val g.code (t.code * 2^19 + i.val)).word
  | .vins g d a t i => some (Full.mk 0x059 d.val a.val g.code (t.code * 2^19 + i.val)).word
  | .vadd g d a b t sat =>
      some (Full.mk 0x060 d.val a.val g.code (b.val * 2^32 + t.code * 2^19 + sat.toNat * 2^14)).word
  | .vsub g d a b t sat =>
      some (Full.mk 0x061 d.val a.val g.code (b.val * 2^32 + t.code * 2^19 + sat.toNat * 2^14)).word
  | .vmul g d a b t sat =>
      some (Full.mk 0x062 d.val a.val g.code (b.val * 2^32 + t.code * 2^19 + sat.toNat * 2^14)).word
  | .vmin g d a b t => some (Full.mk 0x063 d.val a.val g.code (b.val * 2^32 + t.code * 2^19)).word
  | .vmax g d a b t => some (Full.mk 0x064 d.val a.val g.code (b.val * 2^32 + t.code * 2^19)).word
  | .vand g d a b => some (Full.mk 0x065 d.val a.val g.code (b.val * 2^32)).word
  | .vor g d a b => some (Full.mk 0x066 d.val a.val g.code (b.val * 2^32)).word
  | .vxor g d a b => some (Full.mk 0x067 d.val a.val g.code (b.val * 2^32)).word
  | .vshl g d a b t => some (Full.mk 0x068 d.val a.val g.code (b.val * 2^32 + t.code * 2^19)).word
  | .vshr g d a b t => some (Full.mk 0x069 d.val a.val g.code (b.val * 2^32 + t.code * 2^19)).word
  | .vpopc g d a t => some (Full.mk 0x06A d.val a.val g.code (t.code * 2^19)).word
  | .vcmp g d a b t kd c =>
      some (Full.mk 0x06B d.val a.val g.code (b.val * 2^32 + t.code * 2^19 + kd.code * 2^3 + c.code)).word
  | .shfl g d a b c t mode id v =>
      some (Full.mk 0x070 d.val a.val g.code (b.val * 2^32 + c.val * 2^26 + t.code * 2^19 + v.toNat * 2^4 + id.toNat * 2^3 + mode.code)).word
  | .voteAny g d a c => some (Full.mk 0x071 d.val a.val g.code (c.val * 2^26)).word
  | .voteAll g d a c => some (Full.mk 0x071 d.val a.val g.code (c.val * 2^26 + 1)).word
  | .voteUni g d a c => some (Full.mk 0x071 d.val a.val g.code (c.val * 2^26 + 2)).word
  | .ballot g d a c => some (Full.mk 0x072 d.val a.val g.code (c.val * 2^26)).word
  | .red g d a b c t rm sat op id =>
      some (Full.mk 0x073 d.val a.val g.code (b.val * 2^32 + c.val * 2^26 + rm.code * 2^23 + t.code * 2^19 + sat.toNat * 2^14 + id.toNat * 2^3 + op.code)).word
  | .scan g d a b c t rm sat op id excl =>
      some (Full.mk 0x074 d.val a.val g.code (b.val * 2^32 + c.val * 2^26 + rm.code * 2^23 + t.code * 2^19 + sat.toNat * 2^14 + excl.toNat * 2^5 + id.toNat * 2^3 + op.code)).word
  | .elect g d c => some (Full.mk 0x075 d.val 0 g.code (c.val * 2^26)).word
  | .matchLanes g d a c t => some (Full.mk 0x076 d.val a.val g.code (c.val * 2^26 + t.code * 2^19)).word
  | _ => none

/-- The words of format A, tile, groups, barriers, rings, events and jobs (03 R89). -/
def encA2 : Instr → Option Word
  | .mma d a b c kq hint seg =>
      some (Full.mk 0x080 d.val a.val 0 (b.val * 2^32 + c.val * 2^26 + kq.val * 2^16 + hint.code * 2^10 + seg.toNat * 2^9)).word
  | .mzero d => some (Full.mk 0x081 d.val 0 0 (0)).word
  | .mclr mask => some (Full.mk 0x087 0 0 0 (mask.val)).word
  | .mmov d a => some (Full.mk 0x084 d.val a.val 0 (0)).word
  | .mmovTov g d a r h => some (Full.mk 0x084 d.val a.val g.code (h.toNat * 2^5 + r.val * 2^2 + 1)).word
  | .mmovTom g d a r h => some (Full.mk 0x084 d.val a.val g.code (h.toNat * 2^5 + r.val * 2^2 + 2)).word
  | .mres g d => some (Full.mk 0x088 d.val 0 g.code (0)).word
  | .mdrain a b t rm scope clr =>
      some (Full.mk 0x082 0 a.val 0 (b.val * 2^32 + rm.code * 2^23 + t.code * 2^19 + scope.code * 2^16 + clr.toNat * 2^15)).word
  | .mdrainr d a b c t rm clr =>
      some (Full.mk 0x083 d.val a.val 0 (b.val * 2^32 + c.val * 2^26 + rm.code * 2^23 + t.code * 2^19 + clr.toNat * 2^15)).word
  | .mpass => some (Full.mk 0x085 0 0 0 (0)).word
  | .mwait => some (Full.mk 0x086 0 0 0 (0)).word
  | .mwaitAll => some (Full.mk 0x086 0 0 0 (1)).word
  | .trayCfg g d a b => some (Full.mk 0x090 d.val a.val g.code (b.val * 2^32)).word
  | .inboxqTake g d a b => some (Full.mk 0x091 d.val a.val g.code (b.val * 2^32)).word
  | .inboxqCount g d => some (Full.mk 0x091 d.val 0 g.code (1)).word
  | .fuse => some (Full.mk 0x092 0 0 0 (0)).word
  | .split => some (Full.mk 0x093 0 0 0 (0)).word
  | .refuse d => some (Full.mk 0x094 d.val 0 0 (0)).word
  | .divqState g d => some (Full.mk 0x095 d.val 0 g.code (0)).word
  | .divqJoin g d => some (Full.mk 0x095 d.val 0 g.code (1)).word
  | .divqLimit g d a => some (Full.mk 0x095 d.val a.val g.code (2)).word
  | .binit g a b scope => some (Full.mk 0x096 0 a.val g.code (b.val * 2^32 + scope.code)).word
  | .barr g d a grp => some (Full.mk 0x097 d.val a.val g.code (grp.toNat)).word
  | .bwait g d a b => some (Full.mk 0x098 d.val a.val g.code (b.val * 2^32)).word
  | .bsync g d a grp => some (Full.mk 0x099 d.val a.val g.code (grp.toNat)).word
  | .bbreak g a => some (Full.mk 0x09A 0 a.val g.code (0)).word
  | .waitm g d a => some (Full.mk 0x09B d.val a.val g.code (0)).word
  | .rrel d a => some (Full.mk 0x09C d.val a.val 0 (0)).word
  | .rwait g d a b => some (Full.mk 0x09D d.val a.val g.code (b.val * 2^32)).word
  | .rqryState g d a => some (Full.mk 0x09E d.val a.val g.code (0)).word
  | .rqryInj g d a => some (Full.mk 0x09E d.val a.val g.code (1)).word
  | .rqryRet g d a => some (Full.mk 0x09E d.val a.val g.code (2)).word
  | .rqryEnc g d a => some (Full.mk 0x09E d.val a.val g.code (3)).word
  | .rqryMiss g d a => some (Full.mk 0x09E d.val a.val g.code (4)).word
  | .rqryLost g d a => some (Full.mk 0x09E d.val a.val g.code (5)).word
  | .evcfgBind g d a b => some (Full.mk 0x09F d.val a.val g.code (b.val * 2^32)).word
  | .evcfgFree g d a => some (Full.mk 0x09F d.val a.val g.code (1)).word
  | .evcfgPset g d a b => some (Full.mk 0x09F d.val a.val g.code (b.val * 2^32 + 2)).word
  | .evrd g d a b c => some (Full.mk 0x0A0 d.val a.val g.code (b.val * 2^32 + c.val * 2^26)).word
  | .evrdStat g d a b => some (Full.mk 0x0A0 d.val a.val g.code (b.val * 2^32 + 1)).word
  | .evwr g d a b c => some (Full.mk 0x0A1 d.val a.val g.code (b.val * 2^32 + c.val * 2^26)).word
  | .jcntInj g d a => some (Full.mk 0x0A2 d.val a.val g.code (0)).word
  | .jcntCons g d a => some (Full.mk 0x0A2 d.val a.val g.code (1)).word
  | .jcntRep g d a => some (Full.mk 0x0A2 d.val a.val g.code (2)).word
  | .jcntCalls g d a => some (Full.mk 0x0A2 d.val a.val g.code (3)).word
  | .jrepTake g d a b => some (Full.mk 0x0A3 d.val a.val g.code (b.val * 2^32)).word
  | .jrepCount g d a => some (Full.mk 0x0A3 d.val a.val g.code (1)).word
  | .jrepClose g d a => some (Full.mk 0x0A3 d.val a.val g.code (2)).word
  | _ => none

/-- The words of format I (03 R90). -/
def encI : Instr → Option Word
  | .addi g d a imm => some (Full.mk 0x100 d.val a.val g.code (imm.toNat * 2^6)).word
  | .cmpi g d a imm u c => some (Full.mk 0x101 d.val a.val g.code (imm.toNat * 2^6 + u.toNat * 2^3 + c.code)).word
  | .movi g d imm => some (Full.mk 0x102 d.val 0 g.code (imm.toNat * 2^6)).word
  | .movhi g d imm => some (Full.mk 0x103 d.val 0 g.code (imm.toNat * 2^6)).word
  | .mullImm g d a imm => some (Full.mk 0x104 d.val a.val g.code (imm.toNat * 2^6)).word
  | .andImm g d a imm => some (Full.mk 0x105 d.val a.val g.code (imm.toNat * 2^6)).word
  | .orImm g d a imm => some (Full.mk 0x106 d.val a.val g.code (imm.toNat * 2^6)).word
  | .xorImm g d a imm => some (Full.mk 0x107 d.val a.val g.code (imm.toNat * 2^6)).word
  | .andnImm g d a imm => some (Full.mk 0x108 d.val a.val g.code (imm.toNat * 2^6)).word
  | .shlImm g d a n => some (Full.mk 0x109 d.val a.val g.code (n.val * 2^6)).word
  | .shrImm g d a n => some (Full.mk 0x10A d.val a.val g.code (n.val * 2^6)).word
  | .sarImm g d a n => some (Full.mk 0x10B d.val a.val g.code (n.val * 2^6)).word
  | .rolImm g d a n => some (Full.mk 0x10C d.val a.val g.code (n.val * 2^6)).word
  | .rorImm g d a n => some (Full.mk 0x10D d.val a.val g.code (n.val * 2^6)).word
  | .minImm g d a imm => some (Full.mk 0x10E d.val a.val g.code (imm.toNat * 2^6)).word
  | .maxImm g d a imm => some (Full.mk 0x10F d.val a.val g.code (imm.toNat * 2^6)).word
  | .minnImm g d a imm => some (Full.mk 0x110 d.val a.val g.code (imm.toNat * 2^6)).word
  | .maxnImm g d a imm => some (Full.mk 0x111 d.val a.val g.code (imm.toNat * 2^6)).word
  | _ => none

/-- The words of format M (03 R91). -/
def encM : Instr → Option Word
  | .ld g d a b off sx m sz =>
      some (Full.mk 0x180 d.val a.val g.code (b.val * 2^32 + off.toNat * 2^12 + sx.toNat * 2^8 + sz.code + m.code)).word
  | .st g a b off m sz =>
      some (Full.mk 0x181 0 a.val g.code (b.val * 2^32 + off.toNat * 2^12 + sz.code + m.code)).word
  | .ldv g d a b off m sz =>
      some (Full.mk 0x182 d.val a.val g.code (b.val * 2^32 + off.toNat * 2^12 + sz.code + m.code)).word
  | .stv g a b off m sz =>
      some (Full.mk 0x183 0 a.val g.code (b.val * 2^32 + off.toNat * 2^12 + sz.code + m.code)).word
  | .cas g d a b off m sz =>
      some (Full.mk 0x184 d.val a.val g.code (b.val * 2^32 + off.toNat * 2^12 + sz.code + m.code)).word
  | .pref g a b off seg hint scope =>
      some (Full.mk 0x185 0 a.val g.code (b.val * 2^32 + off.toNat * 2^12 + seg.toNat * 2^11 + hint.code * 2^9 + scope.code * 2^3)).word
  | .clean g a b off seg hint scope =>
      some (Full.mk 0x186 0 a.val g.code (b.val * 2^32 + off.toNat * 2^12 + seg.toNat * 2^11 + hint.code * 2^9 + scope.code * 2^3)).word
  | .inval g a b off seg hint scope =>
      some (Full.mk 0x187 0 a.val g.code (b.val * 2^32 + off.toNat * 2^12 + seg.toNat * 2^11 + hint.code * 2^9 + scope.code * 2^3)).word
  | .mon g a b off seg hint scope =>
      some (Full.mk 0x188 0 a.val g.code (b.val * 2^32 + off.toNat * 2^12 + seg.toNat * 2^11 + hint.code * 2^9 + scope.code * 2^3)).word
  | .amoAdd g d a b off m sz =>
      some (Full.mk 0x190 d.val a.val g.code (b.val * 2^32 + off.toNat * 2^12 + sz.code + m.code)).word
  | .amoAnd g d a b off m sz =>
      some (Full.mk 0x191 d.val a.val g.code (b.val * 2^32 + off.toNat * 2^12 + sz.code + m.code)).word
  | .amoOr g d a b off m sz =>
      some (Full.mk 0x192 d.val a.val g.code (b.val * 2^32 + off.toNat * 2^12 + sz.code + m.code)).word
  | .amoXor g d a b off m sz =>
      some (Full.mk 0x193 d.val a.val g.code (b.val * 2^32 + off.toNat * 2^12 + sz.code + m.code)).word
  | .amoMin g d a b off m sz =>
      some (Full.mk 0x194 d.val a.val g.code (b.val * 2^32 + off.toNat * 2^12 + sz.code + m.code)).word
  | .amoMax g d a b off m sz =>
      some (Full.mk 0x195 d.val a.val g.code (b.val * 2^32 + off.toNat * 2^12 + sz.code + m.code)).word
  | .amoMinn g d a b off m sz =>
      some (Full.mk 0x196 d.val a.val g.code (b.val * 2^32 + off.toNat * 2^12 + sz.code + m.code)).word
  | .amoMaxn g d a b off m sz =>
      some (Full.mk 0x197 d.val a.val g.code (b.val * 2^32 + off.toNat * 2^12 + sz.code + m.code)).word
  | .amoSwap g d a b off m sz =>
      some (Full.mk 0x198 d.val a.val g.code (b.val * 2^32 + off.toNat * 2^12 + sz.code + m.code)).word
  | _ => none

/-- The words of format B (03 R92). -/
def encB : Instr → Option Word
  | .br g disp => some (Full.mk 0x1C0 0 0 g.code (disp.toNat * 2^14)).word
  | .brd g disp join => some (Full.mk 0x1C1 0 0 g.code (disp.toNat * 2^14 + join.toNat)).word
  | .jmp g a disp => some (Full.mk 0x1C2 0 a.val g.code (disp.toNat * 2^14)).word
  | .call g l disp => some (Full.mk 0x1C3 l.val 0 g.code (disp.toNat * 2^14)).word
  | .ret g a => some (Full.mk 0x1C4 0 a.val g.code (0)).word
  | .jind g a join => some (Full.mk 0x1C5 0 a.val g.code (join.toNat)).word
  | .callind g l a join => some (Full.mk 0x1C6 l.val a.val g.code (join.toNat)).word
  | .join => some (Full.mk 0x1C7 0 0 0 (0)).word
  | _ => none

/-- The words of format X (03 R93). -/
def encX : Instr → Option Word
  | .exch g d a b p s v =>
      some (Full.mk 0x1EA d.val a.val g.code (b.val * 2^32 + p.val * 2^26 + s.val * 2^20 + v.toNat)).word
  | .get g d a b c m => some (Full.mk 0x1E0 d.val a.val g.code (b.val * 2^32 + c.val * 2^26 + m.code)).word
  | .put g d a b c m => some (Full.mk 0x1E1 d.val a.val g.code (b.val * 2^32 + c.val * 2^26 + m.code)).word
  | .send g d a b c m => some (Full.mk 0x1E2 d.val a.val g.code (b.val * 2^32 + c.val * 2^26 + m.code)).word
  | .senda g d a b c op et ordered m =>
      some (Full.mk 0x1E3 d.val a.val g.code (b.val * 2^32 + c.val * 2^26 + op.code * 2^13 + et.code * 2^11 + ordered.toNat * 2^10 + m.code)).word
  | .sendv g d a b c m => some (Full.mk 0x1E4 d.val a.val g.code (b.val * 2^32 + c.val * 2^26 + m.code)).word
  | .cwait g a b => some (Full.mk 0x1E5 0 a.val g.code (b.val * 2^32)).word
  | .cwaitZero g a => some (Full.mk 0x1E5 0 a.val g.code (1)).word
  | .ctest g d a => some (Full.mk 0x1E6 d.val a.val g.code (0)).word
  | .fence g scope => some (Full.mk 0x1E7 0 0 g.code (scope.code)).word
  | .exit g a n grp => some (Full.mk 0x1E8 0 a.val g.code (grp.toNat * 2^3 + n.val)).word
  | .post g d a b => some (Full.mk 0x1E9 d.val a.val g.code (b.val * 2^32)).word
  | .barx d a b scope => some (Full.mk 0x1EB d.val a.val 0 (b.val * 2^32 + scope.code)).word
  | .quiet d a b scope => some (Full.mk 0x1EC d.val a.val 0 (b.val * 2^32 + scope.code)).word
  | .ratt g d a => some (Full.mk 0x1ED d.val a.val g.code (0)).word
  | .rattDet g d a => some (Full.mk 0x1ED d.val a.val g.code (1)).word
  | .rinj g d a b c => some (Full.mk 0x1EE d.val a.val g.code (b.val * 2^32 + c.val * 2^26)).word
  | .rmap g d a b => some (Full.mk 0x1EF d.val a.val g.code (b.val * 2^32)).word
  | .evsend g d a => some (Full.mk 0x1F0 d.val a.val g.code (0)).word
  | .evadv g d a b scope => some (Full.mk 0x1F1 d.val a.val g.code (b.val * 2^32 + scope.code)).word
  | .iinv g a b scope => some (Full.mk 0x1F2 0 a.val g.code (b.val * 2^32 + scope.code)).word
  | .isync => some (Full.mk 0x1F3 0 0 0 (0)).word
  | .trap g code => some (Full.mk 0x1F4 0 0 g.code (code.toNat)).word
  | .scall g code => some (Full.mk 0x1F5 0 0 g.code (code.toNat)).word
  | .eret => some (Full.mk 0x1F6 0 0 0 (0)).word
  | .wfi g d a => some (Full.mk 0x1F7 d.val a.val g.code (0)).word
  | .mfc g d sel => some (Full.mk 0x1F8 d.val 0 g.code (sel.val)).word
  | .mtc g a sel => some (Full.mk 0x1F9 0 a.val g.code (sel.val)).word
  | .rid g d sel => some (Full.mk 0x1FA d.val 0 g.code (sel.val)).word
  | _ => none

/-- A dual word. -/
def encDual : Instr → Option Word
  | .dualWord s0 s1 => some (dualBits s0 s1)
  | _ => none

/-- The word of an instruction; a step that is not a word has none. -/
def encode (i : Instr) : Option Word :=
  encA0 i <|> encA1 i <|> encA2 i <|> encI i <|> encM i <|> encB i <|> encX i <|> encDual i

/-! The decoder. -/

/-- Why a word is no instruction (03 R85). -/
inductive DecodeError where
  | reservedClass | unassigned | reservedField | badRegister | profileAbsent | pairing | badGuard
deriving DecidableEq, Repr

/-- The subcode of ILLEGAL_INSTRUCTION (03 R85). -/
def DecodeError.code : DecodeError → Nat
  | .reservedClass => 1 | .unassigned => 2 | .reservedField => 3 | .badRegister => 4 | .profileAbsent => 5
  | .pairing => 6 | .badGuard => 7

/-- What an opcode makes of a word's fields: whether a register number lies outside its kind, and the instruction that
its fields name. -/
structure Cand where
  bad : Bool
  i : Instr

/-- FCMP and VCMP with KD 1 or 2 name a k register in d, with KD 0 a v register (06 R140); with the reserved KD 3 a number above 31
lies outside both (log 36). -/
def kdBad (f : Full) : Bool :=
  match f.at_ 3 2 with
  | 0 => 32 ≤ f.d
  | 1 => 8 ≤ f.d
  | 2 => 8 ≤ f.d
  | _ => false

/-- The opcodes of format A, scalar (03 R89). -/
def candA0 (f : Full) : Option Cand :=
  match f.op with
  | 0x000 => some ⟨false, .nop f.guard⟩
  | 0x001 =>
      some ⟨false, .add f.guard (toX (f.d)) (toX (f.a)) (toX (f.at_ 32 6)) (IntW.ofCode (f.at_ 17 2)) (f.at_ 16 1 == 1) (f.at_ 15 1 == 1)⟩
  | 0x002 =>
      some ⟨false, .sub f.guard (toX (f.d)) (toX (f.a)) (toX (f.at_ 32 6)) (IntW.ofCode (f.at_ 17 2)) (f.at_ 16 1 == 1) (f.at_ 15 1 == 1)⟩
  | 0x003 =>
      some ⟨false, .mull f.guard (toX (f.d)) (toX (f.a)) (toX (f.at_ 32 6)) (IntW.ofCode (f.at_ 17 2)) (f.at_ 16 1 == 1) (f.at_ 15 1 == 1)⟩
  | 0x004 => some ⟨false, .mulh f.guard (toX (f.d)) (toX (f.a)) (toX (f.at_ 32 6)) (IntW.ofCode (f.at_ 17 2))⟩
  | 0x005 => some ⟨false, .mulhn f.guard (toX (f.d)) (toX (f.a)) (toX (f.at_ 32 6)) (IntW.ofCode (f.at_ 17 2))⟩
  | 0x006 => some ⟨false, .div f.guard (toX (f.d)) (toX (f.a)) (toX (f.at_ 32 6)) (IntW.ofCode (f.at_ 17 2))⟩
  | 0x007 => some ⟨false, .divn f.guard (toX (f.d)) (toX (f.a)) (toX (f.at_ 32 6)) (IntW.ofCode (f.at_ 17 2))⟩
  | 0x008 => some ⟨false, .rem f.guard (toX (f.d)) (toX (f.a)) (toX (f.at_ 32 6)) (IntW.ofCode (f.at_ 17 2))⟩
  | 0x009 => some ⟨false, .remn f.guard (toX (f.d)) (toX (f.a)) (toX (f.at_ 32 6)) (IntW.ofCode (f.at_ 17 2))⟩
  | 0x00A =>
      some ⟨false, .shladd f.guard (toX (f.d)) (toX (f.a)) (toX (f.at_ 32 6)) (IntW.ofCode (f.at_ 17 2)) (f.at_ 16 1 == 1) (toK (f.at_ 0 3))⟩
  | 0x010 =>
      some ⟨false, .and f.guard (toX (f.d)) (toX (f.a)) (toX (f.at_ 32 6)) (IntW.ofCode (f.at_ 17 2)) (f.at_ 16 1 == 1)⟩
  | 0x011 =>
      some ⟨false, .or f.guard (toX (f.d)) (toX (f.a)) (toX (f.at_ 32 6)) (IntW.ofCode (f.at_ 17 2)) (f.at_ 16 1 == 1)⟩
  | 0x012 =>
      some ⟨false, .xor f.guard (toX (f.d)) (toX (f.a)) (toX (f.at_ 32 6)) (IntW.ofCode (f.at_ 17 2)) (f.at_ 16 1 == 1)⟩
  | 0x013 =>
      some ⟨false, .andn f.guard (toX (f.d)) (toX (f.a)) (toX (f.at_ 32 6)) (IntW.ofCode (f.at_ 17 2)) (f.at_ 16 1 == 1)⟩
  | 0x014 =>
      some ⟨false, .orn f.guard (toX (f.d)) (toX (f.a)) (toX (f.at_ 32 6)) (IntW.ofCode (f.at_ 17 2)) (f.at_ 16 1 == 1)⟩
  | 0x015 =>
      some ⟨false, .xnor f.guard (toX (f.d)) (toX (f.a)) (toX (f.at_ 32 6)) (IntW.ofCode (f.at_ 17 2)) (f.at_ 16 1 == 1)⟩
  | 0x016 =>
      some ⟨false, .shl f.guard (toX (f.d)) (toX (f.a)) (toX (f.at_ 32 6)) (IntW.ofCode (f.at_ 17 2)) (f.at_ 16 1 == 1)⟩
  | 0x017 => some ⟨false, .shr f.guard (toX (f.d)) (toX (f.a)) (toX (f.at_ 32 6)) (IntW.ofCode (f.at_ 17 2))⟩
  | 0x018 => some ⟨false, .sar f.guard (toX (f.d)) (toX (f.a)) (toX (f.at_ 32 6)) (IntW.ofCode (f.at_ 17 2))⟩
  | 0x019 =>
      some ⟨false, .rol f.guard (toX (f.d)) (toX (f.a)) (toX (f.at_ 32 6)) (IntW.ofCode (f.at_ 17 2)) (f.at_ 16 1 == 1)⟩
  | 0x01A =>
      some ⟨false, .ror f.guard (toX (f.d)) (toX (f.a)) (toX (f.at_ 32 6)) (IntW.ofCode (f.at_ 17 2)) (f.at_ 16 1 == 1)⟩
  | 0x01B => some ⟨false, .min f.guard (toX (f.d)) (toX (f.a)) (toX (f.at_ 32 6)) (IntW.ofCode (f.at_ 17 2))⟩
  | 0x01C => some ⟨false, .max f.guard (toX (f.d)) (toX (f.a)) (toX (f.at_ 32 6)) (IntW.ofCode (f.at_ 17 2))⟩
  | 0x01D => some ⟨false, .minn f.guard (toX (f.d)) (toX (f.a)) (toX (f.at_ 32 6)) (IntW.ofCode (f.at_ 17 2))⟩
  | 0x01E => some ⟨false, .maxn f.guard (toX (f.d)) (toX (f.a)) (toX (f.at_ 32 6)) (IntW.ofCode (f.at_ 17 2))⟩
  | 0x020 =>
      some ⟨8 ≤ f.d, .cmp f.guard (toK (f.d)) (toX (f.a)) (toX (f.at_ 32 6)) (IntW.ofCode (f.at_ 17 2)) (f.at_ 16 1 == 1) ((Cond.ofCode (f.at_ 0 3)).getD .eq)⟩
  | 0x021 => some ⟨8 ≤ f.at_ 26 6, .sel f.guard (toX (f.d)) (toX (f.a)) (toX (f.at_ 32 6)) (toK (f.at_ 26 6))⟩
  | 0x022 => some ⟨false, .clz f.guard (toX (f.d)) (toX (f.a)) (IntW.ofCode (f.at_ 17 2))⟩
  | 0x023 => some ⟨false, .ctz f.guard (toX (f.d)) (toX (f.a)) (IntW.ofCode (f.at_ 17 2))⟩
  | 0x024 => some ⟨false, .popc f.guard (toX (f.d)) (toX (f.a)) (IntW.ofCode (f.at_ 17 2))⟩
  | 0x025 => some ⟨false, .brev f.guard (toX (f.d)) (toX (f.a)) (IntW.ofCode (f.at_ 17 2)) (f.at_ 16 1 == 1)⟩
  | 0x026 => some ⟨false, .bswap f.guard (toX (f.d)) (toX (f.a)) (IntW.ofCode (f.at_ 17 2)) (f.at_ 16 1 == 1)⟩
  | 0x027 => some ⟨false, .bfx f.guard (toX (f.d)) (toX (f.a)) (f.at_ 16 1 == 1) (toX (f.at_ 0 6)) (toX (f.at_ 6 6))⟩
  | 0x028 => some ⟨false, .bfi f.guard (toX (f.d)) (toX (f.a)) (toX (f.at_ 32 6)) (toX (f.at_ 0 6)) (toX (f.at_ 6 6))⟩
  | 0x029 => some ⟨false, .ext f.guard (toX (f.d)) (toX (f.a)) (IntW.ofCode (f.at_ 17 2)) (f.at_ 16 1 == 1)⟩
  | 0x02A => some ⟨false, .mov f.guard (toX (f.d)) (toX (f.a))⟩
  | 0x02B =>
      some ⟨8 ≤ f.d || 8 ≤ f.a || 8 ≤ f.at_ 32 6, .kop f.guard (toK (f.d)) (toK (f.a)) (toK (f.at_ 32 6)) (KopOp.ofCode (f.at_ 0 3))⟩
  | 0x02C => some (match f.at_ 0 1 with
    | 0 => ⟨8 ≤ f.a, .kmovToX f.guard (toX (f.d)) (toK (f.a))⟩
    | _ => ⟨8 ≤ f.d, .kmovToK f.guard (toK (f.d)) (toX (f.a))⟩)
  | 0x02D => some ⟨false, .yield f.guard⟩
  | _ => none

/-- The opcodes of format A, lanes (03 R89). -/
def candA1 (f : Full) : Option Cand :=
  match f.op with
  | 0x040 =>
      some ⟨32 ≤ f.d || 32 ≤ f.a || 32 ≤ f.at_ 32 6, .fadd f.guard (toV (f.d)) (toV (f.a)) (toV (f.at_ 32 6)) ((Ty.ofCode (f.at_ 19 4)).getD .i8) ((Rm.ofCode (f.at_ 23 3)).getD .dyn)⟩
  | 0x041 =>
      some ⟨32 ≤ f.d || 32 ≤ f.a || 32 ≤ f.at_ 32 6, .fsub f.guard (toV (f.d)) (toV (f.a)) (toV (f.at_ 32 6)) ((Ty.ofCode (f.at_ 19 4)).getD .i8) ((Rm.ofCode (f.at_ 23 3)).getD .dyn)⟩
  | 0x042 =>
      some ⟨32 ≤ f.d || 32 ≤ f.a || 32 ≤ f.at_ 32 6, .fmul f.guard (toV (f.d)) (toV (f.a)) (toV (f.at_ 32 6)) ((Ty.ofCode (f.at_ 19 4)).getD .i8) ((Rm.ofCode (f.at_ 23 3)).getD .dyn)⟩
  | 0x043 =>
      some ⟨32 ≤ f.d || 32 ≤ f.a || 32 ≤ f.at_ 32 6 || 32 ≤ f.at_ 26 6, .ffma f.guard (toV (f.d)) (toV (f.a)) (toV (f.at_ 32 6)) (toV (f.at_ 26 6)) ((Ty.ofCode (f.at_ 19 4)).getD .i8) ((Rm.ofCode (f.at_ 23 3)).getD .dyn)⟩
  | 0x044 =>
      some ⟨32 ≤ f.d || 32 ≤ f.a || 32 ≤ f.at_ 32 6 || 32 ≤ f.at_ 26 6, .ffms f.guard (toV (f.d)) (toV (f.a)) (toV (f.at_ 32 6)) (toV (f.at_ 26 6)) ((Ty.ofCode (f.at_ 19 4)).getD .i8) ((Rm.ofCode (f.at_ 23 3)).getD .dyn)⟩
  | 0x045 =>
      some ⟨32 ≤ f.d || 32 ≤ f.a || 32 ≤ f.at_ 32 6, .fmin f.guard (toV (f.d)) (toV (f.a)) (toV (f.at_ 32 6)) ((Ty.ofCode (f.at_ 19 4)).getD .i8)⟩
  | 0x046 =>
      some ⟨32 ≤ f.d || 32 ≤ f.a || 32 ≤ f.at_ 32 6, .fmax f.guard (toV (f.d)) (toV (f.a)) (toV (f.at_ 32 6)) ((Ty.ofCode (f.at_ 19 4)).getD .i8)⟩
  | 0x047 => some ⟨32 ≤ f.d || 32 ≤ f.a, .fabs f.guard (toV (f.d)) (toV (f.a)) ((Ty.ofCode (f.at_ 19 4)).getD .i8)⟩
  | 0x048 => some ⟨32 ≤ f.d || 32 ≤ f.a, .fneg f.guard (toV (f.d)) (toV (f.a)) ((Ty.ofCode (f.at_ 19 4)).getD .i8)⟩
  | 0x049 =>
      some ⟨32 ≤ f.a || 32 ≤ f.at_ 32 6 || kdBad f, .fcmp f.guard (toX (f.d)) (toV (f.a)) (toV (f.at_ 32 6)) ((Ty.ofCode (f.at_ 19 4)).getD .i8) ((CmpDest.ofCode (f.at_ 3 2)).getD .vec) (FCond.ofCode (f.at_ 0 3))⟩
  | 0x04A =>
      some ⟨32 ≤ f.d || 32 ≤ f.a || 32 ≤ f.at_ 32 6 || 32 ≤ f.at_ 26 6, .fsel f.guard (toV (f.d)) (toV (f.a)) (toV (f.at_ 32 6)) (toV (f.at_ 26 6)) ((Ty.ofCode (f.at_ 19 4)).getD .i8)⟩
  | 0x04B => some ⟨32 ≤ f.d || 32 ≤ f.a, .frcp f.guard (toV (f.d)) (toV (f.a)) ((Ty.ofCode (f.at_ 19 4)).getD .i8)⟩
  | 0x04C => some ⟨32 ≤ f.d || 32 ≤ f.a, .frsq f.guard (toV (f.d)) (toV (f.a)) ((Ty.ofCode (f.at_ 19 4)).getD .i8)⟩
  | 0x04D =>
      some ⟨32 ≤ f.d || 32 ≤ f.a, .fsqrt f.guard (toV (f.d)) (toV (f.a)) ((Ty.ofCode (f.at_ 19 4)).getD .i8) ((Rm.ofCode (f.at_ 23 3)).getD .dyn)⟩
  | 0x04E => some ⟨32 ≤ f.d || 32 ≤ f.a, .fexp2 f.guard (toV (f.d)) (toV (f.a)) ((Ty.ofCode (f.at_ 19 4)).getD .i8)⟩
  | 0x04F => some ⟨32 ≤ f.d || 32 ≤ f.a, .flog2 f.guard (toV (f.d)) (toV (f.a)) ((Ty.ofCode (f.at_ 19 4)).getD .i8)⟩
  | 0x050 =>
      some ⟨32 ≤ f.d || 32 ≤ f.a, .fcvt f.guard (toV (f.d)) (toV (f.a)) ((Ty.ofCode (f.at_ 19 4)).getD .i8) ((Ty.ofCode (f.at_ 15 4)).getD .i8) ((Rm.ofCode (f.at_ 23 3)).getD .dyn) (toK (f.at_ 0 3))⟩
  | 0x051 =>
      some ⟨32 ≤ f.d || 32 ≤ f.a || 32 ≤ f.at_ 32 6, .fpack f.guard (toV (f.d)) (toV (f.a)) (toV (f.at_ 32 6)) (toX (f.at_ 26 6)) ((Ty.ofCode (f.at_ 19 4)).getD .i8) ((Rm.ofCode (f.at_ 23 3)).getD .dyn) (toK (f.at_ 0 3))⟩
  | 0x052 =>
      some ⟨32 ≤ f.d || 32 ≤ f.a, .funpack f.guard (toV (f.d)) (toV (f.a)) (toX (f.at_ 26 6)) ((Ty.ofCode (f.at_ 15 4)).getD .i8) (toK (f.at_ 0 3))⟩
  | 0x053 =>
      some ⟨32 ≤ f.d || 32 ≤ f.a || 32 ≤ f.at_ 32 6, .fdot f.guard (toV (f.d)) (toV (f.a)) (toV (f.at_ 32 6)) ((Ty.ofCode (f.at_ 19 4)).getD .i8) ((Ty.ofCode (f.at_ 15 4)).getD .i8) ((Rm.ofCode (f.at_ 23 3)).getD .dyn) (f.at_ 14 1 == 1)⟩
  | 0x054 =>
      some ⟨32 ≤ f.d || 32 ≤ f.a, .fsum f.guard (toV (f.d)) (toV (f.a)) ((Ty.ofCode (f.at_ 15 4)).getD .i8) ((Rm.ofCode (f.at_ 23 3)).getD .dyn)⟩
  | 0x055 => some ⟨32 ≤ f.d || 32 ≤ f.a, .fclass f.guard (toV (f.d)) (toV (f.a)) ((Ty.ofCode (f.at_ 19 4)).getD .i8)⟩
  | 0x056 => some ⟨32 ≤ f.d || 32 ≤ f.a, .vmov f.guard (toV (f.d)) (toV (f.a))⟩
  | 0x057 => some ⟨32 ≤ f.d, .vbcast f.guard (toV (f.d)) (toX (f.a)) ((Ty.ofCode (f.at_ 19 4)).getD .i8)⟩
  | 0x058 =>
      some ⟨32 ≤ f.a, .vextr f.guard (toX (f.d)) (toV (f.a)) ((Ty.ofCode (f.at_ 19 4)).getD .i8) (toFin16 (f.at_ 0 4))⟩
  | 0x059 =>
      some ⟨32 ≤ f.d, .vins f.guard (toV (f.d)) (toX (f.a)) ((Ty.ofCode (f.at_ 19 4)).getD .i8) (toFin16 (f.at_ 0 4))⟩
  | 0x060 =>
      some ⟨32 ≤ f.d || 32 ≤ f.a || 32 ≤ f.at_ 32 6, .vadd f.guard (toV (f.d)) (toV (f.a)) (toV (f.at_ 32 6)) ((Ty.ofCode (f.at_ 19 4)).getD .i8) (f.at_ 14 1 == 1)⟩
  | 0x061 =>
      some ⟨32 ≤ f.d || 32 ≤ f.a || 32 ≤ f.at_ 32 6, .vsub f.guard (toV (f.d)) (toV (f.a)) (toV (f.at_ 32 6)) ((Ty.ofCode (f.at_ 19 4)).getD .i8) (f.at_ 14 1 == 1)⟩
  | 0x062 =>
      some ⟨32 ≤ f.d || 32 ≤ f.a || 32 ≤ f.at_ 32 6, .vmul f.guard (toV (f.d)) (toV (f.a)) (toV (f.at_ 32 6)) ((Ty.ofCode (f.at_ 19 4)).getD .i8) (f.at_ 14 1 == 1)⟩
  | 0x063 =>
      some ⟨32 ≤ f.d || 32 ≤ f.a || 32 ≤ f.at_ 32 6, .vmin f.guard (toV (f.d)) (toV (f.a)) (toV (f.at_ 32 6)) ((Ty.ofCode (f.at_ 19 4)).getD .i8)⟩
  | 0x064 =>
      some ⟨32 ≤ f.d || 32 ≤ f.a || 32 ≤ f.at_ 32 6, .vmax f.guard (toV (f.d)) (toV (f.a)) (toV (f.at_ 32 6)) ((Ty.ofCode (f.at_ 19 4)).getD .i8)⟩
  | 0x065 => some ⟨32 ≤ f.d || 32 ≤ f.a || 32 ≤ f.at_ 32 6, .vand f.guard (toV (f.d)) (toV (f.a)) (toV (f.at_ 32 6))⟩
  | 0x066 => some ⟨32 ≤ f.d || 32 ≤ f.a || 32 ≤ f.at_ 32 6, .vor f.guard (toV (f.d)) (toV (f.a)) (toV (f.at_ 32 6))⟩
  | 0x067 => some ⟨32 ≤ f.d || 32 ≤ f.a || 32 ≤ f.at_ 32 6, .vxor f.guard (toV (f.d)) (toV (f.a)) (toV (f.at_ 32 6))⟩
  | 0x068 =>
      some ⟨32 ≤ f.d || 32 ≤ f.a || 32 ≤ f.at_ 32 6, .vshl f.guard (toV (f.d)) (toV (f.a)) (toV (f.at_ 32 6)) ((Ty.ofCode (f.at_ 19 4)).getD .i8)⟩
  | 0x069 =>
      some ⟨32 ≤ f.d || 32 ≤ f.a || 32 ≤ f.at_ 32 6, .vshr f.guard (toV (f.d)) (toV (f.a)) (toV (f.at_ 32 6)) ((Ty.ofCode (f.at_ 19 4)).getD .i8)⟩
  | 0x06A => some ⟨32 ≤ f.d || 32 ≤ f.a, .vpopc f.guard (toV (f.d)) (toV (f.a)) ((Ty.ofCode (f.at_ 19 4)).getD .i8)⟩
  | 0x06B =>
      some ⟨32 ≤ f.a || 32 ≤ f.at_ 32 6 || kdBad f, .vcmp f.guard (toX (f.d)) (toV (f.a)) (toV (f.at_ 32 6)) ((Ty.ofCode (f.at_ 19 4)).getD .i8) ((CmpDest.ofCode (f.at_ 3 2)).getD .vec) ((Cond.ofCode (f.at_ 0 3)).getD .eq)⟩
  | 0x070 =>
      some ⟨(f.at_ 4 1 == 1 && (32 ≤ f.d || 32 ≤ f.a)), .shfl f.guard (toX (f.d)) (toX (f.a)) (toX (f.at_ 32 6)) (toX (f.at_ 26 6)) ((Ty.ofCode (f.at_ 19 4)).getD .i8) (ShflMode.ofCode (f.at_ 0 2)) (f.at_ 3 1 == 1) (f.at_ 4 1 == 1)⟩
  | 0x071 => some (match f.at_ 0 2 with
    | 0 => ⟨8 ≤ f.d || 8 ≤ f.a, .voteAny f.guard (toK (f.d)) (toK (f.a)) (toX (f.at_ 26 6))⟩
    | 1 => ⟨8 ≤ f.d || 8 ≤ f.a, .voteAll f.guard (toK (f.d)) (toK (f.a)) (toX (f.at_ 26 6))⟩
    | 2 => ⟨8 ≤ f.d || 8 ≤ f.a, .voteUni f.guard (toK (f.d)) (toK (f.a)) (toX (f.at_ 26 6))⟩
    | _ => ⟨8 ≤ f.d || 8 ≤ f.a, .nop f.guard⟩)
  | 0x072 => some ⟨8 ≤ f.a, .ballot f.guard (toX (f.d)) (toK (f.a)) (toX (f.at_ 26 6))⟩
  | 0x073 =>
      some ⟨false, .red f.guard (toX (f.d)) (toX (f.a)) (toX (f.at_ 32 6)) (toX (f.at_ 26 6)) ((Ty.ofCode (f.at_ 19 4)).getD .i8) ((Rm.ofCode (f.at_ 23 3)).getD .dyn) (f.at_ 14 1 == 1) (RedOp.ofCode (f.at_ 0 3)) (f.at_ 3 1 == 1)⟩
  | 0x074 =>
      some ⟨false, .scan f.guard (toX (f.d)) (toX (f.a)) (toX (f.at_ 32 6)) (toX (f.at_ 26 6)) ((Ty.ofCode (f.at_ 19 4)).getD .i8) ((Rm.ofCode (f.at_ 23 3)).getD .dyn) (f.at_ 14 1 == 1) (RedOp.ofCode (f.at_ 0 3)) (f.at_ 3 1 == 1) (f.at_ 5 1 == 1)⟩
  | 0x075 => some ⟨8 ≤ f.d, .elect f.guard (toK (f.d)) (toX (f.at_ 26 6))⟩
  | 0x076 =>
      some ⟨false, .matchLanes f.guard (toX (f.d)) (toX (f.a)) (toX (f.at_ 26 6)) ((Ty.ofCode (f.at_ 19 4)).getD .i8)⟩
  | _ => none

/-- The opcodes of format A, tile, groups, barriers, rings, events and jobs (03 R89). -/
def candA2 (f : Full) : Option Cand :=
  match f.op with
  | 0x080 =>
      some ⟨8 ≤ f.d, .mma (toK (f.d)) (toX (f.a)) (toX (f.at_ 32 6)) (toX (f.at_ 26 6)) (toFin1024 (f.at_ 16 10)) ((Hint.ofCode (f.at_ 10 2)).getD .normal) (f.at_ 9 1 == 1)⟩
  | 0x081 => some ⟨8 ≤ f.d, .mzero (toK (f.d))⟩
  | 0x082 =>
      some ⟨8 ≤ f.at_ 32 6, .mdrain (toX (f.a)) (toK (f.at_ 32 6)) ((Ty.ofCode (f.at_ 19 4)).getD .i8) ((Rm.ofCode (f.at_ 23 3)).getD .dyn) ((Scope.ofCode (f.at_ 16 3)).getD .pl) (f.at_ 15 1 == 1)⟩
  | 0x083 =>
      some ⟨8 ≤ f.at_ 32 6, .mdrainr (toX (f.d)) (toX (f.a)) (toK (f.at_ 32 6)) (toX (f.at_ 26 6)) ((Ty.ofCode (f.at_ 19 4)).getD .i8) ((Rm.ofCode (f.at_ 23 3)).getD .dyn) (f.at_ 15 1 == 1)⟩
  | 0x084 => some (match f.at_ 0 2 with
    | 0 => ⟨8 ≤ f.d || 8 ≤ f.a, .mmov (toK (f.d)) (toK (f.a))⟩
    | 1 => ⟨32 ≤ f.d || 8 ≤ f.a, .mmovTov f.guard (toV (f.d)) (toK (f.a)) (toK (f.at_ 2 3)) (f.at_ 5 1 == 1)⟩
    | 2 => ⟨8 ≤ f.d || 32 ≤ f.a, .mmovTom f.guard (toK (f.d)) (toV (f.a)) (toK (f.at_ 2 3)) (f.at_ 5 1 == 1)⟩
    | _ => ⟨false, .nop f.guard⟩)
  | 0x085 => some ⟨false, .mpass⟩
  | 0x086 => some (match f.at_ 0 1 with
    | 0 => ⟨false, .mwait⟩
    | _ => ⟨false, .mwaitAll⟩)
  | 0x087 => some ⟨false, .mclr (toFin256 (f.at_ 0 8))⟩
  | 0x088 => some ⟨false, .mres f.guard (toX (f.d))⟩
  | 0x090 => some ⟨false, .trayCfg f.guard (toX (f.d)) (toX (f.a)) (toX (f.at_ 32 6))⟩
  | 0x091 => some (match f.at_ 0 2 with
    | 0 => ⟨false, .inboxqTake f.guard (toX (f.d)) (toX (f.a)) (toX (f.at_ 32 6))⟩
    | 1 => ⟨false, .inboxqCount f.guard (toX (f.d))⟩
    | _ => ⟨false, .nop f.guard⟩)
  | 0x092 => some ⟨false, .fuse⟩
  | 0x093 => some ⟨false, .split⟩
  | 0x094 => some ⟨false, .refuse (toX (f.d))⟩
  | 0x095 => some (match f.at_ 0 2 with
    | 0 => ⟨false, .divqState f.guard (toX (f.d))⟩
    | 1 => ⟨false, .divqJoin f.guard (toX (f.d))⟩
    | 2 => ⟨false, .divqLimit f.guard (toX (f.d)) (toX (f.a))⟩
    | _ => ⟨false, .nop f.guard⟩)
  | 0x096 => some ⟨false, .binit f.guard (toX (f.a)) (toX (f.at_ 32 6)) ((Scope.ofCode (f.at_ 0 3)).getD .pl)⟩
  | 0x097 => some ⟨false, .barr f.guard (toX (f.d)) (toX (f.a)) (f.at_ 0 1 == 1)⟩
  | 0x098 => some ⟨false, .bwait f.guard (toX (f.d)) (toX (f.a)) (toX (f.at_ 32 6))⟩
  | 0x099 => some ⟨false, .bsync f.guard (toX (f.d)) (toX (f.a)) (f.at_ 0 1 == 1)⟩
  | 0x09A => some ⟨false, .bbreak f.guard (toX (f.a))⟩
  | 0x09B => some ⟨false, .waitm f.guard (toX (f.d)) (toX (f.a))⟩
  | 0x09C => some ⟨false, .rrel (toX (f.d)) (toX (f.a))⟩
  | 0x09D => some ⟨false, .rwait f.guard (toX (f.d)) (toX (f.a)) (toX (f.at_ 32 6))⟩
  | 0x09E => some (match f.at_ 0 3 with
    | 0 => ⟨false, .rqryState f.guard (toX (f.d)) (toX (f.a))⟩
    | 1 => ⟨false, .rqryInj f.guard (toX (f.d)) (toX (f.a))⟩
    | 2 => ⟨false, .rqryRet f.guard (toX (f.d)) (toX (f.a))⟩
    | 3 => ⟨false, .rqryEnc f.guard (toX (f.d)) (toX (f.a))⟩
    | 4 => ⟨false, .rqryMiss f.guard (toX (f.d)) (toX (f.a))⟩
    | 5 => ⟨false, .rqryLost f.guard (toX (f.d)) (toX (f.a))⟩
    | _ => ⟨false, .nop f.guard⟩)
  | 0x09F => some (match f.at_ 0 2 with
    | 0 => ⟨false, .evcfgBind f.guard (toX (f.d)) (toX (f.a)) (toX (f.at_ 32 6))⟩
    | 1 => ⟨false, .evcfgFree f.guard (toX (f.d)) (toX (f.a))⟩
    | 2 => ⟨false, .evcfgPset f.guard (toX (f.d)) (toX (f.a)) (toX (f.at_ 32 6))⟩
    | _ => ⟨false, .nop f.guard⟩)
  | 0x0A0 => some (match f.at_ 0 1 with
    | 0 => ⟨false, .evrd f.guard (toX (f.d)) (toX (f.a)) (toX (f.at_ 32 6)) (toX (f.at_ 26 6))⟩
    | _ => ⟨false, .evrdStat f.guard (toX (f.d)) (toX (f.a)) (toX (f.at_ 32 6))⟩)
  | 0x0A1 => some ⟨false, .evwr f.guard (toX (f.d)) (toX (f.a)) (toX (f.at_ 32 6)) (toX (f.at_ 26 6))⟩
  | 0x0A2 => some (match f.at_ 0 3 with
    | 0 => ⟨false, .jcntInj f.guard (toX (f.d)) (toX (f.a))⟩
    | 1 => ⟨false, .jcntCons f.guard (toX (f.d)) (toX (f.a))⟩
    | 2 => ⟨false, .jcntRep f.guard (toX (f.d)) (toX (f.a))⟩
    | 3 => ⟨false, .jcntCalls f.guard (toX (f.d)) (toX (f.a))⟩
    | _ => ⟨false, .nop f.guard⟩)
  | 0x0A3 => some (match f.at_ 0 2 with
    | 0 => ⟨false, .jrepTake f.guard (toX (f.d)) (toX (f.a)) (toX (f.at_ 32 6))⟩
    | 1 => ⟨false, .jrepCount f.guard (toX (f.d)) (toX (f.a))⟩
    | 2 => ⟨false, .jrepClose f.guard (toX (f.d)) (toX (f.a))⟩
    | _ => ⟨false, .nop f.guard⟩)
  | _ => none

/-- The opcodes of format I (03 R90). -/
def candI (f : Full) : Option Cand :=
  match f.op with
  | 0x100 => some ⟨false, .addi f.guard (toX (f.d)) (toX (f.a)) (BitVec.ofNat 32 (f.at_ 6 32))⟩
  | 0x101 =>
      some ⟨8 ≤ f.d, .cmpi f.guard (toK (f.d)) (toX (f.a)) (BitVec.ofNat 32 (f.at_ 6 32)) (f.at_ 3 1 == 1) ((Cond.ofCode (f.at_ 0 3)).getD .eq)⟩
  | 0x102 => some ⟨false, .movi f.guard (toX (f.d)) (BitVec.ofNat 32 (f.at_ 6 32))⟩
  | 0x103 => some ⟨false, .movhi f.guard (toX (f.d)) (BitVec.ofNat 32 (f.at_ 6 32))⟩
  | 0x104 => some ⟨false, .mullImm f.guard (toX (f.d)) (toX (f.a)) (BitVec.ofNat 32 (f.at_ 6 32))⟩
  | 0x105 => some ⟨false, .andImm f.guard (toX (f.d)) (toX (f.a)) (BitVec.ofNat 32 (f.at_ 6 32))⟩
  | 0x106 => some ⟨false, .orImm f.guard (toX (f.d)) (toX (f.a)) (BitVec.ofNat 32 (f.at_ 6 32))⟩
  | 0x107 => some ⟨false, .xorImm f.guard (toX (f.d)) (toX (f.a)) (BitVec.ofNat 32 (f.at_ 6 32))⟩
  | 0x108 => some ⟨false, .andnImm f.guard (toX (f.d)) (toX (f.a)) (BitVec.ofNat 32 (f.at_ 6 32))⟩
  | 0x109 => some ⟨false, .shlImm f.guard (toX (f.d)) (toX (f.a)) (toX (f.at_ 6 6))⟩
  | 0x10A => some ⟨false, .shrImm f.guard (toX (f.d)) (toX (f.a)) (toX (f.at_ 6 6))⟩
  | 0x10B => some ⟨false, .sarImm f.guard (toX (f.d)) (toX (f.a)) (toX (f.at_ 6 6))⟩
  | 0x10C => some ⟨false, .rolImm f.guard (toX (f.d)) (toX (f.a)) (toX (f.at_ 6 6))⟩
  | 0x10D => some ⟨false, .rorImm f.guard (toX (f.d)) (toX (f.a)) (toX (f.at_ 6 6))⟩
  | 0x10E => some ⟨false, .minImm f.guard (toX (f.d)) (toX (f.a)) (BitVec.ofNat 32 (f.at_ 6 32))⟩
  | 0x10F => some ⟨false, .maxImm f.guard (toX (f.d)) (toX (f.a)) (BitVec.ofNat 32 (f.at_ 6 32))⟩
  | 0x110 => some ⟨false, .minnImm f.guard (toX (f.d)) (toX (f.a)) (BitVec.ofNat 32 (f.at_ 6 32))⟩
  | 0x111 => some ⟨false, .maxnImm f.guard (toX (f.d)) (toX (f.a)) (BitVec.ofNat 32 (f.at_ 6 32))⟩
  | _ => none

/-- The opcodes of format M (03 R91). -/
def candM (f : Full) : Option Cand :=
  match f.op with
  | 0x180 =>
      some ⟨false, .ld f.guard (toX (f.d)) (toX (f.a)) (toX (f.at_ 32 6)) (BitVec.ofNat 20 (f.at_ 12 20)) (f.at_ 8 1 == 1) (MMod.ofCode (f.at_ 0 12)) ((MSize.ofCode (f.at_ 0 3)).getD .b8)⟩
  | 0x181 =>
      some ⟨false, .st f.guard (toX (f.a)) (toX (f.at_ 32 6)) (BitVec.ofNat 20 (f.at_ 12 20)) (MMod.ofCode (f.at_ 0 12)) ((MSize.ofCode (f.at_ 0 3)).getD .b8)⟩
  | 0x182 =>
      some ⟨32 ≤ f.d, .ldv f.guard (toV (f.d)) (toX (f.a)) (toX (f.at_ 32 6)) (BitVec.ofNat 20 (f.at_ 12 20)) (MMod.ofCode (f.at_ 0 12)) ((MSize.ofCode (f.at_ 0 3)).getD .b8)⟩
  | 0x183 =>
      some ⟨32 ≤ f.at_ 32 6, .stv f.guard (toX (f.a)) (toV (f.at_ 32 6)) (BitVec.ofNat 20 (f.at_ 12 20)) (MMod.ofCode (f.at_ 0 12)) ((MSize.ofCode (f.at_ 0 3)).getD .b8)⟩
  | 0x184 =>
      some ⟨false, .cas f.guard (toX (f.d)) (toX (f.a)) (toX (f.at_ 32 6)) (BitVec.ofNat 20 (f.at_ 12 20)) (MMod.ofCode (f.at_ 0 12)) ((MSize.ofCode (f.at_ 0 3)).getD .b8)⟩
  | 0x185 =>
      some ⟨false, .pref f.guard (toX (f.a)) (toX (f.at_ 32 6)) (BitVec.ofNat 20 (f.at_ 12 20)) (f.at_ 11 1 == 1) ((Hint.ofCode (f.at_ 9 2)).getD .normal) ((Scope.ofCode (f.at_ 3 3)).getD .pl)⟩
  | 0x186 =>
      some ⟨false, .clean f.guard (toX (f.a)) (toX (f.at_ 32 6)) (BitVec.ofNat 20 (f.at_ 12 20)) (f.at_ 11 1 == 1) ((Hint.ofCode (f.at_ 9 2)).getD .normal) ((Scope.ofCode (f.at_ 3 3)).getD .pl)⟩
  | 0x187 =>
      some ⟨false, .inval f.guard (toX (f.a)) (toX (f.at_ 32 6)) (BitVec.ofNat 20 (f.at_ 12 20)) (f.at_ 11 1 == 1) ((Hint.ofCode (f.at_ 9 2)).getD .normal) ((Scope.ofCode (f.at_ 3 3)).getD .pl)⟩
  | 0x188 =>
      some ⟨false, .mon f.guard (toX (f.a)) (toX (f.at_ 32 6)) (BitVec.ofNat 20 (f.at_ 12 20)) (f.at_ 11 1 == 1) ((Hint.ofCode (f.at_ 9 2)).getD .normal) ((Scope.ofCode (f.at_ 3 3)).getD .pl)⟩
  | 0x190 =>
      some ⟨false, .amoAdd f.guard (toX (f.d)) (toX (f.a)) (toX (f.at_ 32 6)) (BitVec.ofNat 20 (f.at_ 12 20)) (MMod.ofCode (f.at_ 0 12)) ((MSize.ofCode (f.at_ 0 3)).getD .b8)⟩
  | 0x191 =>
      some ⟨false, .amoAnd f.guard (toX (f.d)) (toX (f.a)) (toX (f.at_ 32 6)) (BitVec.ofNat 20 (f.at_ 12 20)) (MMod.ofCode (f.at_ 0 12)) ((MSize.ofCode (f.at_ 0 3)).getD .b8)⟩
  | 0x192 =>
      some ⟨false, .amoOr f.guard (toX (f.d)) (toX (f.a)) (toX (f.at_ 32 6)) (BitVec.ofNat 20 (f.at_ 12 20)) (MMod.ofCode (f.at_ 0 12)) ((MSize.ofCode (f.at_ 0 3)).getD .b8)⟩
  | 0x193 =>
      some ⟨false, .amoXor f.guard (toX (f.d)) (toX (f.a)) (toX (f.at_ 32 6)) (BitVec.ofNat 20 (f.at_ 12 20)) (MMod.ofCode (f.at_ 0 12)) ((MSize.ofCode (f.at_ 0 3)).getD .b8)⟩
  | 0x194 =>
      some ⟨false, .amoMin f.guard (toX (f.d)) (toX (f.a)) (toX (f.at_ 32 6)) (BitVec.ofNat 20 (f.at_ 12 20)) (MMod.ofCode (f.at_ 0 12)) ((MSize.ofCode (f.at_ 0 3)).getD .b8)⟩
  | 0x195 =>
      some ⟨false, .amoMax f.guard (toX (f.d)) (toX (f.a)) (toX (f.at_ 32 6)) (BitVec.ofNat 20 (f.at_ 12 20)) (MMod.ofCode (f.at_ 0 12)) ((MSize.ofCode (f.at_ 0 3)).getD .b8)⟩
  | 0x196 =>
      some ⟨false, .amoMinn f.guard (toX (f.d)) (toX (f.a)) (toX (f.at_ 32 6)) (BitVec.ofNat 20 (f.at_ 12 20)) (MMod.ofCode (f.at_ 0 12)) ((MSize.ofCode (f.at_ 0 3)).getD .b8)⟩
  | 0x197 =>
      some ⟨false, .amoMaxn f.guard (toX (f.d)) (toX (f.a)) (toX (f.at_ 32 6)) (BitVec.ofNat 20 (f.at_ 12 20)) (MMod.ofCode (f.at_ 0 12)) ((MSize.ofCode (f.at_ 0 3)).getD .b8)⟩
  | 0x198 =>
      some ⟨false, .amoSwap f.guard (toX (f.d)) (toX (f.a)) (toX (f.at_ 32 6)) (BitVec.ofNat 20 (f.at_ 12 20)) (MMod.ofCode (f.at_ 0 12)) ((MSize.ofCode (f.at_ 0 3)).getD .b8)⟩
  | _ => none

/-- The opcodes of format B (03 R92). -/
def candB (f : Full) : Option Cand :=
  match f.op with
  | 0x1C0 => some ⟨false, .br f.guard (BitVec.ofNat 24 (f.at_ 14 24))⟩
  | 0x1C1 => some ⟨false, .brd f.guard (BitVec.ofNat 24 (f.at_ 14 24)) (BitVec.ofNat 14 (f.at_ 0 14))⟩
  | 0x1C2 => some ⟨false, .jmp f.guard (toX (f.a)) (BitVec.ofNat 24 (f.at_ 14 24))⟩
  | 0x1C3 => some ⟨false, .call f.guard (toX (f.d)) (BitVec.ofNat 24 (f.at_ 14 24))⟩
  | 0x1C4 => some ⟨false, .ret f.guard (toX (f.a))⟩
  | 0x1C5 => some ⟨false, .jind f.guard (toX (f.a)) (BitVec.ofNat 14 (f.at_ 0 14))⟩
  | 0x1C6 => some ⟨false, .callind f.guard (toX (f.d)) (toX (f.a)) (BitVec.ofNat 14 (f.at_ 0 14))⟩
  | 0x1C7 => some ⟨false, .join⟩
  | _ => none

/-- The opcodes of format X (03 R93). -/
def candX (f : Full) : Option Cand :=
  match f.op with
  | 0x1E0 =>
      some ⟨false, .get f.guard (toX (f.d)) (toX (f.a)) (toX (f.at_ 32 6)) (toX (f.at_ 26 6)) (CopyMod.ofCode (f.at_ 0 10))⟩
  | 0x1E1 =>
      some ⟨false, .put f.guard (toX (f.d)) (toX (f.a)) (toX (f.at_ 32 6)) (toX (f.at_ 26 6)) (CopyMod.ofCode (f.at_ 0 10))⟩
  | 0x1E2 =>
      some ⟨false, .send f.guard (toX (f.d)) (toX (f.a)) (toX (f.at_ 32 6)) (toX (f.at_ 26 6)) (CopyMod.ofCode (f.at_ 0 10))⟩
  | 0x1E3 =>
      some ⟨false, .senda f.guard (toX (f.d)) (toX (f.a)) (toX (f.at_ 32 6)) (toX (f.at_ 26 6)) ((SendOp.ofCode (f.at_ 13 3)).getD .add) ((SendTy.ofCode (f.at_ 11 2)).getD .f32) (f.at_ 10 1 == 1) (CopyMod.ofCode (f.at_ 0 10))⟩
  | 0x1E4 =>
      some ⟨false, .sendv f.guard (toX (f.d)) (toX (f.a)) (toX (f.at_ 32 6)) (toX (f.at_ 26 6)) (CopyMod.ofCode (f.at_ 0 10))⟩
  | 0x1E5 => some (match f.at_ 0 1 with
    | 0 => ⟨false, .cwait f.guard (toX (f.a)) (toX (f.at_ 32 6))⟩
    | _ => ⟨false, .cwaitZero f.guard (toX (f.a))⟩)
  | 0x1E6 => some ⟨false, .ctest f.guard (toX (f.d)) (toX (f.a))⟩
  | 0x1E7 => some ⟨false, .fence f.guard ((Scope.ofCode (f.at_ 0 3)).getD .pl)⟩
  | 0x1E8 => some ⟨false, .exit f.guard (toX (f.a)) (toK (f.at_ 0 3)) (f.at_ 3 1 == 1)⟩
  | 0x1E9 => some ⟨false, .post f.guard (toX (f.d)) (toX (f.a)) (toX (f.at_ 32 6))⟩
  | 0x1EA =>
      some ⟨8 ≤ f.at_ 26 6 || (f.at_ 0 1 == 1 && (32 ≤ f.d || 32 ≤ f.a)), .exch f.guard (toX (f.d)) (toX (f.a)) (toX (f.at_ 32 6)) (toK (f.at_ 26 6)) (toX (f.at_ 20 6)) (f.at_ 0 1 == 1)⟩
  | 0x1EB => some ⟨false, .barx (toX (f.d)) (toX (f.a)) (toX (f.at_ 32 6)) ((Scope.ofCode (f.at_ 0 3)).getD .pl)⟩
  | 0x1EC => some ⟨false, .quiet (toX (f.d)) (toX (f.a)) (toX (f.at_ 32 6)) ((Scope.ofCode (f.at_ 0 3)).getD .pl)⟩
  | 0x1ED => some (match f.at_ 0 1 with
    | 0 => ⟨false, .ratt f.guard (toX (f.d)) (toX (f.a))⟩
    | _ => ⟨false, .rattDet f.guard (toX (f.d)) (toX (f.a))⟩)
  | 0x1EE => some ⟨false, .rinj f.guard (toX (f.d)) (toX (f.a)) (toX (f.at_ 32 6)) (toX (f.at_ 26 6))⟩
  | 0x1EF => some ⟨false, .rmap f.guard (toX (f.d)) (toX (f.a)) (toX (f.at_ 32 6))⟩
  | 0x1F0 => some ⟨32 ≤ f.a, .evsend f.guard (toX (f.d)) (toV (f.a))⟩
  | 0x1F1 =>
      some ⟨false, .evadv f.guard (toX (f.d)) (toX (f.a)) (toX (f.at_ 32 6)) ((Scope.ofCode (f.at_ 0 3)).getD .pl)⟩
  | 0x1F2 => some ⟨false, .iinv f.guard (toX (f.a)) (toX (f.at_ 32 6)) ((Scope.ofCode (f.at_ 0 3)).getD .pl)⟩
  | 0x1F3 => some ⟨false, .isync⟩
  | 0x1F4 => some ⟨false, .trap f.guard (BitVec.ofNat 16 (f.at_ 0 16))⟩
  | 0x1F5 => some ⟨false, .scall f.guard (BitVec.ofNat 16 (f.at_ 0 16))⟩
  | 0x1F6 => some ⟨false, .eret⟩
  | 0x1F7 => some ⟨false, .wfi f.guard (toX (f.d)) (toX (f.a))⟩
  | 0x1F8 => some ⟨16 ≤ f.at_ 0 6, .mfc f.guard (toX (f.d)) (toX (f.at_ 0 6))⟩
  | 0x1F9 => some ⟨16 ≤ f.at_ 0 6, .mtc f.guard (toX (f.a)) (toX (f.at_ 0 6))⟩
  | 0x1FA => some ⟨12 ≤ f.at_ 0 6, .rid f.guard (toX (f.d)) (toX (f.at_ 0 6))⟩
  | _ => none

/-- The opcode map (03 R88 to R93): none where the opcode is unassigned. -/
def cand (f : Full) : Option Cand :=
  if f.op < 0x40 then candA0 f else if f.op < 0x80 then candA1 f else if f.op < 0x100 then candA2 f
  else if f.op < 0x180 then candI f else if f.op < 0x1C0 then candM f else if f.op < 0x1E0 then candB f else candX f

/-- The instruction accounts for every bit of the word (03 R75). -/
def exact (i : Instr) (w : Word) : Bool := i.wf && encode i == some w

/-- A full word: the checks of 03 R85 in order. -/
def decodeFull (w : Word) : Except DecodeError Instr :=
  let f := Full.of w
  if 0xC0 ≤ f.op ∧ f.op < 0xE0 then .error .profileAbsent
  else match cand f with
    | none => .error .unassigned
    | some c =>
      if f.g = 8 then .error .badGuard
      else if c.bad then .error .badRegister
      else if exact c.i w then .ok c.i
      else .error .reservedField

/-- The fields of a slot (03 R81). -/
def slotOf (op : SOp) (n : Nat) : Slot :=
  { op := op, d := toX (fieldAt n 18 6), a := toX (fieldAt n 12 6),
    s := if fieldAt n 11 1 = 1 then .reg (toX (fieldAt n 0 6)) else .imm (BitVec.ofNat 11 (fieldAt n 0 11)) }

/-- The short opcode of a slot, assigned or of zw.wide (03 R94). -/
def shortWide (n : Nat) : Bool := 0x70 ≤ fieldAt n 24 7

/-- A dual word: each check over slot 0 and then slot 1 (03 R85). -/
def decodeDual (w : Word) : Except DecodeError Instr :=
  let n0 := fieldAt w.toNat 31 31
  let n1 := fieldAt w.toNat 0 31
  match SOp.ofCode (fieldAt n0 24 7), SOp.ofCode (fieldAt n1 24 7) with
  | some o0, some o1 =>
    let s0 := slotOf o0 n0
    let s1 := slotOf o1 n1
    if s0.badReg || s1.badReg then .error .badRegister
    else if !s0.fieldsOk || !s1.fieldsOk || dualBits s0 s1 != w then .error .reservedField
    else if !pairOk s0 s1 then .error .pairing
    else .ok (.dualWord s0 s1)
  | x, y =>
    if (x.isNone && !shortWide n0) || (y.isNone && !shortWide n1) then .error .unassigned else .error .profileAbsent

/-- The decoder (03 R70, R85). -/
def decode (w : Word) : Except DecodeError Instr :=
  match fieldAt w.toNat 62 2 with
  | 3 => .error .reservedClass
  | 2 => decodeDual w
  | _ => decodeFull w

/-- The instruction the decoder reads from a word given as a number; bits above nbits are zero. -/
def decodeTableWord (nbits w : Nat) : Option Instr :=
  match decode (BitVec.ofNat 64 (w % 2 ^ nbits)) with
  | .ok i => some i
  | .error _ => none

end Sys2Proof
end

