-- ==== Sys2Proof/Machine/Flags.lean ====
section
/-!
DEFINITION. The floating-point flags (01 R33, 02 R60) and the rounding modes (02 R53, R54).
-/

namespace Sys2Proof.Machine

/-- The six flags of FPFLAGS (01 R33). -/
structure Fl where
  nv : Bool
  dz : Bool
  ofl : Bool
  uf : Bool
  nx : Bool
  li : Bool
deriving DecidableEq, Repr

def Fl.none : Fl := ⟨false, false, false, false, false, false⟩
def Fl.invalid : Fl := ⟨true, false, false, false, false, false⟩
def Fl.divZero : Fl := ⟨false, true, false, false, false, false⟩
def Fl.log : Fl := ⟨false, false, false, false, false, true⟩
def Fl.inexact : Fl := ⟨false, false, false, false, true, false⟩
/-- The flags of an overflow of a floating destination (02 R56). -/
def Fl.overflow : Fl := ⟨false, false, true, false, true, false⟩

def Fl.or (a b : Fl) : Fl :=
  ⟨a.nv || b.nv, a.dz || b.dz, a.ofl || b.ofl, a.uf || b.uf, a.nx || b.nx, a.li || b.li⟩

def Fl.orAll (l : List Fl) : Fl := l.foldl Fl.or Fl.none

def Fl.nvIf (b : Bool) : Fl := ⟨b, false, false, false, false, false⟩
def Fl.liIf (b : Bool) : Fl := ⟨false, false, false, false, false, b⟩

/-- The flags as the low six bits of FPFLAGS: LI NX UF OF DZ NV, from bit 5 down (01 R33). -/
def Fl.toNat (f : Fl) : Nat :=
  f.nv.toNat + 2 * f.dz.toNat + 4 * f.ofl.toNat + 8 * f.uf.toNat + 16 * f.nx.toNat + 32 * f.li.toNat

/-- The flags that low bits of a FPFLAGS value name. -/
def Fl.ofNat (n : Nat) : Fl :=
  ⟨n.testBit 0, n.testBit 1, n.testBit 2, n.testBit 3, n.testBit 4, n.testBit 5⟩

/-- FPFLAGS after an instruction that set `f`: each flag is sticky (01 R33). -/
def Fl.sticky (f : Fl) (fpflags : Word) : Word := fpflags ||| BitVec.ofNat 64 f.toNat

/-- A rounding as it is carried out (02 R55). -/
inductive RMode where
  | rne | rtz | rup | rdn | rna | sr
deriving DecidableEq, Repr

/-- FPCTL.RM as a mode (01 R32). -/
def RMode.ofFpctl (n : Nat) : RMode :=
  match n % 8 with
  | 1 => .rtz | 2 => .rup | 3 => .rdn | 4 => .rna | _ => .rne

/-- The mode an instruction rounds by (02 R54): `narrow` says whether the result format is a floating
format 16 bits wide or narrower. -/
def resolveRm (rm : Rm) (fpctl : Word) (narrow : Bool) : RMode :=
  match rm with
  | .rne => .rne
  | .rtz => .rtz
  | .rup => .rup
  | .rdn => .rdn
  | .rna => .rna
  | .sr => .sr
  | .dyn => if narrow && fpctl.getLsbD 3 then .sr else RMode.ofFpctl fpctl.toNat

end Sys2Proof.Machine
end

