-- ==== Sys2Proof/Machine/State.lean ====
section
/-!
DEFINITION. The state of the machine as plain data: threads, groups, classes, contexts, memory, engines, and the units
of 12 to 20.  The fields the model adds for itself are `agenda`, `curG`, `curP`, `freeN` and `nextId` (logs 1, 3, 4).
-/

namespace Sys2Proof.Machine

/-- A cluster: die 0 to 7, cluster 0 to 15 (01 R16). -/
structure Site where
  die : Nat
  cluster : Nat
deriving DecidableEq, Repr

/-- The engine or thread an access is made for: context, privilege and the timestamp it starts from. -/
structure Actor where
  ctx : Nat
  privS : Bool
  pts : Nat
  site : Site
deriving DecidableEq, Repr

/-- A trap: cause, subcode, TVAL, and whether TEPC names the next word (10 R252). -/
structure TrapInfo where
  cause : Nat
  sub : Nat
  tval : Word
  next : Bool
deriving DecidableEq, Repr

/-- Why a watch fired (08 R216, R217). -/
inductive WatchCause where
  | store | lost
deriving DecidableEq, Repr

/-- The place of one 128-byte line: a physical line, or a line of a scratchpad of a class (08 R216). -/
inductive LineAt where
  | phys (line : Nat)
  | pad (cls member line : Nat)
deriving DecidableEq, Repr

/-- A lane's single watch (08 R216). -/
structure Watch where
  at_ : LineAt
  fired : Option WatchCause
deriving DecidableEq, Repr

/-- What a lane is registered on while its path waits (13 R327). -/
inductive WaitKind where
  /-- `arrived`: the lane's arrival has been made, by BSYNC. -/
  | bar (at_ : LineAt) (addr gen : Nat) (arrived : Bool)
  | barx (bid : Nat)
  | waitm
  | cwait (addr : Word) (mask : Word) (zero : Bool)
  | rwait (rid count : Nat)
  | quiet (job scope : Nat)
  | wfi
  | scall (code : Nat)
  /-- Acknowledgements of IINV and EVADV at .die or wider (13 R327), with the result that the word writes when they have come. -/
  | ack (result : Nat)
deriving DecidableEq, Repr

/-- The wait of one lane: its kind, destination register, the clk at which its timeout falls (none without
one), the clk at which it began and whether a pre-emption or a trap interrupted it. -/
structure Wait where
  kind : WaitKind
  d : XReg
  until_ : Option Nat
  since : Nat
  intr : Bool
deriving DecidableEq, Repr

/-- What a lane carries of the record or launch that started its group (05 R132, 12 R298, R300). -/
structure Origin where
  /-- 0 launch, 1 group task, 2 lane task, 3 migrated thread, 4 engine-fault task. -/
  kind : Nat
  job : Nat
  succ : Nat
  /-- The launch the thread belongs to, whose grid and counter it uses. -/
  launch : Nat
  /-- Counted as a message at its start (17 R397). -/
  counted : Bool
  /-- One more than the tag of the ring encounter this task was injected for (15 R356), 0 for none. -/
  tag : Nat
deriving DecidableEq, Repr

/-- One thread (01 R28, R31, R36). -/
structure Lane where
  x : Vector Word 64
  sx : Vector Word 4
  v : Vector (BitVec 128) 32
  k : Vector Bool 8
  m : Vector (Vector (BitVec 32) 64) 8
  fpctl : Word
  fpflags : Word
  pts : Nat
  tcause : BitVec 16
  tval : Word
  tepc : Word
  tlanes : BitVec 32
  srstate : Word
  kstack : Word
  idStage : Nat
  idClass : Nat
  idLogical : Nat
  orgRow : Nat
  orgCol : Nat
  extRows : Nat
  extCols : Nat
  jobSeed : Word
  privS : Bool
  exited : Bool
  /-- The lane's pipeline is split: REASON and OWED of 13 R320; 0 when not split. -/
  reason : Nat
  owed : Nat
  watch : Option Watch
  wait : Option Wait
  origin : Origin
  /-- The draw counter of an exited lane's slice (07 R180). -/
  drawCtr : Word
  /-- The cross-lane word that the lane has already reached, by a trap in it, with the path that it left, or with 0 when no lane of
  its path was active: the next execution of that word does not wait for the lane (06 R153, R154, log 86). -/
  crossAt : Option (Word × Nat)
  /-- The cross-lane word in which the lane trapped and which it executes alone when it returns (06 R164). -/
  crossOwed : Option Word
  /-- The largest timestamp of the writes of the lane's completed engine commands, which a FENCE orders (08 R215, 09 R239). -/
  cmdPts : Nat
  /-- An acquire access acts as if a FENCE at its SCOPE followed it: the lane issues nothing before that (08 R209). -/
  fenceOwed : Option Scope
deriving DecidableEq, Repr

/-- A lane waiting in an election of 05 R126, and the target it read at the first issue. -/
structure Elect where
  lane : Nat
  target : Word
deriving DecidableEq, Repr

/-- A path (13 R312): its lanes in ascending order, one PC, the pending joins that enclose it innermost first,
its quad set, whether it is a split pipeline's own path, its push number when stacked, the order in which it was
made live, the convergent word it has halted at, whether it waits in a word of 13 R327, the path
that must issue first (22 R461), the lanes of an election in progress, its fetch buffer (11 R283), the address of its
stack entry, the lane whose stack it is on and the lanes pushed in it (13 R316), the address a stacked path goes on at instead of
its entry's PC (10 R255), the clk from which the operands of its next word are there (12 R306, log 14) and whether a violation
froze it (10 R259). -/
structure Path where
  pid : Nat
  lanes : List Nat
  pc : Word
  joins : List Nat
  qset : Nat
  alone : Bool
  stacked : Option Nat
  pushedAt : Nat
  since : Nat
  halted : Option Instr
  waiting : Bool
  after : Option Nat
  election : List Elect
  fbuf : List (Nat × Word)
  /-- Lanes whose part of the word at `pc` is done while other lanes hold its issue (08 R226 to R228). -/
  part : List Nat
  slotAddr : Word
  slotLane : Nat
  pushed : List Nat
  redirect : Option Word
  readyAt : Nat
  frozen : Bool
  /-- The lane whose trap in the word at `pc` holds the path there (14 R336). -/
  awaits : Option Nat
deriving DecidableEq, Repr

/-- A quad set (13 R312) with the number of pushes since its stack was last empty (13 R316). -/
structure QSet where
  qid : Nat
  quads : List Nat
  pushes : Nat
deriving DecidableEq, Repr

/-- A pending join (05 R121): address and mask. -/
structure Join where
  jid : Nat
  addr : Word
  mask : List Nat
deriving DecidableEq, Repr

/-- An operand of an MMA as its format block gives it (02 R50, 07 R171). -/
structure MmaOperand where
  base : Nat
  rs : Nat
  cs : Nat
  fmt : Nat
  scaled : Bool
  blen : Bool
  sbase : Nat
  srow : Nat
  scol : Nat
deriving DecidableEq, Repr

/-- An MMA not yet complete (07 R172, R173): its destination, operands, k extent, the next row step, its place among
the MMAs that use the datapath, whether it still reads operands, and the flags raised so far. -/
structure Mma where
  d : Nat
  a : MmaOperand
  b : MmaOperand
  k : Nat
  step : Nat
  ord : Nat
  reading : Bool
  flags : Nat
deriving DecidableEq, Repr

/-- The hall pass of a group (07 R183, R184). -/
inductive Pass where
  | held | away | inFlight
deriving DecidableEq, Repr

/-- An exchange a group waits in (06 R160): the partner named, the lanes present, the registers. -/
structure Exch where
  partner : Word
  present : List Nat
  d : Fin 64
  a : Fin 64
  p : KReg
  s : XReg
  v : Bool
  since : Nat
deriving DecidableEq, Repr

/-- A group (01 R39, 12 R305, 13 R312). -/
structure Group where
  gid : Nat
  ctx : Nat
  cls : Nat
  site : Site
  pipes : List Nat
  slot : Nat
  /-- The class-relative index of lane 0 (08 R191). -/
  base : Nat
  /-- The address at which its launch or its record started it (11 R274). -/
  entry : Word
  idGroup : Nat
  lanes : List Lane
  paths : List Path
  qsets : List QSet
  joins : List Join
  /-- Stack entries live at a full split, whose VALID the next re-fuse clears: stack lane and address (13 R320). -/
  owedEntries : List (Nat × Word)
  dlim : Nat
  ovf : Bool
  mrp : BitVec 32
  priv : Bool
  pass : Pass
  mmas : List Mma
  /-- The largest timestamp of the writes of the group's completed drains (07 R186). -/
  acqPts : Nat
  exch : Option Exch
  /-- EXCL of the record that started the group (12 R303). -/
  excl : Bool
  /-- The group is placed and its boundary change is complete (13 R313). -/
  started : Bool
  placedAt : Nat
  /-- Its place in the order in which groups started (10 R268). -/
  startNo : Nat
  /-- Set while the group stands at a pre-emption boundary or is frozen (10 R259, R265). -/
  frozen : Bool
deriving DecidableEq, Repr

/-- The timestamps of one scratchpad line and its owner: the command whose commit is in progress on it (08 R203). -/
structure PadTs where
  line : Nat
  wts : Nat
  rts : Nat
  owner : Option Nat
deriving DecidableEq, Repr

/-- What a byte of a scratchpad held before another agent's last write to it, and that agent's group, pipeline and cluster
(09 R236). -/
structure OldByte where
  addr : Nat
  byte : BitVec 8
  site : Site
  pipe : Nat
  gid : Nat
deriving DecidableEq, Repr

/-- An incoming range at a destination pipeline (08 R227): the command and the bytes. -/
structure InRange where
  cid : Nat
  lo : Nat
  len : Nat
deriving DecidableEq, Repr

/-- The scratchpad of one member of a class (08 R194, R199): bytes that are not zero, in ascending
order, its line timestamps, incoming ranges and expected SENDA SEQ by source index; `prev` holds what a read of a command without
acquire may still return (09 R236). -/
structure Pad where
  pipe : Nat
  unit0 : Nat
  units : Nat
  bytes : List Host.Cell
  ts : List PadTs
  prev : List OldByte
  incoming : List InRange
  seqs : List (Nat × Nat)
deriving DecidableEq, Repr

/-- A task record and what the device keeps beside it (12 R298, R300, R205): the destination, the injection
timestamp, the identity of the poster, and its arrival number. -/
structure TaskRec where
  words : List Word
  ctx : Nat
  pts : Nat
  idStage : Nat
  idLogical : Nat
  /-- The class of a mailbox record: launch and linear index; none for the dispatch queue. -/
  mail : Option (Nat × Nat)
  fault : Bool
  tag : Nat
  site : Site
  seq : Nat
  /-- The group and lane whose FENCE waits for it (08 R215). -/
  issuer : Option (Nat × Nat)
  /-- The cluster that sends it (08 R201). -/
  src : Option Site
deriving DecidableEq, Repr

/-- A placed class (12 R292, R305). -/
structure Klass where
  kid : Nat
  ctx : Nat
  launch : Nat
  idClass : Nat
  stage : Nat
  linear : Nat
  site : Site
  pads : List Pad
  /-- A live class has a group placed; an ended one keeps its pads while they live (08 R199). -/
  live : Bool
  groupsLeft : Nat
  /-- Until its members start: the boundaries its placement sets (pipeline, boundary), the records it was started from, and
  whether it is being restored (08 R195, R196). -/
  moves : List (Nat × Nat)
  recs : List TaskRec
  fromSaved : Bool
deriving DecidableEq, Repr

/-- Which cache holds a copy (08 R197, 18 R415). -/
inductive Holder where
  | l1 (die cluster pipe : Nat)
  | station (die n : Nat)
deriving DecidableEq, Repr

/-- A copy of one line (08 R202): its tag, its physical line, the way, the timestamps, whether it is owned and
dirty, the last use, `old`, the bytes in which the copy still holds a value older than `hbm` does, and the clk from which its lease
runs (09 R235). -/
structure Copy where
  holder : Holder
  ctx : Nat
  /-- The virtual line of an L1 copy; level and index of a table line of a station. -/
  key : Nat
  level : Nat
  pline : Nat
  set : Nat
  way : Nat
  wts : Nat
  rts : Nat
  owned : Bool
  dirty : Bool
  used : Nat
  /-- The permissions of the page at the fill: R, W, X, U (log 8). -/
  perm : Nat
  old : List Host.Cell
  granted : Nat
deriving DecidableEq, Repr

/-- The L2 line at the home of a line: timestamps, whether HBM is behind it (08 R214), and `old` while an owner has not written
back (08 R202, 11 R283). -/
structure Home where
  pline : Nat
  wts : Nat
  rts : Nat
  dirty : Bool
  old : List Host.Cell
deriving DecidableEq, Repr

/-- A line of an instruction cache: sixteen words as they were when the line was read (11 R283). -/
structure ILine where
  die : Nat
  cluster : Nat
  pipe : Nat
  ctx : Nat
  vline : Nat
  pline : Nat
  words : List Word
  /-- Its poisoned granules (18 R421). -/
  bad : List Nat
deriving DecidableEq, Repr

/-- A poisoned granule and its bytes written since (18 R421, R422). -/
structure Poison where
  granule : Nat
  written : List Nat
deriving DecidableEq, Repr

/-- The boundary b of a local array when it is not 40, and lingering runs (08 R193, R194). -/
structure Array_ where
  die : Nat
  cluster : Nat
  pipe : Nat
  boundary : Nat
deriving DecidableEq, Repr

/-- The memory system. `hbm` holds the value of each physical byte that is latest in the global order; caches
record only where they are behind it. `fresh` lists the granules written to HBM since the scrub pass in progress began
(18 R423), `now` is the clk. -/
structure MemSys where
  hbm : List Host.Cell
  copies : List Copy
  homes : List Home
  icache : List ILine
  poison : List Poison
  arrays : List Array_
  useCtr : Nat
  fresh : List Nat
  now : Nat
deriving DecidableEq, Repr

/-- A place an access names once its address has been checked (08 R191, R192). -/
inductive Loc where
  | glob (va : Nat)
  | pad (kid member off : Nat)
deriving DecidableEq, Repr

/-- The five copy commands (08 R218). -/
inductive CopyKind where
  | get | put | send | senda | sendv
deriving DecidableEq, Repr

/-- A copy command (08 R218 to R228): issuer, operands, and how far it has come. -/
structure CopyCmd where
  cid : Nat
  kind : CopyKind
  ctx : Nat
  privS : Bool
  gid : Nat
  lane : Nat
  site : Site
  pipe : Nat
  cls : Nat
  member : Nat
  src : Loc
  dst : Loc
  /-- The virtual addresses as given, for fault records. -/
  srcVa : Nat
  dstVa : Nat
  len : Nat
  obj : Option Loc
  status : Option Loc
  version : Word
  op : SendOp
  et : SendTy
  ordered : Bool
  seq : Nat
  acq : Bool
  rel : Bool
  scope : Scope
  job : Nat
  pts : Nat
  /-- The destination range is recorded and acknowledged (08 R227). -/
  ranged : Bool
  /-- The source range has been read and released (08 R226). -/
  released : Bool
  /-- Chunks read, with their payload while it is in flight (SENDA, SENDV) and when it was sent, and chunks complete. -/
  readChunks : List Nat
  payload : List (Nat × List (BitVec 8))
  sent : List (Nat × Nat)
  done : List Nat
  /-- Held by the engine fault with this tag (10 R256), 0 when not held. -/
  held : Nat
deriving DecidableEq, Repr

/-- One element of a drain: where it goes, its bytes and whether it has been written (07 R180). -/
structure DrainElem where
  at_ : Loc
  va : Nat
  bytes : List (BitVec 8)
  written : Bool
deriving DecidableEq, Repr

/-- A drain (07 R180, R182). For MDRAINR: the wake record's words and where it is posted. -/
structure Drain where
  did : Nat
  gid : Nat
  ctx : Nat
  privS : Bool
  site : Site
  cls : Nat
  pts : Nat
  elems : List DrainElem
  remote : Bool
  wake : List Word
  wakeSite : Site
  job : Nat
  held : Nat
deriving DecidableEq, Repr

/-- A context's life-cycle state (10 R248). -/
inductive CtxState where
  | created | resident | running | preempting | saved | faulted | killed
deriving DecidableEq, Repr

/-- The descriptor of a context as the device holds it (10 R247). -/
structure Desc where
  exTimeout : Nat
  saveDl : Nat
  ptRoot : Nat
  shell : Nat
  shellSize : Nat
  husk : Nat
  huskSize : Nat
  efRing : Nat
  efCount : Nat
  efEntry : Nat
  sdata : Word
deriving DecidableEq, Repr

/-- What an engine fault record is about (10 R256, R257). -/
inductive EfRef where
  | copy (cid : Nat)
  | drain (did : Nat)
  | decrement (idx : Nat)
  | ring (rid : Nat)
  | event (die cluster bank : Nat)
  | transport (idx : Nat)
  | record (seq : Nat)
deriving DecidableEq, Repr

/-- An engine fault: number n, record fields, the held access, and whether the record has been written and
acknowledged (10 R256 to R258). -/
structure EngFault where
  n : Nat
  tag : Nat
  addr : Nat
  kind : Nat
  cause : Nat
  sub : Nat
  site : Nat
  ref : EfRef
  written : Bool
deriving DecidableEq, Repr

/-- A stage's routes (12 R294). -/
structure Route where
  next : Option Nat
  prev : Option Nat
deriving DecidableEq, Repr

/-- A launch in force (12 R290): from acceptance until its classes have ended and its job is closed. -/
structure Launch where
  lid : Nat
  ctx : Nat
  queue : Nat
  entry : Nat
  gsize : Nat
  stages : Nat
  scratch : Nat
  gpc : Nat
  job : Nat
  cx : Nat
  cy : Nat
  cz : Nat
  tscratch : Nat
  arg : Nat
  seed : Word
  part : List Nat
  trows : Nat
  tcols : Nat
  tiler : Nat
  tilec : Nat
  routes : List Route
  doneAddr : Nat
  pts : Nat
  /-- The largest timestamp of the threads that have ended. -/
  endPts : Nat
  /-- Accepted, but its job waits for one of the 64 of the package (17 R396). -/
  waiting : Bool
  unplaced : List Nat
  left : Nat
  /-- The timetable entry it was started from. -/
  tt : Option Nat
deriving DecidableEq, Repr

/-- A launch queue (12 R289). -/
structure LQueue where
  num : Nat
  prio : Nat
  base : Nat
  entries : Nat
  taken : Nat
  written : Nat
deriving DecidableEq, Repr

/-- A timetable entry in progress (12 R297): the next start's number, the running instance, a held one. -/
structure TtEntry where
  idx : Nat
  nextK : Nat
  running : Option Nat
  held : Bool
deriving DecidableEq, Repr

/-- A loaded kernel object (11 R274 to R280). -/
structure KObj where
  num : Nat
  /-- 0 loading, 1 loaded, 2 unloading (11 R274). -/
  st : Nat
  image : Nat
  codeBase : Nat
  codeSize : Nat
  gsize : Nat
  stages : Nat
  scratch : Nat
  trays : List (Nat × Nat × Nat × Nat)
  entryVas : List Nat
  sections : List (Nat × Nat)
  /-- The largest timestamp of the loader's writes, which later launches follow (11 R279). -/
  pts : Nat
deriving DecidableEq, Repr

/-- Where messages are counted (17 R397). -/
inductive Iface where
  | cni (die cluster : Nat)
  | ucie (die : Nat) (east : Bool)
  | port (n : Nat)
deriving DecidableEq, Repr

/-- The counts of one interface for one job, and the snapshot of the last pass (17 R397, R400). -/
structure JobCount where
  at_ : Iface
  inj : Nat
  cons : Nat
  snapInj : Nat
  snapCons : Nat
  active : Bool
deriving DecidableEq, Repr

/-- An open job of a context (17 R396, R403). -/
structure Job where
  ctx : Nat
  num : Nat
  opener : Nat
  counts : List JobCount
  loss : List (List Word)
  overflow : Nat
  repairs : Nat
  calls : Nat
  /-- The last roll call at .pkg declared the job quiet. -/
  quietPkg : Bool
  /-- The residency or the loss record changed since the last snapshot: every interface reports it as activity (17 R400). -/
  stirred : Bool
deriving DecidableEq, Repr

/-- An event in a bank's queue, in a spill slot or on its way (16 R375, R378): its bits, the context and job it counts
in, the arrival number, whether the frontier has passed it (R382) and its timestamp. -/
structure QEvent where
  bits : BitVec 128
  ctx : Nat
  arr : Nat
  passed : Bool
  pts : Nat
  issuer : Option (Nat × Nat)
  /-- The cluster that sends it (08 R201); none from another package. -/
  src : Option Site
deriving DecidableEq, Repr

/-- What a spill slot holds (12 R303, 16 R378). -/
inductive SpillItem where
  | rec_ (r : TaskRec)
  | ev (e : QEvent)
deriving DecidableEq, Repr

/-- An item held in a spill slot, with the arrival number of its sequence. -/
structure Spill where
  item : SpillItem
  ctx : Nat
  site : Site
  slot : Nat
  seq : Nat
deriving DecidableEq, Repr

/-- A tray (12 R304). -/
structure Tray where
  site : Site
  num : Nat
  ctx : Nat
  key : Nat
  size : Nat
  timer : Nat
  recs : List TaskRec
  deadline : Nat
  full : Bool
deriving DecidableEq, Repr

/-- A counter decrement owed by a CNI (05 R132, 12 R295). -/
structure Decrement where
  idx : Nat
  /-- A launch counter (12 R295) rather than a successor counter. -/
  launch : Bool
  ctx : Nat
  addr : Nat
  pts : Nat
  site : Nat
  held : Nat
deriving DecidableEq, Repr

/-- The completion of a chunk of a PUT whose counter keeps a place in the order below the chunk's data (09 R237): the counter, who
issued the command, its SCOPE, the timestamp of the data, which agents within SCOPE follow, and the clk of the completion. -/
structure Observed where
  ctx : Nat
  va : Nat
  site : Site
  pipe : Nat
  gid : Nat
  scope : Scope
  pts : Nat
  clk : Nat
deriving DecidableEq, Repr

/-- A record that a CNI has to write to its reject ring once it can read the count there (12 R302, 18 R422). -/
structure PendReject where
  ctx : Nat
  site : Site
  words : List Word
  reason : Nat
  seq : Nat
deriving DecidableEq, Repr

/-- The engines of the clusters and the queues of the front end. -/
structure Engines where
  copies : List CopyCmd
  drains : List Drain
  decrements : List Decrement
  /-- Records in flight to an inbox, records held at a die's front end, inbox entries, spilled records. -/
  flights : List TaskRec
  front : List TaskRec
  inbox : List TaskRec
  spill : List Spill
  trays : List Tray
  /-- Events in flight to their banks (16 R378). -/
  events : List QEvent
  /-- Clusters whose last placement was of a launch class: the records' turn is next (12 R305). -/
  turns : List Site
  /-- By priority, the context and queue from which the last launch was taken (12 R289). -/
  served : List (Nat × Nat × Nat)
  observed : List Observed
  rejects : List PendReject
deriving DecidableEq, Repr

/-- A notice of a wide barrier (14 R343, R345): the die it goes to, context, ID, sender's rank and package, the rank it is for,
epoch, the round, or none for a break notice, and the timestamp that the arrivals before it have (09 R242). -/
structure Notice where
  die : Nat
  ctx : Nat
  bid : Nat
  rank : Nat
  pkg : Nat
  dest : Nat
  epoch : Nat
  round : Option Nat
  pts : Nat
deriving DecidableEq, Repr

/-- A BARX instance at its home die, of this package or another (14 R342, R343): its partners are (RANK + 2^k) mod P by k, as
package and die; its group, 0 for a rank that runs in another package; the timestamp that what it waited for has. -/
structure BarxInst where
  pkg : Nat
  die : Nat
  ctx : Nat
  bid : Nat
  rank : Nat
  count : Nat
  epoch : Nat
  round : Nat
  partners : List (Nat × Nat)
  gid : Nat
  since : Nat
  pts : Nat
deriving DecidableEq, Repr

/-- The barrier engines: BARX instances, notices in flight and held, and epochs by context, ID and rank. -/
structure Barriers where
  insts : List BarxInst
  flying : List Notice
  held : List Notice
  epochs : List (Nat × Nat × Nat × Nat)
  /-- Barrier words with an arrival made by a lane: class, member, offset and the generation (14 R339). -/
  joined : List (Nat × Nat × Nat × Nat)
deriving DecidableEq, Repr

/-- A tile of a ring (15 R353) and where it is. -/
structure Tile where
  tid : Nat
  ccw : Bool
  num : Nat
  len : Nat
  homest : Nat
  lap : Nat
  pins : Nat
  home : Word
  doneBits : List Nat
  station : Nat
  slot : Nat
  /-- Resident; otherwise on its way into `slot` of `station` with `image`. -/
  resident : Bool
  image : List (BitVec 8)
  /-- The tile has left HOMEST since its injection (15 R356). -/
  left : Bool
  dwelling : Bool
  arrivedAt : Nat
  order : Nat
  /-- What the tile's bytes follow: its issuer's accesses and every earlier write of it (09 R236, R243). -/
  pts : Nat
  /-- The slot at which a suspended arrival step goes on (15 R356). -/
  pending : Option Nat
  /-- Miss entries of the lap limit until all are written: place in the list and CCW id (15 R359). -/
  missing : List (Nat × Nat)
  /-- How many of them have been written. -/
  missDone : Nat
  /-- The lane whose injection has not arrived yet. -/
  issuer : Option (Nat × Nat)
  held : Nat
deriving DecidableEq, Repr

/-- An encounter table entry (15 R356, R357): its tag, the two tiles, whether the images have been copied. -/
structure Encounter where
  entry : Nat
  station : Nat
  tag : Nat
  cw : Nat
  ccw : Nat
  copied : Bool
deriving DecidableEq, Repr

/-- A station of a ring (15 R351). -/
structure Station where
  kid : Nat
  site : Site
  pbase : Nat
  soff : Nat
deriving DecidableEq, Repr

/-- A ring (15 R351 to R361): state 1 attached, 2 charted, 3 abandoned; a detached ring is not listed. -/
structure Ring where
  ctx : Nat
  num : Nat
  st : Nat
  lslot : Nat
  laps : Nat
  gcode : Nat
  prio : Nat
  job : Nat
  task : Nat
  miss : Nat
  arg : Word
  mlist : Nat
  mcap : Nat
  stations : List Station
  chart : List Nat
  ncw : Nat
  nccw : Nat
  tiles : List Tile
  encs : List Encounter
  seenCw : List Nat
  seenCcw : List Nat
  injected : Nat
  retired : Nat
  encounters : Nat
  missed : Nat
  lost : Nat
  order : Nat
deriving DecidableEq, Repr

/-- A parameter set (16 R374). -/
structure PSet where
  leak : Nat
  refticks : Nat
  thresh : Nat
  reset : Nat
  action : Nat
  prio : Nat
  taddr : Nat
  arg : Word
deriving DecidableEq, Repr

/-- An accumulator (16 R373). -/
structure Acc where
  fires : Nat
  refr : Nat
  en : Bool
  pset : Nat
  last : Nat
  value : Nat
  /-- Its place in the global order: the largest timestamp of the accesses made to it (09 R243). -/
  ts : Nat
deriving DecidableEq, Repr

/-- A fire action in progress (16 R381): the fan-out list left to emit, or the record to post. -/
structure Emission where
  index : Nat
  tick : Nat
  value : Nat
  action : Nat
  taddr : Nat
  prio : Nat
  arg : Word
  /-- The list address and the entries left, once the directory has been read. -/
  list : Option (Nat × Nat)
  pts : Nat
  held : Nat
deriving DecidableEq, Repr

/-- A bound event bank (16 R372, R376): its home, the cluster that holds it, the accumulators that differ from the L
values of R373, the queue and the counters. -/
structure Bank where
  die : Nat
  cluster : Nat
  num : Nat
  site : Site
  ctx : Nat
  job : Nat
  frontier : Nat
  f0 : Nat
  accs : List (Nat × Acc)
  queue : List QEvent
  delivered : Nat
  fired : Nat
  late : Nat
  dropped : Nat
  reordered : Nat
  emit : Option Emission
deriving DecidableEq, Repr

/-- An event bank unit that a context holds, with the parameter sets that are not zero (16 R372). -/
structure EvUnit where
  site : Site
  ctx : Nat
  psets : List (Nat × PSet)
deriving DecidableEq, Repr

/-- A port (19 R427 to R431): its state, MODE, RATE, active data lanes, retired data lanes, whether the spare lane is retired, and
whether a retraining is held. -/
structure Port where
  num : Nat
  st : PortState
  mcl : Bool
  rate : Nat
  lanes : Nat
  dataBad : Nat
  spareBad : Bool
  pending : Bool
  retrains : Nat
  attempts : Nat
  /-- The clk at which it left the up and degraded states. -/
  outSince : Nat
  /-- Flits replayed since module reset (19 R433). -/
  retried : Nat
deriving DecidableEq, Repr

/-- The transport configuration of a context (19 R437 to R439, R444). -/
structure XCfg where
  ctx : Nat
  /-- Send rings: die, base, slots, head. -/
  rings : List (Nat × Nat × Nat × Nat)
  peerBase : Nat
  peerCount : Nat
  landBase : Nat
  landCount : Nat
  landKey : Nat
  /-- Congestion pages: die, base, UPDATES. -/
  pages : List (Nat × Nat × Nat)
deriving DecidableEq, Repr

/-- A message being sent (19 R439, R440, R443). -/
structure TxMsg where
  mid : Nat
  ctx : Nat
  die : Nat
  slotVa : Nat
  src : Nat
  off : Nat
  len : Nat
  peer : Nat
  landing : Nat
  ctag : Nat
  job : Nat
  port : Nat
  /-- The transport sequence number of the message on its die (17 R403). -/
  seq : Nat
  /-- The privilege, the timestamp and the cluster of the transport command, and ACQ (18 R412, R416, 19 R440). -/
  privS : Bool
  pts : Nat
  site : Site
  acq : Bool
  /-- Its peer entry has been read and the checks of 19 R440 have passed. -/
  ready : Bool
  /-- ADDR, FEP and RKEY of the peer (19 R437), which its packets carry. -/
  addr : Nat
  fep : Nat
  rkey : Nat
  acked : List Nat
  tries : List (Nat × Nat)
  retx : Nat
  progress : Nat
  refused : Bool
deriving DecidableEq, Repr

/-- A message being received (19 R441 to R443), known by its sender's key; `rest` holds what the engine still has to deposit of
packets met by an engine fault: packet, address and bytes. -/
structure RxMsg where
  key : Nat
  ctx : Nat
  die : Nat
  port : Nat
  landing : Nat
  off : Nat
  len : Nat
  ctag : Nat
  job : Nat
  base : Nat
  got : List Nat
  refused : Bool
  seen : Nat
  pts : Nat
  held : Nat
  rest : List (Nat × Nat × List (BitVec 8))
deriving DecidableEq, Repr

/-- A transport command not complete: the slot and the lane whose store of 1 to STATE it is (19 R439). -/
structure SendCmd where
  ctx : Nat
  va : Nat
  gid : Nat
  lane : Nat
  site : Site
  privS : Bool
  pts : Nat
deriving DecidableEq, Repr

/-- A packet that a transport engine has sent (19 R436, R437, R440): its message, its number there, the peer's ADDR, FEP and RKEY,
LANDING, OFFSET, LENGTH, CTAG and its bytes. -/
structure SentPacket where
  mid : Nat
  num : Nat
  addr : Nat
  fep : Nat
  rkey : Nat
  landing : Nat
  off : Nat
  len : Nat
  ctag : Nat
  bytes : List (BitVec 8)
deriving DecidableEq, Repr

/-- A write of STATE, and of RETX before it unless that has been made, that the transport engine still has to make (19 R440): `held`
by the engine fault that it met (10 R256). -/
structure SlotWrite where
  ctx : Nat
  die : Nat
  va : Nat
  st : Nat
  retx : Option Nat
  privS : Bool
  pts : Nat
  held : Nat
deriving DecidableEq, Repr

/-- A message sent over an MCL port and not acknowledged (19 R433, R435): what its loss entry shows. -/
structure MclMsg where
  key : Nat
  /-- The die that sent it. -/
  die : Nat
  port : Nat
  pkg : Nat
  ctx : Nat
  job : Nat
  len : Nat
deriving DecidableEq, Repr

/-- Measurements of a peer that the congestion page shows (19 R444). -/
structure PeerStat where
  ctx : Nat
  die : Nat
  peer : Nat
  marked : Nat
  rtt : Nat
  cwnd : Nat
deriving DecidableEq, Repr

/-- A command ring of a function, in host memory (19 R447): its base and entries there, and the head and tail counts. -/
structure CmdRing where
  num : Nat
  base : Nat
  entries : Nat
  head : Nat
  tail : Nat
deriving DecidableEq, Repr

/-- A function of the host link (19 R446, R447): window, quota and command rings. -/
structure Func where
  num : Nat
  base : Nat
  size : Nat
  quota : Nat
  rings : List CmdRing
deriving DecidableEq, Repr

/-- A command accepted whose status has not been written yet (19 R447): its function, ring and status address, the status
word when it is complete, and what it waits for: 0 the save, 1 the restore, 2 the discard of a context, 3 the checks
of an object. -/
structure PendCmd where
  fn : Nat
  ring : Nat
  stat : Nat
  done : Option Nat
  kind : Nat
  ctx : Nat
  obj : Nat
deriving DecidableEq, Repr

/-- Ports, transport and the host (19). -/
structure Link where
  ports : List Port
  domIndex : Nat
  routes : List (Nat × List Nat)
  /-- The port each domain index is reached by now. -/
  via : List (Nat × Nat)
  xcfg : List XCfg
  tx : List TxMsg
  rx : List RxMsg
  sends : List SendCmd
  peers : List PeerStat
  msgSeq : Nat
  /-- PTP: the source port, whether it has locked, the clk of the last message, and the disciplined rate in units of
  1 / 36,000,000 of the free-running one (100 ppm is 3,600). -/
  ptpPort : Option Nat
  ptpLocked : Bool
  ptpSeen : Nat
  ptpRate : Int
  /-- The part of a nanosecond PTPTIME has reached, in units of 1 / 129,600,000. -/
  ptpFrac : Nat
  funcs : List Func
  /-- Commands in order of acceptance whose status is owed. -/
  pend : List PendCmd
  /-- Status words written to the host by DMA: function, address, value; and what SPDM answered. -/
  dma : List (Nat × Nat × Nat)
  /-- Last acknowledgements returned to senders: message key, context, die, and whether the message is refused (19 R441, R442). -/
  replies : List (Nat × Nat × Nat × Bool)
  /-- Packets sent. -/
  sent : List SentPacket
  /-- Messages that have ended at the receiver: key, context, die. Packets of theirs that still come are discarded (17 R403,
  19 R436). -/
  ended : List (Nat × Nat × Nat)
  slotWrites : List SlotWrite
  mcl : List MclMsg
  /-- Answers to accesses of other packages of the domain (19 R434). -/
  answers : List (List Nat)
  spdm : List (List Nat)
  /-- Stalls of the controllers of a die: die and the clk at which they end (19 R431). -/
  stalls : List (Nat × Nat)
deriving DecidableEq, Repr

/-- The throttle state of a cluster (20 R453). -/
structure Throttle where
  site : Site
  step : Nat
  events : Nat
  temp : Nat
  cause : Nat
  since : Nat
deriving DecidableEq, Repr

/-- A unit under test (20 R454). -/
structure UnderTest where
  unit_ : PUnit_
  since : Nat
deriving DecidableEq, Repr

/-- The platform (20): power, throttling, failed and spared units, firmware, decode table, scrub. -/
structure Plat where
  dies : List Nat
  clusters : List Site
  hostUp : Bool
  ready : Bool
  throttle : List Throttle
  tests : List UnderTest
  /-- Units that have passed a test once since reset, and those retired. -/
  suspects : List PUnit_
  retired : List PUnit_
  /-- The last uncorrectable error of a unit and its clk (20 R454). -/
  ueAt : List (PUnit_ × Nat)
  /-- Spares in use. -/
  spared : List PUnit_
  fwVersion : Nat
  fwDigest : Nat
  fusedMin : Nat
  dtVersion : Nat
  dtDigest : Nat
  /-- Scrub: current and target key versions, period in hours, next granule by stack, the clk of the pass's start. -/
  keyCur : Nat
  keyOld : Option Nat
  scrubHours : Nat
  scrubNext : List (Nat × Nat)
  scrubStart : Nat
  /-- The platform log, newest first: a code of the event and its subject (20 R455). -/
  log : List (Nat × Nat)
  /-- The decode table under installation and the contexts pre-empted for it (11 R281). -/
  installing : Option (Nat × Nat × List Nat)
  /-- Contexts that the device pre-empted to free a unit under test and has still to restore (20 R454). -/
  displaced : List Nat
deriving DecidableEq, Repr

/-- What a saved context has left on the device's units (10 R267 to R271): its groups and classes, the records of its inboxes and
those its front ends hold, in arrival order, event banks and units, wide barriers, the hall passes of paired groups with their
partners and the flags of its clusters at the save; while it is restored, the clusters its classes have moved from and to. -/
structure Saved where
  groups : List Group
  classes : List Klass
  recs : List TaskRec
  front : List TaskRec
  banks : List Bank
  units : List EvUnit
  moved : List (Site × Site)
  insts : List BarxInst
  notices : List Notice
  epochs : List (Nat × Nat × Nat × Nat)
  passes : List (Nat × Nat × Pass)
  flags : Nat
deriving DecidableEq, Repr

/-- A context (10 R247, R248). -/
structure Ctx where
  num : Nat
  st : CtxState
  fn : Nat
  descAddr : Nat
  desc : Desc
  tvec : Word
  clflags : List (Site × Nat)
  efNext : Nat
  efs : List EngFault
  objs : List KObj
  queues : List LQueue
  launches : List Launch
  ttBase : Nat
  ttCount : Nat
  tt : List TtEntry
  /-- The clk a pre-emption or a violation was accepted, none when neither is in progress. -/
  stopAt : Option Nat
  boundary : Bool
  /-- The wait for the stalls that its save met when it began, and the clk at which they end (10 R265, 19 R431). -/
  saveWait : Nat
  stallEnd : Nat
  /-- A violation has frozen its master and the context has still to halt (10 R259). -/
  viol : Bool
  /-- Fault fields of the shell header (10 R267): cause, subcode, master, address, site. -/
  faultCause : Nat
  faultSub : Nat
  faultMaster : Nat
  faultAddr : Word
  faultSite : Nat
  saved : Option Saved
  /-- The domain context it is bound to (19 R434). -/
  domain : Option Nat
deriving DecidableEq, Repr

/-- Roll calls (17 R400, R401): the period in steps of 0.5 us, whether pass 1 is done, and the clk at which the last one began. -/
structure RollCall where
  period : Nat
  pass1 : Bool
  since : Nat
deriving DecidableEq, Repr

/-- One move of the machine (log 1): issue of a path, a prefetch into a path's fetch buffer, the clk until the operands of a
path's next word are there (log 14), or a step that is not a word; `dt` is the clk that pass before it. -/
inductive Move where
  | issue (gid pid : Nat)
  | prefetch (gid pid : Nat)
  | latency (gid pid n : Nat)
  | event (i : Instr) (pick : List Nat)
deriving DecidableEq, Repr

structure Sched where
  dt : Nat
  move : Move
deriving DecidableEq, Repr

/-- An issue (12 R306): the path with its quad set, the pipelines of its lanes, its quads when it is not a split pipeline's own path,
and the clk. -/
structure Turn where
  site : Site
  gid : Nat
  pid : Nat
  qset : Nat
  alone : Bool
  pipes : List Nat
  quads : List Nat
  clk : Nat
deriving DecidableEq, Repr

/-- The machine. -/
structure State where
  clk : Nat
  ptp : Nat
  /-- How often every PTS has ticked: once in 128 clk (09 R235). -/
  ticks : Nat
  agenda : List Sched
  curG : Nat
  curP : Nat
  /-- The operands of the step that is not a word: which objects move and what the device or the outside chooses
  (logs 1, 20). -/
  pick : List Nat
  freeN : Nat
  nextId : Nat
  /-- The last issues of each group, newest first. -/
  turns : List Turn
  ctxs : List Ctx
  classes : List Klass
  groups : List Group
  mem : MemSys
  eng : Engines
  jobs : List Job
  roll : RollCall
  bars : Barriers
  rings : List Ring
  banks : List Bank
  units : List EvUnit
  link : Link
  plat : Plat
deriving DecidableEq, Repr

/-! Reset (00 R11, 20 R452). Memory, L1s, stations and instruction caches list nothing; no context exists. -/

/-- A port at reset (19 R429): down, its five lanes good. -/
def Port.down (n : Nat) : Port :=
  { num := n, st := .down, mcl := false, rate := 0, lanes := 0, dataBad := 0, spareBad := false, pending := false, retrains := 0,
    attempts := 0, outSince := 0, retried := 0 }

def MemSys.empty : MemSys :=
  { hbm := [], copies := [], homes := [], icache := [], poison := [], arrays := [], useCtr := 0, fresh := [], now := 0 }

def Engines.empty : Engines :=
  { copies := [], drains := [], decrements := [], flights := [], front := [], inbox := [], spill := [], trays := [], events := [],
    turns := [], served := [], observed := [], rejects := [] }

/-- A command ring at reset, of 16 entries (log 109). -/
def CmdRing.initial (n : Nat) : CmdRing := ⟨n, 0, 16, 0, 0⟩

def Link.initial : Link :=
  { ports := (List.range 48).map Port.down, domIndex := 0, routes := [], via := [], xcfg := [], tx := [], rx := [], sends := [],
    peers := [], msgSeq := 0, ptpPort := none, ptpLocked := false, ptpSeen := 0, ptpRate := 0, ptpFrac := 0,
    funcs := (List.range 65).map (fun n => ⟨n, 0, 0, 0, (List.range 8).map CmdRing.initial⟩),
    pend := [], dma := [], replies := [], sent := [], ended := [], slotWrites := [], mcl := [], answers := [], spdm := [], stalls := [] }

def Plat.initial : Plat :=
  { dies := [], clusters := [], hostUp := false, ready := false, throttle := [], tests := [], suspects := [], retired := [],
    ueAt := [], spared := [], fwVersion := 0, fwDigest := 0, fusedMin := 0, dtVersion := 0, dtDigest := 0, keyCur := 0, keyOld := none,
    scrubHours := 24, scrubNext := [], scrubStart := 0, log := [], installing := none, displaced := [] }

/-- Nothing saved. -/
def Saved.none_ : Saved :=
  { groups := [], classes := [], recs := [], front := [], banks := [], units := [], moved := [], insts := [], notices := [], epochs := [],
    passes := [], flags := 0 }

/-- The machine at the release of reset: nothing is powered yet (20 R452), PTPTIME and CYCLE are 0 (01 R31, 19 R428), the
roll-call period is 2 us (17 R400) and the scrub period 24 hours (18 R423). -/
def State.reset : State :=
  { clk := 0, ptp := 0, ticks := 0, agenda := [], curG := 0, curP := 0, pick := [], freeN := 0, nextId := 1, turns := [], ctxs := [], classes := [],
    groups := [], mem := .empty, eng := .empty, jobs := [], roll := ⟨4, false, 0⟩, bars := ⟨[], [], [], [], []⟩, rings := [], banks := [],
    units := [], link := .initial, plat := .initial }

/-- What stops the machine. -/
inductive Fault where
  /-- An access by physical address beyond the memory of the package (18 R408: 768 GiB). Raised by the front end
  and the host's window. Safe. -/
  | noSuchMemory (pa : Nat)
deriving DecidableEq, Repr

/-- What the model has no meaning for. -/
inductive Refusal where
  /-- An instruction not modelled yet, by its mnemonic: raised by the dispatch alone. Safe. -/
  | notModelled (mnemonic : String)
deriving DecidableEq, Repr

end Sys2Proof.Machine
end

