-- ==== Sys2Proof/Machine/Access.lean ====
section
/-!
DEFINITION. Reading and updating the parts of the state: the one way registers are read and written (01 R28, R30,
10 R251), and lookup of groups, lanes, paths, classes and contexts by number.
-/

namespace Sys2Proof.Machine

open Sys2Proof

/-! Lists keyed by a number: an absent key reads as none and is not written (00 R8). -/

def updWhere {α : Type} (p : α → Bool) (f : α → α) (l : List α) : List α :=
  l.map (fun a => if p a then f a else a)

/-- Inserts by a key, after the elements of smaller or equal key. -/
def insertBy {α : Type} (key : α → Nat) (x : α) : List α → List α
  | [] => [x]
  | y :: r => if key x < key y then x :: y :: r else y :: insertBy key x r

/-- Sorts by a key, keeping the order of equal keys. -/
def sortBy {α : Type} (key : α → Nat) (l : List α) : List α := l.foldl (fun acc x => insertBy key x acc) []

def sortNat (l : List Nat) : List Nat := sortBy id l

/-! A thread's registers. -/

/-- The registers of a thread after reset (01 R28), with no identity. -/
def Lane.zero : Lane :=
  { x := Vector.replicate 64 0, sx := Vector.replicate 4 0, v := Vector.replicate 32 0,
    k := Vector.replicate 8 false, m := Vector.replicate 8 (Vector.replicate 64 0),
    fpctl := 0, fpflags := 0, pts := 0, tcause := 0, tval := 0, tepc := 0, tlanes := 0,
    srstate := 0, kstack := 0, idStage := 0, idClass := 0, idLogical := 0, orgRow := 0, orgCol := 0,
    extRows := 0, extCols := 0, jobSeed := 0, privS := false, exited := false, reason := 0, owed := 0,
    watch := none, wait := none,
    origin := { kind := 0, job := 0, succ := 0, launch := 0, counted := false, tag := 0 },
    drawCtr := 0, crossAt := none, crossOwed := none, cmdPts := 0, fenceOwed := none }

/-- x[r]: x0 reads zero, and at S the numbers 60 to 63 name the S copies (01 R28, 10 R251). -/
def Lane.rx (l : Lane) (r : XReg) : Word :=
  if r.val = 0 then 0
  else if h : l.privS ∧ 60 ≤ r.val then l.sx[r.val - 60]'(by omega)
  else l.x[r]

/-- Writes x[r]; a write of x0 is discarded (01 R30). -/
def Lane.wx (l : Lane) (r : XReg) (w : Word) : Lane :=
  if r.val = 0 then l
  else if h : l.privS ∧ 60 ≤ r.val then { l with sx := l.sx.set (r.val - 60) w (by omega) }
  else { l with x := l.x.set r w }

/-- The register after r, for the pairs of 07 R170 and 08 R218; r is even there. -/
def XReg.succ (r : XReg) : XReg := ⟨(r.val + 1) % 64, Nat.mod_lt _ (by decide)⟩

def Lane.rv (l : Lane) (r : VReg) : BitVec 128 := l.v[r]
def Lane.wv (l : Lane) (r : VReg) (w : BitVec 128) : Lane := { l with v := l.v.set r w }

/-- k[r]: k0 reads one (01 R28). -/
def Lane.rk (l : Lane) (r : KReg) : Bool := if r.val = 0 then true else l.k[r]
/-- Writes k[r]; a write of k0 is discarded (01 R30). -/
def Lane.wk (l : Lane) (r : KReg) (b : Bool) : Lane :=
  if r.val = 0 then l else { l with k := l.k.set r b }

/-- Element i of the lane's block of m[r] (07 R165): i = 8 u + v. -/
def Lane.rm (l : Lane) (r : Nat) (i : Nat) : BitVec 32 := (l.m.toList.getD r (Vector.replicate 64 0)).toList.getD i 0
def Lane.wm (l : Lane) (r : Nat) (i : Nat) (w : BitVec 32) : Lane :=
  if h : r < 8 ∧ i < 64 then { l with m := l.m.set r ((l.m[r]'(h.1)).set i w h.2) h.1 } else l

def Lane.setBlock (l : Lane) (r : Nat) (b : Vector (BitVec 32) 64) : Lane :=
  if h : r < 8 then { l with m := l.m.set r b h } else l

/-- x[d] of a lane whose d may name an x register (06 R155 with V clear). -/
def vOf (d : Fin 64) : VReg := ⟨d.val % 32, Nat.mod_lt _ (by decide)⟩
def kOf (d : Fin 64) : KReg := ⟨d.val % 8, Nat.mod_lt _ (by decide)⟩

/-- FPCTL after a write: RM 5, 6 and 7 leave RM unchanged (01 R32). -/
def fpctlWrite (old w : Word) : Word :=
  let rm := if w.toNat % 8 ≤ 4 then w.toNat % 8 else old.toNat % 8
  BitVec.ofNat 64 (8 * (w.toNat / 8 % 2) + rm)

/-- Flags are sticky in FPFLAGS (01 R33). -/
def Lane.setFlags (l : Lane) (f : Fl) : Lane := { l with fpflags := f.sticky l.fpflags }

/-- The guard of 03 R74 in one lane. -/
def guardHolds (g : Guard) (l : Lane) : Bool := (l.rk g.k) != g.neg

/-- Operand k of a step that is not a word (log 20). -/
def State.arg (s : State) (k : Nat) : Nat := s.pick.getD k 0

/-! Groups, paths, classes, contexts. -/

def State.group? (s : State) (gid : Nat) : Option Group := s.groups.find? (fun g => g.gid == gid)

def State.modGroup (s : State) (gid : Nat) (f : Group → Group) : State :=
  { s with groups := updWhere (fun g => g.gid == gid) f s.groups }

def Group.lane (g : Group) (l : Nat) : Lane := g.lanes.getD l Lane.zero

def Group.modLane (g : Group) (l : Nat) (f : Lane → Lane) : Group := { g with lanes := g.lanes.modify l f }

def State.lane (s : State) (gid l : Nat) : Lane :=
  match s.group? gid with
  | some g => g.lane l
  | none => Lane.zero

def State.modLane (s : State) (gid l : Nat) (f : Lane → Lane) : State :=
  s.modGroup gid (fun g => g.modLane l f)

def Group.path? (g : Group) (pid : Nat) : Option Path := g.paths.find? (fun p => p.pid == pid)

def Group.modPath (g : Group) (pid : Nat) (f : Path → Path) : Group :=
  { g with paths := updWhere (fun p => p.pid == pid) f g.paths }

def State.modPath (s : State) (gid pid : Nat) (f : Path → Path) : State :=
  s.modGroup gid (fun g => g.modPath pid f)

/-- The path that lane l is on. -/
def Group.pathOf? (g : Group) (l : Nat) : Option Path := g.paths.find? (fun p => p.lanes.contains l)

def State.ctx? (s : State) (c : Nat) : Option Ctx := s.ctxs.find? (fun x => x.num == c)

def State.modCtx (s : State) (c : Nat) (f : Ctx → Ctx) : State :=
  { s with ctxs := updWhere (fun x => x.num == c) f s.ctxs }

def State.klass? (s : State) (k : Nat) : Option Klass := s.classes.find? (fun x => x.kid == k)

def State.modKlass (s : State) (k : Nat) (f : Klass → Klass) : State :=
  { s with classes := updWhere (fun x => x.kid == k) f s.classes }

def State.pad? (s : State) (k m : Nat) : Option Pad :=
  match s.klass? k with
  | some c => c.pads[m]?
  | none => none

def State.modPad (s : State) (k m : Nat) (f : Pad → Pad) : State :=
  s.modKlass k (fun c => { c with pads := c.pads.modify m f })

/-- A fresh number (log 4). -/
def State.fresh (s : State) : Nat × State := (s.nextId, { s with nextId := s.nextId + 1 })

/-- A free value (log 3): a number nothing constrains, and the counter advanced. -/
def State.free (s : State) : Nat × State := (s.freeN, { s with freeN := s.freeN + 1 })

/-- IDGSIZE. -/
def Group.size (g : Group) : Nat := g.lanes.length

/-- The lanes that have not exited. -/
def Group.liveLanes (g : Group) : List Nat := (List.range g.size).filter (fun l => !(g.lane l).exited)

/-- The class-relative index of lane l (08 R191). -/
def Group.member (g : Group) (l : Nat) : Nat := g.base + l

/-- Quad j of the form holds lanes 4j to 4j+3; a group of one is its own quad 0. -/
def quadOf (l : Nat) : Nat := l / 4

def Group.pipeOf (g : Group) (l : Nat) : Nat := g.pipes.getD l 0

/-- IDSITE (01 R36). -/
def siteWord (site : Site) (pipe : Nat) : Nat := site.die % 8 + 8 * (site.cluster % 16) + 128 * (pipe % 128)

/-! The coherent domain (19 R429, R432). -/

/-- A port that carries traffic. -/
def Port.carries (p : Port) : Bool := p.st == .up || p.st == .degraded

def State.carries (s : State) (n : Nat) : Bool := s.link.ports.any (fun p => p.num == n && p.mcl && p.carries)

/-- The port a route prefers: the first of its list that is up or degraded (19 R432). -/
def State.routePort? (s : State) (pkg : Nat) : Option Nat :=
  (s.link.routes.find? (fun r => r.1 == pkg)).bind (fun r => r.2.find? s.carries)

/-- The MCL port a domain index is reached by: the one in use while it carries, else the one its route prefers (19 R432). -/
def State.mclPort? (s : State) (pkg : Nat) : Option Nat :=
  match ((s.link.via.find? (fun u => u.1 == pkg)).map (·.2)).filter s.carries with
  | some n => some n
  | none => s.routePort? pkg

/-- An MCL port is up (log 89). -/
def State.mclUp (s : State) : Bool := s.link.ports.any (fun p => p.mcl && p.carries)

/-- This package's index: 0 with no MCL port up (14 R342, 16 R375). -/
def State.pkgIndex (s : State) : Nat := if s.mclUp then s.link.domIndex else 0

/-- The package lies in the coherent domain; with no MCL port up, .sys is the same as .pkg (01 R38). -/
def State.inDomain (s : State) (pkg : Nat) : Bool :=
  pkg == s.pkgIndex || (s.mclUp && s.link.routes.any (fun r => r.1 == pkg))

/-- CLFLAGS of a context (01 R34). -/
def Ctx.clOf (c : Ctx) (site : Site) : Nat :=
  match c.clflags.find? (fun p => p.1 == site) with
  | some p => p.2
  | none => 0

def Ctx.setCl (c : Ctx) (site : Site) (n : Nat) : Ctx :=
  { c with clflags := (site, n) :: c.clflags.filter (fun p => p.1 != site) }

/-- ORs flags into CLFLAGS of a context's cluster; no flag leaves it as it is. -/
def State.orCl (s : State) (ctx : Nat) (site : Site) (f : Fl) : State :=
  if f.toNat = 0 then s
  else s.modCtx ctx (fun c => c.setCl site (Nat.lor (c.clOf site) f.toNat))

/-- Raises flags in a lane: FPFLAGS and CLFLAGS (01 R33, R34, 02 R60). -/
def State.raiseFlags (s : State) (gid l : Nat) (f : Fl) : State :=
  match s.group? gid with
  | some g => (s.modLane gid l (fun x => x.setFlags f)).orCl g.ctx g.site f
  | none => s

end Sys2Proof.Machine
end

