-- ==== Sys2Proof/Machine/Operands.lean ====
section
/-!
DEFINITION. The operand forms: effective addresses of format M (03 R78), targets and joins of format B (03 R79), slot
operands of dual words (03 R82), member masks (06 R152), and the fields of register operands that name a task, a copy
or a barrier.
-/

namespace Sys2Proof.Machine

open Sys2Proof

/-- x[a] + x[b] + sext(offset): the instructions that use b as index (03 R78). -/
def Lane.addrIndexed (l : Lane) (a b : XReg) (off : BitVec 20) : Word := l.rx a + l.rx b + off.signExtend 64

/-- x[a] + sext(offset): the instructions that use b as data (03 R78). -/
def Lane.addrData (l : Lane) (a : XReg) (off : BitVec 20) : Word := l.rx a + off.signExtend 64

/-- PC + 8 * sext(disp) (03 R79). -/
def branchTarget (pc : Word) (disp : BitVec 24) : Word := pc + 8 * disp.signExtend 64

/-- x[a] + 8 * sext(disp) (03 R79). -/
def Lane.jumpTarget (l : Lane) (a : XReg) (disp : BitVec 24) : Word := l.rx a + 8 * disp.signExtend 64

/-- PC + 8 * J, none when J is 0 (03 R79). -/
def joinTarget (pc : Word) (j : BitVec 14) : Option Word := if j = 0 then none else some (pc + 8 * j.zeroExtend 64)

/-- The second operand of a slot as an x value: sext of the immediate, or a register (03 R82). -/
def SOpnd.x (l : Lane) : SOpnd → Word
  | .imm v => v.signExtend 64
  | .reg r => l.rx r

/-- The second operand of a short shift: the immediate count or a register (03 R82). -/
def SOpnd.count (l : Lane) : SOpnd → Word
  | .imm v => BitVec.ofNat 64 (v.toNat % 64)
  | .reg r => l.rx r

/-- The second operand of a packed short instruction, always a register. -/
def SOpnd.v (l : Lane) : SOpnd → BitVec 128
  | .imm _ => 0
  | .reg r => l.rv (vOf r)

/-- Bits hi..lo of a register value. -/
def bitsAt (w : Word) (lo width : Nat) : Nat := fieldAt w.toNat lo width

/-- The member mask a lane names: every lane for c = 0, else x[c][31:0] (06 R152). -/
def Lane.memberMask (l : Lane) (size : Nat) (c : XReg) : Nat :=
  if c.val = 0 then 2 ^ size - 1 else (l.rx c).toNat % 2 ^ 32

/-- The fields of x[b] of a copy command: length, SEQ, reserved bits (08 R218). -/
def copyLen (w : Word) : Nat := bitsAt w 0 32
def copySeq (w : Word) : Nat := bitsAt w 32 16
def copyRsv (w : Word) : Nat := bitsAt w 48 16

/-- A destination descriptor CLS, STG, PIPE and its reserved bits (07 R181, 06 R159). -/
structure DestDesc where
  cls : Nat
  stg : Nat
  idx : Nat
  rsv : Nat
deriving DecidableEq, Repr

def destDesc (w : Word) : DestDesc := ⟨bitsAt w 0 48, bitsAt w 48 6, bitsAt w 54 7, bitsAt w 61 3⟩

/-- A barrier word (14 R330). -/
structure BarWord where
  expect : Nat
  arrived : Nat
  gen : Nat
  broken : Bool
  scope : Nat
  rsv : Nat
deriving DecidableEq, Repr

def barWord (v : Nat) : BarWord :=
  ⟨fieldAt v 0 16, fieldAt v 16 16, fieldAt v 32 16, fieldAt v 48 1 == 1, fieldAt v 49 3, fieldAt v 52 12⟩

def BarWord.bits (w : BarWord) : Nat :=
  w.expect + 2 ^ 16 * w.arrived + 2 ^ 32 * w.gen + 2 ^ 48 * w.broken.toNat + 2 ^ 49 * w.scope + 2 ^ 52 * w.rsv

/-- An invalid word (14 R331). -/
def BarWord.invalid (w : BarWord) : Bool :=
  w.expect == 0 || decide (w.expect ≤ w.arrived) || decide (6 ≤ w.scope) || w.rsv != 0

/-- A result word (14 R334). -/
def barResult (gen status : Nat) (last : Bool) : Word :=
  BitVec.ofNat 64 (gen % 2 ^ 16 + 2 ^ 16 * status + 2 ^ 20 * last.toNat)

/-- What a waiter on generation `g` is woken with by the word as it now is, none while it stays (14 R333). -/
def BarWord.wake (w : BarWord) (g : Nat) : Option Word :=
  if w.invalid then some (barResult w.gen 2 false)
  else if w.broken then some (barResult w.gen 1 false)
  else if w.gen ≠ g then some (barResult w.gen 0 false)
  else none

/-- A record's fields (12 R298). -/
structure RecFields where
  entry : Nat
  group : Bool
  prio : Nat
  gcode : Nat
  mig : Bool
  excl : Bool
  jobm : Nat
  succ : Nat
  job : Nat
  top : Nat
deriving DecidableEq, Repr

def recFields (ws : List Word) : RecFields :=
  let a := ws.getD 0 0
  let b := ws.getD 1 0
  { entry := bitsAt a 0 48, group := bitsAt a 48 1 == 1, prio := bitsAt a 49 2, gcode := bitsAt a 51 3,
    mig := bitsAt a 54 1 == 1, excl := bitsAt a 55 1 == 1, jobm := bitsAt a 56 8,
    succ := bitsAt b 0 48, job := bitsAt b 48 8, top := bitsAt b 56 8 }

/-- The job of a record: JOBM when MIG is set, else JOB. -/
def RecFields.theJob (r : RecFields) : Nat := if r.mig then r.jobm else r.job

/-- The group size of a GSIZE code (12 R298). -/
def sizeOfCode : Nat → Option Nat
  | 0 => some 1 | 1 => some 4 | 2 => some 8 | 3 => some 16 | 4 => some 32
  | _ => none

/-- The code of a group size: that of R298, and FSIZE of 13 R320. -/
def codeOfSize (n : Nat) : Nat := if n = 1 then 0 else if n = 4 then 1 else if n = 8 then 2 else if n = 16 then 3 else 4

/-- Payload word i of a record. -/
def payload (ws : List Word) (i : Nat) : Word := ws.getD (i + 2) 0

def setWord (ws : List Word) (i : Nat) (w : Word) : List Word := ws.set i w

end Sys2Proof.Machine
end

