-- ==== Sys2Proof/Config.lean ====
section
/-!
DEFINITION. What the spec leaves open, as constants without a body: nothing can evaluate them, so a
proof holds whatever they are. Each is named in a row of notes/assumptions.
-/

namespace Sys2Proof.Config

/-- Which of the results inside the bound of 06 R141 an approximation delivers, by instruction, type
and operand: one result for one operand. The list the choice indexes is computed in
Machine/Approx.lean. Free value, log 5. -/
opaque approxPick (op ty operand : Nat) : Nat

/-- A free value, by the counter `freeN` of the state: a number the spec gives no rule for (bytes
whose contents it does not give, an effect on a unit of another package). Free value, log 3. -/
opaque freeValue (counter : Nat) : Nat

/-- The check value of a shell (10 R267, R269), as a function of the covered bytes. Free value, log 6. -/
opaque shellCheck (bytes : List Nat) : Nat

/-- The signature and digest computations of 11 R276 and 20 R456, R457: the digest of a byte list.
Free value, log 7. -/
opaque digest (bytes : List Nat) : Nat

/-- The integrity tag of a granule (18 R420), as a function of the key version, the granule and its bytes: the cipher and its keys
are not in the spec. Free value, log 7. -/
opaque granuleTag (version granule : Nat) (bytes : List Nat) : Nat

/-- The generation for which a decode table, named by its version, is built (11 R282). Free value, log 6. -/
opaque generation : Nat → Nat

end Sys2Proof.Config
end

