-- ==== Sys2Proof/Machine/Num.lean ====
section
/-!
DEFINITION. The number formats, the one rounding of 02 R55 and R56, the stochastic generator and the
exact sums. A finite value is a sign, a natural mantissa and a power of two, so nothing is rounded
before the one rounding.
-/

namespace Sys2Proof.Machine

/-- A value in any format (02 R40, R42, R43): (-1)^neg * m * 2^e when finite. -/
inductive FV where
  | nan (signalling : Bool)
  | nal
  | inf (neg : Bool)
  | fin (neg : Bool) (m : Nat) (e : Int)
deriving DecidableEq, Repr

/-- A binary format: exponent and fraction widths and the bias (02 R40). -/
structure BFmt where
  expBits : Nat
  frac : Nat
  bias : Nat
deriving DecidableEq, Repr

def BFmt.of : Ty → BFmt
  | .f16 => ⟨5, 10, 15⟩
  | .bf16 => ⟨8, 7, 127⟩
  | .e4m3 => ⟨4, 3, 7⟩
  | .e5m2 => ⟨5, 2, 15⟩
  | _ => ⟨8, 23, 127⟩

/-- The code of the largest finite magnitude: E4M3 ends at 0x7E, the others one below infinity. -/
def BFmt.maxCode (f : BFmt) (t : Ty) : Nat :=
  if t = .e4m3 then 0x7E else (2 ^ f.expBits - 1) * 2 ^ f.frac - 1

/-- The exponent of the least significant bit of a subnormal. -/
def BFmt.lsb (f : BFmt) : Int := 1 - (f.bias : Int) - f.frac

/-- The table T of LOG6 (02 R44). -/
def logT (f : Nat) : Nat :=
  match f with
  | 0 => 0x800000
  | 1 => 0x9837F0
  | 2 => 0xB504F3
  | _ => 0xD744FD

/-- The default NaN of a format, or NaL (02 R57). -/
def defaultNaN : Ty → Nat
  | .f16 => 0x7E00
  | .bf16 => 0x7FC0
  | .e4m3 => 0x7F
  | .e5m2 => 0x7E
  | .lg6 => 0x20
  | _ => 0x7FC00000

def infCode (t : Ty) (neg : Bool) : Nat :=
  let f := BFmt.of t
  (2 ^ f.expBits - 1) * 2 ^ f.frac + (if neg then 2 ^ (t.bits - 1) else 0)

/-- The magnitude M of a LOG6 code in units of 2^-27 (02 R43, R45), 32 standing for 16. -/
def logMag (m : Nat) : Nat := if m = 0 then 0 else logT (m % 4) * 2 ^ (m / 4)

def intVal (t : Ty) (n : Nat) : Int :=
  if t.isSigned then sextInt t.bits n else (n % 2 ^ t.bits : Nat)

def FV.ofInt (z : Int) : FV := .fin (decide (z < 0)) z.natAbs 0

/-- val(e, T) (06 R136): the value an element stands for. -/
def val (t : Ty) (n : Nat) : FV :=
  if t.isInt then FV.ofInt (intVal t n)
  else if t = .lg6 then
    let m := n % 32
    let s := n / 32 % 2 == 1
    if m = 0 then (if s then .nal else .fin false 0 0)
    else .fin s (logT (m % 4)) ((m / 4 : Nat) - 27)
  else
    let f := BFmt.of t
    let neg := n / 2 ^ (t.bits - 1) % 2 == 1
    let ex := n / 2 ^ f.frac % 2 ^ f.expBits
    let fr := n % 2 ^ f.frac
    if t = .e4m3 && ex == 15 && fr == 7 then .nan false
    else if t != .e4m3 && ex == 2 ^ f.expBits - 1 then
      if fr = 0 then .inf neg
      else .nan (t != .e5m2 && decide (fr < 2 ^ (f.frac - 1)))
    else if ex = 0 then .fin neg fr f.lsb
    else .fin neg (fr + 2 ^ f.frac) (f.lsb + (ex - 1 : Nat))

/-- Whether the rounding of 02 R55 takes the upper neighbour b, for an exact value a + (b - a) * r / d
with 0 <= r < d. -/
def takesUpper (mode : RMode) (neg odd : Bool) (r d draw : Nat) : Bool :=
  if r = 0 then false
  else match mode with
  | .rne => decide (d < 2 * r) || (decide (2 * r = d) && odd)
  | .rna => decide (d ≤ 2 * r)
  | .rtz => false
  | .rup => !neg
  | .rdn => neg
  | .sr => decide (65536 ≤ r * 65536 / d + draw)

/-- m * 2^e in units of 2^u: the whole units, the rest and its denominator. -/
def inUnits (m : Nat) (e u : Int) : Nat × Nat × Nat :=
  if u ≤ e then (m * 2 ^ (e - u).toNat, 0, 1)
  else
    let d := 2 ^ (u - e).toNat
    (m / d, m % d, d)

/-- What an overflow delivers in a binary format (02 R56). -/
def overflowCode (t : Ty) (mode : RMode) (neg : Bool) : Nat :=
  let f := BFmt.of t
  let sign := if neg then 2 ^ (t.bits - 1) else 0
  let largest := f.maxCode t + sign
  if t = .e4m3 then largest
  else match mode with
  | .rtz => largest
  | .rup => if neg then largest else infCode t neg
  | .rdn => if neg then infCode t neg else largest
  | _ => infCode t neg

/-- Rounding with an unbounded exponent range stays below the smallest normal (02 R60 UF). -/
def tinyAfterRounding (f : BFmt) (mode : RMode) (draw : Nat) (neg : Bool) (m : Nat) (e : Int) : Bool :=
  let top : Int := (Nat.log2 m : Int) + e
  let emin : Int := 1 - (f.bias : Int)
  if emin ≤ top then false
  else if top + 1 < emin then true
  else
    let (k, r, d) := inUnits m e (top - f.frac)
    let k' := if takesUpper mode neg (k % 2 == 1) r d draw then k + 1 else k
    decide (k' < 2 ^ (f.frac + 1))

/-- Rounds the nonzero value (-1)^neg * m * 2^e to a binary format (02 R55, R56). -/
def roundBin (t : Ty) (mode : RMode) (draw : Nat) (neg : Bool) (m : Nat) (e : Int) : Nat × Fl :=
  let f := BFmt.of t
  let top : Int := (Nat.log2 m : Int) + e
  let u : Int := max (top - f.frac) f.lsb
  let (k, r, d) := inUnits m e u
  let k' := if takesUpper mode neg (k % 2 == 1) r d draw then k + 1 else k
  let code := (u - f.lsb).toNat * 2 ^ f.frac + k'
  if f.maxCode t < code then (overflowCode t mode neg, Fl.overflow)
  else
    let inexact := decide (r ≠ 0)
    (code + (if neg then 2 ^ (t.bits - 1) else 0),
      { Fl.none with nx := inexact, uf := inexact && tinyAfterRounding f mode draw neg m e })

/-- The largest M below `n` whose magnitude is at most x / d in units of 2^-27. -/
def logFloor (x d : Nat) : Nat → Nat
  | 0 => 0
  | n + 1 => if logMag (n + 1) * d ≤ x then n + 1 else logFloor x d n

/-- Rounds a nonzero value to LOG6 (02 R55, R56, R57). -/
def roundLog (mode : RMode) (draw : Nat) (neg : Bool) (m : Nat) (e : Int) : Nat × Fl :=
  let (x, d) := if -27 ≤ e then (m * 2 ^ (e + 27).toNat, 1) else (m, 2 ^ (-27 - e).toNat)
  let lo := logFloor x d 32
  let s := if neg then 0x20 else 0
  if lo = 32 then (0x1F + s, Fl.overflow)
  else
    let r := x - logMag lo * d
    let den := (logMag (lo + 1) - logMag lo) * d
    let k := if takesUpper mode neg (lo % 2 == 1) r den draw then lo + 1 else lo
    if k = 32 then (0x1F + s, Fl.overflow)
    else
      let inexact := decide (r ≠ 0)
      ((if k = 0 then 0 else k + s),
        { Fl.none with nx := inexact, uf := inexact && decide (x < logMag 1 * d) })

/-- The range of an integer type of width w (05 R111). -/
def tmin (w : Nat) (sgn : Bool) : Int := if sgn then -(2 ^ (w - 1) : Int) else 0
def tmax (w : Nat) (sgn : Bool) : Int := if sgn then (2 ^ (w - 1) : Int) - 1 else (2 ^ w : Int) - 1

def clampInt (w : Nat) (sgn : Bool) (z : Int) : Int := max (tmin w sgn) (min (tmax w sgn) z)

/-- The two's complement pattern of an integer in w bits. -/
def intBits (w : Nat) (z : Int) : Nat := (z % (2 ^ w : Int)).toNat

/-- Rounds a value to an integer type (02 R58). -/
def roundInt (t : Ty) (mode : RMode) (draw : Nat) (neg : Bool) (m : Nat) (e : Int) : Nat × Fl :=
  let (k, r, d) := inUnits m e 0
  let k' := if takesUpper mode neg (k % 2 == 1) r d draw then k + 1 else k
  let z : Int := if neg then -(k' : Int) else k'
  let c := clampInt t.bits t.isSigned z
  (intBits t.bits c, { Fl.none with nv := decide (c ≠ z), nx := decide (c = z) && decide (r ≠ 0) })

/-- A zero of a format (02 R55): LOG6 and the integers have one zero. -/
def zeroCode (t : Ty) (neg : Bool) : Nat :=
  if t.isInt || t = .lg6 then 0 else if neg then 2 ^ (t.bits - 1) else 0

/-- round_to(T, mode, v): one rounding of a value to any element type (02 R55 to R58). -/
def roundTo (t : Ty) (mode : RMode) (draw : Nat) (v : FV) : Nat × Fl :=
  match v with
  | .fin neg m e =>
    if m = 0 then (zeroCode t neg, Fl.none)
    else if t.isInt then roundInt t mode draw neg m e
    else if t = .lg6 then roundLog mode draw neg m e
    else roundBin t mode draw neg m e
  | .inf neg =>
    if t.isInt then
      (intBits t.bits (if neg then tmin t.bits t.isSigned else tmax t.bits t.isSigned), Fl.invalid)
    else if t = .lg6 then ((if neg then 0x3F else 0x1F), Fl.overflow)
    else if t = .e4m3 then ((if neg then 0xFE else 0x7E), Fl.overflow)
    else (infCode t neg, Fl.none)
  | .nan sig =>
    if t.isInt then (0, Fl.invalid)
    else (defaultNaN t, (Fl.nvIf sig).or (Fl.liIf (t = .lg6)))
  | .nal =>
    if t.isInt then (0, Fl.invalid.or Fl.log) else (defaultNaN t, Fl.log)

/-- convert(e, ST, T, mode): 02 R57 and R58. -/
def convert (st t : Ty) (mode : RMode) (draw n : Nat) : Nat × Fl := roundTo t mode draw (val st n)

def FV.isNaN : FV → Bool
  | .nan _ => true
  | _ => false

def FV.isSig : FV → Bool
  | .nan s => s
  | _ => false

def FV.neg : FV → FV
  | .inf n => .inf !n
  | .fin n m e => .fin (!n) m e
  | v => v

/-- The exact product, and whether the multiplication is invalid (02 R60, R67). -/
def FV.mul (x y : FV) : FV × Bool :=
  match x, y with
  | .nan s, .nan t => (.nan false, s || t)
  | .nan s, _ => (.nan false, s)
  | _, .nan t => (.nan false, t)
  | .nal, _ => (.fin false 0 0, false)
  | _, .nal => (.fin false 0 0, false)
  | .inf a, .inf b => (.inf (a != b), false)
  | .inf a, .fin b m _ => if m = 0 then (.nan false, true) else (.inf (a != b), false)
  | .fin a m _, .inf b => if m = 0 then (.nan false, true) else (.inf (a != b), false)
  | .fin a m e, .fin b n f => (.fin (a != b) (m * n) (e + f), false)

/-- The finite terms of a sum as one integer over 2^e. -/
def FV.minExp (l : List FV) : Int :=
  l.foldl (fun acc v => match v with
    | .fin _ m e => if m = 0 then acc else min acc e
    | _ => acc) 0

def FV.scaled (e : Int) : FV → Int
  | .fin neg m f =>
    if m = 0 then 0
    else
      let z : Int := (m : Int) * 2 ^ (f - e).toNat
      if neg then -z else z
  | _ => 0

/-- The sign of an exact zero sum (06 R138, the zero-sum rule). -/
def zeroSumNeg (rdn : Bool) (l : List FV) : Bool :=
  if l.all (fun v => match v with | .fin n m _ => n && m == 0 | _ => false) then true
  else if l.all (fun v => match v with | .fin n m _ => !n && m == 0 | _ => false) then false
  else rdn

/-- The exact sum of values, and whether it is invalid (02 R67, 06 R138, R147). NaL counts as NaN. -/
def FV.sum (rdn : Bool) (l : List FV) : FV × Bool :=
  if l.any (fun v => v.isNaN || v == .nal) then (.nan false, l.any FV.isSig)
  else
    let pos := l.any (fun v => v == .inf false)
    let negv := l.any (fun v => v == .inf true)
    if pos && negv then (.nan false, true)
    else if pos then (.inf false, false)
    else if negv then (.inf true, false)
    else
      let e := FV.minExp l
      let z := (l.map (FV.scaled e)).foldl (· + ·) 0
      if z = 0 then (.fin (zeroSumNeg rdn l) 0 0, false)
      else (.fin (decide (z < 0)) z.natAbs e, false)

/-- Rounds a sum that may be invalid. -/
def roundSum (t : Ty) (mode : RMode) (draw : Nat) (s : FV × Bool) : Nat × Fl :=
  let (c, f) := roundTo t mode draw s.1
  (c, f.or (Fl.nvIf s.2))

/-- The two LOG6 codes a product's value is formed from by adding codes (02 R46); LI when a factor is
NaL. -/
def logMul (x y : Nat) : FV × Bool :=
  let m1 := x % 32
  let m2 := y % 32
  let s1 := x / 32 % 2 == 1
  let s2 := y / 32 % 2 == 1
  if m1 = 0 || m2 = 0 then (.fin false 0 0, (s1 && m1 == 0) || (s2 && m2 == 0))
  else
    let s := m1 + m2
    let e : Int := ((s : Int) - 32) / 4
    (.fin (s1 != s2) (logT (s % 4)) (e - 23), false)

/-! The stochastic generator (02 R62). -/

def mixStep (z : Word) : Word :=
  let z1 := (z ^^^ (z >>> 31)) * 0xD6E8FEB86659FD93#64
  let z2 := (z1 ^^^ (z1 >>> 29)) * 0xA0A53B9E2C417E65#64
  z2 ^^^ (z2 >>> 32)

/-- SRSTATE at thread start. -/
def srSeed (jobSeed idLogical : Word) : Word :=
  mixStep (jobSeed + idLogical * 0x9E3779B97F4A7C15#64) &&& ~~~(3#64)

/-- One 16-bit draw from a generator in state `sr`. -/
def srDraw (sr jobSeed : Word) : Nat :=
  let w := mixStep ((sr >>> 2) * 0xB7E151628AED2A6B#64 + jobSeed)
  w.toNat / 2 ^ (16 * (sr.toNat % 4)) % 65536

/-- The i-th draw an instruction takes, and the state after it took n of them (02 R63). -/
def srDrawAt (sr jobSeed : Word) (i : Nat) : Nat := srDraw (sr + BitVec.ofNat 64 i) jobSeed

/-- SRSTATE after an instruction with n destination elements: advanced only under stochastic rounding. -/
def srAfter (mode : RMode) (sr : Word) (n : Nat) : Word :=
  if mode = .sr then sr + BitVec.ofNat 64 n else sr

/-! Block scales (02 R49): the value of a scale code is a power of two, 0xFF is NaN. -/

def FV.scale (v : FV) (k : Int) : FV :=
  match v with
  | .fin n m e => .fin n m (e + k)
  | v => v

end Sys2Proof.Machine
end

