-- ==== Sys2Proof/Machine/Alu.lean ====
section
/-!
DEFINITION. The integer computations of 05: operands and results of width w (R111), and the function
f of each instruction (R112 to R119).
-/

namespace Sys2Proof.Machine

/-- opnd(v, w, sgn) (05 R111). -/
def opnd (v : Word) (w : Nat) (sgn : Bool) : Int :=
  if sgn then sextInt w v.toNat else (v.toNat % 2 ^ w : Nat)

/-- store(res, w, sgn, sat) (05 R111). -/
def storeRes (res : Int) (w : Nat) (sgn sat : Bool) : Word :=
  let r := if sat then clampInt w sgn res else res
  let b := intBits w r
  if sgn then BitVec.ofInt 64 (sextInt w b) else BitVec.ofNat 64 b

/-- The low w bits of a register as a pattern. -/
def lowBits (v : Word) (w : Nat) : Nat := v.toNat % 2 ^ w

def aluAdd (a b : Word) (w : Nat) (u sat : Bool) : Word :=
  storeRes (opnd a w (!u) + opnd b w (!u)) w (!u) sat

def aluSub (a b : Word) (w : Nat) (u sat : Bool) : Word :=
  storeRes (opnd a w (!u) - opnd b w (!u)) w (!u) sat

def aluMull (a b : Word) (w : Nat) (u sat : Bool) : Word :=
  storeRes (opnd a w (!u) * opnd b w (!u)) w (!u) sat

/-- MULH and MULHN: floor(A * B / 2^w) (05 R112). -/
def aluMulh (a b : Word) (w : Nat) (sgn : Bool) : Word :=
  storeRes (opnd a w sgn * opnd b w sgn / 2 ^ w) w sgn false

/-- Quotient and remainder of 05 R113. -/
def divRem (a b : Int) (w : Nat) (sgn : Bool) : Int × Int :=
  if b = 0 then ((2 ^ w : Int) - 1, a)
  else if sgn && decide (a = -(2 ^ (w - 1) : Int)) && decide (b = -1) then (-(2 ^ (w - 1) : Int), 0)
  else (Int.tdiv a b, a - Int.tdiv a b * b)

def aluDiv (a b : Word) (w : Nat) (sgn : Bool) : Word :=
  storeRes (divRem (opnd a w sgn) (opnd b w sgn) w sgn).1 w sgn false

def aluRem (a b : Word) (w : Nat) (sgn : Bool) : Word :=
  storeRes (divRem (opnd a w sgn) (opnd b w sgn) w sgn).2 w sgn false

def aluShladd (a b : Word) (w : Nat) (u : Bool) (sh : Nat) : Word :=
  storeRes (opnd a w (!u) * 2 ^ sh + opnd b w (!u)) w (!u) false

/-- The logical operations act on the w-bit patterns and extend by U (05 R112). -/
def aluBits (f : Word → Word → Word) (a b : Word) (w : Nat) (u : Bool) : Word :=
  storeRes ((f a b).toNat : Int) w (!u) false

/-- The count of a shift: zext(x[b]) mod w (05 R112). -/
def shiftCount (b : Word) (w : Nat) : Nat := b.toNat % w

def aluShl (a : Word) (n w : Nat) (u : Bool) : Word :=
  storeRes (opnd a w (!u) * 2 ^ n) w (!u) false

/-- SHR and SAR: floor(A / 2^n). -/
def aluShr (a : Word) (n w : Nat) (sgn : Bool) : Word :=
  storeRes (opnd a w sgn / 2 ^ n) w sgn false

def rolBits (v n w : Nat) : Nat := (v * 2 ^ n % 2 ^ w) + v / 2 ^ (w - n)

def aluRol (a : Word) (n w : Nat) (u : Bool) : Word :=
  storeRes (rolBits (lowBits a w) n w : Int) w (!u) false

def aluRor (a : Word) (n w : Nat) (u : Bool) : Word :=
  storeRes (rolBits (lowBits a w) ((w - n) % w) w : Int) w (!u) false

def aluMin (a b : Word) (w : Nat) (sgn : Bool) : Word :=
  storeRes (min (opnd a w sgn) (opnd b w sgn)) w sgn false

def aluMax (a b : Word) (w : Nat) (sgn : Bool) : Word :=
  storeRes (max (opnd a w sgn) (opnd b w sgn)) w sgn false

def condEval (c : Cond) (a b : Int) : Bool :=
  match c with
  | .eq => decide (a = b)
  | .ne => decide (a ≠ b)
  | .lt => decide (a < b)
  | .le => decide (a ≤ b)
  | .gt => decide (b < a)
  | .ge => decide (b ≤ a)

/-- A cond B at width w (05 R116). -/
def aluCmp (c : Cond) (a b : Word) (w : Nat) (u : Bool) : Bool :=
  condEval c (opnd a w (!u)) (opnd b w (!u))

/-- Bits of a pattern, least significant first. -/
def bitsOf : Nat → Nat → List Bool
  | 0, _ => []
  | w + 1, n => (n % 2 == 1) :: bitsOf w (n / 2)

def ofBits : List Bool → Nat
  | [] => 0
  | b :: l => b.toNat + 2 * ofBits l

def popCount (w n : Nat) : Nat := ((bitsOf w n).filter id).length
def trailZeros (w n : Nat) : Nat := ((bitsOf w n).takeWhile (fun b => !b)).length
def leadZeros (w n : Nat) : Nat := ((bitsOf w n).reverse.takeWhile (fun b => !b)).length
def bitReverse (w n : Nat) : Nat := ofBits (bitsOf w n).reverse

/-- The bytes of a pattern, least significant first. -/
def bytesOf : Nat → Nat → List Nat
  | 0, _ => []
  | k + 1, n => n % 256 :: bytesOf k (n / 256)

def ofBytes : List Nat → Nat
  | [] => 0
  | b :: l => b + 256 * ofBytes l

def byteReverse (w n : Nat) : Nat := ofBytes (bytesOf (w / 8) n).reverse

def aluBrev (a : Word) (w : Nat) (u : Bool) : Word :=
  storeRes (bitReverse w (lowBits a w) : Int) w (!u) false

def aluBswap (a : Word) (w : Nat) (u : Bool) : Word :=
  storeRes (byteReverse w (lowBits a w) : Int) w (!u) false

/-- BFX (05 R119). -/
def aluBfx (a : Word) (pos len : Nat) (u : Bool) : Word :=
  storeRes (a.toNat / 2 ^ pos % 2 ^ len : Nat) len (!u) false

/-- BFI (05 R119). -/
def aluBfi (a b : Word) (pos len : Nat) : Word :=
  let mask : Word := BitVec.ofNat 64 ((2 ^ len - 1) * 2 ^ pos)
  (a &&& ~~~mask) ||| ((b <<< pos) &&& mask)

/-- EXT (05 R115). -/
def aluExt (a : Word) (w : Nat) (u : Bool) : Word := storeRes (opnd a w (!u)) w (!u) false

/-- MOVHI (05 R114). -/
def aluMovhi (old : Word) (imm : BitVec 32) : Word := imm ++ old.extractLsb' 0 32

end Sys2Proof.Machine
end

