-- ==== Sys2Proof/Machine/Mem.lean ====
section
/-!
DEFINITION. Memory: cells, the line copies of 08 R202 and 18 R416, translation (18 R408 to R413), scratchpads
(08 R191 to R203), and the loads, stores and atomics of one lane with their checks in the order of 08 R207.
-/

namespace Sys2Proof.Machine

open Sys2Proof

/-! Cells: addresses strictly rising. -/

/-- The byte at an address; an unlisted address reads 0 (log 2). -/
def cellAt : List Host.Cell → Nat → Byte
  | [], _ => 0
  | (c, x) :: r, a => if a = c then x else if a < c then 0 else cellAt r a

/-- Writes a byte and keeps the canonical form: a zero is not listed. -/
def cellPut : List Host.Cell → Nat → Byte → List Host.Cell
  | [], a, b => if b = 0 then [] else [(a, b)]
  | (c, x) :: r, a, b =>
    if a < c then (if b = 0 then (c, x) :: r else (a, b) :: (c, x) :: r)
    else if a = c then (if b = 0 then r else (a, b) :: r)
    else (c, x) :: cellPut r a b

/-- The canonical form: strictly rising, no zero listed. -/
def cellsWf : List Host.Cell → Bool
  | [] => true
  | [(_, x)] => x != 0
  | (c, x) :: (d, y) :: r => decide (c < d) && x != 0 && cellsWf ((d, y) :: r)

/-- The stale byte a copy keeps at an address. -/
def oldAt : List Host.Cell → Nat → Option Byte
  | [], _ => none
  | (c, x) :: r, a => if a = c then some x else oldAt r a

/-- Keeps a stale byte unless one is kept already. -/
def oldKeep (l : List Host.Cell) (a : Nat) (b : Byte) : List Host.Cell :=
  match oldAt l a with
  | some _ => l
  | none => (a, b) :: l

/-- A number as little-endian bytes (00 R3), and back. -/
def toBytes (n : Nat) : Nat → List Byte
  | v => (bytesOf n v).map (BitVec.ofNat 8)

def fromBytes (l : List Byte) : Nat := ofBytes (l.map BitVec.toNat)

def cellsRead (l : List Host.Cell) (a n : Nat) : List Byte := (List.range n).map (fun i => cellAt l (a + i))

def cellsWrite (l : List Host.Cell) (a : Nat) (bs : List Byte) : List Host.Cell :=
  (bs.zipIdx a).foldl (fun acc x => cellPut acc x.2 x.1) l

/-! Lines of physical memory. -/

def MemSys.byteAt (m : MemSys) (pa : Nat) : Byte := cellAt m.hbm pa

def Copy.byteAt (c : Copy) (m : MemSys) (pa : Nat) : Byte := (oldAt c.old pa).getD (m.byteAt pa)

def Copy.read (c : Copy) (m : MemSys) (pa n : Nat) : Nat :=
  fromBytes ((List.range n).map (fun i => c.byteAt m (pa + i)))

def MemSys.read (m : MemSys) (pa n : Nat) : Nat := fromBytes (cellsRead m.hbm pa n)

def MemSys.home (m : MemSys) (pline : Nat) : Home :=
  (m.homes.find? (fun h => h.pline == pline)).getD ⟨pline, 0, 0, false, []⟩

def MemSys.setHome (m : MemSys) (h : Home) : MemSys :=
  { m with homes := h :: m.homes.filter (fun x => x.pline != h.pline) }

/-- The granules of a line that goes to HBM are encrypted under the current version (18 R420). -/
def MemSys.toHbm (m : MemSys) (pline : Nat) : MemSys :=
  { m.setHome { m.home pline with dirty := false } with
    fresh := [2 * pline, 2 * pline + 1] ++ m.fresh.filter (fun g => g / 2 != pline) }

/-- What the home of a line holds: behind the latest value while an owner has not written back. -/
def MemSys.homeByte (m : MemSys) (pa : Nat) : Byte :=
  (oldAt (m.home (pa / 128)).old pa).getD (m.byteAt pa)

/-- Writes bytes to physical memory. `skip` names the copy that makes the write; every other copy keeps what it
held, and so does the home unless the write is made there. -/
def MemSys.write (m : MemSys) (skip : Copy → Bool) (atHome : Bool) (pa : Nat) (bs : List Byte) : MemSys :=
  (bs.zipIdx pa).foldl (fun m x =>
    let was := m.byteAt x.2
    let m := { m with
      hbm := cellPut m.hbm x.2 x.1,
      copies := updWhere (fun c => c.pline == x.2 / 128 && !skip c)
        (fun c => { c with old := oldKeep c.old x.2 was }) m.copies,
      poison := (m.poison.map (fun p =>
        if p.granule = x.2 / 64 && !p.written.contains x.2 then { p with written := x.2 :: p.written } else p)).filter
          (fun p => decide (p.written.length < 64)) }
    if atHome then m
    else
      let h := m.home (x.2 / 128)
      m.setHome { h with old := oldKeep h.old x.2 was }) m

def MemSys.poisoned (m : MemSys) (pa n : Nat) : Bool :=
  m.poison.any (fun p => decide (p.granule * 64 < pa + n) && decide (pa < p.granule * 64 + 64))

/-- Ownership of a line leaves every L1 (08 R202): the timestamps and data go home, copies stay under lease. -/
def MemSys.recall (m : MemSys) (pline : Nat) : MemSys :=
  let own := m.copies.filter (fun c => c.pline == pline && c.owned)
  if own.isEmpty then m
  else
    let h := m.home pline
    let w := own.foldl (fun a c => max a c.wts) h.wts
    let r := own.foldl (fun a c => max a c.rts) h.rts
    { (m.setHome { h with wts := w, rts := r, dirty := h.dirty || own.any (·.dirty), old := [] }) with
      copies := updWhere (fun c => c.pline == pline && c.owned)
        (fun c => { c with owned := false, dirty := false, granted := m.now }) m.copies }

/-- The lease runs on (09 R235): none is longer than 4,096 clk. -/
def Copy.lives (c : Copy) (now pts : Nat) : Bool := decide (pts ≤ c.rts) && decide (now ≤ c.granted + 4096)

/-- The lease of 08 R202: the home's rts is raised and returned with its wts. No notice lengthens it later (log 119). -/
def MemSys.lease (m : MemSys) (pline pts : Nat) : Home × MemSys :=
  let h := m.home pline
  let h := { h with rts := max h.rts (max h.wts pts + 32) }
  (h, m.setHome h)

/-! The boundary of a local array (08 R193): b ways are L1. -/

def MemSys.boundary (m : MemSys) (site : Site) (pipe : Nat) : Nat :=
  match m.arrays.find? (fun a => a.die == site.die && a.cluster == site.cluster && a.pipe == pipe) with
  | some a => a.boundary
  | none => 40

def MemSys.setBoundary (m : MemSys) (site : Site) (pipe b : Nat) : MemSys :=
  { m with arrays := ⟨site.die, site.cluster, pipe, b⟩ ::
      m.arrays.filter (fun a => !(a.die == site.die && a.cluster == site.cluster && a.pipe == pipe)) }

def MemSys.dropCopies (m : MemSys) (p : Copy → Bool) : MemSys :=
  { m with copies := m.copies.filter (fun d => !p d) }

def MemSys.modCopies (m : MemSys) (p : Copy → Bool) (f : Copy → Copy) : MemSys :=
  { m with copies := updWhere p f m.copies }

def Copy.sameTag (c d : Copy) : Bool :=
  d.holder == c.holder && d.ctx == c.ctx && d.key == c.key && d.level == c.level

/-- Removes a copy from its cache: an owned line goes home first (08 R197, R202). -/
def MemSys.evict (m : MemSys) (c : Copy) : MemSys :=
  let m1 := if c.owned then
      let h := m.home c.pline
      m.setHome { h with wts := max h.wts c.wts, rts := max h.rts c.rts, dirty := h.dirty || c.dirty, old := [] }
    else m
  m1.dropCopies c.sameTag

/-- The least recently used of some copies. -/
def lruOf : List Copy → Option Copy
  | [] => none
  | c :: r =>
    match lruOf r with
    | none => some c
    | some d => if c.used ≤ d.used then some c else some d

def firstFree (n : Nat) (used : List Nat) : Option Nat := (List.range n).find? (fun w => !used.contains w)

/-- Installs a line into an L1 set: the lowest empty way, else the least recently used line leaves (08 R197,
21 R459). -/
def MemSys.fill (m : MemSys) (ways : Nat) (c : Copy) : MemSys :=
  let m0 := m.dropCopies c.sameTag
  let same := m0.copies.filter (fun d => d.holder == c.holder && d.set == c.set && d.level == 0)
  match firstFree ways (same.map (·.way)) with
  | some w => { m0 with copies := { c with way := w, used := m0.useCtr } :: m0.copies, useCtr := m0.useCtr + 1 }
  | none =>
    match lruOf same with
    | none => m0
    | some v =>
      let m1 := m0.evict v
      { m1 with copies := { c with way := v.way, used := m1.useCtr } :: m1.copies, useCtr := m1.useCtr + 1 }

/-! Translation (18 R408 to R416). -/

/-- 768 GiB (18 R408). -/
def memLimit : Nat := 0xC000000000

def stationOf (va : Nat) : Nat := va / 2 ^ 28 % 4

/-- The span tag of a station's table line: upper entries are tags of their own (18 R415). -/
def Copy.tag (c : Copy) : Nat × Nat × Nat :=
  if c.level = 3 then (3, c.ctx, c.key / 8) else (1, c.ctx * 4 + c.level, c.key)

/-- Makes room in a station for a new tag: 768 span entries and 64 upper entries, the one whose lines' last use lies furthest back
leaves (18 R415). -/
def MemSys.roomInStation (m : MemSys) (c : Copy) : MemSys :=
  let mine := m.copies.filter (fun d => d.holder == c.holder && (d.level == 3) == (c.level == 3))
  let tags := (mine.map Copy.tag).dedup
  if tags.contains c.tag || decide (tags.length < (if c.level = 3 then 768 else 64)) then m
  else match lruOf (mine.filter (fun d => !mine.any (fun e => e.tag == d.tag && decide (d.used < e.used)))) with
    | none => m
    | some v => { m with copies := m.copies.filter (fun d => !(d.holder == v.holder && d.tag == v.tag)) }

/-- Reads one 8-byte table entry through a station (18 R416): a leased copy serves the request, otherwise the line is
read at its home and leased. Answers the value and the requester's PTS after it. -/
def MemSys.tableRead (m : MemSys) (die st ctx level key pa pts : Nat) : Nat × Nat × MemSys :=
  let hold : Holder := .station die st
  match m.copies.find? (fun c => c.holder == hold && c.ctx == ctx && c.level == level && c.key == key
      && c.pline == pa / 128 && c.lives m.now pts) with
  | some c =>
    (c.read m pa 8, max pts c.wts,
      { m.modCopies (fun d => d.holder == hold && d.ctx == ctx && d.level == level && d.key == key)
          (fun d => { d with used := m.useCtr }) with useCtr := m.useCtr + 1 })
  | none =>
    let m1 := m.recall (pa / 128)
    let (h, m2) := m1.lease (pa / 128) pts
    let c : Copy :=
      { holder := hold, ctx := ctx, key := key, level := level, pline := pa / 128, set := 0, way := 0,
        wts := h.wts, rts := h.rts, owned := false, dirty := false, used := m2.useCtr, perm := 0, old := [], granted := m.now }
    let m3 := m2.dropCopies c.sameTag
    let m4 := m3.roomInStation c
    (m4.read pa 8, max pts h.wts, { m4 with copies := c :: m4.copies, useCtr := m4.useCtr + 1 })

/-- A table entry is usable when V is set, no reserved bit is set and its address is within memory; the fields are
those of 18 R409, R410. -/
def entryUsable (e lo : Nat) : Bool :=
  e % 2 == 1 && e / 2 ^ 40 == 0 && decide (e / 2 ^ lo * 2 ^ lo < memLimit)

/-- The permission bits of a page: R 1, W 2, X 4, U 8. -/
def ptePerm (e : Nat) : Nat := e / 2 % 16

/-- What a walk finds: the page's address and permissions, or nothing usable. -/
structure Page where
  base : Nat
  perm : Nat
deriving DecidableEq, Repr

/-- A walk reads whole table lines: a poisoned one makes the entry unusable (18 R422). -/
def MemSys.badLine (m : MemSys) (pa : Nat) : Bool := memLimit ≤ pa || m.poisoned (pa / 128 * 128) 128

/-- The walk of 18 R411 for the page of `va`. -/
def MemSys.walk (m : MemSys) (ptRoot die ctx va pts : Nat) : Option Page × Nat × MemSys :=
  let st := stationOf va
  let rootPa := ptRoot + 8 * (va / 2 ^ 42 % 2 ^ 14)
  if m.badLine rootPa then (none, pts, m)
  else
    let (e1, p1, m1) := m.tableRead die st ctx 1 (va / 2 ^ 42 % 2 ^ 14) rootPa pts
    if !(entryUsable e1 17 && e1 / 2 % 2 ^ 16 == 0) then (none, p1, m1)
    else
      let l1Pa := e1 / 2 ^ 17 * 2 ^ 17 + 8 * (va / 2 ^ 28 % 2 ^ 14)
      if m1.badLine l1Pa then (none, p1, m1)
      else
        let (e2, p2, m2) := m1.tableRead die st ctx 2 (va / 2 ^ 28 % 2 ^ 28) l1Pa p1
        if !(entryUsable e2 10 && e2 / 2 % 2 ^ 9 == 0) then (none, p2, m2)
        else
          let ptePa := e2 / 2 ^ 10 * 2 ^ 10 + 8 * (va / 2 ^ 21 % 2 ^ 7)
          if m2.badLine ptePa then (none, p2, m2)
          else
            let (e3, p3, m3) := m2.tableRead die st ctx 3 (va / 2 ^ 25 % 2 ^ 31) ptePa p2
            if entryUsable e3 21 && e3 / 2 ^ 5 % 2 ^ 16 == 0 && ptePerm e3 % 8 != 0 then
              (some ⟨e3 / 2 ^ 21 * 2 ^ 21, ptePerm e3⟩, p3, m3)
            else (none, p3, m3)

/-- Whether permissions allow an access that needs the bits `need` at a privilege (18 R412). -/
def permits (perm need : Nat) (privS : Bool) : Bool :=
  Nat.land perm need == need && (privS || decide (8 ≤ perm))

def needR : Nat := 1
def needW : Nat := 2
def needX : Nat := 4
def needRW : Nat := 3

/-- The outcome of an access to global memory. -/
inductive MRes (α : Type) where
  | ok (a : α)
  | pageFault
  | protect
  | poisoned
deriving DecidableEq, Repr

/-- Where a physical address lies (08 R200): the stack of its 4 KiB unit, the die, and the slice of that die that is its L2
home. -/
def stackOfPa (pa : Nat) : Nat := pa / 2 ^ 12 % 16
def dieOfPa (pa : Nat) : Nat := stackOfPa pa / 2
def sliceOfPa (pa : Nat) : Nat := Nat.xor (pa / 2 ^ 7 % 16) (pa / 2 ^ 16 % 16)

/-- Translates an address for an access (18 R411 to R413). -/
def MemSys.translate (m : MemSys) (ptRoot die ctx : Nat) (privS : Bool) (va need pts : Nat) :
    MRes (Nat × Nat) × Nat × MemSys :=
  let (r, p, m1) := m.walk ptRoot die ctx va pts
  match r with
  | none => (.pageFault, p, m1)
  | some pg =>
    if permits pg.perm need privS then (.ok (pg.base + va % 2 ^ 21, pg.perm), p, m1) else (.protect, p, m1)

/-- Translates for an access that takes its place in the order only when it is performed, `place` of its translation's timestamp:
the table that governs it is the one at that place (18 R416, R419), so where that is past the translation the table is read
again there. -/
def MemSys.translateAt (tr : MemSys → Nat → MRes (Nat × Nat) × Nat × MemSys) (place : MemSys → Nat → Nat → Nat) :
    Nat → MemSys → Nat → MRes (Nat × Nat) × Nat × MemSys
  | 0, m, pts => tr m pts
  | fuel + 1, m, pts =>
    match tr m pts with
    | (.ok x, p, m1) =>
      let w := place m1 x.1 p
      match tr m1 w with
      | (.ok y, q, m2) => if x = y then (.ok x, p, m2) else if q ≤ w then (.ok y, q, m2) else translateAt tr place fuel m2 q
      | r => r
    | r => r

/-- The place of a write at the home of a line (08 R202). -/
def MemSys.writePlace (m : MemSys) (pa p : Nat) : Nat := max p (((m.recall (pa / 128)).home (pa / 128)).rts + 1)

/-- The place of an atomic at the home of a line: above the write that it reads. -/
def MemSys.atomicPlace (m : MemSys) (pa p : Nat) : Nat := m.writePlace pa (max p ((m.recall (pa / 128)).home (pa / 128)).wts + 1)

/-- What an L1 access needs to know of its requester. -/
structure Req where
  die : Nat
  cluster : Nat
  pipe : Nat
  set : Nat
  ways : Nat
  ctx : Nat
  privS : Bool
  ptRoot : Nat
  pts : Nat
deriving DecidableEq, Repr

def Req.holder (r : Req) : Holder := .l1 r.die r.cluster r.pipe

def Req.isMine (r : Req) (va : Nat) (c : Copy) : Bool :=
  c.holder == r.holder && c.ctx == r.ctx && c.level == 0 && c.key == va / 128

def MemSys.touch (m : MemSys) (p : Copy → Bool) : MemSys :=
  { m.modCopies p (fun c => { c with used := m.useCtr }) with useCtr := m.useCtr + 1 }

/-- The copy a requester's L1 holds of a line. -/
def MemSys.l1Copy (m : MemSys) (r : Req) (va : Nat) : Option Copy := m.copies.find? (r.isMine va)

/-- Fills a line into the requester's L1 under lease (08 R202). -/
def MemSys.l1Fill (m : MemSys) (r : Req) (va pa perm : Nat) : MemSys × Nat :=
  let wasOwned := m.copies.any (fun c => r.isMine va c && c.owned)
  let was := m.l1Copy r va
  let m1 := if wasOwned then m else m.recall (pa / 128)
  let (h, m2) := m1.lease (pa / 128) r.pts
  let w := match was with
    | some c => if wasOwned then max c.wts h.wts else h.wts
    | none => h.wts
  let c : Copy :=
    { holder := r.holder, ctx := r.ctx, key := va / 128, level := 0, pline := pa / 128, set := r.set,
      way := 0, wts := w, rts := max w h.rts, owned := wasOwned,
      dirty := match was with | some c => wasOwned && c.dirty | none => false,
      used := m2.useCtr, perm := perm, old := [], granted := m.now }
  let m3 := if wasOwned then
      { m2.modCopies (r.isMine va)
          (fun d => { d with wts := c.wts, rts := c.rts, perm := perm, used := m2.useCtr, granted := m.now }) with
        useCtr := m2.useCtr + 1 }
    else m2.fill r.ways c
  (m3, w)

/-- A load through a copy that is filled or renewed for it. -/
def MemSys.l1Renew (m : MemSys) (r : Req) (va n pa perm : Nat) : MRes Nat × Nat × MemSys :=
  if m.poisoned pa n then (.poisoned, r.pts, m)
  else
    let (m2, w) := m.l1Fill r va pa perm
    (.ok (m2.read pa n), max r.pts w, m2)

/-- Loads n bytes of one line (08 R202, 18 R418): a copy whose page allowed the access serves it untranslated, under its lease or
while it is owned.
Answers the value, the PTS after it and the memory. -/
def MemSys.l1Load (m : MemSys) (r : Req) (va n : Nat) : MRes Nat × Nat × MemSys :=
  match m.copies.find? (fun c => r.isMine va c && c.lives m.now r.pts && permits c.perm needR r.privS) with
  | some c =>
    let pa := c.pline * 128 + va % 128
    if m.poisoned pa n then (.poisoned, r.pts, m)
    else (.ok (c.read m pa n), max r.pts c.wts, m.touch (r.isMine va))
  | none => match m.copies.find? (fun c => r.isMine va c && c.owned && permits c.perm needR r.privS) with
  | some c => m.l1Renew r va n (c.pline * 128 + va % 128) c.perm
  | none =>
    let (t, p, m1) := m.translate r.ptRoot r.die r.ctx r.privS va needR r.pts
    match t with
    | .ok (pa, perm) => m1.l1Renew { r with pts := p } va n pa perm
    | .pageFault => (.pageFault, p, m1)
    | .protect => (.protect, p, m1)
    | .poisoned => (.poisoned, p, m1)

/-- Gains ownership of a line for a store or a near atomic; answers the line's address (08 R202, R213). -/
def MemSys.l1Own (m : MemSys) (r : Req) (va need : Nat) : MRes Nat × Nat × MemSys :=
  match m.copies.find? (fun c => r.isMine va c && c.owned && permits c.perm need r.privS) with
  | some c => (.ok (c.pline * 128 + va % 128), r.pts, m.touch (r.isMine va))
  | none =>
    let (t, p, m1) := MemSys.translateAt (fun m q => m.translate r.ptRoot r.die r.ctx r.privS va need q) MemSys.writePlace 3 m r.pts
    match t with
    | .ok (pa, perm) =>
      let m2 := m1.recall (pa / 128)
      let h := m2.home (pa / 128)
      let c : Copy :=
        { holder := r.holder, ctx := r.ctx, key := va / 128, level := 0, pline := pa / 128, set := r.set, way := 0,
          wts := h.wts, rts := h.rts, owned := true, dirty := false, used := m2.useCtr, perm := perm, old := [], granted := m.now }
      (.ok pa, p, m2.fill r.ways c)
    | .pageFault => (.pageFault, p, m1)
    | .protect => (.protect, p, m1)
    | .poisoned => (.poisoned, p, m1)

/-- Writes bytes into an owned line of the requester's L1; answers the store's timestamp. -/
def MemSys.l1Write (m : MemSys) (r : Req) (va pa pts : Nat) (bs : List Byte) : Nat × MemSys :=
  let rts := match m.l1Copy r va with | some c => c.rts | none => 0
  let w := max pts (rts + 1)
  let m1 := m.write (r.isMine va) false pa bs
  (w, m1.modCopies (r.isMine va) (fun c => { c with wts := w, rts := w, dirty := true, old := [] }))

/-- Writes at the home of a line, above every lease (08 R202, R203, R213); answers the timestamp. -/
def MemSys.homeWrite (m : MemSys) (pa pts : Nat) (bs : List Byte) : Nat × MemSys :=
  let m1 := m.recall (pa / 128)
  let h := m1.home (pa / 128)
  let w := max pts (h.rts + 1)
  let m2 := m1.setHome { h with wts := w, rts := w, dirty := true, old := [] }
  (w, m2.write (fun _ => false) true pa bs)

/-- Reads at the home of a line after recalling an owner; a later store takes a timestamp above the read. -/
def MemSys.homeRead (m : MemSys) (pa n pts : Nat) : Nat × MemSys :=
  let m1 := m.recall (pa / 128)
  let h := m1.home (pa / 128)
  let m2 := m1.setHome { h with rts := max h.rts (max h.wts pts) }
  (m2.read pa n, m2)

/-! Scratchpads (08 R192, R199, R203). -/

def Pad.size (p : Pad) : Nat := p.units * 8192

def Pad.tsOf (p : Pad) (line : Nat) : PadTs :=
  (p.ts.find? (fun t => t.line == line)).getD ⟨line, 0, 0, none⟩

def Pad.setTs (p : Pad) (t : PadTs) : Pad := { p with ts := t :: p.ts.filter (fun u => u.line != t.line) }

def Pad.read (p : Pad) (off n : Nat) : Nat := fromBytes (cellsRead p.bytes off n)

/-- A load at the bank: PTS and the line's rts advance. -/
def Pad.load (p : Pad) (off n pts : Nat) : Nat × Nat × Pad :=
  let t := p.tsOf (off / 128)
  let p' := max pts t.wts
  (p.read off n, p', p.setTs { t with rts := max t.rts p' })

/-- Who writes a scratchpad: none is the scratchpad's own lane, else cluster, pipeline and group. -/
abbrev Writer := Option (Site × Nat × Nat)

/-- What bytes held before a store by an agent other than the scratchpad's own lane (09 R236). -/
def Pad.keepPrev (p : Pad) (by_ : Writer) (off n : Nat) : List OldByte :=
  let rest := p.prev.filter (fun c => decide (c.addr < off) || decide (off + n ≤ c.addr))
  match by_ with
  | none => rest
  | some w => (List.range n).map (fun i => ⟨off + i, cellAt p.bytes (off + i), w.1, w.2.1, w.2.2⟩) ++ rest

/-- A store at the bank. -/
def Pad.store (p : Pad) (by_ : Writer) (off pts : Nat) (bs : List Byte) : Nat × Pad :=
  let t := p.tsOf (off / 128)
  let w := max pts (t.rts + 1)
  (w, { p.setTs { t with wts := w, rts := w } with
    bytes := cellsWrite p.bytes off bs, prev := p.keepPrev by_ off bs.length })

/-! Accesses of a lane. -/

/-- Agents of two places, given as cluster, pipeline and group, are within a scope of each other (08 R209). -/
def scopeJoins (sc : Scope) (a : Site) (p g : Nat) (b : Site) (q h : Nat) : Bool :=
  match sc with
  | .pl => a == b && p == q
  | .form => g == h
  | .cl => a == b
  | .die => a.die == b.die
  | .pkg | .sys => true

/-- The outcome of a lane's access: a value and the state, a trap, a trap met by a walk with the state after its table reads, an
uncorrectable error, or a hold of issue. -/
inductive LRes (α : Type) where
  | ok (a : α) (s : State)
  | trap (t : TrapInfo)
  | trapIn (t : TrapInfo) (s : State)
  | ue (addr : Word)
  | hold

/-- The address's space and bounds, then alignment (08 R191, R192, R207): the first three checks. -/
def resolve (s : State) (g : Group) (l : Nat) (addr : Word) (n align : Nat) : Except TrapInfo Loc :=
  let a := addr.toNat
  let space := a / 2 ^ 56
  let own := g.member l
  let aligned (x : Loc) : Except TrapInfo Loc :=
    if a % align = 0 then .ok x else .error ⟨2, 0, addr, false⟩
  let inPad (m off : Nat) : Except TrapInfo Loc :=
    match s.pad? g.cls m with
    | none => .error ⟨5, 0, addr, false⟩
    | some p => if off + n ≤ p.size then aligned (.pad g.cls m off) else .error ⟨4, 2, addr, false⟩
  if space = 0 then aligned (.glob (a % 2 ^ 56))
  else if space = 0xFC then inPad own (a % 2 ^ 56)
  else if space = 0xFD then inPad (a / 2 ^ 48 % 256) (a % 2 ^ 48)
  else .error ⟨4, 1, addr, false⟩

/-- Lanes of one word act in ascending order (09 R233): with an L1 to each lane, a lane sees no older version of a line than the lower
lanes of its path hold and may have seen (log 94). -/
def State.seenBelow (s : State) (g : Group) (l va : Nat) : Nat :=
  if !g.priv then 0
  else
    let lower := ((g.pathOf? l).elim [] (·.lanes)).filter (fun m => decide (m < l))
    let seen (c : Copy) : Bool := c.ctx == g.ctx && c.level == 0 && c.key == va / 128 &&
      lower.any (fun m => c.holder == .l1 g.site.die g.site.cluster (g.pipeOf m) && decide (c.wts ≤ (g.lane m).pts))
    ((s.mem.copies.filter seen).map (·.wts)).foldl max 0

/-- The L1 that serves an address for lane l: its own pipeline's, or the form's member that holds the line
(08 R197, R198). -/
def State.req (s : State) (g : Group) (l va : Nat) : Req :=
  let p := g.size
  let line := va / 128
  let member := if g.priv || p = 1 then l else line % p
  let set := if g.priv || p = 1 then line % 64 else line / p % 64
  let pipe := g.pipeOf member
  { die := g.site.die, cluster := g.site.cluster, pipe := pipe, set := set,
    ways := s.mem.boundary g.site pipe, ctx := g.ctx, privS := (g.lane l).privS,
    ptRoot := match s.ctx? g.ctx with | some c => c.desc.ptRoot | none => 0,
    pts := max (g.lane l).pts (s.seenBelow g l va) }

/-- A store to a line at a timestamp: it fires a lane's watch on the line (08 R216), and a lane that waits on a barrier word of
the line is evaluated again (14 R333); woken with another status than BROKEN it follows the store (09 R242). -/
def Lane.seeStore (l : Lane) (at_ : LineAt) (ts : Nat) (word : Nat → Nat) : Lane :=
  let l1 := match l.watch with
    | some w => if w.at_ = at_ && w.fired.isNone then { l with watch := some { w with fired := some .store } } else l
    | none => l
  match l1.wait with
  | some w =>
    match w.kind with
    | .bar b off gen _ =>
      if b = at_ then
        match (barWord (word off)).wake gen with
        | some v =>
          { l1.wx w.d v with wait := none, pts := if (barWord (word off)).broken then l1.pts else max l1.pts ts }
        | none => l1
      else l1
    | _ => l1
  | none => l1

/-- The 8-byte word at an offset of the scratchpad that holds a line. -/
def State.padWord (s : State) (at_ : LineAt) (off : Nat) : Nat :=
  match at_ with
  | .pad k m _ => match s.pad? k m with | some p => p.read off 8 | none => 0
  | .phys _ => 0

/-- Every lane sees a store to a line. -/
def State.fireWatches (s : State) (at_ : LineAt) (ts : Nat) : State :=
  { s with groups := s.groups.map (fun g =>
      { g with lanes := g.lanes.map (fun l => l.seeStore at_ ts (s.padWord at_)) }) }

def State.setMem (s : State) (m : MemSys) : State := { s with mem := m }

def State.setPts (s : State) (gid l p : Nat) : State := s.modLane gid l (fun x => { x with pts := p })

/-- A trap of a global access (18 R413): `sub` is the access kind of 10 R252. The table reads of its walk have been made: the lane's
PTS after them is p (18 R416). -/
def State.accessTrap {α β : Type} (s : State) (gid l : Nat) (r : MRes β) (p : Nat) (m : MemSys) (sub : Nat) (addr : Word) : LRes α :=
  match r with
  | .pageFault => .trapIn ⟨3, sub, addr, false⟩ ((s.setMem m).setPts gid l p)
  | .protect => .trapIn ⟨4, 3, addr, false⟩ ((s.setMem m).setPts gid l p)
  | _ => .ue addr

/-! Global accesses that another package performs (19 R434): its tables, its memory and its timestamps are not in the state, so what it
answers is free (log 31). -/

/-- VA[55:48] of an access in a domain context names another package of the domain. -/
def State.far (s : State) (ctx va : Nat) : Bool :=
  (s.ctx? ctx).any (fun c => c.domain.isSome) && va / 2 ^ 48 != s.link.domIndex && s.link.routes.any (fun r => r.1 == va / 2 ^ 48)

/-- No port of the route to that package is up or degraded: an access waits (19 R435). -/
def State.cutOff (s : State) (ctx va : Nat) : Bool := s.far ctx va && (s.routePort? (va / 2 ^ 48)).isNone

def State.cutLoc (s : State) (ctx : Nat) (loc : Loc) : Bool :=
  match loc with
  | .glob va => s.cutOff ctx va
  | .pad .. => false

/-- The answer of the other package, the timestamp, and the state. -/
def State.farAnswer (s : State) (pts : Nat) : MRes Nat × Nat × State :=
  let (n, s1) := s.free
  let v := Config.freeValue (s.clk * 2 ^ 64 + n)
  let r : MRes Nat := match v % 4 with
    | 1 => .pageFault
    | 2 => .protect
    | 3 => .poisoned
    | _ => .ok (v / 8)
  let (k, s2) := s1.free
  (r, pts + Config.freeValue k % 2 ^ 40, s2)

/-- An access of a lane of which another package answers n bytes; it waits while that package is unreachable. -/
def State.farAccess (s : State) (gid l : Nat) (addr : Word) (n sub : Nat) : LRes Nat :=
  if (s.routePort? (addr.toNat / 2 ^ 48)).isNone then .hold
  else match s.farAnswer (s.lane gid l).pts with
  | (.ok v, p, s1) => .ok (v % 2 ^ (8 * n)) (s1.setPts gid l p)
  | (.pageFault, _, _) => .trap ⟨3, sub, addr, false⟩
  | (.protect, _, _) => .trap ⟨4, 3, addr, false⟩
  | (.poisoned, _, _) => .ue addr

def LRes.bind {α β : Type} (r : LRes α) (f : α → State → LRes β) : LRes β :=
  match r with
  | .ok a s => f a s
  | .trap t => .trap t
  | .trapIn t s => .trapIn t s
  | .ue a => .ue a
  | .hold => .hold

def overlaps (a n b m : Nat) : Bool := decide (a < b + m) && decide (b < a + n)

/-- A commit in progress owns a line of these bytes and holds off every other access to it (08 R203). -/
def State.ownedFor (s : State) (cid : Nat) (loc : Loc) (n : Nat) : Bool :=
  match loc with
  | .glob _ => false
  | .pad k m off => (s.pad? k m).any (fun p => p.ts.any (fun t => overlaps off n (t.line * 128) 128 &&
      t.owner.any (fun o => o != cid && s.eng.copies.any (fun c => c.cid == o))))

/-- A checked load overlaps bytes of a destination range not yet complete (08 R227, R238). -/
def State.loadHeld (s : State) (loc : Loc) (n : Nat) : Bool :=
  match loc with
  | .glob _ => false
  | .pad k m off =>
    match s.pad? k m with
    | none => false
    | some p => s.ownedFor 0 loc n || p.incoming.any (fun r => overlaps off n r.lo r.len &&
        s.eng.copies.any (fun c => c.cid == r.cid &&
          (List.range ((c.len + 511) / 512)).any (fun i => !c.done.contains i &&
            overlaps off n (r.lo + 512 * i) (min 512 (c.len - 512 * i)))))

/-- Whether two places overlap over n and m bytes. -/
def locOverlap (a : Loc) (n : Nat) (b : Loc) (m : Nat) : Bool :=
  match a, b with
  | .glob x, .glob y => overlaps x n y m
  | .pad k i x, .pad k' i' y => k == k' && i == i' && overlaps x n y m
  | _, _ => false

/-- A store overlaps a source range of the pipeline still recorded (08 R226), or a line in a commit. -/
def State.storeHeld (s : State) (g : Group) (l : Nat) (loc : Loc) (n : Nat) : Bool :=
  s.ownedFor 0 loc n || s.eng.copies.any (fun c => !c.released && c.ctx == g.ctx && c.site == g.site && c.pipe == g.pipeOf l &&
    locOverlap loc n c.src c.len)

/-- An access of a lane overlaps the destination of an incomplete drain of its form (07 R180). -/
def State.drainHeld (s : State) (g : Group) (loc : Loc) (n : Nat) : Bool :=
  s.eng.drains.any (fun d => d.gid == g.gid && d.elems.any (fun e => locOverlap loc n e.at_ e.bytes.length))

/-- What a load by an agent follows that reads a counter: the data of the completions that its word shows, of which the agent is
within SCOPE, or all when it reads by CWAIT or CTEST (09 R237). -/
def State.observedPts (s : State) (g : Group) (l va n : Nat) (all : Bool) : Nat :=
  ((s.eng.observed.filter (fun o => o.ctx == g.ctx && overlaps va n o.va 8 &&
    (all || scopeJoins o.scope o.site o.pipe o.gid g.site (g.pipeOf l) g.gid))).map (·.pts)).foldl max 0

/-- CWAIT and CTEST have read the word at a place. -/
def State.observeAll (s : State) (gid l : Nat) (addr : Word) : State :=
  match s.group? gid with
  | none => s
  | some g =>
    if addr.toNat / 2 ^ 56 ≠ 0 || s.eng.observed.isEmpty then s
    else s.modLane gid l (fun x => { x with pts := max x.pts (s.observedPts g l addr.toNat 8 true) })

/-- A load of a checked place, without regard to holds: the value and the state, with PTS advanced. `sub` is the
subcode of a page fault. -/
def State.loadRaw (s : State) (gid l : Nat) (loc : Loc) (addr : Word) (n sub : Nat) : LRes Nat :=
  match s.group? gid with
  | none => .hold
  | some g =>
    match loc with
    | .glob va =>
      if s.far g.ctx va then s.farAccess gid l addr n sub
      else
        let (r, p, m) := s.mem.l1Load (s.req g l va) va n
        match r with
        | .ok v => .ok v ((s.setMem m).setPts gid l (max p (s.observedPts g l va n false)))
        | r => s.accessTrap gid l r p m sub addr
    | .pad k m off =>
      match s.pad? k m with
      | none => .trap ⟨5, 0, addr, false⟩
      | some pd =>
        let (v, p, pd') := pd.load off n (g.lane l).pts
        .ok v ((s.modPad k m (fun _ => pd')).setPts gid l p)

/-- A load of a checked place: held while it overlaps a destination range not complete or a drain of the form. -/
def State.loadAt (s : State) (gid l : Nat) (loc : Loc) (addr : Word) (n sub : Nat) : LRes Nat :=
  match s.group? gid with
  | none => .hold
  | some g =>
    if s.loadHeld loc n || s.drainHeld g loc n then .hold
    else s.loadRaw gid l loc addr n sub

/-- Lane l as a writer of the scratchpad of a member of its class. -/
def Group.writer (g : Group) (l m : Nat) : Writer := if m == g.member l then none else some (g.site, g.pipeOf l, g.gid)

/-- A store to a checked place, made without regard to holds. -/
def State.storeRaw (s : State) (gid l : Nat) (loc : Loc) (addr : Word) (bs : List Byte) : LRes Unit :=
  match s.group? gid with
  | none => .hold
  | some g =>
    match loc with
    | .glob va =>
      if s.far g.ctx va then (s.farAccess gid l addr bs.length 2).bind (fun _ s1 => .ok () s1)
      else
        let r := s.req g l va
        let (o, p, m) := s.mem.l1Own r va needW
        match o with
        | .ok pa =>
          let (w, m') := m.l1Write r va pa p bs
          .ok () (((s.setMem m').fireWatches (.phys (pa / 128)) w).setPts gid l w)
        | r => s.accessTrap gid l r p m 2 addr
    | .pad k m off =>
      match s.pad? k m with
      | none => .trap ⟨5, 0, addr, false⟩
      | some pd =>
        let (w, pd') := pd.store (g.writer l m) off (g.lane l).pts bs
        .ok () (((s.modPad k m (fun _ => pd')).fireWatches (.pad k m (off / 128)) w).setPts gid l w)

/-- A store to a checked place: held while it overlaps a recorded source range or a drain of the form. -/
def State.storeAt (s : State) (gid l : Nat) (loc : Loc) (addr : Word) (bs : List Byte) : LRes Unit :=
  match s.group? gid with
  | none => .hold
  | some g =>
    if s.storeHeld g l loc bs.length || s.drainHeld g loc bs.length then .hold
    else s.storeRaw gid l loc addr bs

/-- An atomic on a checked place (08 R211 to R213): `f` gives the new value, or none for a comparison that fails,
which is a load. `far` executes at the home. -/
def State.rmwAt (s : State) (gid l : Nat) (loc : Loc) (addr : Word) (n : Nat) (far : Bool)
    (f : Nat → Option Nat) : LRes Nat :=
  match s.group? gid with
  | none => .hold
  | some g =>
    if s.loadHeld loc n || s.storeHeld g l loc n || s.drainHeld g loc n then .hold
    else match loc with
    | .glob va =>
      let r := s.req g l va
      if s.far g.ctx va then s.farAccess gid l addr n 2
      else if far then
        let (t, p, m) := MemSys.translateAt (fun m q => m.translate r.ptRoot r.die r.ctx r.privS va needRW q)
          MemSys.atomicPlace 3 s.mem r.pts
        match t with
        | .ok (pa, _) =>
          if m.poisoned pa n then .ue addr
          else
            let (v, m1) := m.homeRead pa n p
            let p1 := max p (m1.home (pa / 128)).wts
            match f v with
            | none => .ok v ((s.setMem m1).setPts gid l p1)
            | some w =>
              let (ts, m2) := m1.homeWrite pa p1 (toBytes n w)
              .ok v (((s.setMem m2).fireWatches (.phys (pa / 128)) ts).setPts gid l ts)
        | r => s.accessTrap gid l r p m 2 addr
      else
        let (o, p, m) := s.mem.l1Own r va needRW
        match o with
        | .ok pa =>
          if m.poisoned pa n then .ue addr
          else
            let v := m.read pa n
            let p1 := match m.l1Copy r va with | some c => max p c.wts | none => p
            match f v with
            | none =>
              -- a later store takes a timestamp above this load
              .ok v ((s.setMem (m.modCopies (r.isMine va) (fun c => { c with rts := max c.rts p1 }))).setPts gid l p1)
            | some w =>
              let (ts, m2) := m.l1Write r va pa p1 (toBytes n w)
              .ok v (((s.setMem m2).fireWatches (.phys (pa / 128)) ts).setPts gid l ts)
        | r => s.accessTrap gid l r p m 2 addr
    | .pad k m off =>
      match s.pad? k m with
      | none => .trap ⟨5, 0, addr, false⟩
      | some pd =>
        let (v, p, pd1) := pd.load off n (g.lane l).pts
        match f v with
        | none => .ok v ((s.modPad k m (fun _ => pd1)).setPts gid l p)
        | some w =>
          let (ts, pd2) := pd1.store (g.writer l m) off p (toBytes n w)
          .ok v (((s.modPad k m (fun _ => pd2)).fireWatches (.pad k m (off / 128)) ts).setPts gid l ts)

/-- A load, store and atomic by address: all the checks of 08 R207. -/
def State.load (s : State) (gid l : Nat) (addr : Word) (n sub : Nat) : LRes Nat :=
  match s.group? gid with
  | none => .hold
  | some g =>
    match resolve s g l addr n n with
    | .error t => .trap t
    | .ok loc => s.loadAt gid l loc addr n sub

def State.store (s : State) (gid l : Nat) (addr : Word) (bs : List Byte) : LRes Unit :=
  match s.group? gid with
  | none => .hold
  | some g =>
    match resolve s g l addr bs.length bs.length with
    | .error t => .trap t
    | .ok loc => s.storeAt gid l loc addr bs

def State.rmw (s : State) (gid l : Nat) (addr : Word) (n : Nat) (far : Bool) (f : Nat → Option Nat) : LRes Nat :=
  match s.group? gid with
  | none => .hold
  | some g =>
    match resolve s g l addr n n with
    | .error t => .trap t
    | .ok loc => s.rmwAt gid l loc addr n far f

/-- Loads n units of 16 bytes in ascending order (05 R131: a record is four). -/
def State.load16s (s : State) (gid l : Nat) (addr : Word) (sub : Nat) : Nat → LRes (List Nat)
  | 0 => .ok [] s
  | n + 1 =>
    (s.load gid l addr 16 sub).bind (fun v s1 =>
      (State.load16s s1 gid l (addr + 16) sub n).bind (fun r s2 => .ok (v :: r) s2))

/-- Stores 16-byte units in ascending order. -/
def State.store16s (s : State) (gid l : Nat) (addr : Word) : List Nat → LRes Unit
  | [] => .ok () s
  | v :: r =>
    (s.store gid l addr (toBytes 16 v)).bind (fun _ s1 => State.store16s s1 gid l (addr + 16) r)

/-- The 8-byte words of 16-byte units. -/
def wordsOf16 (l : List Nat) : List Word :=
  l.flatMap (fun v => [BitVec.ofNat 64 v, BitVec.ofNat 64 (v / 2 ^ 64)])

def units16 : List Word → List Nat
  | a :: b :: r => (a.toNat + b.toNat * 2 ^ 64) :: units16 r
  | [a] => [a.toNat]
  | [] => []

/-! Accesses of engines (18 R414): by virtual address, at the timestamp of the command. -/

/-- An engine's translation (18 R416) and the timestamp after its table reads: an unusable entry is an engine fault, a missing
permission a violation. A write is translated for the place that it takes. -/
def State.engPage (s : State) (a : Actor) (va need : Nat) : MRes Nat × Nat × State :=
  match s.ctx? a.ctx with
  | none => (.pageFault, a.pts, s)
  | some c =>
    if s.far a.ctx va then s.farAnswer a.pts
    else
      let tr (m : MemSys) (q : Nat) := m.translate c.desc.ptRoot a.site.die a.ctx a.privS va need q
      let (t, p, m) := if need = needR then tr s.mem a.pts else MemSys.translateAt tr MemSys.writePlace 3 s.mem a.pts
      match t with
      | .ok (pa, _) => (.ok pa, p, s.setMem m)
      | .pageFault => (.pageFault, p, s.setMem m)
      | .protect => (.protect, p, s.setMem m)
      | .poisoned => (.poisoned, p, s.setMem m)

def State.engTranslate (s : State) (a : Actor) (va need : Nat) : MRes Nat × State :=
  let (r, _, s1) := s.engPage a va need
  (r, s1)

/-- An engine read of n bytes of one place. -/
def State.engRead (s : State) (a : Actor) (loc : Loc) (n : Nat) : MRes (List Byte) × State :=
  match loc with
  | .glob va =>
    match s.engPage a va needR with
    | (.ok pa, p, s1) =>
      if s.far a.ctx va then (.ok (toBytes n pa), s1)
      else if s1.mem.poisoned pa n then (.poisoned, s1)
      else
        let (v, m) := s1.mem.homeRead pa n p
        (.ok (toBytes n v), s1.setMem m)
    | (.pageFault, _, s1) => (.pageFault, s1)
    | (.protect, _, s1) => (.protect, s1)
    | (.poisoned, _, s1) => (.poisoned, s1)
  | .pad k m off =>
    match s.pad? k m with
    | none => (.protect, s)
    | some pd =>
      if off + n ≤ pd.size then
        let (v, _, pd') := pd.load off n a.pts
        (.ok (toBytes n v), s.modPad k m (fun _ => pd'))
      else (.protect, s)

/-- The n bytes that a read of a command without acquire may return instead of the latest (09 R236): what they held before
another agent's last write. At the home of a global line that is what a line owned in another cluster has not brought home. -/
def State.engReadBehind (s : State) (a : Actor) (site : Site) (loc : Loc) (n : Nat) : List Byte :=
  match loc with
  | .glob va =>
    match (s.engTranslate a va needR).1 with
    | .ok pa =>
      let own := s.mem.copies.any (fun c => c.pline == pa / 128 && c.owned && (match c.holder with
        | .l1 d k _ => d == site.die && k == site.cluster
        | .station _ _ => false))
      (List.range n).map (fun i => if own then s.mem.byteAt (pa + i) else s.mem.homeByte (pa + i))
    | _ => []
  | .pad k m off =>
    match s.pad? k m with
    | some pd => (List.range n).map (fun i =>
        ((pd.prev.find? (fun o => o.addr == off + i)).map (·.byte)).getD (cellAt pd.bytes (off + i)))
    | none => []

/-- An engine write of bytes to one place: one place in the global order, above every lease (08 R203); answers its
timestamp. -/
def State.engWrite (s : State) (a : Actor) (loc : Loc) (bs : List Byte) : MRes Nat × State :=
  match loc with
  | .glob va =>
    match s.engPage a va needW with
    | (.ok pa, p, s1) =>
      if s.far a.ctx va then (.ok p, s1)
      else
        let (w, m) := s1.mem.homeWrite pa p bs
        (.ok w, (s1.setMem m).fireWatches (.phys (pa / 128)) w)
    | (.pageFault, _, s1) => (.pageFault, s1)
    | (.protect, _, s1) => (.protect, s1)
    | (.poisoned, _, s1) => (.poisoned, s1)
  | .pad k m off =>
    match s.pad? k m with
    | none => (.protect, s)
    | some pd =>
      if off + bs.length ≤ pd.size then
        let (w, pd') := pd.store (some (a.site, 256, 0)) off a.pts bs
        (.ok w, (s.modPad k m (fun _ => pd')).fireWatches (.pad k m (off / 128)) w)
      else (.protect, s)

/-- A load that no leased copy serves: what a waiting word reads when it is woken (08 R225). -/
def State.loadFresh (s : State) (gid l : Nat) (loc : Loc) (addr : Word) (n sub : Nat) : LRes Nat :=
  match s.group? gid, loc with
  | some g, .glob va =>
    let r := s.req g l va
    (s.setMem (s.mem.dropCopies (fun c => r.isMine va c && !c.owned))).loadAt gid l loc addr n sub
  | _, _ => s.loadAt gid l loc addr n sub

/-- Physical accesses of the front end, the husk and the host: no translation (10 R247, 12 R289, R302). -/
def State.physRead (s : State) (pa n : Nat) : Nat × State :=
  let (v, m) := s.mem.homeRead pa n 0
  (v, s.setMem m)

/-- A write not below a timestamp; answers its own. -/
def State.physWriteAt (s : State) (pts pa : Nat) (bs : List Byte) : Nat × State :=
  let (w, m) := s.mem.homeWrite pa pts bs
  (w, (s.setMem m).fireWatches (.phys (pa / 128)) w)

def State.physWrite (s : State) (pa : Nat) (bs : List Byte) : State := (s.physWriteAt 0 pa bs).2

def State.physWriteWords (s : State) (pa : Nat) : List Word → State
  | [] => s
  | w :: r => State.physWriteWords (s.physWrite pa (toBytes 8 w.toNat)) (pa + 8) r

/-- Words written not below a timestamp, in ascending order; answers the largest of theirs. -/
def State.physWriteWordsAt (s : State) (pts pa : Nat) : List Word → Nat × State
  | [] => (pts, s)
  | w :: r =>
    let (t, s1) := s.physWriteAt pts pa (toBytes 8 w.toNat)
    State.physWriteWordsAt s1 (max pts t) (pa + 8) r

def State.physReadWords (s : State) (pa : Nat) : Nat → List Word × State
  | 0 => ([], s)
  | n + 1 =>
    let (v, s1) := s.physRead pa 8
    let (r, s2) := State.physReadWords s1 (pa + 8) n
    (BitVec.ofNat 64 v :: r, s2)

end Sys2Proof.Machine
end

