-- ==== Sys2Proof/Machine/Ops.lean ====
section
/-!
DEFINITION. The shared operations on paths and threads: taking a trap and returning (10 R252 to R262), advancing,
dividing and uniting paths (05 R121 to R127, 13 R312 to R321), waits (13 R327), and the forms in which the words act
on their lanes.
-/

namespace Sys2Proof.Machine

open Sys2Proof

abbrev Out := Host.Outcome State Fault Refusal

/-! Paths. -/

def Path.blank (pid : Nat) : Path :=
  { pid := pid, lanes := [], pc := 0, joins := [], qset := 0, alone := false, stacked := none, pushedAt := 0,
    since := 0, halted := none, waiting := false, after := none, election := [], fbuf := [], part := [], slotAddr := 0, slotLane := 0,
    pushed := [], redirect := none, readyAt := 0, frozen := false, awaits := none }

def Group.join? (g : Group) (j : Nat) : Option Join := g.joins.find? (fun x => x.jid == j)

/-- The address of a path's innermost pending join. -/
def Group.joinAddr (g : Group) (p : Path) : Option Word :=
  match p.joins with
  | [] => none
  | j :: _ => (g.join? j).map (·.addr)

/-- The path has arrived at its innermost pending join (05 R122). -/
def Group.arrived (g : Group) (p : Path) : Bool := p.stacked.isNone && g.joinAddr p == some p.pc

/-- The path holds live slots (13 R312). -/
def Group.live (g : Group) (p : Path) : Bool := !p.alone && p.stacked.isNone && !g.arrived p

def Path.quads (p : Path) : List Nat := (p.lanes.map quadOf).dedup

def Group.liveIn (g : Group) (quad : Nat) : List Path :=
  g.paths.filter (fun p => g.live p && p.lanes.any (fun l => quadOf l == quad))

def Group.qset? (g : Group) (q : Nat) : Option QSet := g.qsets.find? (fun x => x.qid == q)

def Group.modQSet (g : Group) (q : Nat) (f : QSet → QSet) : Group :=
  { g with qsets := updWhere (fun x => x.qid == q) f g.qsets }

/-- Stacked paths of a set, oldest push first. -/
def Group.stackOf (g : Group) (q : Nat) : List Path :=
  sortBy (fun p => p.stacked.getD 0) (g.paths.filter (fun p => p.qset == q && p.stacked.isSome))

/-- The stack lane of a set: its lowest lane that has not exited (13 R316). -/
def Group.stackLane (g : Group) (q : QSet) : Nat :=
  ((List.range g.size).find? (fun l => q.quads.contains (quadOf l) && !(g.lane l).exited)).getD 0

/-- The path may issue (12 R306): started, not stacked, arrived, halted, waiting or held back. -/
def Group.canIssue (g : Group) (p : Path) : Bool :=
  g.started && !g.frozen && !p.frozen && p.stacked.isNone && !g.arrived p && p.halted.isNone && !p.waiting &&
  p.after.isNone && !p.lanes.isEmpty

/-- The mask of a list of lanes. -/
def maskOf (l : List Nat) : Nat := (l.dedup.map (fun i => 2 ^ i)).sum

def inMask (m l : Nat) : Bool := m / 2 ^ l % 2 == 1

/-! The divergence stack (13 R315 to R317). -/

/-- The bytes of a stack entry. -/
def entryBytes (p : Path) (valid : Bool) : List Byte :=
  toBytes 8 p.pc.toNat ++ toBytes 4 (maskOf p.lanes) ++ toBytes 1 p.joins.length ++ toBytes 1 valid.toNat ++ toBytes 2 0

/-- What a change of the stack came to: made, held by an access that stalls (08 R226, R227), or an overflow (13 R316). -/
inductive StackRes where
  | done (s : State)
  | held
  | overflow

def StackRes.bind (r : StackRes) (f : State → StackRes) : StackRes :=
  match r with
  | .done s => f s
  | .held => .held
  | .overflow => .overflow

/-- Pushes a live path onto its set's stack (13 R316). With `wait` its store stalls as a lane's store does; an operation that has
begun makes it at once. -/
def State.push (s : State) (gid pid : Nat) (wait : Bool) : StackRes :=
  match s.group? gid with
  | none => .overflow
  | some g =>
    match g.path? pid with
    | none => .overflow
    | some p =>
      match g.qset? p.qset with
      | none => .overflow
      | some q =>
        if g.dlim ≤ (g.stackOf p.qset).length then .overflow
        else
          let l := g.stackLane q
          let addr := (g.lane l).kstack - BitVec.ofNat 64 (16 * (1 + q.pushes % g.dlim))
          match resolve s g l addr 16 16 with
          | .error _ => .overflow
          | .ok loc =>
            match if wait then s.storeAt gid l loc addr (entryBytes p true) else s.storeRaw gid l loc addr (entryBytes p true) with
            | .ok _ s1 =>
              .done (s1.modGroup gid (fun g =>
                (g.modPath pid (fun p => { p with
                  stacked := some q.pushes, pushedAt := s.clk, slotAddr := addr, slotLane := l, pushed := p.lanes, fbuf := [] })).modQSet
                  q.qid (fun q => { q with pushes := q.pushes + 1 })))
            | .hold => if wait then .held else .overflow
            | _ => .overflow

/-- A path made of one lane that has split (13 R319). -/
def soloPath (pid : Nat) (p : Path) (l : Nat) (pc : Word) : Path :=
  { p with
    pid := pid, lanes := [l], pc := pc, alone := true, stacked := none, after := none, qset := 0,
    election := p.election.filter (fun e => e.lane == l), fbuf := [] }

/-- Takes lane l off its path onto a path of its own at `pc`. -/
def State.soloLane (s : State) (gid l : Nat) (pc : Word) (reason owed : Nat) : State :=
  match s.group? gid with
  | none => s
  | some g =>
    match g.pathOf? l with
    | none => s
    | some p =>
      if p.alone || g.size = 1 then s.modPath gid p.pid (fun p => { p with pc := pc })
      else
        let (n, s1) := s.fresh
        s1.modGroup gid (fun g =>
          let g1 := g.modPath p.pid (fun p =>
            { p with lanes := p.lanes.filter (· ≠ l), election := p.election.filter (fun e => e.lane != l) })
          let g2 := { g1 with paths := g1.paths ++ [soloPath n p l pc] }
          g2.modLane l (fun x => { x with reason := reason, owed := owed }))

/-- The stack lane now of the set that an entry pushed by lane l belongs to (13 R316). -/
def Group.stackLaneOf (g : Group) (l : Nat) : Nat :=
  match g.qsets.find? (fun q => q.quads.contains (quadOf l)) with
  | some q => g.stackLane q
  | none => l

/-- Clears VALID of the entry that lane l pushed at `addr`, by an ordinary store of its set's stack lane (13 R316). A store that
faults leaves the entry as it is (log 120). -/
def State.clearValid (s : State) (gid l : Nat) (addr : Word) : State :=
  match s.group? gid with
  | none => s
  | some g =>
    match resolve s g l (addr + 13) 1 1 with
    | .error _ => s
    | .ok loc => match s.storeRaw gid (g.stackLaneOf l) loc (addr + 13) [0] with
      | .ok _ s1 | .trapIn _ s1 => s1
      | _ => s

/-- Reads the entry of a stacked path where it was pushed (log 18), by a load of its set's stack lane (13 R316): its PC and MASK.
Where the load faults they are what was pushed (log 120). -/
def State.readEntry (s : State) (gid : Nat) (p : Path) : Word × Nat × State :=
  let own := fromBytes (entryBytes { p with lanes := p.pushed } true)
  let (v, s1) : Nat × State :=
    match s.group? gid with
    | none => (own, s)
    | some g =>
      match resolve s g p.slotLane p.slotAddr 16 16 with
      | .error _ => (own, s)
      | .ok loc =>
        match s.loadRaw gid (g.stackLaneOf p.slotLane) loc p.slotAddr 16 1 with
        | .ok v s1 => (v, s1)
        | .trapIn _ s1 => (own, s1)
        | _ => (own, s)
  (BitVec.ofNat 64 (v % 2 ^ 64 / 8 * 8), v / 2 ^ 64 % 2 ^ 32, s1)

/-- The load and the store of a pop stall on no range (08 R226, R227) and no drain. -/
def State.popReady (s : State) (gid : Nat) (p : Path) : Bool :=
  match s.group? gid with
  | none => true
  | some g =>
    match resolve s g p.slotLane p.slotAddr 16 16 with
    | .error _ => true
    | .ok loc => !s.loadHeld loc 16 && !s.drainHeld g loc 16 && !s.storeHeld g (g.stackLaneOf p.slotLane) loc 16 &&
        !s.cutLoc g.ctx loc

/-- A stacked path as its entry's PC makes it: a path whose waiting word has completed goes on after that word (13 R327). -/
def Path.fromEntry (p : Path) (g : Group) (pc0 : Word) : Path :=
  let done := p.waiting && p.lanes.all (fun l => (g.lane l).wait.isNone)
  { p with pc := p.redirect.getD (if done then pc0 + 8 else pc0), waiting := p.waiting && !done, redirect := none,
           halted := if pc0 == p.pc then p.halted else none }

/-- Takes a stacked path off its entry (13 R316): PC and MASK are read back, VALID is cleared, and a lane pushed in it whose bit the
program has cleared splits out. The path stays marked as stacked. -/
def State.takeEntry (s : State) (gid pid : Nat) : State :=
  match s.group? gid with
  | none => s
  | some g =>
    match g.path? pid with
    | none => s
    | some p =>
      let (pc0, mask, s1) := s.readEntry gid p
      let s2 := (s1.clearValid gid p.slotLane p.slotAddr).modPath gid pid (fun p => p.fromEntry g pc0)
      (p.lanes.filter (fun l => p.pushed.contains l && !inMask mask l)).foldl (fun s l => s.soloLane gid l (p.fromEntry g pc0).pc 2 0) s2

/-- Pops the oldest entry of a set (13 R316, R317): its path is live again. -/
def State.pop (s : State) (gid q : Nat) : State :=
  match s.group? gid with
  | none => s
  | some g =>
    match g.stackOf q with
    | p :: rest =>
      let (n, s1) := (s.takeEntry gid p.pid).fresh
      s1.modGroup gid (fun g =>
        (g.modPath p.pid (fun p => { p with stacked := none, since := n })).modQSet q
          (fun q => if rest.isEmpty then { q with pushes := 0 } else q))
    | [] => s

/-- The entry's path fits the free live slots of its quads. -/
def Group.fits (g : Group) (p : Path) : Bool := p.quads.all (fun q => decide ((g.liveIn q).length < 2))

/-- Reads the entries of all stacked paths of a group, which stay as they are. -/
def State.readEntries (s : State) (gid : Nat) : State :=
  match s.group? gid with
  | none => s
  | some g =>
    (g.paths.filter (fun p => p.stacked.isSome)).foldl (fun s p =>
      let r := s.readEntry gid p
      r.2.2.modPath gid p.pid (fun p => p.fromEntry g r.1)) s

/-- Every lane of the form splits (13 R319): lanes of live paths at their path's PC, those of stacked paths at their entry's. -/
def State.fullSplit (s0 : State) (gid : Nat) : State :=
  let s := s0.readEntries gid
  match s.group? gid with
  | none => s
  | some g =>
    if g.size = 1 then s
    else
      let owed (p : Path) : Nat := if p.alone then 0 else (g.stackOf p.qset).length
      let singles := g.paths.flatMap (fun p => if p.alone then [p] else
        (p.lanes.zipIdx).map (fun x => soloPath (s.nextId + 64 * p.pid + x.2) p x.1 p.pc))
      let resume (p : Path) : Path :=
        if p.waiting && p.lanes.all (fun l => (g.lane l).wait.isNone) then { p with waiting := false, pc := p.pc + 8 }
        else p
      let renum := ((singles.map resume).zipIdx).map (fun x => if x.1.alone && g.paths.any (fun p => p.pid == x.1.pid && p.alone)
        then x.1 else { x.1 with pid := s.nextId + x.2 })
      let entries := g.qsets.flatMap (fun q => (g.stackOf q.qid).map (fun p => (p.slotLane, p.slotAddr)))
      let lanes := (g.lanes.zipIdx).map (fun x =>
        if x.1.exited || x.1.reason ≠ 0 then x.1
        else match g.pathOf? x.2 with
          | some p => { x.1 with reason := 2, owed := owed p }
          | none => x.1)
      { (s.modGroup gid (fun g => { g with paths := renum, qsets := [], lanes := lanes, owedEntries := g.owedEntries ++ entries })) with
        nextId := s.nextId + renum.length }

/-- Clears the VALID bytes that a full split left owed, when every lane has rejoined (13 R320, R321). -/
def State.clearOwed (s : State) (gid : Nat) : State :=
  match s.group? gid with
  | none => s
  | some g =>
    let s1 := g.owedEntries.foldl (fun s e => s.clearValid gid e.1 e.2) s
    s1.modGroup gid (fun g => { g with owedEntries := [], lanes := g.lanes.map (fun l => { l with owed := 0 }) })

/-- When every lane that has not exited has rejoined, the VALID bytes owed are cleared (13 R321). -/
def State.allJoined (s : State) (gid : Nat) : State :=
  match s.group? gid with
  | none => s
  | some g => if !g.owedEntries.isEmpty && g.liveLanes.all (fun l => (g.lane l).reason == 0) then s.clearOwed gid else s

/-- Stacks paths until every quad holds at most two (13 R315): the oldest that is not new, or the newest of the new
ones. -/
def State.enforceSlots (s : State) (gid : Nat) (new : List Nat) (wait : Bool) : Nat → StackRes
  | 0 => .done s
  | n + 1 =>
    match s.group? gid with
    | none => .done s
    | some g =>
      match (List.range 8).find? (fun q => decide (2 < (g.liveIn q).length)) with
      | none => .done s
      | some q =>
        let olds := (g.liveIn q).filter (fun p => !new.contains p.pid)
        let pick := match sortBy (fun p => p.since) olds with
          | p :: _ => some p.pid
          | [] => ((g.liveIn q).getLast?).map (·.pid)
        match pick with
        | none => .done s
        | some pid => (s.push gid pid wait).bind (fun s1 => State.enforceSlots s1 gid new wait n)

/-! Merging and settling. -/

def Path.mergeable (p q : Path) : Bool :=
  p.pid != q.pid && p.qset == q.qset && p.pc == q.pc && p.joins.head? == q.joins.head? && p.halted.isNone &&
  q.halted.isNone && !p.waiting && !q.waiting && p.election.isEmpty && q.election.isEmpty && p.part.isEmpty && q.part.isEmpty &&
  !p.frozen && !q.frozen

/-- Merges one pair of live paths that stand at one PC with one innermost join (05 R123). -/
def Group.mergeOnce (g : Group) : Option Group :=
  match g.paths.find? (fun p => g.live p && g.paths.any (fun q => g.live q && decide (p.pid < q.pid) && p.mergeable q)) with
  | none => none
  | some p =>
    match g.paths.find? (fun q => g.live q && decide (p.pid < q.pid) && p.mergeable q) with
    | none => none
    | some q => some { g with
        paths := (updWhere (fun x => x.pid == p.pid)
          (fun x => { x with lanes := sortNat (p.lanes ++ q.lanes), after := none, since := min p.since q.since,
                             readyAt := max p.readyAt q.readyAt })
          g.paths).filter (fun x => x.pid != q.pid) }

def Group.mergeAll (g : Group) : Nat → Group
  | 0 => g
  | n + 1 => match g.mergeOnce with | none => g | some g1 => Group.mergeAll g1 n

/-- A path held back by 22 R461 goes on when the path it waits for is gone, has arrived or stopped. -/
def Group.clearAfter (g : Group) : Group :=
  { g with paths := g.paths.map (fun p =>
      match p.after with
      | none => p
      | some q =>
        match g.path? q with
        | none => { p with after := none }
        | some r => if g.live r && r.halted.isNone && !r.waiting && !r.frozen then p else { p with after := none }) }

/-- Empty paths end and equal paths merge (05 R123). A stacked path that its last lane has left, by a trap, ends when it is popped. -/
def Group.unite (g : Group) : Group :=
  ({ g with paths := g.paths.filter (fun p => !p.lanes.isEmpty || p.stacked.isSome) }.mergeAll 32).clearAfter

/-- Pops entries into freed slots, at most `n` of them; a popped path merges with a live one that stands at its PC. -/
def State.popFree (s : State) (gid : Nat) : Nat → State
  | 0 => s
  | n + 1 =>
    match s.group? gid with
    | none => s
    | some g =>
      match g.qsets.find? (fun q => match g.stackOf q.qid with | p :: _ => g.fits p && s.popReady gid p | [] => false) with
      | none => s
      | some q => State.popFree ((s.pop gid q.qid).modGroup gid Group.unite) gid n

/-- Empty paths end, equal paths merge, freed slots are filled (05 R123, 13 R317). -/
def State.settle (s : State) (gid : Nat) : State := (s.modGroup gid Group.unite).popFree gid 32

/-- The path goes on at an address. -/
def State.goTo (s : State) (gid pid : Nat) (pc : Word) : State := s.modPath gid pid (fun p => { p with pc := pc, part := [] })

/-! Traps (10 R252 to R259). -/

/-- Records a violation (10 R259): the first one recorded gives the shell's fault fields. -/
def State.violate (s : State) (ctx cause sub master : Nat) (addr : Word) (site : Nat) : State :=
  s.modCtx ctx (fun c =>
    match c.st with
    | .running | .preempting | .resident | .saved =>
      if c.viol then c
      else { c with viol := true, faultCause := cause, faultSub := sub, faultMaster := master, faultAddr := addr,
                    faultSite := site }
    | _ => c)

def State.freezeLane (s : State) (gid l : Nat) : State :=
  match s.group? gid with
  | none => s
  | some g =>
    match g.pathOf? l with
    | none => s
    | some p => s.modPath gid p.pid (fun p => { p with frozen := true })

/-- WAITM and WFI of the form's lanes return INTERRUPTED on a trap (08 R217, 10 R264). -/
def Lane.interrupt (l : Lane) : Lane :=
  match l.wait with
  | some w =>
    match w.kind with
    | .waitm | .wfi => { l with wait := some { w with intr := true } }
    | _ => l
  | none => l

def tvecOf (s : State) (ctx : Nat) : Word := match s.ctx? ctx with | some c => c.tvec | none => 0

/-- Takes a trap in lane l whose word stands at `pc` (10 R252 to R254): at U the pipeline splits alone, TCAUSE, TVAL
and TEPC are written and the thread goes on at TVEC at S; at S it is a violation. -/
def State.takeTrap (s : State) (gid l : Nat) (pc : Word) (t : TrapInfo) : State :=
  match s.group? gid with
  | none => s
  | some g =>
    if (g.lane l).privS then
      ((s.violate g.ctx t.cause t.sub 0 t.tval (siteWord g.site (g.pipeOf l))).soloLane gid l pc 3 0).freezeLane gid l
    else
      let s0 := s.soloLane gid l (tvecOf s g.ctx) 3 0
      let s1 := s0.modGroup gid (fun g =>
        { g with
          paths := updWhere (fun p => p.lanes == [l])
            (fun p => { p with halted := none, waiting := false, election := [], part := [], awaits := none }) g.paths })
      let s2 := s1.modLane gid l (fun x => { x with
        tcause := BitVec.ofNat 16 (t.cause + 256 * t.sub), tval := t.tval,
        tepc := ((if t.next then pc + 8 else pc) &&& ~~~(7#64)), privS := true, wait := none })
      s2.modGroup gid (fun g => { g with lanes := g.lanes.map Lane.interrupt })

/-- Takes the traps of several lanes of one word: each pipeline takes its own (10 R253). -/
def State.takeTraps (s : State) (gid : Nat) (pc : Word) (ts : List (Nat × TrapInfo)) : State :=
  ts.foldl (fun s t => s.takeTrap gid t.1 pc t.2) s

/-- The path enters the whole-form error handler (10 R255) at TVEC + 0x100 with the affected lanes in TLANES. -/
def State.enterWhole (s : State) (gid pid : Nat) (pc : Word) (sub : Nat) (hit : List (Nat × Word)) : State :=
  match s.group? gid with
  | none => s
  | some g =>
    match g.path? pid with
    | none => s
    | some p =>
      match p.lanes with
      | [] => s
      | l0 :: _ =>
        if (g.lane l0).privS then
          match hit with
          | (l, a) :: _ => (s.violate g.ctx 6 sub 0 a (siteWord g.site (g.pipeOf l))).freezeLane gid l0
          | [] => s
        else
          let mask := maskOf (hit.map (·.1))
          let s1 := s.modGroup gid (fun g => { g with lanes := (g.lanes.zipIdx).map (fun x =>
            if p.lanes.contains x.2 then { x.1 with
              tcause := BitVec.ofNat 16 (6 + 256 * sub),
              tval := ((hit.find? (fun h => h.1 == x.2)).map (·.2)).getD 0,
              tepc := pc &&& ~~~(7#64), tlanes := BitVec.ofNat 32 mask, privS := true, wait := none }
            else Lane.interrupt x.1) })
          let at_ := tvecOf s g.ctx + 0x100
          s1.modPath gid pid (fun p => { p with
            pc := if p.stacked.isSome then p.pc else at_, redirect := if p.stacked.isSome then some at_ else none,
            halted := none, waiting := false, part := [] })

/-! The forms of the words. -/

/-- The group and path whose word is being executed. -/
def State.current (s : State) : Option (Group × Path) :=
  match s.group? s.curG with
  | none => none
  | some g =>
    match g.path? s.curP with
    | none => none
    | some p => some (g, p)

def Group.active (g : Group) (p : Path) (gd : Guard) : List Nat := p.lanes.filter (fun l => guardHolds gd (g.lane l))

/-- What the lanes of one word did: the state, the lanes that trap, those that met an uncorrectable error, and whether
one of them holds issue. -/
structure FoldRes where
  st : State
  traps : List (Nat × TrapInfo)
  ues : List (Nat × Word)
  held : Bool

/-- Runs the lanes of a word in ascending order (09 R233). -/
def laneFold (f : State → Nat → LRes Unit) : List Nat → State → FoldRes
  | [], s => ⟨s, [], [], false⟩
  | l :: r, s =>
    match f s l with
    | .ok _ s1 => laneFold f r s1
    | .trap t => let x := laneFold f r s; { x with traps := (l, t) :: x.traps }
    | .trapIn t s1 => let x := laneFold f r s1; { x with traps := (l, t) :: x.traps }
    | .ue a => let x := laneFold f r s; { x with ues := (l, a) :: x.ues }
    | .hold => ⟨s, [], [], true⟩

/-- Ends a word of a path: traps are taken, an uncorrectable error enters the handler, otherwise the path goes on at
`next`. A hold leaves everything as it was. -/
def State.finish (s : State) (gid pid : Nat) (pc next : Word) (ueSub : Nat) (r : FoldRes) : State :=
  if r.held then s
  else if r.traps.isEmpty && r.ues.isEmpty then (r.st.goTo gid pid next).settle gid
  else
    let s1 := r.st.takeTraps gid pc r.traps
    if !r.ues.isEmpty then (s1.enterWhole gid pid pc ueSub r.ues).settle gid
    else
      match s1.group? gid with
      | none => s1
      | some g =>
        match g.path? pid with
        | none => s1.settle gid
        | some p =>
          -- an unfused thread that trapped stands at the handler already
          if p.lanes.any (fun l => r.traps.any (fun t => t.1 == l)) then s1.settle gid
          else (s1.goTo gid pid next).settle gid

/-- A word that acts in each active lane, in ascending lane order, and may access memory or trap. -/
def laneWord (gd : Guard) (f : State → Nat → Nat → LRes Unit) (s : State) : Out :=
  match s.current with
  | none => .next s
  | some (g, p) => .next (s.finish g.gid p.pid p.pc (p.pc + 8) 1 (laneFold (fun s l => f s g.gid l) (g.active p gd) s))

/-- Runs the lanes of a word until one holds issue: what they did, and the lanes whose part of the word is done. -/
def partFold (f : State → Nat → LRes Unit) : List Nat → State → FoldRes × List Nat
  | [], s => (⟨s, [], [], false⟩, [])
  | l :: r, s =>
    match f s l with
    | .ok _ s1 => let x := partFold f r s1; (x.1, l :: x.2)
    | .trap t => let x := partFold f r s; ({ x.1 with traps := (l, t) :: x.1.traps }, x.2)
    | .trapIn t s1 => let x := partFold f r s1; ({ x.1 with traps := (l, t) :: x.1.traps }, x.2)
    | .ue a => let x := partFold f r s; ({ x.1 with ues := (l, a) :: x.1.ues }, x.2)
    | .hold => (⟨s, [], [], true⟩, [])

/-- The active lanes of a path whose part of its word is not done. -/
def Group.toDo (g : Group) (p : Path) (gd : Guard) : List Nat := (g.active p gd).filter (fun l => !p.part.contains l)

/-- Lanes whose part is done while another holds issue do not execute the word again. -/
def State.markDone (s : State) (gid pid : Nat) (done : List Nat) : State :=
  if done.isEmpty then s else s.modPath gid pid (fun p => { p with part := done ++ p.part })

/-- A word whose lanes act one after the other: those that have acted keep what they did while a later one holds issue. -/
def partWord (gd : Guard) (f : State → Nat → Nat → LRes Unit) (s : State) : Out :=
  match s.current with
  | none => .next s
  | some (g, p) =>
    let x := partFold (fun s l => f s g.gid l) (g.toDo p gd) s
    if x.1.held then .next (x.1.st.markDone g.gid p.pid x.2) else .next (s.finish g.gid p.pid p.pc (p.pc + 8) 1 x.1)

/-- Applies a function to the registers of the active lanes of a path. -/
def Group.mapActive (g : Group) (p : Path) (gd : Guard) (f : Lane → Lane) : Group :=
  { g with lanes := (g.lanes.zipIdx).map (fun x =>
      if p.lanes.contains x.2 && guardHolds gd x.1 then f x.1 else x.1) }

/-- A word that changes only the registers of its active lanes. -/
def regWord (gd : Guard) (f : Lane → Lane) (s : State) : Out :=
  match s.current with
  | none => .next s
  | some (g, p) => .next (((s.modGroup g.gid (fun g => g.mapActive p gd f)).goTo g.gid p.pid (p.pc + 8)).settle g.gid)

/-- A word that changes registers and raises flags. -/
def fpWord (gd : Guard) (f : Lane → Lane × Fl) (s : State) : Out :=
  match s.current with
  | none => .next s
  | some (g, p) =>
    let fl := Fl.orAll ((g.active p gd).map (fun l => (f (g.lane l)).2))
    let s1 := s.modGroup g.gid (fun g => g.mapActive p gd (fun l => (f l).1.setFlags (f l).2))
    .next (((s1.orCl g.ctx g.site fl).goTo g.gid p.pid (p.pc + 8)).settle g.gid)

/-! Division (05 R121, 13 R314, R315). -/

/-- A part of a dividing path: its lanes, where they go on, and the election they are still in. -/
structure Part where
  lanes : List Nat
  pc : Word
  election : List Elect
deriving DecidableEq, Repr

/-- Parts that go on at one PC outside an election are one part. -/
def addPart (ps : List Part) (x : Part) : List Part :=
  if x.lanes.isEmpty then ps
  else if x.election.isEmpty && ps.any (fun p => p.pc == x.pc && p.election.isEmpty) then
    updWhere (fun p => p.pc == x.pc && p.election.isEmpty) (fun p => { p with lanes := sortNat (p.lanes ++ x.lanes) }) ps
  else ps ++ [x]

/-- The parts of lanes with a next PC each, in the order in which the PCs first appear. -/
def partsOf (l : List (Nat × Word)) : List Part :=
  l.foldl (fun ps x => addPart ps ⟨[x.1], x.2, []⟩) []

/-- The next PCs a part's lanes take, as seen by 13 R314: an election still in progress stays at the word. -/
def Part.key (p : Part) : Nat × Bool := (p.pc.toNat, p.election.isEmpty)

/-- N_j of a quad: the parts that hold a lane of it. -/
def quadParts (parts : List Part) (q : Nat) : List Nat :=
  (parts.zipIdx).filterMap (fun x => if x.1.lanes.any (fun l => quadOf l == q) then some x.2 else none)

/-- The quads of a set that a division separates: N_j for each quad, quads without a lane of the path going with the
set's lowest quad (13 R314). -/
def quadKey (parts : List Part) (quads : List Nat) (q : Nat) : List Nat :=
  if (quadParts parts q).isEmpty then quadParts parts (quads.headD 0) else quadParts parts q

/-- Groups the quads of a set by their keys, in order of first appearance; one group when every quad with a lane of the path
takes the same next PCs. -/
def quadGroups (parts : List Part) (quads : List Nat) : List (List Nat) :=
  if ((quads.map (quadParts parts)).filter (fun k => !k.isEmpty)).dedup.length ≤ 1 then [quads]
  else ((quads.map (quadKey parts quads)).dedup).map (fun k => quads.filter (fun q => quadKey parts quads q == k))

/-- What a division came to; `held` says that an access to the stack stalls. -/
inductive DivRes where
  | done (s : State)
  | split (s : State)
  | held
  | overflow (kstack : Word)

/-- Replaces a path of a set by parts, with `cutting` separating quads (13 R314): answers the state and the new paths' numbers.
Other paths of the set are divided among the new sets by lane. `joins` gives a part's pending joins. -/
def State.placeParts (s : State) (gid : Nat) (p : Path) (parts : List Part) (joins : List Nat → List Nat) (cutting : Bool) :
    State × List Nat × Bool :=
  match s.group? gid with
  | none => (s, [], false)
  | some g =>
    let base := s.nextId
    let q := (g.qset? p.qset).getD ⟨p.qset, p.quads, 0⟩
    let groups := if p.alone || !cutting then [] else quadGroups parts q.quads
    let sep := decide (1 < groups.length)
    let qid (i : Nat) : Nat := if sep then base + 1000 + i else q.qid
    let setOf (l : Nat) : Nat :=
      if p.alone then 0
      else qid (((groups.zipIdx).find? (fun x => x.1.contains (quadOf l))).map (·.2) |>.getD 0)
    -- the new paths: a part is cut where it spans sets
    let cut (lanes : List Nat) : List (List Nat) :=
      ((lanes.map setOf).dedup).map (fun q => lanes.filter (fun l => setOf l == q))
    let pieces := parts.flatMap (fun x => (cut x.lanes).map (fun ls => (x, ls)))
    let news := (pieces.zipIdx).map (fun y =>
      { p with pid := base + y.2, lanes := y.1.2, pc := y.1.1.pc, joins := joins y.1.2, qset := setOf (y.1.2.headD 0),
               since := base + y.2, after := none, halted := none,
               election := y.1.1.election.filter (fun e => y.1.2.contains e.lane), fbuf := [] })
    let others := g.paths.filter (fun x => x.pid != p.pid)
    let moved := if sep then
        (others.zipIdx).flatMap (fun z =>
          if z.1.alone || z.1.qset != q.qid then [z.1]
          else ((cut z.1.lanes).zipIdx).map (fun w =>
            { z.1 with pid := if w.2 = 0 then z.1.pid else base + 100 + 40 * z.2 + w.2, lanes := w.1, qset := setOf (w.1.headD 0),
                       election := z.1.election.filter (fun e => w.1.contains e.lane), part := z.1.part.filter w.1.contains }))
      else others
    let qsets := if sep then
        g.qsets.filter (fun x => x.qid != q.qid) ++ (groups.zipIdx).map (fun x => ⟨qid x.2, x.1, 0⟩)
      else g.qsets
    ({ (s.modGroup gid (fun g => { g with paths := moved ++ news, qsets := qsets })) with nextId := base + 2000 },
      news.map (·.pid), sep && decide (4 < qsets.length))

/-- Pushes the parts of stacked paths onto the stacks of sets a separation made, in the old push order (13 R314). -/
def State.restack (s : State) (gid : Nat) (wait : Bool) : List Nat → StackRes
  | [] => .done s
  | pid :: r =>
    ((s.modPath gid pid (fun p => { p with stacked := none })).push gid pid wait).bind (fun s1 => State.restack s1 gid wait r)

/-- What a division's parts came to: they stand in live slots, would make more than four quad sets, overflow a stack or wait for
it. -/
inductive Spread where
  | done (s : State)
  | many
  | held
  | overflow

/-- Puts the parts of a path into live slots (13 R314, R315). Stacked paths of a set that separates are taken off its stack and
pushed, part by part in the old push order, onto the new ones. -/
def State.spread (s : State) (gid : Nat) (p : Path) (parts : List Part) (joins : List Nat → List Nat) (wait : Bool) : Spread :=
  match s.group? gid with
  | none => .done s
  | some g =>
    let sep := !p.alone && decide (1 < (quadGroups parts ((g.qset? p.qset).getD ⟨p.qset, p.quads, 0⟩).quads).length)
    let s1 := if sep then (g.stackOf p.qset).foldl (fun s x => s.takeEntry gid x.pid) s else s
    let (s2, new, tooMany) := s1.placeParts gid p parts joins true
    if p.alone then .done s2
    else if tooMany then .many
    else if wait && sep && !(g.stackOf p.qset).all (fun x => s.popReady gid x) then .held
    else
      let moved : List Path := match s2.group? gid with
        | none => []
        | some g2 => if sep then
            sortBy (fun p => p.stacked.getD 0)
              (g2.paths.filter (fun (x : Path) => x.stacked.isSome && !g.qsets.any (fun q => q.qid == x.qset)))
          else []
      match (s2.restack gid wait (moved.map (·.pid))).bind (fun s => s.enforceSlots gid new wait 40) with
      | .done s3 => .done s3
      | .held => .held
      | .overflow => .overflow

/-- Divides a path into parts (05 R121, 13 R314 to R316). `join` is the address of the pending join to record. Live slots are made, by
stacking, before paths merge (log 97). -/
def State.divide (s : State) (gid pid : Nat) (parts : List Part) (join : Option Word) : DivRes :=
  match s.group? gid with
  | none => .done s
  | some g =>
    match g.path? pid with
    | none => .done s
    | some p =>
      match parts with
      | [] => .done s
      | [x] => .done (s.modPath gid pid (fun p => { p with pc := x.pc, election := x.election, lanes := x.lanes }))
      | _ =>
        let record := join.isSome && decide (p.joins.length < 16)
        let (j, s1) : Nat × State := if record then s.fresh else (0, s)
        let addJoin (g : Group) : Group := { g with joins := ⟨j, join.getD 0, p.lanes⟩ :: g.joins }
        let s2 := if record then s1.modGroup gid addJoin else s1
        let joins := if record then j :: p.joins else p.joins
        -- no separation takes place before a full split
        let whole := (s2.placeParts gid p parts (fun _ => joins) false).1.fullSplit gid
        match s2.spread gid p parts (fun _ => joins) true with
        | .done s3 => .done s3
        | .many => .split whole
        | .held => .held
        | .overflow =>
          if g.ovf then .overflow (match g.qset? p.qset with
            | some q => (g.lane (g.stackLane q)).kstack
            | none => 0)
          else .split whole

/-- The new paths of a division, those numbered from `base` on, that share a quad with one at `f` issue after it (22 R461). -/
def Group.holdAfter (g : Group) (base : Nat) (f : Word) : Group :=
  let new (p : Path) : Bool := decide (base ≤ p.since) && !p.alone
  { g with paths := g.paths.map (fun p =>
      if !new p || p.pc == f then p
      else match g.paths.find? (fun (q : Path) => new q && q.pc == f && q.pid != p.pid && p.quads.any q.quads.contains) with
        | some q => { p with after := some q.pid }
        | none => p) }

/-- A control word of a path: traps of single lanes, then the division of the others; `fall` is the address that must
issue first (22 R461). A lane that traps in the word is in no join that the word records (log 98). A division that a stack holds
leaves the word to be issued again. -/
def State.control (s : State) (gid pid : Nat) (pc : Word) (traps : List (Nat × TrapInfo)) (parts : List Part)
    (join fall : Option Word) : State :=
  let s1 := s.takeTraps gid pc traps
  match s1.divide gid pid parts join with
  | .overflow k =>
    (s1.takeTraps gid pc ((parts.flatMap (·.lanes)).map (fun l => (l, ⟨0x0B, 0, k, false⟩)))).settle gid
  | .split s2 => s2.settle gid
  | .held => s
  | .done s2 =>
    (match fall, parts with
      | some f, _ :: _ :: _ => s2.modGroup gid (fun g => g.holdAfter s1.nextId f)
      | _, _ => s2).settle gid

/-! Uniting lanes (05 R122, R127, 13 R318, R321). -/

/-- The entries of a set made of several sets with entries of their own are taken off and pushed again, in the order of their
pushes. -/
def State.oneStack (s : State) (gid q : Nat) (old : List Path) : StackRes :=
  if ((old.map (·.qset)).dedup).length ≤ 1 then .done s
  else
    let order := sortBy (fun p => p.pushedAt) (sortBy (fun p => p.stacked.getD 0) old)
    let s1 := order.foldl (fun s x => s.takeEntry gid x.pid) s
    (s1.modGroup gid (fun g => g.modQSet q (fun q => { q with pushes := 0 }))).restack gid false (order.map (·.pid))

/-- Lanes of several paths go on as one path at `pc`, in one quad set made of all the sets they come from. -/
def State.regang (s : State) (gid : Nat) (lanes : List Nat) (pc : Word) (joins : List Nat) : State :=
  match s.group? gid with
  | none => s
  | some g =>
    let quads := (lanes.map quadOf).dedup
    let hit := g.qsets.filter (fun q => q.quads.any quads.contains)
    -- an entry whose path is united holds none any more
    let gone := g.paths.filter (fun x => x.stacked.isSome && x.lanes.all lanes.contains)
    let s0 := gone.foldl (fun s x => s.clearValid gid x.slotLane x.slotAddr) s
    let (n, s1) := s0.fresh
    let all := sortNat ((hit.flatMap (·.quads) ++ quads).dedup)
    let qs : QSet := ⟨n, all, (hit.map (·.pushes)).foldl max 0⟩
    let p : Path := { Path.blank n with
      lanes := sortNat lanes, pc := pc, joins := joins, qset := n, since := n }
    let rest (x : Path) : Path :=
      { x with
        lanes := x.lanes.filter (fun l => !lanes.contains l),
        election := x.election.filter (fun e => !lanes.contains e.lane),
        qset := if !x.alone && hit.any (fun q => q.qid == x.qset) then n else x.qset }
    -- pushes count from 0 once the stack is empty
    let counted (ps : List Path) : QSet := if ps.any (fun x => x.stacked.isSome && x.qset == n) then qs else { qs with pushes := 0 }
    let left (g : Group) : List Path := (g.paths.map rest).filter (fun x => !x.lanes.isEmpty)
    let s2 := s1.modGroup gid (fun g => { g with
      paths := left g ++ [p],
      qsets := g.qsets.filter (fun q => !hit.any (fun h => h.qid == q.qid)) ++ [counted (left g)],
      lanes := (g.lanes.zipIdx).map (fun x => if lanes.contains x.2 then { x.1 with reason := 0 } else x.1) })
    let old := g.paths.filter (fun x => x.stacked.isSome && !x.lanes.all lanes.contains && hit.any (fun q => q.qid == x.qset))
    let s3 := match (s2.oneStack gid n old).bind (fun s => s.enforceSlots gid [n] false 40) with
      | .done s3 => s3
      | _ => s2.fullSplit gid
    s3.allJoined gid

/-- Every lane of a pending join's mask has arrived or exited (05 R122). -/
def Group.joinReady (g : Group) (j : Join) : Bool :=
  j.mask.all (fun l => (g.lane l).exited ||
    g.paths.any (fun p => p.lanes.contains l && p.joins.head? == some j.jid && g.arrived p))

/-- Completes a pending join: the lanes that arrived go on as one path (05 R122). -/
def State.completeJoin (s : State) (gid jid : Nat) : State :=
  match s.group? gid with
  | none => s
  | some g =>
    match g.join? jid with
    | none => s
    | some j =>
      if g.joinReady j then
        let came := (g.paths.filter (fun p => p.joins.head? == some jid && g.arrived p)).flatMap (·.lanes)
        let lanes := (j.mask.filter (fun l => !(g.lane l).exited) ++ came).dedup
        let rest := match g.paths.find? (fun p => p.joins.head? == some jid) with
          | some p => p.joins.tail
          | none => []
        let s1 := s.modGroup gid (fun g => { g with
          joins := g.joins.filter (fun x => x.jid != jid),
          paths := g.paths.map (fun p => { p with joins := p.joins.filter (· ≠ jid) }) })
        if lanes.isEmpty then s1 else (s1.regang gid lanes j.addr rest).settle gid
      else s

/-! Convergent words (06 R154, 07 R168). -/

/-- Exchanges a live path with the oldest entry of its set's stack (13 R317). The popped path takes a live slot in each of its
quads; one of them that would then hold a third path stacks its oldest (13 R315). None while an access to the stack stalls. -/
def State.exchangeStack (s : State) (gid pid : Nat) : Option State :=
  match s.group? gid with
  | none => some s
  | some g =>
    match g.path? pid with
    | none => some s
    | some p =>
      if p.alone then some s
      else
        match g.stackOf p.qset with
        | [] => some s
        | x :: _ =>
          if !s.popReady gid x then none
          else match ((s.pop gid p.qset).push gid pid true).bind (fun s => s.enforceSlots gid [x.pid] true 40) with
            | .done s1 => some (s1.settle gid)
            | .held => none
            | .overflow => some ((s.fullSplit gid).settle gid)

/-- An exchange (13 R317), or while the stack stalls the state before the word or the step that makes it. -/
def State.exchangeOr (s before : State) (gid pid : Nat) : State := (s.exchangeStack gid pid).getD before

/-- Paths halted at the same word: same address, same instruction. -/
def Group.haltedAt (g : Group) (pc : Word) (i : Instr) : List Path :=
  g.paths.filter (fun p => p.halted == some i && p.pc == pc)

/-- A split pipeline that executes a convergent word with the lanes of a path rejoins that path (13 R321): one among `pids`
whose set holds the lane's quad, else any of them, whose set then takes in the quad, unless lanes of the quad are on paths of another
set. -/
def Group.rejoin (g : Group) (pids : List Nat) (l : Nat) : Group :=
  match g.pathOf? l with
  | none => g
  | some a =>
    if a.alone && pids.contains a.pid && a.halted.isSome then
      let here := g.paths.filter (fun p => !p.alone && pids.contains p.pid && p.halted.isSome && p.pc == a.pc)
      let own := here.filter (fun p => g.qsets.any (fun q => q.qid == p.qset && q.quads.contains (quadOf l)))
      let free := if g.paths.any (fun p => !p.alone && p.lanes.any (fun m => quadOf m == quadOf l)) then [] else here
      match own ++ free with
      | [] => g
      | p :: _ =>
        let g1 := { g with
          paths := g.paths.filter (fun x => x.pid != a.pid),
          qsets := (g.qsets.map (fun (q : QSet) =>
            if q.qid == p.qset then { q with quads := sortNat ((quadOf l :: q.quads).dedup) }
            else { q with quads := q.quads.filter (· ≠ quadOf l) })).filter (fun q => !q.quads.isEmpty) }
        (g1.modPath p.pid (fun x => { x with lanes := sortNat (l :: x.lanes) })).modLane l
          (fun x => { x with reason := 0, owed := 0 })
    else g

/-- The paths of a released word go on at the next word; a stacked one does so when it is popped. -/
def State.releasePaths (s : State) (gid : Nat) (pids : List Nat) : State :=
  let s1 := s.modGroup gid (fun g => (List.range g.size).foldl (fun g l => g.rejoin pids l) g)
  let s2 := (pids.foldl (fun s pid => s.modPath gid pid (fun p =>
    if p.halted.isNone then p
    else if p.stacked.isSome then { p with halted := none, waiting := true }
    else { p with pc := p.pc + 8, halted := none })) s1).modGroup gid Group.unite
  -- a lane that has rejoined can give its quad a third live path
  let s3 := match s2.enforceSlots gid pids false 40 with
    | .done s3 => s3
    | _ => s2.fullSplit gid
  (s3.allJoined gid).settle gid

/-- A form-wide word is complete when every lane that has not exited has halted at it (07 R168). -/
def Group.formReady (g : Group) (pc : Word) (i : Instr) : Bool :=
  g.liveLanes.all (fun l => (g.haltedAt pc i).any (fun p => p.lanes.contains l))

/-- The reading lane: the lowest that has not exited (07 R168). -/
def Group.reader (g : Group) : Nat := g.liveLanes.headD 0

/-! Waits (13 R327). -/

/-- Registers a lane. -/
def Lane.startWait (l : Lane) (w : Wait) : Lane := { l with wait := some w }

/-- When no lane of a waiting path waits any more, the path goes on. -/
def State.wakePath (s : State) (gid pid : Nat) : State :=
  match s.group? gid with
  | none => s
  | some g =>
    match g.path? pid with
    | none => s
    | some p =>
      if p.waiting && p.stacked.isNone && p.lanes.all (fun l => (g.lane l).wait.isNone) then
        (s.modPath gid pid (fun p => { p with waiting := false, pc := p.pc + 8, part := [] })).settle gid
      else s

/-- Ends the wait of a lane with a result; its path goes on when it was the last. -/
def State.endWait (s : State) (gid l : Nat) (f : Lane → Lane) : State :=
  match s.group? gid with
  | none => s
  | some g =>
    let s1 := s.modLane gid l (fun x => { f x with wait := none })
    match g.pathOf? l with
    | none => s1
    | some p => s1.wakePath gid p.pid

/-- The path waits at its word for the lanes that have registered. -/
def State.parkPath (s : State) (gid pid : Nat) : State :=
  (s.modPath gid pid (fun p => { p with waiting := true })).wakePath gid pid

end Sys2Proof.Machine
end

