-- ==== Sys2Proof/Machine/Service.lean ====
section
/-!
DEFINITION. Services that several families share: job counts (17 R397), records and the husk (12 R301, R302), the wake
of parked lanes, engine faults (10 R256 to R258), and the end of lanes, groups and classes (05 R132).
-/

namespace Sys2Proof.Machine

open Sys2Proof

/-! Jobs. -/

def State.job? (s : State) (ctx num : Nat) : Option Job := s.jobs.find? (fun j => j.ctx == ctx && j.num == num)

def State.modJob (s : State) (ctx num : Nat) (f : Job → Job) : State :=
  { s with jobs := updWhere (fun j => j.ctx == ctx && j.num == num) f s.jobs }

def State.jobOpen (s : State) (ctx num : Nat) : Bool := (s.job? ctx num).isSome

def cniOf (site : Site) : Iface := .cni site.die site.cluster

/-- Counts modulo 2^48 (17 R397). -/
def wrap48 (n : Nat) : Nat := n % 2 ^ 48

def Job.countAt (j : Job) (at_ : Iface) : JobCount :=
  (j.counts.find? (fun c => c.at_ == at_)).getD ⟨at_, 0, 0, 0, 0, false⟩

def Job.bump (j : Job) (at_ : Iface) (inj cons : Nat) : Job :=
  let c := j.countAt at_
  { j with counts := { c with inj := wrap48 (c.inj + inj), cons := wrap48 (c.cons + cons), active := true } ::
      j.counts.filter (fun c => c.at_ != at_) }

/-- The loss record of the job or the residency of its context has changed: every interface reports activity (17 R400, R407). -/
def Job.stir (j : Job) : Job := { j with stirred := true }

/-- Adds to the counts of an open job at an interface; a closed job counts nothing. -/
def State.count (s : State) (ctx job : Nat) (at_ : Iface) (inj cons : Nat) : State :=
  s.modJob ctx job (fun j => j.bump at_ inj cons)

/-- The dies in the order of the UCIe ring (01 R17). -/
def dieRing : List Nat := [0, 1, 2, 3, 7, 6, 5, 4]

/-- The next die around the ring, forward or back. -/
def nextDie (fwd : Bool) (d : Nat) : Nat := dieRing.getD ((dieRing.idxOf d + (if fwd then 1 else 7)) % 8) 0

/-- The dies a packet leaves and enters on its way (01 R17). -/
def hopsFrom (fwd : Bool) (d : Nat) : Nat → List (Nat × Nat)
  | 0 => []
  | n + 1 => (d, nextDie fwd d) :: hopsFrom fwd (nextDie fwd d) n

def dieHops (a b : Nat) : Bool × List (Nat × Nat) :=
  let n := (dieRing.idxOf b + 8 - dieRing.idxOf a) % 8
  if n ≤ 4 then (true, hopsFrom true a n) else (false, hopsFrom false a (8 - n))

/-- A message that has crossed UCIe links is injected at each receiving interface and consumed at each sending one, whose
acknowledgement comes with it (17 R397, log 121). -/
def State.countHops (s : State) (ctx job a b : Nat) : State :=
  let h := dieHops a b
  h.2.foldl (fun s x =>
    (s.count ctx job (.ucie x.1 (if h.1 then decide (x.1 < 4) else decide (4 ≤ x.1))) 0 1).count ctx job
      (.ucie x.2 (if h.1 then decide (4 ≤ x.2) else decide (x.2 < 4))) 1 0) s

/-- Counts the way of a message between a die and another, or the MCL port to another package that `port` names, once it has come
there; `back` adds the way of its answer (17 R397). -/
def State.countWay (s : State) (ctx job a b : Nat) (port : Option Nat) (back : Bool) : State :=
  let b := port.elim b (· / 6)
  let s1 := s.countHops ctx job a b
  let s2 := match port with
    | some p => (if back then s1.count ctx job (.port p) 1 0 else s1).count ctx job (.port p) 0 1
    | none => s1
  if back then s2.countHops ctx job b a else s2

/-- What is added to take one away. -/
def minus1 : Nat := 2 ^ 48 - 1

/-! Launches and classes. -/

def Ctx.launch? (c : Ctx) (lid : Nat) : Option Launch := c.launches.find? (fun l => l.lid == lid)

def State.launch? (s : State) (ctx lid : Nat) : Option Launch := (s.ctx? ctx).bind (fun c => c.launch? lid)

def State.modLaunch (s : State) (ctx lid : Nat) (f : Launch → Launch) : State :=
  s.modCtx ctx (fun c => { c with launches := updWhere (fun l => l.lid == lid) f c.launches })

/-- The opening launch of a job (12 R300). -/
def State.opener? (s : State) (ctx job : Nat) : Option Launch :=
  (s.job? ctx job).bind (fun j => s.launch? ctx j.opener)

/-- The number of classes of a launch (12 R292). -/
def Launch.count (l : Launch) : Nat := l.cx * l.cy * l.cz * l.stages

/-- The linear class index of an IDCLASS and stage of the grid (01 R37). -/
def Launch.linear? (l : Launch) (cls stg : Nat) : Option Nat :=
  let x := cls % 2 ^ 16
  let y := cls / 2 ^ 16 % 2 ^ 16
  let z := cls / 2 ^ 32
  if x < l.cx && y < l.cy && z < l.cz && stg < l.stages then some (x + l.cx * (y + l.cy * (z + l.cz * stg))) else none

/-- IDCLASS and stage of a linear class index. -/
def Launch.coords (l : Launch) (n : Nat) : Nat × Nat :=
  let x := n % l.cx
  let y := n / l.cx % l.cy
  let z := n / (l.cx * l.cy) % l.cz
  (x + 2 ^ 16 * y + 2 ^ 32 * z, n / (l.cx * l.cy * l.cz))

/-- The die whose partition range holds a class (12 R292). -/
def Launch.dieOf (l : Launch) (n : Nat) : Nat :=
  ((List.range 8).find? (fun d => decide (l.part.getD d 0 ≤ n) && decide (n < l.part.getD (d + 1) 0))).getD 0

/-- The live class of a launch at a linear index. -/
def State.classAt? (s : State) (ctx lid n : Nat) : Option Klass :=
  s.classes.find? (fun c => c.live && c.ctx == ctx && c.launch == lid && c.linear == n && c.launch != 0)

/-- The grid a lane names classes of: its launch's, or that of its job's opening launch (12 R300). -/
def State.gridOf (s : State) (g : Group) (l : Nat) : Option Launch := s.launch? g.ctx (g.lane l).origin.launch

/-! Records and the husk. -/

/-- Sends a record on its way to an inbox (09 R239). -/
def State.sendRecord (s : State) (r : TaskRec) : State :=
  let (n, s1) := s.fresh
  { s1 with eng := { s1.eng with flights := s1.eng.flights ++ [{ r with seq := n }] } }

/-- The base of a cluster's husk partition (12 R302). -/
def Ctx.huskPart (c : Ctx) (site : Site) : Nat :=
  c.desc.husk + (16 * site.die + site.cluster) * (c.desc.huskSize / 128)

/-- NSLOT (12 R302). -/
def Ctx.nslot (c : Ctx) : Nat := (c.desc.huskSize / 128 - 1088) / 128

/-- Adds 1 to a counter of 8 bytes in physical memory, not below a timestamp; answers the write's. -/
def State.physCount (s : State) (pts pa : Nat) : Nat × State :=
  let (v, s1) := s.physRead pa 8
  s1.physWriteAt pts pa (toBytes 8 ((v + 1) % 2 ^ 64))

/-! Spill slots (12 R302, R303). -/

def State.dropSpill (s : State) (x : Spill) : State :=
  { s with eng := { s.eng with spill := s.eng.spill.filter (fun y => !(y.ctx == x.ctx && y.site == x.site && y.slot == x.slot)) } }

/-- The slot's address. -/
def Ctx.slotPa (c : Ctx) (x : Spill) : Nat := c.huskPart x.site + 1088 + 128 * x.slot

/-- A spill slot of a partition holds something. -/
def State.slotHeld (s : State) (ctx : Nat) (site : Site) (slot : Nat) : Bool :=
  s.eng.spill.any (fun x => x.ctx == ctx && x.site == site && x.slot == slot)

/-- The timestamp of what a slot holds. -/
def SpillItem.pts (i : SpillItem) : Nat :=
  match i with
  | .rec_ r => r.pts
  | .ev e => e.pts

/-- What a CNI reads when an item leaves its slot, the slot itself, SPILLED and RETURNED, is poisoned at this address (12 R302,
18 R422). -/
def State.slotBad? (s : State) (c : Ctx) (x : Spill) : Option Nat :=
  let p := c.huskPart x.site
  if s.mem.poisoned (c.slotPa x) 64 then some (c.slotPa x)
  else if s.mem.poisoned p 8 then some p
  else if s.mem.poisoned (p + 8) 8 then some (p + 8)
  else none

/-- The item has left its slot: RETURNED counts it, and HFULL falls unless the slot at SPILLED mod NSLOT is held still (12 R309). -/
def State.leaveSlot (s : State) (c : Ctx) (x : Spill) : State :=
  let p := c.huskPart x.site
  let s1 := ((s.dropSpill x).physCount x.item.pts (p + 8)).2
  let (n, s2) := s1.physRead p 8
  if s2.slotHeld c.num x.site (n % c.nslot) then s2 else s2.physWrite (p + 24) (toBytes 1 0)

/-! Parked lanes. -/

/-- Ends the waits of the lanes that `sel` picks, and lets their paths go on (13 R327). -/
def State.wakeLanes (s : State) (sel : Group → Nat → Lane → Wait → Option (Lane → Lane)) : State :=
  let f (g : Group) : Group :=
    { g with lanes := (g.lanes.zipIdx).map (fun x =>
        match x.1.wait with
        | none => x.1
        | some w =>
          match sel g x.2 x.1 w with
          | none => x.1
          | some h => { h x.1 with wait := none }) }
  let s1 := { s with groups := s.groups.map f }
  (s1.groups.flatMap (fun g => (g.paths.filter (·.waiting)).map (fun p => (g.gid, p.pid)))).foldl
    (fun s x => s.wakePath x.1 x.2) s1

def WaitKind.isWfi : WaitKind → Bool
  | .wfi => true
  | _ => false

def WaitKind.isWaitm : WaitKind → Bool
  | .waitm => true
  | _ => false

/-- A cause of WFI that concerns a context, on one cluster or on every one (10 R264). -/
def State.wakeWfi (s : State) (ctx : Nat) (site : Option Site) (code : Nat) : State :=
  s.wakeLanes (fun g _ _ w =>
    if w.kind.isWfi && g.ctx == ctx && (site.isNone || site == some g.site) then
      some (fun l => l.wx w.d (BitVec.ofNat 64 (if w.intr then 3 else code)))
    else none)

/-! Engine faults (10 R256, R257). -/

/-- Writes the fault record of the oldest engine fault not yet written, while fewer than EFCOUNT are unacknowledged,
and sends its task to the cluster of the fault. -/
def State.pumpFaults (s : State) (ctx : Nat) : State :=
  match s.ctx? ctx with
  | none => s
  | some c =>
    match c.efs.find? (fun e => !e.written) with
    | none => s
    | some e =>
      if c.desc.efCount ≤ (c.efs.filter (·.written)).length then s
      else
        let pa := c.desc.efRing + 32 * (e.n % c.desc.efCount)
        let w1 := e.kind + 256 * e.cause + 2 ^ 16 * e.sub + 2 ^ 32 * e.tag
        let s1 := s.physWriteWords pa [BitVec.ofNat 64 e.addr, BitVec.ofNat 64 w1, BitVec.ofNat 64 e.site, 0]
        let s2 := s1.modCtx ctx (fun c =>
          { c with efs := updWhere (fun x => x.n == e.n) (fun x => { x with written := true }) c.efs })
        let site : Site := ⟨e.site % 8, e.site / 8 % 16⟩
        let rec_ : TaskRec :=
          { words := [BitVec.ofNat 64 (c.desc.efEntry % 2 ^ 48 + 2 ^ 48), 0, BitVec.ofNat 64 pa,
              BitVec.ofNat 64 e.tag, 0, 0, 0, 0],
            ctx := ctx, pts := (s2.mem.home (pa / 128)).wts, idStage := 0, idLogical := 0xFFFFFFFF, mail := none,
            fault := true, tag := 0, site := site, seq := 0, issuer := none, src := none }
        (s2.sendRecord rec_).wakeWfi ctx none 1

/-- Records an engine fault and answers the state and the tag under which the engine holds the access. -/
def State.engFault (s : State) (ctx kind cause sub addr site : Nat) (ref : EfRef) : State × Nat :=
  match s.ctx? ctx with
  | none => (s, 0)
  | some c =>
    let n := c.efNext
    let tag := 1 + n % (2 ^ 32 - 1)
    let e : EngFault :=
      { n := n, tag := tag, addr := addr, kind := kind, cause := cause, sub := sub, site := site, ref := ref,
        written := false }
    let s1 := s.modCtx ctx (fun c => { c with efNext := n + 1, efs := c.efs ++ [e] })
    (s1.pumpFaults ctx, tag)

/-- The written fault that a tag names (10 R258). -/
def State.fault? (s : State) (ctx : Nat) (tag : Word) : Option EngFault :=
  (s.ctx? ctx).bind (fun c => c.efs.find? (fun e => e.written && BitVec.ofNat 64 e.tag == tag))

/-- Acknowledges a record, and releases what is held under its tag when `resume` (10 R258). -/
def State.ackFault (s : State) (ctx tag : Nat) (resume : Bool) : State :=
  let s1 := s.modCtx ctx (fun c => { c with efs := c.efs.filter (fun e => e.tag != tag) })
  let rel (h : Nat) : Nat := if h = tag then 0 else h
  let s2 := if resume then
      { s1 with
        eng := { s1.eng with
          copies := updWhere (fun c => c.ctx == ctx) (fun c => { c with held := rel c.held }) s1.eng.copies,
          drains := updWhere (fun d => d.ctx == ctx) (fun d => { d with held := rel d.held }) s1.eng.drains,
          decrements := updWhere (fun d => d.ctx == ctx) (fun d => { d with held := rel d.held }) s1.eng.decrements,
          spill := s1.eng.spill },
        rings := updWhere (fun r => r.ctx == ctx)
          (fun r => { r with tiles := r.tiles.map (fun t => { t with held := rel t.held }) }) s1.rings,
        banks := updWhere (fun b => b.ctx == ctx)
          (fun b => { b with emit := b.emit.map (fun e => { e with held := rel e.held }) }) s1.banks,
        link := { s1.link with
          rx := updWhere (fun r => r.ctx == ctx) (fun r => { r with held := rel r.held }) s1.link.rx,
          slotWrites := updWhere (fun w => w.ctx == ctx) (fun w => { w with held := rel w.held }) s1.link.slotWrites } }
    else s1
  s2.pumpFaults ctx

/-- The count of a partition's rejects, which a CNI reads before it writes the next (12 R302). -/
def Ctx.rejectsPa (c : Ctx) (site : Site) : Nat := c.huskPart site + 20

/-- Writes a record to its cluster's reject ring with a reason (12 R302). Where the count there is poisoned, the CNI meets an engine
fault of KIND 7 and holds the record until it can read it (18 R422). -/
def State.reject (s : State) (ctx : Nat) (site : Site) (ws : List Word) (reason : Nat) : State :=
  match s.ctx? ctx with
  | none => s
  | some c =>
    let pa := c.rejectsPa site
    if s.mem.poisoned pa 4 then
      let (n, s1) := s.fresh
      let s2 := { s1 with eng := { s1.eng with rejects := s1.eng.rejects ++ [(⟨ctx, site, ws, reason, n⟩ : PendReject)] } }
      (s2.engFault ctx 7 6 1 pa (siteWord site 0x7F) (.record n)).1
    else
      let (k, s1) := s.physRead pa 4
      let (t, s2) := s1.physWriteWordsAt 0 (c.huskPart site + 64 + 128 * (k % 8)) (ws ++ [BitVec.ofNat 64 reason, 0, 0, 0, 0, 0, 0, 0])
      (s2.physWriteAt t pa (toBytes 4 ((k + 1) % 2 ^ 32))).2

/-- Rejects whose fault has been acknowledged are tried again. -/
def State.retryRejects (s : State) : State :=
  s.eng.rejects.foldl (fun s x =>
    if (s.ctx? x.ctx).any (fun c => c.efs.any (fun e => e.ref == .record x.seq)) then s
    else ({ s with eng := { s.eng with rejects := s.eng.rejects.filter (fun y => y.seq != x.seq) } }).reject x.ctx x.site x.words x.reason) s

/-- What an engine access came to, for the engine: done, an engine fault or a violation (18 R414, R422). -/
inductive EngErr where
  | fault (cause sub addr : Nat)
  | viol (addr : Nat)
deriving DecidableEq, Repr

def engErr {α : Type} (r : MRes α) (sub addr : Nat) : Option EngErr :=
  match r with
  | .ok _ => none
  | .pageFault => some (.fault 3 sub addr)
  | .poisoned => some (.fault 6 1 addr)
  | .protect => some (.viol addr)

/-- The engine violation of 10 R259, by KIND. -/
def State.engViolate (s : State) (ctx kind addr : Nat) (site : Nat) : State :=
  s.violate ctx 0x0C kind kind (BitVec.ofNat 64 addr) site

/-- CTX is in a state in which its engines act. -/
def State.ctxRuns (s : State) (ctx : Nat) : Bool :=
  match s.ctx? ctx with
  | some c => c.st == .running && !c.viol && c.stopAt.isNone && c.saved.isNone
  | none => false

/-! The end of lanes, groups and classes (05 R132). -/

/-- A record is retired: its successor counter is owed a decrement and its message is consumed. -/
def State.retireRec (s : State) (g : Group) (o : Origin) (pts : Nat) : State :=
  let s1 := if o.succ = 0 then s else
    let (n, s1) := s.fresh
    let d : Decrement :=
      { idx := n, launch := false, ctx := g.ctx, addr := o.succ, pts := pts, site := siteWord g.site 0x7F, held := 0 }
    { s1 with eng := { s1.eng with decrements := s1.eng.decrements ++ [d] } }
  if o.counted then s1.count g.ctx o.job (cniOf g.site) 0 1 else s1

/-- The kinds of record that each lane carries for itself: lane tasks and migrated threads. -/
def Origin.perLane (o : Origin) : Bool := o.kind == 2 || o.kind == 3

/-- A ring one of whose station classes ends is abandoned (15 R354, R371). -/
def State.abandonRings (s : State) (kid : Nat) : State :=
  let hit (r : Ring) : Bool := r.stations.any (fun t => t.kid == kid) && r.st != 3
  { s with rings := updWhere hit (fun r => { r with st := 3, tiles := [], encs := [] }) s.rings }

/-- The class of a mailbox record is this one. -/
def TaskRec.mailOf (r : TaskRec) (k : Klass) : Bool := k.launch != 0 && r.ctx == k.ctx && r.mail == some (k.launch, k.linear)

/-- A record is rejected and counts as consumed. -/
def State.rejectRec (s : State) (r : TaskRec) (reason : Nat) : State :=
  (s.reject r.ctx r.site r.words reason).count r.ctx (recFields r.words).theJob (cniOf r.site) 0 1

/-- A spilled mailbox record of a class that ends leaves its slot, as its bytes are now, for the reject ring; one whose slot or counts
are poisoned stays until they can be read. -/
def State.rejectSlot (s : State) (x : Spill) (r : TaskRec) : State :=
  match s.ctx? x.ctx with
  | none => s.dropSpill x
  | some c =>
    if (s.slotBad? c x).isSome then s
    else
      let (ws, s1) := s.physReadWords (c.slotPa x) 8
      (s1.leaveSlot c x).rejectRec { r with words := ws } 2

/-- The records held in the mailbox of a class that ends go to the reject ring with reason 2 (12 R301). -/
def State.rejectMail (s : State) (k : Klass) : State :=
  let inb := s.eng.inbox.filter (fun r => r.mailOf k)
  let s1 := { s with eng := { s.eng with inbox := s.eng.inbox.filter (fun r => !r.mailOf k) } }
  let s2 := inb.foldl (fun s r => s.rejectRec r 2) s1
  (sortBy (fun x => x.seq) s.eng.spill).foldl (fun s x => match x.item with
    | .rec_ r => if r.mailOf k then s.rejectSlot x r else s
    | .ev _ => s) s2

/-- Scratchpads of ended classes go when no copy, drain or SENDA has its destination there (08 R199). -/
def State.reap (s : State) : State :=
  let busy (k : Klass) : Bool :=
    s.eng.copies.any (fun c => match c.dst with | .pad i _ _ => i == k.kid | .glob _ => false) ||
    s.eng.drains.any (fun d => d.elems.any (fun e => match e.at_ with | .pad i _ _ => i == k.kid | .glob _ => false))
  { s with classes := s.classes.filter (fun k => k.live || busy k) }

/-- The last group of a class has ended. -/
def State.endClass (s : State) (kid : Nat) : State :=
  match s.klass? kid with
  | none => s
  | some k =>
    let s1 := ((s.modKlass kid (fun k => { k with live := false })).rejectMail k).abandonRings kid
    let s2 := match s1.launch? k.ctx k.launch with
      | none => s1
      | some l =>
        let s2 := s1.count k.ctx l.job (.cni (l.dieOf k.linear) 0) 0 1
        let s3 := s2.modLaunch k.ctx l.lid (fun l => { l with left := l.left - 1 })
        if l.left = 1 && l.doneAddr ≠ 0 then
          let (n, s4) := s3.fresh
          let d : Decrement :=
            { idx := n, launch := true, ctx := k.ctx, addr := l.doneAddr, pts := l.endPts,
              site := siteWord ⟨0, 0⟩ 0x7F, held := 0 }
          { s4 with eng := { s4.eng with decrements := s4.eng.decrements ++ [d] } }
        else s3
    s2.reap

/-- The flags of an MMA are set in every active lane of its form (02 R68). -/
def State.mmaFlags (s : State) (gid flags : Nat) : State :=
  match s.group? gid with
  | none => s
  | some g => g.liveLanes.foldl (fun s l => s.raiseFlags gid l (Fl.ofNat flags)) s

/-- The lane is parked in QUIET. -/
def Lane.inQuiet (l : Lane) : Bool :=
  match l.wait with
  | some w => match w.kind with | .quiet _ _ => true | _ => false
  | none => false

/-- When a group of a launch class ends and every other group of the class is parked in QUIET, the class counts as consumed
(17 R399). -/
def State.quietRest (s : State) (g : Group) : State :=
  let others := s.groups.filter (fun h => h.cls == g.cls)
  match s.klass? g.cls, s.launch? g.ctx (g.lane 0).origin.launch with
  | some k, some l =>
    if !others.isEmpty && others.all (fun h => h.liveLanes.all (fun i => (h.lane i).inQuiet)) then
      s.count g.ctx l.job (.cni (l.dieOf k.linear) 0) 0 1
    else s
  | _, _ => s

/-- A group none of whose lanes is left ends (05 R132). -/
def State.endGroup (s : State) (gid : Nat) : State :=
  match s.group? gid with
  | none => s
  | some g =>
    if !g.liveLanes.isEmpty then s
    else
      let pts := (g.lanes.map (·.pts)).foldl max 0
      let fl := Fl.orAll (g.mmas.map (fun m => Fl.ofNat m.flags))
      let s1 := s.orCl g.ctx g.site fl
      let o := (g.lane 0).origin
      let s2 := if o.kind = 1 then s1.retireRec g o pts else s1
      let s3 := s2.modLaunch g.ctx o.launch (fun l => { l with endPts := max l.endPts pts })
      let mate (x : Group) : Bool := x.ctx == g.ctx && x.site == g.site && x.pipes == g.pipes
      let rest := s3.groups.filter (fun x => x.gid != gid)
      let s4 := { s3 with groups := updWhere mate (fun x => { x with pass := .held }) rest }
      let left : Nat := match s4.klass? g.cls with | some k => k.groupsLeft | none => 0
      let s5 := s4.modKlass g.cls (fun k => { k with groupsLeft := k.groupsLeft - 1 })
      if left ≤ 1 then s5.endClass g.cls else if o.kind = 0 then s5.quietRest g else s5

/-- Lane l exits (05 R131 step 5, R132): it leaves its path and its record, if it carries one of its own, is retired. -/
def State.exitLane (s : State) (gid l : Nat) : State :=
  match s.group? gid with
  | none => s
  | some g =>
    let x := g.lane l
    let s1 := s.modGroup gid (fun g =>
      { g with
        paths := g.paths.map (fun p => { p with lanes := p.lanes.filter (· ≠ l), part := p.part.filter (· ≠ l) }),
        lanes := g.lanes.modify l (fun x =>
          { x with exited := true, drawCtr := x.srstate, wait := none, watch := none }) }) |>.allJoined gid
    if x.origin.perLane then s1.retireRec g x.origin x.pts else s1

end Sys2Proof.Machine
end

