-- ==== Sys2Proof/Machine/Memory.lean ====
section
/-!
DEFINITION. The meanings of the loads, stores, atomics, hints, fences and monitored waits (08 R207 to R217, R225).
-/

namespace Sys2Proof.Machine

open Sys2Proof

/-- Every engine command that lane l has issued has read its source and made its writes (08 R215). -/
def State.fenceReady (s : State) (gid l : Nat) : Bool :=
  let mine (o : Option (Nat × Nat)) : Bool := o == some (gid, l)
  !(s.eng.copies.any (fun c => c.gid == gid && c.lane == l) ||
    s.eng.drains.any (fun d => d.gid == gid) ||
    s.eng.flights.any (fun r => mine r.issuer) || s.eng.front.any (fun r => mine r.issuer) ||
    s.eng.events.any (fun e => mine e.issuer) ||
    s.rings.any (fun r => r.tiles.any (fun t => mine t.issuer)) ||
    s.link.sends.any (fun c => c.gid == gid && c.lane == l))

/-- What a FENCE orders for a lane whose engine commands are done (08 R215): what follows follows their writes, and later commands
read no byte of its scratchpad from before the write of an agent within its scope (09 R236). -/
def State.fenced (s : State) (gid l : Nat) (sc : Scope) : State :=
  match s.group? gid with
  | none => s
  | some g =>
    let s1 := s.modLane gid l (fun x => { x with pts := max x.pts (max x.cmdPts g.acqPts), fenceOwed := none })
    match s.pad? g.cls (g.member l) with
    | some p =>
      if p.prev.isEmpty then s1
      else s1.modPad g.cls (g.member l) (fun p =>
        { p with prev := p.prev.filter (fun o => !scopeJoins sc o.site o.pipe o.gid g.site (g.pipeOf l) g.gid) })
    | none => s1

/-- No later command of these lanes reads what their scratchpads held before (06 R162, 09 R236). -/
def State.forgetPrev (s : State) (g : Group) (lanes : List Nat) : State :=
  lanes.foldl (fun s l => s.modPad g.cls (g.member l) (fun p => { p with prev := [] })) s

/-- A lane has read a completion by CWAIT or CTEST: its later accesses follow every write that the completion covers (08 R225,
09 R237). -/
def State.seeCompletion (s : State) (gid l : Nat) (addr : Word) : State :=
  match s.group? gid with
  | none => s
  | some g => (s.observeAll gid l addr).forgetPrev g [l]

/-- FENCE in one lane: it holds while an engine command of the lane is not done. -/
def State.fenceLane (s : State) (gid l : Nat) (sc : Scope) : LRes Unit :=
  if s.fenceReady gid l then .ok () (s.fenced gid l sc) else .hold

/-- A release access acts as if a FENCE preceded it (08 R209). -/
def State.ordOpen (s : State) (gid l : Nat) (m : MMod) : LRes Unit :=
  match m.ord with
  | .none | .acq => .ok () s
  | .rel | .ar => s.fenceLane gid l m.scope

/-- An acquire access acts as if a FENCE followed it (08 R209): the lane's next word waits for that. -/
def Lane.acquired (l : Lane) (m : MMod) : Lane :=
  match m.ord with
  | .none | .rel => l
  | .acq | .ar => { l with fenceOwed := some m.scope }

/-- The value LD writes (08 R208). -/
def loadValue (sx : Bool) (bytes v : Nat) : Word :=
  if sx then BitVec.ofInt 64 (sextInt (8 * bytes) v) else BitVec.ofNat 64 v

/-- A store that writes 1 to STATE of a send slot of the lane's context is a transport command (19 R439). -/
def State.noteSend (s : State) (gid l : Nat) (addr : Word) (bs : List Byte) : State :=
  match s.group? gid with
  | none => s
  | some g =>
    let a := addr.toNat
    let hit : Option Nat := (List.range bs.length).find? (fun i => bs.getD i 0 == 1 &&
      s.link.xcfg.any (fun x => x.ctx == g.ctx && x.rings.any (fun r =>
        decide (r.2.1 ≤ a + i) && decide (a + i < r.2.1 + 64 * r.2.2.1) && (a + i - r.2.1) % 64 == 27)))
    match hit with
    | none => s
    | some i => { s with link := { s.link with sends := s.link.sends ++ [⟨g.ctx, a + i - 27, gid, l, g.site, (g.lane l).privS, (g.lane l).pts⟩] } }

/-- A load by a lane into its registers. -/
def State.laneLoad (s : State) (gid l : Nat) (m : MMod) (addr : Word) (n : Nat) (f : Nat → Lane → Lane) : LRes Unit :=
  (s.ordOpen gid l m).bind (fun _ s1 =>
    (s1.load gid l addr n 1).bind (fun v s2 => .ok () (s2.modLane gid l (fun x => (f v x).acquired m))))

/-- A store by a lane. -/
def State.laneStore (s : State) (gid l : Nat) (m : MMod) (addr : Word) (bs : List Byte) : LRes Unit :=
  (s.ordOpen gid l m).bind (fun _ s1 =>
    (s1.store gid l addr bs).bind (fun _ s2 =>
      .ok () ((s2.noteSend gid l addr bs).modLane gid l (fun x => x.acquired m))))

/-- The scopes whose atomics execute in the L1 (08 R213). -/
def scopeNear : Scope → Bool
  | .pl | .form => true
  | _ => false

/-- An atomic by a lane: x[d] receives the old value (08 R211 to R213). -/
def State.laneAtomic (s : State) (gid l : Nat) (m : MMod) (addr : Word) (n : Nat) (d : XReg) (f : Nat → Option Nat) :
    LRes Unit :=
  (s.ordOpen gid l m).bind (fun _ s1 =>
    (s1.rmw gid l addr n (!scopeNear m.scope) f).bind (fun v s2 =>
      .ok () (s2.modLane gid l (fun x => (x.wx d (BitVec.ofNat 64 v)).acquired m))))

def execLd (g : Guard) (d a b : XReg) (off : BitVec 20) (sx : Bool) (m : MMod) (sz : MSize) (s : State) : Out :=
  laneWord g (fun s gid l => s.laneLoad gid l m ((s.lane gid l).addrIndexed a b off) sz.bytes
    (fun v x => x.wx d (loadValue sx sz.bytes v))) s

def execSt (g : Guard) (a b : XReg) (off : BitVec 20) (m : MMod) (sz : MSize) (s : State) : Out :=
  laneWord g (fun s gid l => s.laneStore gid l m ((s.lane gid l).addrData a off)
    (toBytes sz.bytes ((s.lane gid l).rx b).toNat)) s

def execLdv (g : Guard) (d : VReg) (a b : XReg) (off : BitVec 20) (m : MMod) (sz : MSize) (s : State) : Out :=
  laneWord g (fun s gid l => s.laneLoad gid l m ((s.lane gid l).addrIndexed a b off) sz.bytes
    (fun v x => x.wv d (BitVec.ofNat 128 v))) s

def execStv (g : Guard) (a : XReg) (b : VReg) (off : BitVec 20) (m : MMod) (sz : MSize) (s : State) : Out :=
  laneWord g (fun s gid l => s.laneStore gid l m ((s.lane gid l).addrData a off)
    (toBytes sz.bytes ((s.lane gid l).rv b).toNat)) s

/-- The new value of an AMO (08 R211), at width n bytes. -/
def amoNew (op : Nat → Nat → Nat) (n : Nat) (data : Word) (old : Nat) : Option Nat :=
  some (op old (data.toNat % 2 ^ (8 * n)) % 2 ^ (8 * n))

/-- An AMO word. -/
def amoWord (op : Nat → Nat → Nat → Nat) (g : Guard) (d a b : XReg) (off : BitVec 20) (m : MMod) (sz : MSize)
    (s : State) : Out :=
  laneWord g (fun s gid l => s.laneAtomic gid l m ((s.lane gid l).addrData a off) sz.bytes d
    (amoNew (op (8 * sz.bytes)) sz.bytes ((s.lane gid l).rx b))) s

def execAmoAdd (g : Guard) (d a b : XReg) (off : BitVec 20) (m : MMod) (sz : MSize) (s : State) : Out :=
  amoWord (fun _ x y => x + y) g d a b off m sz s

def execAmoAnd (g : Guard) (d a b : XReg) (off : BitVec 20) (m : MMod) (sz : MSize) (s : State) : Out :=
  amoWord (fun _ x y => Nat.land x y) g d a b off m sz s

def execAmoOr (g : Guard) (d a b : XReg) (off : BitVec 20) (m : MMod) (sz : MSize) (s : State) : Out :=
  amoWord (fun _ x y => Nat.lor x y) g d a b off m sz s

def execAmoXor (g : Guard) (d a b : XReg) (off : BitVec 20) (m : MMod) (sz : MSize) (s : State) : Out :=
  amoWord (fun _ x y => Nat.xor x y) g d a b off m sz s

def execAmoMin (g : Guard) (d a b : XReg) (off : BitVec 20) (m : MMod) (sz : MSize) (s : State) : Out :=
  amoWord (fun w x y => if sextInt w y < sextInt w x then y else x) g d a b off m sz s

def execAmoMax (g : Guard) (d a b : XReg) (off : BitVec 20) (m : MMod) (sz : MSize) (s : State) : Out :=
  amoWord (fun w x y => if sextInt w x < sextInt w y then y else x) g d a b off m sz s

def execAmoMinn (g : Guard) (d a b : XReg) (off : BitVec 20) (m : MMod) (sz : MSize) (s : State) : Out :=
  amoWord (fun _ x y => min x y) g d a b off m sz s

def execAmoMaxn (g : Guard) (d a b : XReg) (off : BitVec 20) (m : MMod) (sz : MSize) (s : State) : Out :=
  amoWord (fun _ x y => max x y) g d a b off m sz s

def execAmoSwap (g : Guard) (d a b : XReg) (off : BitVec 20) (m : MMod) (sz : MSize) (s : State) : Out :=
  amoWord (fun _ _ y => y) g d a b off m sz s

/-- CAS compares with x[d] (08 R212). -/
def execCas (g : Guard) (d a b : XReg) (off : BitVec 20) (m : MMod) (sz : MSize) (s : State) : Out :=
  laneWord g (fun s gid l =>
    let x := s.lane gid l
    let w := 2 ^ (8 * sz.bytes)
    s.laneAtomic gid l m (x.addrData a off) sz.bytes d
      (fun old => if old = (x.rx d).toNat % w then some ((x.rx b).toNat % w) else none)) s

/-! Hints (08 R214): an address that would fault, or lies in a scratchpad space, makes them do nothing. -/

/-- The line a hint acts on, when its address is global and readable, and PTS after its table reads. -/
def State.hintLine (s : State) (gid l : Nat) (addr : Word) : Option (Req × Nat × Nat × Nat × MemSys) :=
  match s.group? gid with
  | none => none
  | some g =>
    if addr.toNat / 2 ^ 56 ≠ 0 || s.far g.ctx addr.toNat then none
    else
      let va := addr.toNat
      let r := s.req g l va
      match s.mem.translate r.ptRoot r.die r.ctx r.privS va needR r.pts with
      | (.ok (pa, perm), p, m) => some (r, pa, perm, p, m)
      | _ => none

/-- A hint word. -/
def hintWord (f : MemSys → Req → Nat → Nat → Nat → MemSys) (g : Guard) (a b : XReg) (off : BitVec 20) (s : State) : Out :=
  laneWord g (fun s gid l =>
    let addr := (s.lane gid l).addrIndexed a b off
    match s.hintLine gid l addr with
    | none => .ok () s
    | some (r, pa, perm, p, m) => .ok () ((s.setMem (f m { r with pts := p } addr.toNat pa perm)).setPts gid l p)) s

/-- PREF obtains a lease on the line; it moves PTS no further than its translation does. -/
def prefLine (m : MemSys) (r : Req) (va pa perm : Nat) : MemSys :=
  if m.copies.any (fun c => r.isMine va c && (c.owned || c.lives m.now r.pts)) then m
  else if m.poisoned (pa / 128 * 128) 128 then m
  else (m.l1Fill r va pa perm).1

/-- CLEAN: an owned copy goes home and stays valid and clean; at .die and wider the L2 line goes to HBM. -/
def cleanLine (scope : Scope) (m : MemSys) (r : Req) (va pa : Nat) : MemSys :=
  let m1 := if m.copies.any (fun c => r.isMine va c && c.owned) then m.recall (pa / 128) else m
  if Scope.die.code ≤ scope.code && (m1.home (pa / 128)).dirty then m1.toHbm (pa / 128) else m1

/-- INVAL: CLEAN, then the copy is dropped. -/
def invalLine (scope : Scope) (m : MemSys) (r : Req) (va pa : Nat) : MemSys :=
  (cleanLine scope m r va pa).dropCopies (r.isMine va)

def execPref (g : Guard) (a b : XReg) (off : BitVec 20) (_seg : Bool) (_hint : Hint) (_scope : Scope) (s : State) : Out :=
  hintWord prefLine g a b off s

def execClean (g : Guard) (a b : XReg) (off : BitVec 20) (_seg : Bool) (_hint : Hint) (scope : Scope) (s : State) : Out :=
  hintWord (fun m r va pa _ => cleanLine scope m r va pa) g a b off s

def execInval (g : Guard) (a b : XReg) (off : BitVec 20) (_seg : Bool) (_hint : Hint) (scope : Scope) (s : State) : Out :=
  hintWord (fun m r va pa _ => invalLine scope m r va pa) g a b off s

/-! Monitored waits (08 R216, R217, 14 R348). -/

/-- Arms the watch of a lane. -/
def State.armWatch (s : State) (gid l : Nat) (at_ : LineAt) : State :=
  s.modLane gid l (fun x => { x with watch := some ⟨at_, none⟩ })

/-- MON on a checked place: a global line is leased, and PTS stays but for the reads of its translation. -/
def State.monitor (s : State) (gid l : Nat) (addr : Word) : LRes Unit :=
  match s.group? gid with
  | none => .hold
  | some g =>
    match resolve s g l addr 1 1 with
    | .error t => .trap t
    | .ok (.pad k m off) => .ok () (s.armWatch gid l (.pad k m (off / 128)))
    | .ok (.glob va) =>
      let r := s.req g l va
      if s.far g.ctx va then
        (s.farAccess gid l addr 1 1).bind (fun _ s1 => .ok () (s1.armWatch gid l (.phys ((memLimit + va) / 128))))
      else
        let (_, p, _) := s.mem.translate r.ptRoot r.die r.ctx r.privS va needR r.pts
        let hit := s.mem.copies.any (fun c => r.isMine va c && (c.owned || c.lives s.mem.now r.pts) && permits c.perm needR r.privS)
        match s.mem.l1Load r va 1 with
        | (.ok _, _, m) =>
          match m.l1Copy r va with
          | some c => .ok () (((s.setMem m).setPts gid l (if hit then r.pts else p)).armWatch gid l (.phys c.pline))
          | none => .hold
        | (t, q, m) => s.accessTrap gid l t q m 1 addr

def execMon (g : Guard) (a b : XReg) (off : BitVec 20) (_seg : Bool) (_hint : Hint) (_scope : Scope) (s : State) : Out :=
  laneWord g (fun s gid l => s.monitor gid l ((s.lane gid l).addrIndexed a b off)) s

/-- A watched global line is no longer held under a lease that covers the lane's PTS (08 R216). -/
def State.watchLost (s : State) (g : Group) (l : Nat) (x : Lane) (w : Watch) : Bool :=
  match w.at_ with
  | .pad _ _ _ => false
  | .phys pl =>
    !s.mem.copies.any (fun c => c.pline == pl && c.ctx == g.ctx && c.level == 0 && (c.lives s.mem.now x.pts || c.owned) &&
      (let r := s.req g l (c.key * 128); c.holder == r.holder))

/-- Marks the watches that have been lost. -/
def State.markLost (s : State) : State :=
  { s with groups := s.groups.map (fun g =>
      { g with lanes := (g.lanes.zipIdx).map (fun x =>
          match x.1.watch with
          | some w =>
            if w.fired.isNone && s.watchLost g x.2 x.1 w then { x.1 with watch := some { w with fired := some .lost } }
            else x.1
          | none => x.1) }) }

/-- The cause that holds for a lane in WAITM, if any: the first of INTERRUPTED, STORE, LOST and TIMEOUT. -/
def waitmCause (clk : Nat) (l : Lane) (w : Wait) : Option Nat :=
  if w.intr then some 3
  else match l.watch with
    | some ⟨_, some .store⟩ => some 0
    | some ⟨_, some .lost⟩ => some 1
    | none => some 1
    | some ⟨_, none⟩ =>
      match w.until_ with
      | some t => if t ≤ clk then some 2 else none
      | none => none

/-- The lanes of a path that wait in WAITM return together: each writes its own cause or SPURIOUS, and its watch is
disarmed. -/
def State.waitmReturn (s : State) (gid pid : Nat) : State :=
  s.wakeLanes (fun g l x w =>
    if g.gid == gid && (g.path? pid).any (fun p => p.lanes.contains l) && w.kind.isWaitm then
      some (fun y => { y.wx w.d (BitVec.ofNat 64 ((waitmCause s.clk x w).getD 4)) with watch := none })
    else none)

/-- A register that holds a timeout in clk, where 0 means none. -/
def deadline (clk : Nat) (w : Word) : Option Nat := if w = 0 then none else some (clk + w.toNat)

/-- Registers the active lanes of a path on a wait and parks it; without an active lane the word only advances. -/
def State.register (s : State) (g : Group) (p : Path) (gd : Guard) (mk : Lane → Wait) : State :=
  (s.modGroup g.gid (fun g => g.mapActive p gd (fun l => l.startWait (mk l)))).parkPath g.gid p.pid

def execWaitm (gd : Guard) (d a : XReg) (s : State) : Out :=
  match s.current with
  | none => .next s
  | some (g, p) =>
    let s0 := s.markLost
    let s1 := s0.register g p gd (fun l => ⟨.waitm, d, deadline s.clk (l.rx a), s.clk, false⟩)
    match s1.group? g.gid with
    | none => .next s1
    | some g1 =>
      let due := p.lanes.any (fun l => match (g1.lane l).wait with
        | some w => (waitmCause s1.clk (g1.lane l) w).isSome
        | none => false)
      .next (if due then s1.waitmReturn g.gid p.pid else s1)

/-- WATCH_FIRE: a WAITM whose watch has fired returns (08 R216, R217). -/
def execWatchFire (s : State) : Out :=
  let gid := s.arg 0
  let lane := s.arg 1
  let s1 := s.markLost
  match s1.group? gid with
  | none => .next s1
  | some g =>
    match (g.lane lane).wait, g.pathOf? lane with
    | some w, some p =>
      if w.kind.isWaitm && ((g.lane lane).watch).all (fun x => x.fired.isSome) then .next (s1.waitmReturn gid p.pid)
      else .next s1
    | _, _ => .next s1

/-- WAITM_TIMEOUT: a lane's timeout has elapsed (08 R217). -/
def execWaitmTimeout (s : State) : Out :=
  let gid := s.arg 0
  let lane := s.arg 1
  match s.group? gid with
  | none => .next s
  | some g =>
    match (g.lane lane).wait, g.pathOf? lane with
    | some w, some p =>
      if w.kind.isWaitm && (w.until_).any (fun t => decide (t ≤ s.clk)) then .next (s.waitmReturn gid p.pid)
      else .next s
    | _, _ => .next s

/-! FENCE and the completion waits (08 R215, R225). -/

def execFence (g : Guard) (scope : Scope) (s : State) : Out :=
  laneWord g (fun s gid l => s.fenceLane gid l scope) s

/-- CTEST: x[d] := the word at x[a]. -/
def execCtest (g : Guard) (d a : XReg) (s : State) : Out :=
  laneWord g (fun s gid l =>
    let addr := (s.lane gid l).rx a
    (s.load gid l addr 8 1).bind (fun v s1 =>
      .ok () ((s1.seeCompletion gid l addr).modLane gid l (fun x => x.wx d (BitVec.ofNat 64 v))))) s

/-- The completion word satisfies a CWAIT. -/
def cwaitDone (zero : Bool) (mask v : Word) : Bool := if zero then v == 0 else v &&& mask == mask

/-- One lane of CWAIT: satisfied at once, or registered. -/
def State.cwaitLane (s : State) (gid l : Nat) (addr mask : Word) (zero : Bool) : LRes Unit :=
  (s.load gid l addr 8 1).bind (fun v s1 =>
    if cwaitDone zero mask (BitVec.ofNat 64 v) then .ok () (s1.seeCompletion gid l addr)
    else .ok () (s.modLane gid l (fun x => x.startWait ⟨.cwait addr mask zero, 0, none, s.clk, false⟩)))

/-- Ends a word whose lanes have registered or completed: the path parks while a lane waits. -/
def parkWord (gd : Guard) (f : State → Nat → Nat → LRes Unit) (s : State) : Out :=
  match s.current with
  | none => .next s
  | some (g, p) =>
    let x := partFold (fun s l => f s g.gid l) (g.toDo p gd) s
    let r := x.1
    if r.held then .next (r.st.markDone g.gid p.pid x.2)
    else if r.traps.isEmpty && r.ues.isEmpty then .next (r.st.parkPath g.gid p.pid)
    else
      -- a trapping lane leaves the path; the others wait on
      let s1 := r.st.takeTraps g.gid p.pc r.traps
      if !r.ues.isEmpty then .next ((s1.enterWhole g.gid p.pid p.pc 1 r.ues).settle g.gid)
      else .next ((if (s1.group? g.gid).any (fun g1 => (g1.path? p.pid).any (fun q =>
          q.lanes.any (fun l => r.traps.any (fun t => t.1 == l)))) then s1 else s1.parkPath g.gid p.pid).settle g.gid)

def execCwait (g : Guard) (a b : XReg) (s : State) : Out :=
  parkWord g (fun s gid l => s.cwaitLane gid l ((s.lane gid l).rx a) ((s.lane gid l).rx b) false) s

def execCwaitZero (g : Guard) (a : XReg) (s : State) : Out :=
  parkWord g (fun s gid l => s.cwaitLane gid l ((s.lane gid l).rx a) 0 true) s

/-- A lane leaves a wait by a trap of the word that it waits in (18 R413); the others of its path wait on. -/
def State.trapWaiting (s : State) (gid l : Nat) (t : TrapInfo) : State :=
  match (s.group? gid).bind (fun g => g.pathOf? l) with
  | none => s
  | some p => (s.takeTrap gid l p.pc t).wakePath gid p.pid |>.settle gid

/-- Looks again at the word a parked lane awaits; it goes on when the word satisfies it, and takes the trap or the error that the
load meets. -/
def State.cwaitPoll (s : State) (gid l : Nat) (addr mask : Word) (zero : Bool) : State :=
  match s.group? gid with
  | none => s
  | some g =>
    match resolve s g l addr 8 8 with
    | .error t => s.trapWaiting gid l t
    | .ok loc =>
      match s.loadFresh gid l loc addr 8 1 with
      | .ok v s1 => if cwaitDone zero mask (BitVec.ofNat 64 v) then (s1.seeCompletion gid l addr).endWait gid l id else s
      | .trap t => s.trapWaiting gid l t
      | .trapIn t s1 => s1.trapWaiting gid l t
      | .ue a => match g.pathOf? l with
        | some p => ((s.enterWhole gid p.pid p.pc 1 [(l, a)]).settle gid)
        | none => s
      | .hold => s

end Sys2Proof.Machine
end

