-- ==== Sys2Proof/Machine/Approx.lean ====
section
/-!
DEFINITION. The approximations of 06 R141 and R142: the list of results inside the bound, from which
the opaque `Config.approxPick` takes one (free value, log 5), and the correctly rounded square root.
-/

namespace Sys2Proof.Machine

/-- Floor of the square root, bit by bit. -/
def sqrtBits : Nat → Nat → Nat → Nat
  | 0, _, acc => acc
  | k + 1, n, acc =>
    let t := acc + 2 ^ k
    sqrtBits k n (if t * t ≤ n then t else acc)

def isqrt (n : Nat) : Nat := sqrtBits (Nat.log2 n / 2 + 1) n 0

/-- A positive real as q * 2^e with a sticky bit below: 2q+1 when something was cut off. -/
def sticky (q : Nat) (cut : Bool) : Nat := 2 * q + cut.toNat

/-- 1 / (m * 2^e) with 64 bits more than m. -/
def recipM (m : Nat) (e : Int) : Nat × Int :=
  let s := Nat.log2 m + 64
  (sticky (2 ^ s / m) (2 ^ s % m ≠ 0), -e - s - 1)

/-- The square root of m * 2^e, at least 60 bits. -/
def sqrtM (m : Nat) (e : Int) : Nat × Int :=
  let (m1, e1) := if e % 2 = 0 then (m, e) else (2 * m, e - 1)
  let n := m1 * 2 ^ 160
  let q := isqrt n
  (sticky q (q * q ≠ n), e1 / 2 - 80 - 1)

/-- 1 / sqrt(m * 2^e). -/
def rsqrtM (m : Nat) (e : Int) : Nat × Int :=
  let (m1, e1) := if e % 2 = 0 then (m, e) else (2 * m, e - 1)
  let s := 2 * (Nat.log2 m1 + 80)
  let n := 2 ^ s / m1
  let q := isqrt n
  (sticky q (q * q * m1 ≠ 2 ^ s), -(e1 / 2) - (s / 2 : Nat) - 1)

/-- The next code upward in magnitude of a positive finite code, infinity being the last. -/
def codeUp (t : Ty) (c : Nat) : Nat := if c ≤ (BFmt.of t).maxCode t then c + 1 else c

/-- The neighbours a and b of an exact positive magnitude (02 R55), as codes; above the largest finite
magnitude the largest and infinity (log 5). -/
def neighbours (t : Ty) (m : Nat) (e : Int) : List Nat :=
  let a := (roundBin t .rtz 0 false m e).1
  let x := (roundBin t .rtz 0 false m e).2
  if x.nx then [a, codeUp t a] else [a]

/-- The value of a positive code as an integer over 2^g; the code after the largest finite one stands for
the magnitude b of 02 R55. -/
def codeOver (t : Ty) (c : Nat) (g : Int) : Int :=
  let f := BFmt.of t
  let ex := c / 2 ^ f.frac
  let fr := c % 2 ^ f.frac
  FV.scaled g (if ex = 0 then .fin false fr f.lsb
    else .fin false (fr + 2 ^ f.frac) (f.lsb + (ex - 1 : Nat)))

/-- The codes whose distance from some point strictly between lo * 2^e and hi * 2^e is at most 2 units in the last place, the unit
being that of the exact value's binade: the enclosed value is at neither end. -/
def within2 (t : Ty) (lo hi : Nat) (e : Int) : List Nat :=
  let a := (roundBin t .rtz 0 false lo e).1
  let f := BFmt.of t
  let u : Int := max ((Nat.log2 hi : Int) + e - f.frac) f.lsb
  let g := min e f.lsb
  let sc : Int := 2 ^ (e - g).toNat
  let ulp : Int := 2 ^ (u - g).toNat
  let cands := (List.range 8).filterMap (fun i => if 4 ≤ a + i then some (a + i - 4) else none)
  cands.filter (fun c => decide (c ≤ f.maxCode t + 1) &&
    (decide ((lo : Int) * sc - 2 * ulp < codeOver t c g)) &&
    (decide (codeOver t c g < (hi : Int) * sc + 2 * ulp)))

/-- The delivered result of an approximation: sign, magnitude code, NX, OF and UF (02 R60). -/
def deliver (t : Ty) (neg exact : Bool) (c : Nat) : Nat × Fl :=
  let f := BFmt.of t
  let sign := if neg then 2 ^ (t.bits - 1) else 0
  if exact then (c + sign, Fl.none)
  else (c + sign, { Fl.none with nx := true, ofl := decide (f.maxCode t < c), uf := decide (c < 2 ^ f.frac) })

def pickOf (op : Nat) (t : Ty) (n : Nat) (l : List Nat) (dflt : Nat) : Nat :=
  l.getD (Config.approxPick op t.code n % max 1 l.length) dflt

/-- Delivers an approximation of a positive exact magnitude within 1 ulp. -/
def approx1 (op : Nat) (t : Ty) (n : Nat) (neg : Bool) (m : Nat) (e : Int) : Nat × Fl :=
  let r := roundBin t .rtz 0 false m e
  if r.2.ofl then
    let c := pickOf op t n [(BFmt.of t).maxCode t, infCode t false] (infCode t false)
    (c + (if neg then 2 ^ (t.bits - 1) else 0), Fl.overflow)
  else if r.2.nx then deliver t neg false (pickOf op t n (neighbours t m e) r.1)
  else deliver t neg true r.1

/-- FRCP (06 R141, R142). -/
def frcp (t : Ty) (n : Nat) : Nat × Fl :=
  match val t n with
  | .nan s => (defaultNaN t, Fl.nvIf s)
  | .nal => (defaultNaN t, Fl.none)
  | .inf neg => (zeroCode t neg, Fl.none)
  | .fin neg m e =>
    if m = 0 then (infCode t neg, Fl.divZero)
    else
      let (q, g) := recipM m e
      approx1 0 t n neg q g

/-- FRSQ (06 R141, R142). -/
def frsq (t : Ty) (n : Nat) : Nat × Fl :=
  match val t n with
  | .nan s => (defaultNaN t, Fl.nvIf s)
  | .nal => (defaultNaN t, Fl.none)
  | .inf true => (defaultNaN t, Fl.invalid)
  | .inf false => (0, Fl.none)
  | .fin neg m e =>
    if m = 0 then (infCode t neg, Fl.divZero)
    else if neg then (defaultNaN t, Fl.invalid)
    else
      let (q, g) := rsqrtM m e
      approx1 1 t n false q g

/-- FSQRT (06 R141, R142), correctly rounded. -/
def fsqrt (t : Ty) (mode : RMode) (draw n : Nat) : Nat × Fl :=
  match val t n with
  | .nan s => (defaultNaN t, Fl.nvIf s)
  | .nal => (defaultNaN t, Fl.none)
  | .inf true => (defaultNaN t, Fl.invalid)
  | .inf false => (infCode t false, Fl.none)
  | .fin neg m e =>
    if m = 0 then (zeroCode t neg, Fl.none)
    else if neg then (defaultNaN t, Fl.invalid)
    else
      let (q, g) := sqrtM m e
      roundBin t mode draw false q g

/-- The fixed point of the enclosures: 2^fxBits units to one. -/
def fxBits : Nat := 120

/-- 2^(f / 2^k) for the bits of f below 2^k, highest first, truncated at every step; `root` is
2^(2^-j) of the bit at hand. -/
def exp2Frac : Nat → Nat → Nat → Nat → Nat
  | 0, _, _, acc => acc
  | k + 1, f, root, acc =>
    let acc' := if f / 2 ^ k % 2 = 1 then acc * root / 2 ^ fxBits else acc
    exp2Frac k f (isqrt (root * 2 ^ fxBits)) acc'

/-- An enclosure of 2^x for x = z + f/2^80 with 0 <= f < 2^80: [lo, hi] * 2^(z - fxBits); the slack
covers the truncations and the part of the operand below 2^-80, and stays below the next power of two, as 2^x does. -/
def exp2Encl (f : Nat) : Nat × Nat :=
  let lo := exp2Frac 80 f (isqrt (2 * 2 ^ (2 * fxBits))) (2 ^ fxBits)
  (lo, min (lo + 2 ^ (fxBits - 78)) (2 ^ (fxBits + 1) - 1))

/-- FEXP2 (06 R141, R142). -/
def fexp2 (t : Ty) (n : Nat) : Nat × Fl :=
  match val t n with
  | .nan s => (defaultNaN t, Fl.nvIf s)
  | .nal => (defaultNaN t, Fl.none)
  | .inf true => (0, Fl.none)
  | .inf false => (infCode t false, Fl.none)
  | .fin neg m e =>
    if m = 0 then roundBin t .rne 0 false 1 0
    else
      let top : Int := (Nat.log2 m : Int) + e
      if 9 ≤ top then
        if neg then
          deliver t false false (pickOf 2 t n (if t = .f32 then [0, 1, 2] else [0, 1]) 0)
        else (pickOf 2 t n [(BFmt.of t).maxCode t, infCode t false] (infCode t false), Fl.overflow)
      else
        -- x in units of 2^-80, rounded down
        let (k, r, _) := inUnits m e (-80)
        let x : Int := if neg then -((k + (if r = 0 then 0 else 1) : Nat) : Int) else k
        let z := x / 2 ^ 80
        let f := (x % 2 ^ 80).toNat
        if f = 0 && r = 0 && !(roundBin t .rtz 0 false 1 z).2.nx then roundBin t .rne 0 false 1 z
        else
          let (lo, hi) := exp2Encl f
          let g : Int := z - fxBits
          if (roundBin t .rtz 0 false lo g).2.ofl then
            (pickOf 2 t n [(BFmt.of t).maxCode t, infCode t false] (infCode t false), Fl.overflow)
          else if t = .f32 then
            deliver t false false (pickOf 2 t n (within2 t lo hi g) (roundBin t .rne 0 false lo g).1)
          else
            deliver t false false
              (pickOf 2 t n ((neighbours t lo g ++ neighbours t hi g).dedup) (roundBin t .rne 0 false lo g).1)

/-- Binary digits of log2 of y/2^fxBits in [1, 2), by squaring. -/
def log2Digits : Nat → Nat → Nat → Nat
  | 0, _, acc => acc
  | k + 1, y, acc =>
    let y2 := y * y / 2 ^ fxBits
    if 2 ^ (fxBits + 1) ≤ y2 then log2Digits k (y2 / 2) (2 * acc + 1) else log2Digits k y2 (2 * acc)

/-- An enclosure of |log2(m * 2^e)| in units of 2^-90, its sign and whether it is exact. -/
def log2Encl (m : Nat) (e : Int) : Bool × Nat × Nat × Bool :=
  let l := Nat.log2 m
  let top : Int := (l : Int) + e
  if m = 2 ^ l then (decide (top < 0), top.natAbs * 2 ^ 90, top.natAbs * 2 ^ 90, true)
  else
    let y := m * 2 ^ fxBits / 2 ^ l
    let d := log2Digits 90 y 0
    let lo : Int := top * 2 ^ 90 + d
    -- the digits of a truncated square err by less than 4 units of the last digit
    if 0 ≤ top then (false, lo.toNat - 4, lo.toNat + 4, false)
    else (true, (-lo).toNat - 4, (-lo).toNat + 4, false)

/-- FLOG2 (06 R141, R142). Where no f32 value lies within 2^-22 of the logarithm the result is the nearest one (log 113). -/
def flog2 (t : Ty) (n : Nat) : Nat × Fl :=
  match val t n with
  | .nan s => (defaultNaN t, Fl.nvIf s)
  | .nal => (defaultNaN t, Fl.none)
  | .inf true => (defaultNaN t, Fl.invalid)
  | .inf false => (infCode t false, Fl.none)
  | .fin neg m e =>
    if m = 0 then (infCode t true, Fl.divZero)
    else if neg then (defaultNaN t, Fl.invalid)
    else
      let (s, lo, hi, exact) := log2Encl m e
      if exact then
        if lo = 0 then (0, Fl.none) else roundBin t .rne 0 s lo (-90)
      else
        let cands :=
          if t = .f32 then
            -- and within 2^-22 of the exact value
            (within2 t lo hi (-90)).filter (fun c =>
              let g : Int := min (-150) (-90)
              let v := codeOver t c g
              decide ((lo : Int) * 2 ^ 60 - 2 ^ 128 ≤ v) && decide (v ≤ (hi : Int) * 2 ^ 60 + 2 ^ 128))
          else (neighbours t lo (-90) ++ neighbours t hi (-90)).dedup
        deliver t s false (pickOf 3 t n cands (roundBin t .rne 0 false lo (-90)).1)

end Sys2Proof.Machine
end

