-- ==== Sys2Proof/Machine/Packed.lean ====
section
/-!
DEFINITION. The packed computations of 06, one lane at a time: elements, the floating and integer
element functions, conversions, packing, dot products, sums, and the reductions over lanes.
-/

namespace Sys2Proof.Machine

/-- elt(v, i, w) (06 R136). -/
def elt (v : BitVec 128) (i w : Nat) : Nat := v.toNat / 2 ^ (w * i) % 2 ^ w

def eltCount (w : Nat) : Nat := 128 / w

def elts (v : BitVec 128) (w : Nat) : List Nat := (List.range (eltCount w)).map (fun i => elt v i w)

/-- The number whose w-bit digits are the list, least significant first. -/
def packNat (w : Nat) : List Nat → Nat
  | [] => 0
  | x :: l => x % 2 ^ w + 2 ^ w * packNat w l

def ofElts (w : Nat) (l : List Nat) : BitVec 128 := BitVec.ofNat 128 (packNat w l)

/-- v with element i replaced. -/
def setElt (v : BitVec 128) (i w x : Nat) : BitVec 128 := ofElts w ((elts v w).set i x)

/-- What a rounding instruction reads of a lane besides its operands: FPCTL, the generator and its key. -/
structure FpEnv where
  fpctl : Word
  sr : Word
  seed : Word
deriving DecidableEq, Repr

/-- The result of a packed instruction in one lane: the register, the flags and SRSTATE after it. -/
structure VRes where
  v : BitVec 128
  fl : Fl
  sr : Word
deriving DecidableEq, Repr

def FpEnv.mode (env : FpEnv) (rm : Rm) (t : Ty) : RMode := resolveRm rm env.fpctl t.isNarrowFloat

/-- Writes the elements computed by `f`, each with its own draw in ascending index (06 R137). -/
def mapElts (env : FpEnv) (mode : RMode) (w n : Nat) (f : Nat → Nat → Nat × Fl) : VRes :=
  let r := (List.range n).map (fun i => f i (srDrawAt env.sr env.seed i))
  ⟨ofElts w (r.map (·.1)), Fl.orAll (r.map (·.2)), srAfter mode env.sr n⟩

/-- The same without rounding: no draw. -/
def mapPure (env : FpEnv) (w : Nat) (f : Nat → Nat × Fl) : VRes :=
  let r := (List.range (eltCount w)).map f
  ⟨ofElts w (r.map (·.1)), Fl.orAll (r.map (·.2)), env.sr⟩

/-! Floating arithmetic (06 R138). -/

def faddElt (t : Ty) (mode : RMode) (x y draw : Nat) : Nat × Fl :=
  roundSum t mode draw (FV.sum (mode = .rdn) [val t x, val t y])

def fsubElt (t : Ty) (mode : RMode) (x y draw : Nat) : Nat × Fl :=
  roundSum t mode draw (FV.sum (mode = .rdn) [val t x, (val t y).neg])

def fmulElt (t : Ty) (mode : RMode) (x y draw : Nat) : Nat × Fl :=
  roundSum t mode draw ((val t x).mul (val t y))

/-- X * Y + Z; 0 * inf is invalid even when Z is a quiet NaN. -/
def ffmaVal (mode : RMode) (x y z : FV) : FV × Bool :=
  let p := x.mul y
  let s := FV.sum (mode = .rdn) [p.1, z]
  (s.1, p.2 || s.2)

def ffmaElt (t : Ty) (mode : RMode) (x y z draw : Nat) : Nat × Fl :=
  roundSum t mode draw (ffmaVal mode (val t x) (val t y) (val t z))

def ffmsElt (t : Ty) (mode : RMode) (x y z draw : Nat) : Nat × Fl :=
  roundSum t mode draw (ffmaVal mode (val t x) (val t y) (val t z).neg)

def fbin (f : Ty → RMode → Nat → Nat → Nat → Nat × Fl) (env : FpEnv) (t : Ty) (rm : Rm)
    (a b : BitVec 128) : VRes :=
  let mode := env.mode rm t
  mapElts env mode t.bits (eltCount t.bits) (fun i dr => f t mode (elt a i t.bits) (elt b i t.bits) dr)

def ftern (f : Ty → RMode → Nat → Nat → Nat → Nat → Nat × Fl) (env : FpEnv) (t : Ty) (rm : Rm)
    (a b c : BitVec 128) : VRes :=
  let mode := env.mode rm t
  mapElts env mode t.bits (eltCount t.bits)
    (fun i dr => f t mode (elt a i t.bits) (elt b i t.bits) (elt c i t.bits) dr)

/-! Minimum, maximum, sign operations, comparison (06 R139, R140). -/

/-- x < y over non-NaN values, with -0 below +0 when `zeros` says so. -/
def fvLt (zeros : Bool) (x y : FV) : Bool :=
  match x, y with
  | .inf a, .inf b => a && !b
  | .inf a, _ => a
  | _, .inf b => !b
  | .fin a m _, .fin b n _ =>
    if m = 0 && n = 0 then zeros && a && !b
    else
      let e := FV.minExp [x, y]
      decide (FV.scaled e x < FV.scaled e y)
  | _, _ => false

def fvEq (x y : FV) : Bool := !x.isNaN && !y.isNaN && !fvLt false x y && !fvLt false y x

/-- FMIN and FMAX of one element. -/
def fminmaxElt (isMax : Bool) (t : Ty) (x y : Nat) : Nat × Fl :=
  let X := val t x
  let Y := val t y
  let fl := Fl.nvIf (X.isSig || Y.isSig)
  if X.isNaN && Y.isNaN then (defaultNaN t, fl)
  else if X.isNaN then (y, fl)
  else if Y.isNaN then (x, fl)
  else
    let lt := fvLt true X Y
    (if isMax then (if lt then y else x) else (if fvLt true Y X then y else x), fl)

def fabsElt (t : Ty) (x : Nat) : Nat × Fl :=
  if (val t x).isNaN then (defaultNaN t, Fl.nvIf (val t x).isSig)
  else (x % 2 ^ (t.bits - 1), Fl.none)

def fnegElt (t : Ty) (x : Nat) : Nat × Fl :=
  if (val t x).isNaN then (defaultNaN t, Fl.nvIf (val t x).isSig)
  else ((x + 2 ^ (t.bits - 1)) % 2 ^ t.bits, Fl.none)

def fcmpElt (c : FCond) (t : Ty) (x y : Nat) : Bool × Fl :=
  let X := val t x
  let Y := val t y
  let nan := X.isNaN || Y.isNaN
  let sig := X.isSig || Y.isSig
  match c with
  | .eq => (fvEq X Y, Fl.nvIf sig)
  | .ne => (!fvEq X Y, Fl.nvIf sig)
  | .lt => (!nan && fvLt false X Y, Fl.nvIf nan)
  | .le => (!nan && !fvLt false Y X, Fl.nvIf nan)
  | .gt => (!nan && fvLt false Y X, Fl.nvIf nan)
  | .ge => (!nan && !fvLt false X Y, Fl.nvIf nan)
  | .un => (nan, Fl.nvIf sig)
  | .ord => (!nan, Fl.nvIf sig)

/-- The outcomes of a comparison in every element and the flags. -/
def fcmpAll (c : FCond) (t : Ty) (a b : BitVec 128) : List Bool × Fl :=
  let r := (List.range (eltCount t.bits)).map (fun i => fcmpElt c t (elt a i t.bits) (elt b i t.bits))
  (r.map (·.1), Fl.orAll (r.map (·.2)))

def vcmpAll (c : Cond) (t : Ty) (a b : BitVec 128) : List Bool :=
  (List.range (eltCount t.bits)).map
    (fun i => condEval c (intVal t (elt a i t.bits)) (intVal t (elt b i t.bits)))

def maskElts (w : Nat) (l : List Bool) : BitVec 128 :=
  ofElts w (l.map (fun b => if b then 2 ^ w - 1 else 0))

/-- The bits of an element that hold its value: a LOG6 element ignores bits 7:6 of its byte (02 R48). -/
def valueBits (t : Ty) (n : Nat) : Nat := if t = .lg6 then n % 64 else n

def fselReg (t : Ty) (a b c : BitVec 128) : BitVec 128 :=
  ofElts t.bits ((List.range (eltCount t.bits)).map
    (fun i => if valueBits t (elt c i t.bits) ≠ 0 then valueBits t (elt a i t.bits) else valueBits t (elt b i t.bits)))

/-! Conversions and packing (06 R143 to R145). -/

def fcvtReg (env : FpEnv) (t st : Ty) (rm : Rm) (p : Nat) (old a : BitVec 128) : VRes :=
  let wd := t.bits
  let ws := st.bits
  let n := 128 / max wd ws
  let mode := env.mode rm t
  let r := (List.range n).map (fun i =>
    convert st t mode (srDrawAt env.sr env.seed i) (elt a (if ws < wd then p * n + i else i) ws))
  let base := if wd < ws then p * n else 0
  let v := (r.zipIdx base).foldl (fun acc x => setElt acc x.2 wd x.1.1) old
  ⟨v, Fl.orAll (r.map (·.2)), srAfter mode env.sr n⟩

/-- The scale code of FPACK and FUNPACK: 127 when c is 0. -/
def scaleCode (unscaled : Bool) (c : Word) : Nat := if unscaled then 127 else c.toNat % 256

def fpackReg (env : FpEnv) (t : Ty) (rm : Rm) (p s : Nat) (old a b : BitVec 128) : VRes :=
  let mode := env.mode rm t
  let r := (List.range 8).map (fun i =>
    let x := if i < 4 then elt a i 32 else elt b (i - 4) 32
    if s = 0xFF then (defaultNaN t, if t = .lg6 then Fl.invalid.or Fl.log else Fl.invalid)
    else roundTo t mode (srDrawAt env.sr env.seed i) ((val .f32 x).scale (127 - (s : Int))))
  let v := (r.zipIdx (8 * p)).foldl (fun acc x => setElt acc x.2 t.bits x.1.1) old
  ⟨v, Fl.orAll (r.map (·.2)), srAfter mode env.sr 8⟩

def funpackReg (env : FpEnv) (st : Ty) (p s : Nat) (a : BitVec 128) : VRes :=
  mapPure env 32 (fun i =>
    if s = 0xFF then (defaultNaN .f32, Fl.invalid.or (Fl.liIf (val st (elt a (4 * p + i) st.bits) == .nal)))
    else roundTo .f32 .rne 0 ((val st (elt a (4 * p + i) st.bits)).scale ((s : Int) - 127)))

/-! Dot product, sum, class (06 R146 to R148). -/

/-- The exact product of two source elements, whether it is invalid, and its LOG6 flag (02 R46). -/
def dotProd (st : Ty) (x y : Nat) : FV × Bool × Bool :=
  if st = .lg6 then let r := logMul x y; (r.1, false, r.2)
  else let r := (val st x).mul (val st y); (r.1, r.2, false)

def fdotElt (t st : Ty) (mode : RMode) (sat : Bool) (j acc : Nat) (a b : BitVec 128) (draw : Nat) :
    Nat × Fl :=
  let g := 32 / st.bits
  let es := (List.range g).map (fun k => (elt a (j * g + k) st.bits, elt b (j * g + k) st.bits))
  let ps := es.map (fun x => dotProd st x.1 x.2)
  if t = .i32 then
    let z := ps.foldl (fun z p => z + FV.scaled 0 p.1) (intVal .i32 acc)
    (intBits 32 (if sat then clampInt 32 true z else z), Fl.none)
  else
    let sum := FV.sum (mode = .rdn) (ps.map (·.1))
    -- 02 R67: a NaN operand decides alone, whatever the other products are
    let nan := st != .lg6 && es.any (fun x => (val st x.1).isNaN || (val st x.2).isNaN)
    let nv := if nan then es.any (fun x => (val st x.1).isSig || (val st x.2).isSig) else ps.any (fun p => p.2.1) || sum.2
    let li := ps.any (fun p => p.2.2)
    let s := FV.sum (mode = .rdn) [val .f32 acc, sum.1]
    let r := roundSum .f32 mode draw s
    (r.1, (r.2.or (Fl.nvIf nv)).or (Fl.liIf li))

def fdotReg (env : FpEnv) (t st : Ty) (rm : Rm) (sat : Bool) (d a b : BitVec 128) : VRes :=
  let mode := env.mode rm t
  mapElts env mode 32 4 (fun j dr => fdotElt t st mode sat j (elt d j 32) a b dr)

def fsumReg (env : FpEnv) (st : Ty) (rm : Rm) (a : BitVec 128) : VRes :=
  let mode := env.mode rm .f32
  let s := FV.sum (mode = .rdn) ((elts a st.bits).map (val st))
  let r := roundSum .f32 mode (srDrawAt env.sr env.seed 0) s
  ⟨ofElts 32 [r.1, 0, 0, 0], r.2, srAfter mode env.sr 4⟩

def fclassBit (t : Ty) (x : Nat) : Nat :=
  match val t x with
  | .inf n => if n then 0 else 7
  | .nan s => if s then 8 else 9
  | .nal => 9
  | .fin n m _ =>
    if m = 0 then (if n then 3 else 4)
    else if m < 2 ^ (BFmt.of t).frac then (if n then 2 else 5)
    else (if n then 1 else 6)

def fclassReg (t : Ty) (a : BitVec 128) : BitVec 128 :=
  ofElts t.bits ((elts a t.bits).map (fun x => 2 ^ fclassBit t x))

/-! Moves and packed integers (06 R149, R150). -/

/-- The bits of an element that hold its value: six of a LOG6 byte, bits 7:6 being ignored on a read and written zero
(02 R48). -/
def eltBits (t : Ty) : Nat := if t = .lg6 then 6 else t.bits

def vbcastReg (t : Ty) (x : Word) : BitVec 128 :=
  ofElts t.bits (List.replicate (eltCount t.bits) (x.toNat % 2 ^ eltBits t))

def vextrVal (t : Ty) (a : BitVec 128) (i : Nat) : Word :=
  if t.isSigned then BitVec.ofInt 64 (sextInt t.bits (elt a i t.bits))
  else BitVec.ofNat 64 (elt a i t.bits % 2 ^ eltBits t)

def vinsReg (t : Ty) (old : BitVec 128) (x : Word) (i : Nat) : BitVec 128 :=
  setElt old i t.bits (x.toNat % 2 ^ eltBits t)

def vintReg (t : Ty) (f : Int → Int → Int) (sat : Bool) (a b : BitVec 128) : BitVec 128 :=
  ofElts t.bits ((List.range (eltCount t.bits)).map (fun i =>
    let r := f (intVal t (elt a i t.bits)) (intVal t (elt b i t.bits))
    intBits t.bits (if sat then clampInt t.bits t.isSigned r else r)))

/-- VSHL and VSHR: the count is the element of v[b] mod w. -/
def vshiftReg (t : Ty) (left : Bool) (a b : BitVec 128) : BitVec 128 :=
  ofElts t.bits ((List.range (eltCount t.bits)).map (fun i =>
    let m := elt b i t.bits % t.bits
    let x := intVal t (elt a i t.bits)
    intBits t.bits (if left then x * 2 ^ m else x / 2 ^ m)))

def vpopcReg (t : Ty) (a : BitVec 128) : BitVec 128 :=
  ofElts t.bits ((elts a t.bits).map (popCount t.bits))

def vapprox (f : Ty → Nat → Nat × Fl) (env : FpEnv) (t : Ty) (a : BitVec 128) : VRes :=
  mapPure env t.bits (fun i => f t (elt a i t.bits))

/-! Reductions over lanes (06 R157, R158). -/

/-- The default identity of an absent lane, in w bits (06 R157). `rdn`: the rounding is towards -inf. -/
def redIdentity (op : RedOp) (t : Ty) (rdn : Bool) : Nat :=
  if t = .f32 then
    match op with
    | .min => 0x7F800000
    | .max => 0xFF800000
    | _ => if rdn then 0 else 0x80000000
  else match op with
  | .add | .or | .xor => 0
  | .and => 2 ^ t.bits - 1
  | .min | .minidx => intBits t.bits (tmax t.bits t.isSigned)
  | .max | .maxidx => intBits t.bits (tmin t.bits t.isSigned)

/-- The integer reduction of a nonempty range of values given as w-bit patterns. -/
def redInt (op : RedOp) (t : Ty) (sat : Bool) (l : List Nat) : Nat :=
  match op with
  | .add =>
    let z := (l.map (intVal t)).foldl (· + ·) 0
    intBits t.bits (if sat then clampInt t.bits t.isSigned z else z)
  | .and => l.foldl Nat.land (2 ^ t.bits - 1)
  | .or => l.foldl Nat.lor 0
  | .xor => l.foldl Nat.xor 0
  | .min | .minidx =>
    match l with
    | [] => 0
    | x :: r => r.foldl (fun acc y => if intVal t y < intVal t acc then y else acc) x
  | .max | .maxidx =>
    match l with
    | [] => 0
    | x :: r => r.foldl (fun acc y => if intVal t acc < intVal t y then y else acc) x

/-- The .f32 reductions: .add exact and rounded once, .min and .max as FMIN and FMAX, a NaN alone being the default NaN
(02 R59, 06 R139). -/
def redF32 (op : RedOp) (mode : RMode) (draw : Nat) (l : List Nat) : Nat × Fl :=
  match op with
  | .min | .max =>
    match l with
    | [] => (0, Fl.none)
    | x :: r => r.foldl (fun acc y =>
        let z := fminmaxElt (op == .max) .f32 acc.1 y
        (z.1, acc.2.or z.2)) (if (val .f32 x).isNaN then defaultNaN .f32 else x, Fl.nvIf (val .f32 x).isSig)
  | _ => roundSum .f32 mode draw (FV.sum (mode = .rdn) (l.map (val .f32)))

/-- The value of a cross-lane result in x[d]: store() of 05 R111, or 32 bits zero-extended for .f32. -/
def redStore (t : Ty) (n : Nat) : Word :=
  if t.isSigned then BitVec.ofInt 64 (sextInt t.bits n) else BitVec.ofNat 64 (n % 2 ^ t.bits)

/-- The lowest lane number whose value equals the extremum. -/
def lowestIndex (e : Nat) : List (Nat × Nat) → Nat
  | [] => 0
  | (l, v) :: r => if v = e then l else lowestIndex e r

end Sys2Proof.Machine
end

