-- ==== Sys2Proof/Machine/Control.lean ====
section
/-!
DEFINITION. The meanings of the control words (05 R121 to R134), of the dual word (03 R81 to R84, R94), and of the
steps that reunite and rotate paths (05 R122, 13 R317).
-/

namespace Sys2Proof.Machine

open Sys2Proof

/-! Branches (05 R121, R124, R125). -/

/-- A target outside space 0x00 (03 R71, 05 R125): checked first. -/
def targetTrap (t : Word) : Option TrapInfo :=
  if t.toNat / 2 ^ 56 ≠ 0 then some ⟨4, 1, t, false⟩
  else if t.toNat % 8 ≠ 0 then some ⟨2, 0, t, false⟩
  else none

/-- Writes the link register of the lanes that transfer. -/
def State.linkLanes (s : State) (gid : Nat) (link : Option XReg) (lanes : List Nat) (pc : Word) : State :=
  match link with
  | none => s
  | some r => lanes.foldl (fun s l => s.modLane gid l (fun x => x.wx r (pc + 8))) s

/-- Divides a path, with the link registers written unless the division overflows (13 R316). -/
def State.transfer (s : State) (g : Group) (p : Path) (traps : List (Nat × TrapInfo)) (parts : List Part)
    (join fall : Option Word) (link : Option XReg) (linked : List Nat) : State :=
  let s1 := match (s.takeTraps g.gid p.pc traps).divide g.gid p.pid parts join with
    | .overflow _ | .held => s
    | _ => s.linkLanes g.gid link linked p.pc
  s1.control g.gid p.pid p.pc traps parts join fall

/-- BR, BRD and CALL: one target, and a lane whose guard does not hold goes on at PC + 8 (05 R124). -/
def branchWord (gd : Guard) (disp : BitVec 24) (join : BitVec 14) (link : Option XReg) (s : State) : Out :=
  match s.current with
  | none => .next s
  | some (g, p) =>
    let act := g.active p gd
    let t := branchTarget p.pc disp
    let rest := p.lanes.filter (fun l => !act.contains l)
    if t.toNat / 2 ^ 56 ≠ 0 then
      .next (s.transfer g p (act.map (fun l => (l, ⟨4, 1, t, false⟩))) (partsOf (rest.map (fun l => (l, p.pc + 8))))
        none none none [])
    else
      let parts := partsOf (p.lanes.map (fun l => (l, if act.contains l then t else p.pc + 8)))
      .next (s.transfer g p [] parts (joinTarget p.pc join) (some (p.pc + 8)) link act)

def execBr (g : Guard) (disp : BitVec 24) (s : State) : Out := branchWord g disp 0 none s

def execBrd (g : Guard) (disp : BitVec 24) (join : BitVec 14) (s : State) : Out := branchWord g disp join none s

def execCall (g : Guard) (l : XReg) (disp : BitVec 24) (s : State) : Out := branchWord g disp 0 (some l) s

/-- JMP, RET, JIND and CALLIND: one pass of the election of 05 R126. Targets are read at the first pass; the lanes that
remain issue the word again. -/
def electWord (gd : Guard) (target : Lane → Word) (join : BitVec 14) (link : Option XReg) (s : State) : Out :=
  match s.current with
  | none => .next s
  | some (g, p) =>
    let first := p.election.isEmpty
    let act := if first then g.active p gd else p.election.map (·.lane)
    let all : List Elect := if first then act.map (fun l => ⟨l, target (g.lane l)⟩) else p.election
    let traps := all.filterMap (fun e => (targetTrap e.target).map (fun t => (e.lane, t)))
    let pending := all.filter (fun e => (targetTrap e.target).isNone)
    let rest := p.lanes.filter (fun l => !act.contains l)
    match pending with
    | [] => .next (s.transfer g p traps (partsOf (rest.map (fun l => (l, p.pc + 8)))) none none none [])
    | e :: _ =>
      let chosen := pending.filter (fun x => x.target == e.target)
      let later := pending.filter (fun x => x.target != e.target)
      let ps := addPart [] ⟨chosen.map (·.lane), e.target, []⟩
      let ps := addPart ps ⟨later.map (·.lane), p.pc, later⟩
      let ps := rest.foldl (fun ps l => addPart ps ⟨[l], p.pc + 8, []⟩) ps
      .next (s.transfer g p traps ps (if first then joinTarget p.pc join else none) none link (chosen.map (·.lane)))

def execJmp (g : Guard) (a : XReg) (disp : BitVec 24) (s : State) : Out :=
  electWord g (fun l => l.jumpTarget a disp) 0 none s

def execRet (g : Guard) (a : XReg) (s : State) : Out := electWord g (fun l => l.rx a) 0 none s

def execJind (g : Guard) (a : XReg) (join : BitVec 14) (s : State) : Out := electWord g (fun l => l.rx a) join none s

def execCallind (g : Guard) (l a : XReg) (join : BitVec 14) (s : State) : Out :=
  electWord g (fun x => x.rx a) join (some l) s

/-! JOIN (05 R127). -/

/-- The join set of a path: the mask of its innermost pending join, or every lane of the group. -/
def Group.joinSet (g : Group) (p : Path) : List Nat :=
  match p.joins with
  | [] => List.range g.size
  | j :: _ => match g.join? j with
    | some x => x.mask
    | none => List.range g.size

/-- The JOIN of a path completes when every lane of its join set has reached a JOIN at the same address or exited. Other paths there
whose join sets are complete with it go on as one path with it, inside the innermost joins of them (log 106). -/
def State.tryJoin (s : State) (gid pid : Nat) : State :=
  match s.group? gid with
  | none => s
  | some g =>
    match g.path? pid with
    | none => s
    | some p =>
      let at_ := g.haltedAt p.pc .join
      let set (q : Path) : List Nat := (g.joinSet q).filter (fun l => !(g.lane l).exited)
      let full (q : Path) : Bool := (set q).all (fun l => at_.any (fun r => r.lanes.contains l))
      if p.halted == some .join && full p then
        let done := at_.filter full
        let lanes := done.flatMap set
        if lanes.all (fun l => p.lanes.contains l) then
          (s.modPath gid pid (fun p => { p with pc := p.pc + 8, halted := none })).settle gid
        else
          let joins := (done.map (·.joins)).foldl (fun a b => if a.length < b.length then b else a) p.joins
          (s.regang gid lanes.dedup (p.pc + 8) joins).settle gid
      else s

def execJoin (s : State) : Out :=
  match s.current with
  | none => .next s
  | some (g, p) =>
    let s1 := (s.modPath g.gid p.pid (fun p => { p with halted := some .join })).tryJoin g.gid p.pid
    match s1.group? g.gid with
    | none => .next s1
    | some g1 =>
      if (g1.path? p.pid).any (fun q => q.halted == some .join) then .next (s1.exchangeOr s g.gid p.pid)
      else .next s1

/-- JOIN_COMPLETE: a pending join whose lanes have all arrived or exited completes (05 R122). -/
def execJoinComplete (s : State) : Out :=
  let gid := s.arg 0
  let jid := s.arg 1
  .next (s.completeJoin gid jid)

/-- STACK_ROTATION: an entry that has waited 3,584 clk is exchanged with the path that has been live longest in its
quads (13 R317). -/
def execStackRotation (s : State) : Out :=
  let gid := s.arg 0
  let qs := s.arg 1
  match s.group? gid with
  | none => .next s
  | some g =>
    match g.stackOf qs with
    | [] => .next s
    | p :: _ =>
      if s.clk < p.pushedAt + 3584 then .next s
      else
        let cand := sortBy (fun (x : Path) => x.since) (g.paths.filter (fun (x : Path) => x.qset == qs && g.live x &&
          x.quads.any (fun z => p.quads.contains z)))
        match cand with
        | [] => .next (s.popFree gid 32)
        | x :: _ => .next (s.exchangeOr s gid x.pid)

/-! YIELD (05 R128). -/

def execYield (gd : Guard) (s : State) : Out :=
  match s.current with
  | none => .next s
  | some (g, p) =>
    let s1 := s.goTo g.gid p.pid (p.pc + 8)
    -- a stacked path of the yielding path's quads waits for a slot
    let waits := (g.stackOf p.qset).any (fun x => x.quads.any (fun q => p.quads.contains q))
    if (g.active p gd).isEmpty || !waits then .next (s1.settle g.gid)
    else .next (s1.exchangeOr s g.gid p.pid)

/-! EXIT (05 R130 to R134). -/

/-- The records a lane injects into its own cluster (05 R131 step 4). -/
def State.injectOwn (s : State) (g : Group) (l : Nat) : List (List Word) → State
  | [] => s
  | ws :: r =>
    let x := s.lane g.gid l
    let t : TaskRec :=
      { words := ws, ctx := g.ctx, pts := x.pts, idStage := x.idStage, idLogical := x.idLogical, mail := none,
        fault := false, tag := 0, site := g.site, seq := 0, issuer := some (g.gid, l), src := some g.site }
    let s1 := (s.count g.ctx (recFields ws).theJob (cniOf g.site) 1 0).sendRecord t
    State.injectOwn s1 g l r

/-- Words of n records read as 16-byte units. -/
def recordsOf (units : List Nat) : Nat → List (List Word)
  | 0 => []
  | n + 1 => wordsOf16 (units.take 4) :: recordsOf (units.drop 4) n

/-- One lane of EXIT. `inj` says that the lane injects its records. -/
def State.exitOne (s : State) (gid l : Nat) (a : XReg) (n : Nat) (inj : Bool) : LRes Unit :=
  match s.group? gid with
  | none => .hold
  | some g =>
    let addr := (g.lane l).rx a
    if inj && addr.toNat % 64 ≠ 0 then .trap ⟨2, 0, addr, false⟩
    else if s.eng.copies.any (fun c => c.gid == gid && c.lane == l && !c.released) ||
        s.link.sends.any (fun c => c.gid == gid && c.lane == l) then .hold
    else if inj then
      (s.load16s gid l addr 1 (4 * n)).bind (fun us s1 =>
        .ok () ((s1.injectOwn g l (recordsOf us n)).exitLane gid l))
    else .ok () (s.exitLane gid l)

def execExit (gd : Guard) (a : XReg) (n : Fin 8) (grp : Bool) (s : State) : Out :=
  match s.current with
  | none => .next s
  | some (g, p) =>
    let act := g.active p gd
    let low := act.headD 0
    let r := laneFold (fun s l => s.exitOne g.gid l a n.val (n.val != 0 && (!grp || l == low))) act s
    .next ((s.finish g.gid p.pid p.pc (p.pc + 8) 1 r).endGroup g.gid)

/-! Dual words (03 R83, R94). -/

/-- What a register slot writes, computed from the lane as it was before the word, and the flags it sets. -/
def slotReg (sl : Slot) (x : Lane) : (Lane → Lane) × Fl :=
  let a := x.rx sl.a
  let b := SOpnd.x x sl.s
  let n := SOpnd.count x sl.s
  let put (w : Word) : (Lane → Lane) × Fl := (fun y => y.wx sl.d w, Fl.none)
  let pk (v : Bool) : (Lane → Lane) × Fl := (fun y => y.wk (kOf sl.d) v, Fl.none)
  let va := x.rv (vOf sl.a)
  let vb := SOpnd.v x sl.s
  let pv (r : VRes) : (Lane → Lane) × Fl := (fun y => { y.wv (vOf sl.d) r.v with srstate := r.sr }, r.fl)
  let env : FpEnv := ⟨x.fpctl, x.srstate, x.jobSeed⟩
  match sl.op with
  | .add => put (aluAdd a b 64 false false)
  | .sub => put (aluSub a b 64 false false)
  | .mull => put (aluMull a b 64 false false)
  | .and => put (a &&& b)
  | .or => put (a ||| b)
  | .xor => put (a ^^^ b)
  | .andn => put (a &&& ~~~b)
  | .shl => put (aluShl a (shiftCount n 64) 64 false)
  | .shr => put (aluShr a (shiftCount n 64) 64 false)
  | .sar => put (aluShr a (shiftCount n 64) 64 true)
  | .min => put (aluMin a b 64 true)
  | .max => put (aluMax a b 64 true)
  | .minn => put (aluMin a b 64 false)
  | .maxn => put (aluMax a b 64 false)
  | .mov => put b
  | .cmpEq => pk (aluCmp .eq a b 64 false)
  | .cmpNe => pk (aluCmp .ne a b 64 false)
  | .cmpLtI => pk (aluCmp .lt a b 64 false)
  | .cmpGeI => pk (aluCmp .ge a b 64 false)
  | .cmpLtN => pk (aluCmp .lt a b 64 true)
  | .cmpGeN => pk (aluCmp .ge a b 64 true)
  | .vaddI32 => (fun y => y.wv (vOf sl.d) (vintReg .i32 (· + ·) false va vb), Fl.none)
  | .vsubI32 => (fun y => y.wv (vOf sl.d) (vintReg .i32 (· - ·) false va vb), Fl.none)
  | .faddF32 => pv (fbin faddElt env .f32 .dyn va vb)
  | .fmulF32 => pv (fbin fmulElt env .f32 .dyn va vb)
  | .nop | .ldN8 | .ldN16 | .ldN32 | .ldB64 | .ldI8 | .ldI16 | .ldI32 | .stB8 | .stB16 | .stB32 | .stB64 | .br =>
    (id, Fl.none)

/-- Size and sign extension of a short LD, size of a short ST. -/
def slotLd : SOp → Option (Nat × Bool)
  | .ldN8 => some (1, false) | .ldN16 => some (2, false) | .ldN32 => some (4, false) | .ldB64 => some (8, false)
  | .ldI8 => some (1, true) | .ldI16 => some (2, true) | .ldI32 => some (4, true)
  | _ => none

def slotSt : SOp → Option Nat
  | .stB8 => some 1 | .stB16 => some 2 | .stB32 => some 4 | .stB64 => some 8
  | _ => none

/-- The modifier of a short access: SCOPE .pl, ORD, HINT and SEG 0. -/
def shortMod : MMod := ⟨false, .normal, .none, .pl⟩

/-- The memory access of a slot, if it makes one, with the operands of the lane before the word. -/
def State.slotMem (s : State) (gid l : Nat) (sl : Slot) (x : Lane) : LRes Unit :=
  let addr := x.rx sl.a + SOpnd.x x sl.s
  match slotLd sl.op, slotSt sl.op with
  | some (n, sx), _ => s.laneLoad gid l shortMod addr n (fun v y => y.wx sl.d (loadValue sx n v))
  | none, some n => s.laneStore gid l shortMod addr (toBytes n (x.rx sl.d).toNat)
  | none, none => .ok () s

/-- One lane of a dual word: both slots read before either writes; a trap of the memory slot cancels both. -/
def State.dualLane (s : State) (gid l : Nat) (s0 s1 : Slot) : LRes Unit :=
  let x := s.lane gid l
  (s.slotMem gid l s0 x).bind (fun _ t =>
    (t.slotMem gid l s1 x).bind (fun _ t1 =>
      let r0 := slotReg s0 x
      let r1 := slotReg s1 x
      .ok () ((t1.modLane gid l (fun y => r1.1 (r0.1 y))).raiseFlags gid l (r0.2.or r1.2))))

/-- The displacement of a short BR in bytes. -/
def slotTarget (pc : Word) (sl : Slot) : Word :=
  match sl.op, sl.s with
  | .br, .imm v => pc + 8 * v.signExtend 64
  | _, _ => pc + 8

/-- A dual word. A short BR out of space 0x00 traps in every lane before a memory slot is tried (log 96). -/
def execDualWord (s0 s1 : Slot) (s : State) : Out :=
  match s.current with
  | none => .next s
  | some (g, p) =>
    let t := slotTarget p.pc s1
    if s1.op == .br && t.toNat / 2 ^ 56 ≠ 0 then
      .next ((s.takeTraps g.gid p.pc (p.lanes.map (fun l => (l, ⟨4, 1, t, false⟩)))).settle g.gid)
    else .next (s.finish g.gid p.pid p.pc t 1 (laneFold (fun s l => s.dualLane g.gid l s0 s1) p.lanes s))

end Sys2Proof.Machine
end

