-- ==== Sys2Proof/Machine/Copy.lean ====
section
/-!
DEFINITION. The copy commands and the steps of the copy engine (08 R218 to R230).
-/

namespace Sys2Proof.Machine

open Sys2Proof

/-! Accesses of an engine over a range, in units of 16 bytes (18 R414). -/

/-- An engine write of n bytes at a place, or why it may not be made. -/
def State.engReach (s : State) (a : Actor) (loc : Loc) (n need : Nat) : Option EngErr × State :=
  match loc with
  | .pad k m off =>
    match s.pad? k m with
    | none => (some (.viol off), s)
    | some p => (if off + n ≤ p.size then none else some (.viol off), s)
  | .glob va =>
    -- the pages of the first and the last byte
    match s.engTranslate a va need with
    | (.ok _, s1) =>
      if n = 0 || va / 2 ^ 21 = (va + n - 1) / 2 ^ 21 then (none, s1)
      else
        let second := (va + n - 1) / 2 ^ 21 * 2 ^ 21
        match s1.engTranslate a second need with
        | (.ok _, s2) => (none, s2)
        | (r, s2) => (engErr r 2 second, s2)
    | (r, s1) => (engErr r 2 va, s1)

def Loc.plus (l : Loc) (n : Nat) : Loc :=
  match l with
  | .glob va => .glob (va + n)
  | .pad k m off => .pad k m (off + n)

def Loc.addr (l : Loc) : Nat :=
  match l with
  | .glob va => va
  | .pad _ _ off => off

/-- Reads n units of `w` bytes in ascending order. -/
def State.engGather (s : State) (a : Actor) (loc : Loc) (w : Nat) : Nat → Except EngErr (List Byte) × State
  | 0 => (.ok [], s)
  | n + 1 =>
    match s.engRead a loc w with
    | (.ok bs, s1) =>
      match State.engGather s1 a (loc.plus w) w n with
      | (.ok r, s2) => (.ok (bs ++ r), s2)
      | (.error e, s2) => (.error e, s2)
    | (r, s1) => (.error ((engErr r 1 loc.addr).getD (.viol loc.addr)), s1)

/-- Writes bytes in units of `w`, each one place in the global order (09 R234); answers the largest timestamp. -/
def State.engPut (s : State) (a : Actor) (loc : Loc) (w : Nat) : List (List Byte) → Nat × State
  | [] => (a.pts, s)
  | bs :: r =>
    match s.engWrite a loc bs with
    | (.ok t, s1) => let (u, s2) := State.engPut s1 a (loc.plus w) w r; (max t u, s2)
    | (_, s1) => (a.pts, s1)

def chunksOf (w : Nat) (bs : List Byte) : List (List Byte) :=
  (List.range ((bs.length + w - 1) / w)).map (fun i => (bs.drop (w * i)).take w)

/-! Commands. -/

/-- Where an operand may lie (08 R219): global, the issuer's scratchpad, space 0xFD, or the scratchpad of a class-relative
index, the destination's. -/
inductive Where where
  | glob | own | cls
  | dest (p : Nat)
deriving DecidableEq, Repr

/-- Check 1 of 08 R207 for an operand: its space, with 0xFD at another index refused where one scratchpad is asked for. -/
def spaceOk (g : Group) (l : Nat) (w : Where) (addr : Word) : Bool :=
  let a := addr.toNat
  let sp := a / 2 ^ 56
  match w with
  | .glob => sp == 0
  | .own => sp == 0xFC || (sp == 0xFD && a / 2 ^ 48 % 256 == g.member l)
  | .cls => sp == 0xFD
  | .dest p => (sp == 0xFC && g.member l == p) || (sp == 0xFD && a / 2 ^ 48 % 256 == p)

/-- An operand of a command: its address, where it may lie, its extent and its alignment. -/
structure COp where
  addr : Word
  at_ : Where
  size : Nat
deriving DecidableEq, Repr

/-- Check 2: FOREIGN_SCRATCH and bounds, for a scratchpad operand. -/
def padTrap (s : State) (g : Group) (l : Nat) (o : COp) : Option TrapInfo :=
  if o.at_ = .glob then none
  else match resolve s g l o.addr o.size 1 with
    | .error t => some t
    | .ok _ => none

/-- The operands of a command as its row of 08 R219 lists them. -/
def copyOps (k : CopyKind) (src dst obj sts : Word) (hasObj : Bool) (len : Nat) : List COp :=
  let nch := (len + 511) / 512
  let bm := 8 * max 1 ((nch + 63) / 64)
  let there : Where := .dest (dst.toNat / 2 ^ 48 % 256)
  match k with
  | .get => [⟨src, .glob, len⟩, ⟨dst, .own, len⟩] ++ if hasObj then [⟨obj, .own, bm⟩] else []
  | .put => [⟨src, .own, len⟩, ⟨dst, .glob, len⟩] ++ if hasObj then [⟨obj, .glob, 8⟩] else []
  | .send | .senda => [⟨src, .own, len⟩, ⟨dst, .cls, len⟩] ++ if hasObj then [⟨obj, there, bm⟩] else []
  | .sendv => [⟨src, .own, len⟩, ⟨dst, .cls, len⟩, ⟨obj, there, 16 + bm⟩, ⟨sts, .own, 8⟩]

/-- The checks of a command at issue, each over all its operands before the next (08 R218, R219). -/
def copyTrap (s : State) (g : Group) (l : Nat) (k : CopyKind) (xb src dst obj sts : Word) (hasObj ordered : Bool) :
    Option TrapInfo :=
  let len := copyLen xb
  let ops := copyOps k src dst obj sts hasObj len
  if copyRsv xb ≠ 0 || (copySeq xb ≠ 0 && !ordered) || (k == .sendv && decide (32768 < len)) then some ⟨4, 4, xb, false⟩
  else match ops.find? (fun o => !spaceOk g l o.at_ o.addr) with
    | some o => some ⟨4, 1, o.addr, false⟩
    | none =>
      match ops.findSome? (padTrap s g l) with
      | some t => some t
      | none =>
        let al : List (Word × Nat) := [(src, 16), (dst, 16), (BitVec.ofNat 64 len, 16)] ++
          (if hasObj then [(obj, 8)] else []) ++ (if k == .sendv then [(sts, 8)] else [])
        match al.find? (fun x => x.1.toNat % x.2 != 0) with
        | some x => some ⟨2, 0, x.1, false⟩
        | none => none

def locOf (s : State) (g : Group) (l : Nat) (addr : Word) : Loc :=
  match resolve s g l addr 0 1 with
  | .ok x => x
  | .error _ => .glob (addr.toNat % 2 ^ 56)

/-- The chunks of a command (08 R220). -/
def CopyCmd.chunks (c : CopyCmd) : Nat := (c.len + 511) / 512

def CopyCmd.chunkLen (c : CopyCmd) (i : Nat) : Nat := min 512 (c.len - 512 * i)

def CopyCmd.actor (c : CopyCmd) : Actor := ⟨c.ctx, c.privS, c.pts, c.site⟩

def State.copy? (s : State) (cid : Nat) : Option CopyCmd := s.eng.copies.find? (fun c => c.cid == cid)

def State.modCopy (s : State) (cid : Nat) (f : CopyCmd → CopyCmd) : State :=
  { s with eng := { s.eng with copies := updWhere (fun c => c.cid == cid) f s.eng.copies } }

/-- The incoming ranges tracked at a pipeline, over every class that has a scratchpad there. -/
def State.rangesAt (s : State) (site : Site) (pipe : Nat) : Nat :=
  ((s.classes.filter (fun k => k.site == site)).flatMap (fun k => (k.pads.filter (fun p => p.pipe == pipe)).map (·.incoming.length))).sum

/-- The destination pipeline has room for one more tracked range (08 R227). -/
def State.rangeRoom (s : State) (dst : Loc) : Bool :=
  match dst with
  | .glob _ => true
  | .pad k m _ => match s.klass? k, s.pad? k m with
    | some c, some p => decide (s.rangesAt c.site p.pipe < 16)
    | _, _ => true

/-- Records the destination range of a command at its pipeline. -/
def State.recordRange (s : State) (c : CopyCmd) : State :=
  let s1 := s.modCopy c.cid (fun c => { c with ranged := true })
  match c.dst with
  | .glob _ => s1
  | .pad k m off => s1.modPad k m (fun p => { p with incoming := p.incoming ++ [⟨c.cid, off, c.len⟩] })

/-- The commands that the CNI of a cluster runs. -/
def State.cniCopies (s : State) (site : Site) : List CopyCmd :=
  s.eng.copies.filter (fun c => c.site == site && !(s.ctx? c.ctx).any (fun x => x.st == .saved))

/-- All eight source ranges of a lane's pipeline are in use (08 R226). -/
def State.sourcesFull (s : State) (g : Group) (l : Nat) : Bool :=
  decide (8 ≤ ((s.cniCopies g.site).filter (fun c => c.pipe == g.pipeOf l && !c.released)).length)

/-- Starts the command of one lane, or holds: the CNI runs 16, the pipeline holds eight source ranges and a GET needs
its range recorded at issue (08 R226 to R228). -/
def State.startCopy (s : State) (g : Group) (l : Nat) (mk : CopyCmd) : Option State :=
  if 16 ≤ (s.cniCopies g.site).length || s.sourcesFull g l || (mk.kind == .get && !s.rangeRoom mk.dst) then none
  else
    let (n, s1) := s.fresh
    let c := { mk with cid := n }
    let s2 := { s1 with eng := { s1.eng with copies := s1.eng.copies ++ [c] } }
    -- a chunk is counted when the engine issues it (17 R397)
    let s3 := if c.kind = .sendv then s2.count c.ctx c.job (cniOf c.site) 1 0 else s2
    some (match c.kind with
      | .get | .put => s3.recordRange c
      | _ => s3)

/-- What the word of a copy command gives besides its registers. -/
structure CopyWord where
  kind : CopyKind
  op : SendOp
  et : SendTy
  ordered : Bool
  m : CopyMod
deriving DecidableEq, Repr

/-- The outcome for one lane of a copy word. -/
inductive CopyRes where
  | trap (t : TrapInfo)
  | wait (s : State)
  | done (s : State)

/-- One lane of a copy word (08 R218, R219, R227). `again` says that its command has been started already: the path
passes it once its range is recorded. A command of length 0 completes at once and leaves the expected SEQ (log 117). -/
def State.copyLane (s : State) (gid l : Nat) (d a b c : XReg) (w : CopyWord) (again : Bool) : CopyRes :=
  match s.group? gid with
  | none => .done s
  | some g =>
    if again then
      if s.eng.copies.any (fun x => x.gid == gid && x.lane == l && !x.ranged) then .wait s else .done s
    else
      let x := g.lane l
      let xb := x.rx b
      let src := x.rx a
      let dst := x.rx d
      let obj := x.rx c
      let sts := x.rx (XReg.succ c)
      let hasObj := c.val != 0
      match copyTrap s g l w.kind xb src dst obj sts hasObj w.ordered with
      | some t => .trap t
      | none =>
        if copyLen xb = 0 then .done s
        else
          let mk : CopyCmd :=
            { cid := 0, kind := w.kind, ctx := g.ctx, privS := x.privS, gid := gid, lane := l, site := g.site,
              pipe := g.pipeOf l, cls := g.cls, member := g.member l, src := locOf s g l src,
              dst := locOf s g l dst, srcVa := src.toNat, dstVa := dst.toNat, len := copyLen xb,
              obj := if hasObj then some (locOf s g l obj) else none,
              status := if w.kind = .sendv then some (locOf s g l sts) else none,
              version := x.rx (XReg.succ b), op := w.op, et := w.et, ordered := w.ordered, seq := copySeq xb,
              acq := w.m.acq, rel := w.m.rel, scope := w.m.scope, job := x.origin.job, pts := x.pts,
              ranged := false, released := false, readChunks := [], payload := [], sent := [], done := [], held := 0 }
          match s.startCopy g l mk with
          | none => .wait s
          | some s1 =>
            let s2 := s1.modGroup gid (fun g => { g with paths := g.paths.map (fun p =>
              if p.lanes.contains l then { p with part := l :: p.part } else p) })
            match w.kind with
            | .get | .put => .done s2
            | _ => .wait s2

/-- Runs the lanes of a copy word; some may wait while others have started. -/
def copyFold (f : State → Nat → CopyRes) : List Nat → State → State × List (Nat × TrapInfo) × Bool
  | [], s => (s, [], false)
  | l :: r, s =>
    match f s l with
    | .done s1 => copyFold f r s1
    | .wait s1 => let x := copyFold f r s1; (x.1, x.2.1, true)
    | .trap t => let x := copyFold f r s; (x.1, (l, t) :: x.2.1, x.2.2)

/-- A copy word: its lanes start their commands; the path holds at the word until every command has its range
recorded. Traps are taken when no lane waits any more. -/
def copyWord (gd : Guard) (d a b c : XReg) (w : CopyWord) (s : State) : Out :=
  match s.current with
  | none => .next s
  | some (g, p) =>
    let x := copyFold (fun s l => s.copyLane g.gid l d a b c w (p.part.contains l)) (g.active p gd) s
    if x.2.2 then .next x.1
    else .next (x.1.finish g.gid p.pid p.pc (p.pc + 8) 1 ⟨x.1, x.2.1, [], false⟩)

def execGet (g : Guard) (d a b c : XReg) (m : CopyMod) (s : State) : Out :=
  copyWord g d a b c ⟨.get, .add, .f32, false, m⟩ s

def execPut (g : Guard) (d a b c : XReg) (m : CopyMod) (s : State) : Out :=
  copyWord g d a b c ⟨.put, .add, .f32, false, m⟩ s

def execSend (g : Guard) (d a b c : XReg) (m : CopyMod) (s : State) : Out :=
  copyWord g d a b c ⟨.send, .add, .f32, false, m⟩ s

def execSenda (g : Guard) (d a b c : XReg) (op : SendOp) (et : SendTy) (ordered : Bool) (m : CopyMod) (s : State) : Out :=
  copyWord g d a b c ⟨.senda, op, et, ordered, m⟩ s

def execSendv (g : Guard) (d a b c : XReg) (m : CopyMod) (s : State) : Out :=
  copyWord g d a b c ⟨.sendv, .add, .f32, false, m⟩ s

/-! Steps of the engine. -/

/-- An engine error of a command: an engine fault holds it, a violation faults the context. -/
def State.copyErr (s : State) (c : CopyCmd) (e : EngErr) : State :=
  match e with
  | .fault cause sub addr =>
    let (s1, tag) := s.engFault c.ctx 1 cause sub addr (siteWord c.site c.pipe) (.copy c.cid)
    s1.modCopy c.cid (fun c => { c with held := tag })
  | .viol addr => s.engViolate c.ctx 1 addr (siteWord c.site 0x7F)

/-- The engine may work on the command now. -/
def State.copyReady (s : State) (c : CopyCmd) : Bool :=
  s.ctxRuns c.ctx && c.ranged && c.held == 0 && !s.cutLoc c.ctx c.src && !s.cutLoc c.ctx c.dst

/-- A range ends with its last chunk, and a command whose source is released ends with it (08 R226, R227). -/
def State.closeCopy (s : State) (cid : Nat) : State :=
  match s.copy? cid with
  | none => s
  | some c =>
    if c.done.length < c.chunks then s
    else
      let s1 := match c.dst with
        | .glob _ => s
        | .pad k m _ => s.modPad k m (fun p => { p with incoming := p.incoming.filter (fun r => r.cid != cid) })
      if c.released then
        ({ s1 with eng := { s1.eng with copies := s1.eng.copies.filter (fun x => x.cid != cid) } }).reap
      else s1

/-- The place of the bitmap word that holds a chunk's bit (08 R220). -/
def CopyCmd.bitWord (c : CopyCmd) (i : Nat) : Option Loc := c.obj.map (fun o => o.plus (8 * (i / 64)))

/-- A completion write: one indivisible update of an 8-byte word at a timestamp not below the actor's; answers its timestamp. -/
def State.engUpdate (s : State) (a : Actor) (loc : Loc) (f : Nat → Nat) : Nat × State :=
  match s.engRead a loc 8 with
  | (.ok bs, s1) =>
    match s1.engWrite a loc (toBytes 8 (f (fromBytes bs))) with
    | (.ok t, s2) => (t, s2)
    | (_, s2) => (a.pts, s2)
  | (_, s1) => (a.pts, s1)

/-- Sets a bit of a word by one indivisible OR. -/
def State.engOr (s : State) (a : Actor) (loc : Loc) (bit : Nat) : Nat × State :=
  s.engUpdate a loc (fun v => Nat.lor v (2 ^ bit))

/-- The writes of a lane's engine command up to a timestamp are made; a later FENCE orders them (08 R215). -/
def State.noteCmd (s : State) (gid l ts : Nat) : State := s.modLane gid l (fun x => { x with cmdPts := max x.cmdPts ts })

/-- The cluster of a command's destination. -/
def State.destSite (s : State) (c : CopyCmd) : Option Site :=
  match c.dst with
  | .pad k _ _ => (s.klass? k).map (·.site)
  | .glob _ => none

/-- Where the memory of a place is: its die, or the MCL port of the package that has it. -/
def State.locDie (s : State) (a : Actor) (loc : Loc) (need : Nat) : Nat × Option Nat :=
  match loc with
  | .pad k _ _ => (((s.klass? k).map (·.site.die)).getD a.site.die, none)
  | .glob va =>
    if s.far a.ctx va then (a.site.die, s.routePort? (va / 2 ^ 48))
    else match (s.engTranslate a va need).1 with
      | .ok pa => (dieOfPa pa, none)
      | _ => (a.site.die, none)

/-- Counts a chunk whose completion is applied, and its way (17 R397, log 121): a SEND or SENDA ends at the CNI of its destination,
the answer to a GET or a PUT comes back. -/
def State.countChunk (s : State) (c : CopyCmd) (i : Nat) : State :=
  let dest := (s.destSite c).getD c.site
  let at_ (l : Loc) := l.plus (512 * i)
  match c.kind with
  | .send | .senda => (s.countWay c.ctx c.job c.site.die dest.die none false).count c.ctx c.job (cniOf dest) 0 1
  | .sendv => (s.countWay c.ctx c.job c.site.die dest.die none true).count c.ctx c.job (cniOf c.site) 0 1
  | .get =>
    let d := s.locDie c.actor (at_ c.src) needR
    (s.countWay c.ctx c.job c.site.die d.1 d.2 true).count c.ctx c.job (cniOf c.site) 0 1
  | .put =>
    let d := s.locDie c.actor (at_ c.dst) needW
    (s.countWay c.ctx c.job c.site.die d.1 d.2 true).count c.ctx c.job (cniOf c.site) 0 1

/-- The counter of a PUT may keep a place below its data, for agents outside SCOPE (09 R237): both lie in global memory of this
package. -/
def State.looseCounter (s : State) (c : CopyCmd) : Option Nat :=
  match c.kind, c.dst, c.obj with
  | .put, .glob d, some (.glob o) => if s.far c.ctx d || s.far c.ctx o then none else some o
  | _, _, _ => none

/-- Completes a chunk: its bit or its counter, the count of its message (08 R220, R222, 17 R397). With `loose` a PUT's counter takes a
place that only agents within SCOPE follow up to the data (09 R237, log 105). -/
def State.completeChunk (s : State) (c : CopyCmd) (i ts : Nat) (loose : Bool) : State :=
  let high := max c.pts ts
  let weak := if loose then s.looseCounter c else none
  let a := { c.actor with pts := if weak.isSome then c.pts else high }
  let (t, s0) : Nat × State := match c.kind with
    | .put =>
      match c.obj with
      | none => (a.pts, s)
      | some o => s.engUpdate a o (fun v => (v + 2 ^ 64 - c.chunkLen i) % 2 ^ 64)
    | _ =>
      match c.bitWord i with
      | none => (a.pts, s)
      | some w => s.engOr a w (i % 64)
  let see (o : Nat) : Observed := { ctx := c.ctx, va := o, site := c.site, pipe := c.pipe, gid := c.gid, scope := c.scope, pts := high, clk := s.clk }
  let s1 := match weak with
    | none => s0
    | some o => { s0 with eng := { s0.eng with
        observed := see o :: s0.eng.observed.filter (fun x => decide (s.clk ≤ x.clk + 4096)) } }
  let s2 := s1.noteCmd c.gid c.lane (max high t)
  ((s2.modCopy c.cid (fun c => { c with done := i :: c.done })).countChunk c i).closeCopy c.cid

/-- What a source reads as where the reads of a command of a cluster fall behind (09 R236). -/
def State.gatherBehind (s : State) (a : Actor) (site : Site) (loc : Loc) : Nat → List Byte
  | 0 => []
  | n + 1 => s.engReadBehind a site loc 16 ++ State.gatherBehind s a site (loc.plus 16) n

/-- COPY_CHUNK: the engine reads a chunk; GET, PUT and SEND write and complete it, SENDA and SENDV send it on. Every
access is checked before the first write is made. Arg 2 = 1: a command without ACQ reads what bytes held before another agent's
last write; arg 3 = 1: a PUT's counter keeps its place (09 R236, R237). -/
def execCopyChunk (s : State) : Out :=
  let cid := s.arg 0
  let chunk := s.arg 1
  match s.copy? cid with
  | none => .next s
  | some c =>
    if !s.copyReady c || c.chunks ≤ chunk || c.readChunks.contains chunk || s.ownedFor cid (c.src.plus (512 * chunk)) 512 ||
        s.ownedFor cid (c.dst.plus (512 * chunk)) 512 then .next s
    else
      let n := c.chunkLen chunk
      match s.engGather c.actor (c.src.plus (512 * chunk)) 16 (n / 16) with
      | (.error e, s1) => .next (s1.copyErr c e)
      | (.ok now, s1) =>
        let bs := if s.arg 2 = 1 && !c.acq then s.gatherBehind c.actor c.site (c.src.plus (512 * chunk)) (n / 16) else now
        let read (s : State) : State :=
          (if c.kind = .sendv then s else s.count c.ctx c.job (cniOf c.site) 1 0).modCopy cid
            (fun c => { c with readChunks := chunk :: c.readChunks })
        match c.kind with
        | .senda | .sendv =>
          let (k, s2) := s1.fresh
          .next ((read s2).modCopy cid (fun c => { c with payload := (chunk, bs) :: c.payload, sent := (chunk, k) :: c.sent }))
        | _ =>
          match s1.engReach c.actor (c.dst.plus (512 * chunk)) n needW with
          | (some e, s2) => .next (s2.copyErr c e)
          | (none, s2) =>
            let counter : Option EngErr × State :=
              match c.kind, c.obj with
              | .put, some o => match s2.engRead c.actor o 8 with
                | (.ok _, s3) => s3.engReach c.actor o 8 needRW
                | (r, s3) => (engErr r 2 o.addr, s3)
              | _, _ => (none, s2)
            match counter with
            | (some e, s3) => .next (s3.copyErr c e)
            | (none, s3) =>
              let (ts, s4) := s3.engPut c.actor (c.dst.plus (512 * chunk)) 16 (chunksOf 16 bs)
              .next ((read s4).completeChunk c chunk ts (s.arg 3 = 1))

/-- One element of SENDA (08 R223): add rounds by .rne, min and max follow FMIN and FMAX, .i64 add wraps. -/
def sendaElt (op : SendOp) (et : SendTy) (e s : Nat) : Nat :=
  let ty : Ty := match et with | .f32 => .f32 | .bf16 => .bf16 | .i64 => .i64
  match et, op with
  | .i64, .add => (e + s) % 2 ^ 64
  | .i64, .min => if sextInt 64 s < sextInt 64 e then s else e
  | .i64, .max => if sextInt 64 e < sextInt 64 s then s else e
  | _, .add => (faddElt ty .rne e s 0).1
  | _, .min => (fminmaxElt false ty e s).1
  | _, .max => (fminmaxElt true ty e s).1

/-- Applies the elements of a SENDA payload in ascending order. -/
def State.sendaApply (s : State) (a : Actor) (loc : Loc) (op : SendOp) (et : SendTy) : List (List Byte) → Nat × State
  | [] => (a.pts, s)
  | bs :: r =>
    match s.engRead a loc et.bytes with
    | (.ok old, s1) =>
      match s1.engWrite a loc (toBytes et.bytes (sendaElt op et (fromBytes old) (fromBytes bs))) with
      | (.ok t, s2) => let (u, s3) := State.sendaApply s2 a (loc.plus et.bytes) op et r; (max t u, s3)
      | (_, s2) => (a.pts, s2)
    | (_, s1) => (a.pts, s1)

/-- The expected SEQ of a source index at a destination pipeline (08 R223). -/
def Pad.seqOf (p : Pad) (m : Nat) : Nat := ((p.seqs.find? (fun x => x.1 == m)).map (·.2)).getD 0

/-- The command's turn has come at its destination. -/
def State.sendaTurn (s : State) (c : CopyCmd) : Bool :=
  !c.ordered || (match c.dst with
    | .pad k m _ => match s.pad? k m with
      | some p => p.seqOf c.member == c.seq
      | none => false
    | .glob _ => false)

/-- A chunk sent earlier by the same CNI to the same one still travels: it arrives first (08 R201). An ordered one whose turn has
not come waits at the destination. -/
def State.sentBefore (s : State) (c : CopyCmd) (chunk : Nat) : Bool :=
  let at_ (x : CopyCmd) (i : Nat) : Nat := ((x.sent.find? (fun y => y.1 == i)).map (·.2)).getD 0
  s.eng.copies.any (fun x => x.kind == .senda && x.site == c.site && s.destSite x == s.destSite c && s.sendaTurn x &&
    x.payload.any (fun y => decide (at_ x y.1 < at_ c chunk)))

/-- Packets in the network are delivered and applied on to a pre-emption's boundary (08 R229). -/
def State.applies (s : State) (c : CopyCmd) : Bool :=
  c.ranged && c.held == 0 && (match s.ctx? c.ctx with
    | some x => (x.st == .running || x.st == .preempting) && !x.viol && !x.boundary && x.saved.isNone
    | none => false)

/-- SENDA_APPLY: a chunk is applied whole, then its bit is set; an ordered command's last chunk lets the next SEQ in. -/
def execSendaApply (s : State) : Out :=
  let cid := s.arg 0
  let chunk := s.arg 1
  match s.copy? cid with
  | none => .next s
  | some c =>
    match c.payload.find? (fun x => x.1 == chunk) with
    | none => .next s
    | some (_, bs) =>
      if c.kind != .senda || !s.applies c || c.done.contains chunk || !s.sendaTurn c || s.sentBefore c chunk ||
          s.ownedFor cid (c.dst.plus (512 * chunk)) 512 then .next s
      else
        let (ts, s1) := s.sendaApply c.actor (c.dst.plus (512 * chunk)) c.op c.et (chunksOf c.et.bytes bs)
        let s2 := s1.modCopy cid (fun c => { c with payload := c.payload.filter (fun x => x.1 != chunk) })
        let s3 := if c.ordered && c.done.length + 1 = c.chunks then
            match c.dst with
            | .pad k m _ => s2.modPad k m (fun p =>
                { p with seqs := (c.member, (c.seq + 1) % 2 ^ 16) :: p.seqs.filter (fun x => x.1 != c.member) })
            | .glob _ => s2
          else s2
        .next (s3.completeChunk c chunk ts false)

/-- Writes the chunks of a tile. -/
def State.writeTile (s : State) (a : Actor) (dst : Loc) : List (Nat × List Byte) → Nat × State
  | [] => (a.pts, s)
  | (i, bs) :: r =>
    let (t, s1) := s.engPut a (dst.plus (512 * i)) 16 (chunksOf 16 bs)
    let (u, s2) := State.writeTile s1 a dst r
    (max t u, s2)

/-- The owner of the line of a version word (08 R203). -/
def State.setOwner (s : State) (o : Loc) (owner : Option Nat) : State :=
  match o with
  | .glob _ => s
  | .pad k m off => s.modPad k m (fun p => p.setTs { p.tsOf (off / 128) with owner := owner })

/-- SENDV_COMMIT (08 R224). With arg 1 = 1 the destination takes the line of the version word for the commit, which holds off every
other access to it until the commit is made (08 R203). -/
def execSendvCommit (s : State) : Out :=
  let cid := s.arg 0
  match s.copy? cid with
  | none => .next s
  | some c =>
    match c.obj, c.status with
    | some o, some st =>
      if c.kind != .sendv || !s.copyReady c || decide (c.readChunks.length < c.chunks) || !c.done.isEmpty || s.ownedFor cid o 16 then
        .next s
      else if s.arg 1 = 1 then .next (s.setOwner o (some cid))
      else
        match s.engRead c.actor o 8 with
        | (.ok bs, s1) =>
          let v := fromBytes bs
          let (res, ts, s2) : Nat × Nat × State :=
            if BitVec.ofNat 64 v = c.version then
              let (ts, s2) := s1.writeTile c.actor c.dst (sortBy (fun x => x.1) c.payload)
              let a := { c.actor with pts := max c.pts ts }
              let (tv, s3) := s2.engUpdate a o (fun _ => (v + 1) % 2 ^ 64)
              let bits := (List.range c.chunks).foldl (fun (x : Nat × State) i =>
                let (t, s) := x.2.engOr a (o.plus (16 + 8 * (i / 64))) (i % 64)
                (max x.1 t, s)) (max a.pts tv, s3)
              (1, bits)
            else (2, s1.engOr c.actor (o.plus 8) 0)
          -- the status is a release: it follows the tile, the version and the bits
          let a := { c.actor with pts := max c.pts ts }
          let s3 := ((s2.engWrite a st (toBytes 8 res)).2).noteCmd c.gid c.lane a.pts
          let s4 := s3.modCopy cid (fun c => { c with done := List.range c.chunks, payload := [] })
          .next (((s4.countChunk c 0).setOwner o none).closeCopy cid)
        | (r, s1) => .next (match engErr r 1 o.addr with
          | some e => s1.copyErr c e
          | none => s1)
    | _, _ => .next s

/-- A range request that the same CNI sent earlier to the same cluster has not arrived: it comes first (08 R201). -/
def State.askedBefore (s : State) (c : CopyCmd) : Bool :=
  s.eng.copies.any (fun x => !x.ranged && decide (x.cid < c.cid) && x.ctx == c.ctx && x.site == c.site && s.destSite x == s.destSite c &&
    s.rangeRoom x.dst)

/-- DEST_RANGE_ACK: the destination pipeline records the range of a SEND, SENDA or SENDV, while it tracks fewer than
16 (08 R227). -/
def execDestRangeAck (s : State) : Out :=
  let cid := s.arg 0
  match s.copy? cid with
  | none => .next s
  | some c => if c.ranged || !s.ctxRuns c.ctx || !s.rangeRoom c.dst || s.askedBefore c then .next s else .next (s.recordRange c)

/-- SOURCE_RANGE_RELEASE: every chunk has been read (08 R226). -/
def execSourceRangeRelease (s : State) : Out :=
  let cid := s.arg 0
  match s.copy? cid with
  | none => .next s
  | some c =>
    if c.released || decide (c.readChunks.length < c.chunks) then .next s
    else .next ((s.modCopy cid (fun c => { c with released := true })).closeCopy cid)

end Sys2Proof.Machine
end

