-- ==== Sys2Proof/Machine/Cross.lean ====
section
/-!
DEFINITION. The cross-lane words (06 R152 to R158), EXCH (06 R159 to R164), and the convergence that they share.
-/

namespace Sys2Proof.Machine

open Sys2Proof

/-! Convergence (06 R153, R154). -/

/-- What a cross-lane word does once its lanes have arrived: the update of each executing lane, its flags,
whether a source has set k7 besides an absent lane, and the k register it writes. -/
structure CrossEff where
  upd : Nat → Lane → Lane
  fl : Nat → Fl
  k7 : Bool

/-- The effect of a word as a function of the group before it, the executing lanes in ascending order and the mask. -/
abbrev CrossFn := Group → List Nat → Nat → CrossEff

/-- The named lanes of a mask in a group of `n`. -/
def namedLanes (n mask : Nat) : List Nat := (List.range n).filter (inMask mask)

/-- The lane has reached this word already and its next execution does not wait for it (06 R154, R164). -/
def Lane.waived (l : Lane) (pc : Word) : Bool := l.crossAt.any (fun x => x.1 == pc)

/-- A lane that reached the word has been counted by an execution of some paths: one whose mask names the lane or which the path
that it left has made, or any one after a path without an active lane. -/
def Lane.counted (l : Lane) (pc : Word) (pids : List Nat) (named : Bool) : Bool :=
  l.crossAt.any (fun x => x.1 == pc && (named || x.2 == 0 || pids.contains x.2))

/-- The path executes the word alone: each of its lanes has returned to the word in which it trapped (06 R164). -/
def Group.solo (g : Group) (p : Path) : Bool := p.lanes.all (fun l => (g.lane l).crossOwed == some p.pc)

/-- The active lanes of some paths, ascending. -/
def Group.activeOf (g : Group) (gd : Guard) (ps : List Path) : List Nat := sortNat (ps.flatMap (fun q => g.active q gd))

/-- The mask in force among some paths: that of the lowest executing lane (06 R153). -/
def Group.maskIn (g : Group) (gd : Guard) (c : XReg) (ps : List Path) : Nat :=
  match g.activeOf gd ps with
  | [] => 2 ^ g.size - 1
  | l :: _ => (g.lane l).memberMask g.size c

/-- The paths that execute a word together: the mask in force names lanes whose paths join, until none does. -/
def Group.gather (g : Group) (gd : Guard) (c : XReg) (at_ : List Path) : Nat → List Path → List Path
  | 0, ps => ps
  | n + 1, ps =>
    let m := g.maskIn gd c ps
    Group.gather g gd c at_ n (at_.filter (fun q => ps.any (fun p => p.pid == q.pid) || q.lanes.any (inMask m)))

/-- The mask, the paths and the executing lanes of a cross-lane word that path p stands at, when all that it waits for
has arrived (06 R153, R154). -/
def Group.crossReady (g : Group) (p : Path) (i : Instr) (gd : Guard) (c : XReg) : Option (Nat × List Nat × List Nat) :=
  if (g.active p gd).isEmpty && c.val ≠ 0 then some (0, [p.pid], [])
  else if g.solo p then some (g.maskIn gd c [p], [p.pid], g.active p gd)
  else
    let at_ := (g.haltedAt p.pc i).filter (fun q => q.pid == p.pid || !g.solo q)
    let ps := g.gather gd c at_ at_.length [p]
    let m := g.maskIn gd c ps
    let here (l : Nat) : Bool := at_.any (fun q => q.lanes.contains l)
    if (namedLanes g.size m).all (fun l => (g.lane l).exited || here l || (g.lane l).waived p.pc) then
      some (m, ps.map (·.pid), g.activeOf gd ps)
    else none

/-- Executes a cross-lane word at which path `pid` stands halted, if everything it waits for has arrived. -/
def State.crossTry (s : State) (gid pid : Nat) (i : Instr) (gd : Guard) (c : XReg) (f : CrossFn) : State :=
  match s.group? gid with
  | none => s
  | some g =>
    match g.path? pid with
    | none => s
    | some p =>
      if p.halted != some i then s
      else
        match g.crossReady p i gd c with
        | none => s
        | some (mask, pids, lanes) =>
          let e := f g lanes mask
          let k7 := e.k7 || (namedLanes g.size mask).any (fun l => !lanes.contains l)
          let one (n : Nat) (x : Lane) : Lane :=
            let y := if k7 then x.wk 7 true else x
            { (e.upd n y).setFlags (e.fl n) with crossAt := none, crossOwed := none }
          -- a lane of a path that leaves without executing has reached the word
          let away (n : Nat) (x : Lane) : Lane :=
            if lanes.isEmpty then (if p.lanes.contains n && p.lanes.length < g.liveLanes.length then { x with crossAt := some (p.pc, 0) } else x)
            else if !g.solo p && x.counted p.pc pids (inMask mask n) then { x with crossAt := none }
            else x
          let s1 := s.modGroup gid (fun g => { g with lanes := (g.lanes.zipIdx).map (fun x =>
            if lanes.contains x.2 then one x.2 x.1 else away x.2 x.1) })
          (s1.orCl g.ctx g.site (Fl.orAll (lanes.map e.fl))).releasePaths gid pids

/-- The paths halted at a word see a path that arrives there (06 R154), then the path itself tries to execute it. -/
def State.crossArrive (s : State) (gid pid : Nat) (i : Instr) (gd : Guard) (c : XReg) (f : CrossFn) : State :=
  match s.group? gid with
  | none => s
  | some g =>
    let others : List Path := match g.path? pid with
      | some p => (g.haltedAt p.pc i).filter (fun q => q.pid != pid)
      | none => []
    (others.foldl (fun s q => s.crossTry gid q.pid i gd c f) s).crossTry gid pid i gd c f

/-- A path arrives at a convergent word: it halts, and goes on at once when `try_` releases it. A halt that the stack holds leaves the
path before the word. -/
def State.arrive (s : State) (gid pid : Nat) (i : Instr) (try_ : State → State) : State :=
  let s1 := try_ (s.modPath gid pid (fun p => { p with halted := some i }))
  if (s1.group? gid).any (fun g => (g.path? pid).any (fun p => p.halted == some i)) then s1.exchangeOr s gid pid
  else s1

/-- ILLEGAL_MASK of a lane whose guard holds (06 R153). -/
def Lane.maskTrap (l : Lane) (n lane : Nat) (c : XReg) : Option TrapInfo :=
  let m := l.memberMask n c
  if !inMask m lane || 2 ^ n ≤ m then some ⟨7, 0, BitVec.ofNat 64 m, false⟩ else none

/-- A cross-lane word: lanes with an illegal mask trap alone, the path halts until the others have arrived. -/
def crossWord (i : Instr) (gd : Guard) (c : XReg) (f : CrossFn) (s : State) : Out :=
  match s.current with
  | none => .next s
  | some (g, p) =>
    let traps := (g.active p gd).filterMap (fun l => ((g.lane l).maskTrap g.size l c).map (fun t => (l, t)))
    let hit (l : Nat) : Bool := traps.any (fun t => t.1 == l)
    let s0 := s.modGroup g.gid (fun g => { g with lanes := (g.lanes.zipIdx).map (fun x =>
      if hit x.2 then { x.1 with crossAt := some (p.pc, p.pid), crossOwed := some p.pc } else x.1) })
    let s1 := (if traps.isEmpty then s else s0).takeTraps g.gid p.pc traps
    if p.lanes.all hit || (p.lanes.any hit && (p.alone || g.size = 1)) then .next (s1.settle g.gid)
    else .next (s1.arrive g.gid p.pid i (fun s => s.crossArrive g.gid p.pid i gd c f))

/-- An effect that writes registers and nothing else. -/
def pureEff (upd : Nat → Lane → Lane) : CrossEff := ⟨upd, fun _ => Fl.none, false⟩

/-! SHFL (06 R155). -/

/-- The source lane that lane l names. -/
def shflSource (mode : ShflMode) (l b : Nat) : Int :=
  match mode with
  | .idx => b
  | .up => (l : Int) - b
  | .down => (l : Int) + b
  | .xor => (Nat.xor l b : Nat)

/-- What a SHFL lane receives: another's value, its own, or the identity. -/
inductive ShflFrom where
  | lane (m : Nat)
  | own
  | identity
deriving DecidableEq, Repr

def shflFrom (g : Group) (lanes : List Nat) (mask : Nat) (mode : ShflMode) (b : XReg) (l : Nat) : ShflFrom :=
  let z := shflSource mode l (bitsAt ((g.lane l).rx b) 0 32)
  if z < 0 || (g.size : Int) ≤ z then .own
  else
    let m := z.toNat
    if inMask mask m && lanes.contains m then .lane m else .identity

/-- The w low bits of a value extended by its type. -/
def extended (t : Ty) (v : Word) : Word := storeRes (opnd v t.bits t.isSigned) t.bits t.isSigned false

def shflFn (d a : Fin 64) (b : XReg) (t : Ty) (mode : ShflMode) (id v : Bool) : CrossFn := fun g lanes mask =>
  let src := shflFrom g lanes mask mode b
  let put (l : Nat) (x : Lane) : Lane :=
    let from_ : Option Nat := match src l with
      | .lane m => some m
      | .own => some l
      | .identity => if id then some l else none
    match from_, v with
    | some m, false => x.wx d (extended t ((g.lane m).rx a))
    | some m, true => x.wv (vOf d) ((g.lane m).rv (vOf a))
    | none, false => x.wx d 0
    | none, true => x.wv (vOf d) 0
  ⟨put, fun _ => Fl.none, lanes.any (fun l => src l == .identity)⟩

def execShfl (g : Guard) (d a : Fin 64) (b c : XReg) (t : Ty) (mode : ShflMode) (id v : Bool) (s : State) : Out :=
  crossWord (.shfl g d a b c t mode id v) g c (shflFn d a b t mode id v) s

/-! VOTE, BALLOT, ELECT and MATCH (06 R156). -/

def voteFn (d : KReg) (r : Group → List Nat → Nat → Bool) : CrossFn := fun g lanes mask =>
  pureEff (fun _ x => x.wk d (r g lanes mask))

/-- The named lanes that are present. -/
def presentLanes (lanes : List Nat) (mask : Nat) : List Nat := lanes.filter (inMask mask)

def anyFn (d a : KReg) : CrossFn := voteFn d (fun g ls m => (presentLanes ls m).any (fun l => (g.lane l).rk a))
def allFn (d a : KReg) : CrossFn := voteFn d (fun g ls m => (presentLanes ls m).all (fun l => (g.lane l).rk a))

/-- Equal in every present lane: a lane whose own mask differs is present too and takes the mask in force (R153 rule 5). -/
def uniFn (d a : KReg) : CrossFn := voteFn d (fun g ls _ =>
  let v := ls.map (fun l => (g.lane l).rk a)
  v.all id || v.all not)

def ballotFn (d : XReg) (a : KReg) : CrossFn := fun g lanes mask =>
  let m := maskOf ((presentLanes lanes mask).filter (fun l => (g.lane l).rk a))
  pureEff (fun _ x => x.wx d (BitVec.ofNat 64 m))

def electFn (d : KReg) : CrossFn := fun _ lanes mask =>
  let low := (presentLanes lanes mask).headD 64
  pureEff (fun l x => x.wk d (l == low))

def matchFn (d a : XReg) (t : Ty) : CrossFn := fun g lanes mask =>
  let v (l : Nat) : Nat := lowBits ((g.lane l).rx a) t.bits
  pureEff (fun l x => x.wx d (BitVec.ofNat 64 (maskOf ((presentLanes lanes mask).filter (fun m => v m == v l)))))

def execVoteAny (g : Guard) (d a : KReg) (c : XReg) (s : State) : Out := crossWord (.voteAny g d a c) g c (anyFn d a) s
def execVoteAll (g : Guard) (d a : KReg) (c : XReg) (s : State) : Out := crossWord (.voteAll g d a c) g c (allFn d a) s
def execVoteUni (g : Guard) (d a : KReg) (c : XReg) (s : State) : Out := crossWord (.voteUni g d a c) g c (uniFn d a) s
def execBallot (g : Guard) (d : XReg) (a : KReg) (c : XReg) (s : State) : Out :=
  crossWord (.ballot g d a c) g c (ballotFn d a) s
def execElect (g : Guard) (d : KReg) (c : XReg) (s : State) : Out := crossWord (.elect g d c) g c (electFn d) s
def execMatchLanes (g : Guard) (d a c : XReg) (t : Ty) (s : State) : Out :=
  crossWord (.matchLanes g d a c t) g c (matchFn d a t) s

/-! RED and SCAN (06 R157, R158). -/

/-- The operation over a list of values that is not empty: the x register value and the flags. -/
def redValue (op : RedOp) (t : Ty) (mode : RMode) (draw : Nat) (sat : Bool) (vs : List Nat) : Word × Fl :=
  if t == .f32 then
    let r := redF32 op mode draw vs
    (BitVec.ofNat 64 r.1, r.2)
  else (redStore t (redInt op t sat vs), Fl.none)

/-- Values of the named lanes, ascending, with the identity of absent ones. -/
def redVals (g : Group) (lanes : List Nat) (named : List Nat) (a : XReg) (t : Ty) (ident : Nat) : List (Nat × Nat) :=
  named.map (fun m => (m, if lanes.contains m then lowBits ((g.lane m).rx a) t.bits else ident))

/-- The identity in force: x[b] of the lowest present lane with ID, else the default. -/
def identOf (g : Group) (lanes : List Nat) (b : XReg) (id : Bool) (t : Ty) (op : RedOp) (mode : RMode) : Nat :=
  if id then lowBits ((g.lane (lanes.headD 0)).rx b) t.bits else redIdentity op t (mode == .rdn)

/-- The instruction rounds: .add of .f32. -/
def redRounds (op : RedOp) (t : Ty) : Bool := t == .f32 && op == .add

def redFn (d a b : XReg) (t : Ty) (rm : Rm) (sat : Bool) (op : RedOp) (id : Bool) : CrossFn := fun g lanes mask =>
  let lo := g.lane (lanes.headD 0)
  let mode := resolveRm rm lo.fpctl false
  let vs := redVals g lanes (namedLanes g.size mask) a t (identOf g lanes b id t op mode)
  let r := redValue op t mode (srDrawAt lo.srstate lo.jobSeed 0) sat (vs.map (·.2))
  let e := lowBits r.1 t.bits
  let w : Word := match op with
    | .minidx | .maxidx =>
      BitVec.ofNat 64 (e + 2 ^ 32 * ((vs.find? (fun v => v.2 == e)).map (·.1)).getD 0)
    | _ => r.1
  let draw (x : Lane) : Lane := if redRounds op t then { x with srstate := srAfter mode x.srstate 1 } else x
  ⟨fun _ x => (draw x).wx d w, fun _ => r.2, false⟩

/-- A SCAN lane: value, flags and generator. -/
def scanLane (g : Group) (lanes : List Nat) (mask : Nat) (a b : XReg) (t : Ty) (rm : Rm) (sat : Bool) (op : RedOp)
    (id excl : Bool) (l : Nat) : Word × Fl :=
  let x := g.lane l
  let mode := resolveRm rm x.fpctl false
  let ident := identOf g lanes b id t op mode
  let named := (namedLanes g.size mask).filter (fun m => if excl then decide (m < l) else decide (m ≤ l))
  if named.isEmpty then
    (if t == .f32 then (match val .f32 ident with
      | .nan sig => (BitVec.ofNat 64 (defaultNaN .f32), Fl.nvIf sig)
      | _ => (BitVec.ofNat 64 ident, Fl.none)) else (redStore t ident, Fl.none))
  else redValue op t mode (srDrawAt x.srstate x.jobSeed 0) sat ((redVals g lanes named a t ident).map (·.2))

def scanFn (d a b : XReg) (t : Ty) (rm : Rm) (sat : Bool) (op : RedOp) (id excl : Bool) : CrossFn := fun g lanes mask =>
  let r := scanLane g lanes mask a b t rm sat op id excl
  let draw (x : Lane) : Lane :=
    if redRounds op t then { x with srstate := srAfter (resolveRm rm x.fpctl false) x.srstate 1 } else x
  ⟨fun l x => (draw x).wx d (r l).1, fun l => (r l).2, false⟩

def execRed (g : Guard) (d a b c : XReg) (t : Ty) (rm : Rm) (sat : Bool) (op : RedOp) (id : Bool) (s : State) : Out :=
  crossWord (.red g d a b c t rm sat op id) g c (redFn d a b t rm sat op id) s

def execScan (g : Guard) (d a b c : XReg) (t : Ty) (rm : Rm) (sat : Bool) (op : RedOp) (id excl : Bool) (s : State) :
    Out :=
  crossWord (.scan g d a b c t rm sat op id excl) g c (scanFn d a b t rm sat op id excl) s

/-! EXCH (06 R159 to R162). -/

/-- The partner descriptor (06 R159). -/
structure Partner where
  rsv : Nat
  grp : Nat
  stg : Nat
  cls : Nat
deriving DecidableEq, Repr

def partnerOf (w : Word) : Partner := ⟨bitsAt w 61 3, bitsAt w 54 7, bitsAt w 48 6, bitsAt w 0 48⟩

/-- The lane whose identity stands for its group. -/
def Group.idLane (g : Group) : Lane := g.lane g.reader

/-- The group that a descriptor names in a context's grid. -/
def State.partner? (s : State) (g : Group) (p : Partner) : Option Group :=
  s.groups.find? (fun x => x.gid != g.gid && x.ctx == g.ctx && x.idLane.origin.launch == g.idLane.origin.launch &&
    x.idLane.idClass == p.cls && x.idLane.idStage == p.stg && x.idGroup == p.grp)

/-- A descriptor names this group. -/
def Partner.names (p : Partner) (g : Group) : Bool :=
  p.rsv == 0 && p.cls == g.idLane.idClass && p.stg == g.idLane.idStage && p.grp == g.idGroup

/-- BAD_PARTNER (06 R160): a reserved bit, a class outside the grid, the group's own class, a group that the class has not, or
another group size. -/
def State.badPartner (s : State) (g : Group) (p : Partner) : Bool :=
  p.rsv != 0 || ((s.gridOf g g.reader).bind (fun l => l.linear? p.cls p.stg)).isNone ||
  (p.cls == g.idLane.idClass && p.stg == g.idLane.idStage) ||
  (match s.partner? g p with
    | some x => x.size != g.size
    | none => (s.gridOf g g.reader).any (fun l => decide (l.gpc ≤ p.grp)))

/-- Ends the exchange of a group in its present lanes, with a status, and releases its paths. `f` writes the data. -/
def State.endExch (s : State) (gid : Nat) (code : Nat) (f : Nat → Lane → Lane) : State :=
  match s.group? gid with
  | none => s
  | some g =>
    match g.exch with
    | none => s
    | some e =>
      let s1 := s.modGroup gid (fun g => { g with
        exch := none,
        lanes := (g.lanes.zipIdx).map (fun x =>
          if e.present.contains x.2 then ((f x.2 x.1).wx e.s (BitVec.ofNat 64 code)) else x.1) })
      s1.releasePaths gid (g.paths.map (·.pid))

/-- The end that keeps d and clears k[p]. -/
def State.dropExch (s : State) (gid code : Nat) : State :=
  match (s.group? gid).bind (·.exch) with
  | none => s
  | some e => s.endExch gid code (fun _ x => x.wk e.p false)

/-- Both sides wait for each other and their engine commands are done, as the release of 06 R162 asks. -/
def State.exchPair? (s : State) (gid : Nat) : Option (Group × Exch × Group × Exch) :=
  match s.group? gid with
  | none => none
  | some g =>
    match g.exch with
    | none => none
    | some e =>
      match s.partner? g (partnerOf e.partner) with
      | none => none
      | some h =>
        match h.exch with
        | none => none
        | some f => if (partnerOf f.partner).names g then some (g, e, h, f) else none

/-- The write of one side: data from the partner where both are present, else the lane's own (06 R160), and the timestamps of
06 R162. -/
def exchWrite (e : Exch) (other : Group) (f : Exch) (pts : Nat) (l : Nat) (x : Lane) : Lane :=
  let y := { x with pts := max x.pts pts }
  if f.present.contains l then
    (if e.v then y.wv (vOf e.d) ((other.lane l).rv (vOf f.a)) else y.wx e.d ((other.lane l).rx f.a)).wk e.p true
  else (if e.v then y.wv (vOf e.d) (x.rv (vOf e.a)) else y.wx e.d (x.rx e.a)).wk e.p false

/-- EXCH_COMPLETE: the exchange of two groups that name each other, in one step. -/
def execExchComplete (s : State) : Out :=
  let gid := s.arg 0
  match s.exchPair? gid with
  | none => .next s
  | some (g, e, h, f) =>
    if g.size != h.size || e.v != f.v then .next ((s.dropExch g.gid 2).dropExch h.gid 2)
    else if !(e.present.all (fun l => s.fenceReady g.gid l) && f.present.all (fun l => s.fenceReady h.gid l)) then .next s
    else
      let high (g : Group) (l : Nat) : Nat := max (max (g.lane l).pts (g.lane l).cmdPts) g.acqPts
      let pts := ((e.present.map (high g)) ++ f.present.map (high h)).foldl max 0
      let s1 := (s.forgetPrev g e.present).forgetPrev h f.present
      .next ((s1.endExch g.gid 0 (exchWrite e h f pts)).endExch h.gid 0 (exchWrite f g e pts))

/-- An exchange that breaks (06 R161): its timeout has passed without its partner, its partner waits for another group, or its partner's
threads are frozen. -/
def State.exchBroken (s : State) (g : Group) (e : Exch) : Bool :=
  let late := match s.ctx? g.ctx with
    | some c => c.desc.exTimeout ≠ 0 && decide (e.since + c.desc.exTimeout * 3600 ≤ s.clk) && (s.exchPair? g.gid).isNone
    | none => false
  let other := match s.partner? g (partnerOf e.partner) with
    | none => false
    | some h => h.exch.any (fun f => !(partnerOf f.partner).names g) || h.paths.any (·.frozen)
  late || other

/-- EXCH_BREAK: a waiting exchange breaks. -/
def execExchBreak (s : State) : Out :=
  let gid := s.arg 0
  match s.group? gid with
  | none => .next s
  | some g =>
    match g.exch with
    | none => .next s
    | some e => .next (if s.exchBroken g e then s.dropExch gid 1 else s)

/-- EXCH once every lane has arrived: the group waits for its partner, or has a bad one. -/
def State.exchTry (s : State) (gid pid : Nat) (i : Instr) (gd : Guard) (d a : Fin 64) (b : XReg) (p : KReg) (st : XReg)
    (v : Bool) : State :=
  match s.group? gid with
  | none => s
  | some g =>
    match g.path? pid with
    | none => s
    | some q =>
      if g.exch.isSome || q.halted != some i || !g.formReady q.pc i then s
      else
        let lanes := sortNat ((g.haltedAt q.pc i).flatMap (fun r => g.active r gd))
        match lanes with
        | [] => s.releasePaths gid (g.paths.map (·.pid))
        | lo :: _ =>
          let w := (g.lane lo).rx b
          let s1 := s.modGroup gid (fun g => { g with exch := some ⟨w, lanes, d, a, p, st, v, s.clk⟩ })
          if s.badPartner g (partnerOf w) then s1.dropExch gid 2 else s1

def execExch (g : Guard) (d a : Fin 64) (b : XReg) (p : KReg) (st : XReg) (v : Bool) (s : State) : Out :=
  match s.current with
  | none => .next s
  | some (h, q) =>
    .next (s.arrive h.gid q.pid (.exch g d a b p st v)
      (fun s => s.exchTry h.gid q.pid (.exch g d a b p st v) g d a b p st v))

end Sys2Proof.Machine
end

