-- ==== Sys2Proof/Machine/GroupOps.lean ====
section
/-!
DEFINITION. The form-wide convergence of 07 R168, and FUSE, SPLIT, REFUSE and DIVQ (13 R320 to R326).
-/

namespace Sys2Proof.Machine

open Sys2Proof

/-- Executes a form-wide word at which path `pid` stands halted, when every lane that has not exited has arrived. -/
def State.formTry (s : State) (gid pid : Nat) (i : Instr) (f : Group → Path → State → State) : State :=
  match s.group? gid with
  | none => s
  | some g =>
    match g.path? pid with
    | none => s
    | some p => if p.halted == some i && g.formReady p.pc i then f g p s else s

/-- A form-wide word. -/
def formWord (i : Instr) (f : Group → Path → State → State) (s : State) : Out :=
  match s.current with
  | none => .next s
  | some (g, p) => .next (s.arrive g.gid p.pid i (fun s => s.formTry g.gid p.pid i f))

/-- The paths of the whole group go on after a form-wide word. -/
def State.releaseForm (s : State) (gid : Nat) : State :=
  match s.group? gid with
  | none => s
  | some g => s.releasePaths gid (g.paths.map (·.pid))

/-- Writes back and drops a context's lines in the L1s of a group (08 R198). -/
def State.flushBanks (s : State) (g : Group) : State :=
  let mine (c : Copy) : Bool := c.ctx == g.ctx &&
    g.pipes.any (fun p => c.holder == .l1 g.site.die g.site.cluster p)
  s.setMem ((s.mem.copies.filter mine).foldl (fun m c => m.evict c) s.mem)

/-- Banking becomes form-shared, with the write-back when it was private. -/
def State.shareBanks (s : State) (g : Group) : State :=
  if g.priv then (s.flushBanks g).modGroup g.gid (fun g => { g with priv := false }) else s

/-- The whole form as one quad set with one path of every live lane at `pc`. -/
def State.oneForm (s : State) (gid : Nat) (pc : Word) (joins : List Nat) : Nat × State :=
  match s.group? gid with
  | none => (0, s)
  | some g =>
    let s0 := (g.paths.filter (·.stacked.isSome)).foldl (fun s x => s.clearValid gid x.slotLane x.slotAddr) s
    let (n, s1) := s0.clearOwed gid |>.fresh
    let p : Path := { Path.blank n with
      lanes := g.liveLanes, pc := pc, joins := joins, qset := n, since := n }
    (n, s1.modGroup gid (fun g => { g with
      paths := [p], qsets := [⟨n, (List.range ((g.size + 3) / 4)), 0⟩],
      lanes := g.lanes.map (fun l => { l with reason := 0, owed := 0 }) }))

/-- FUSE steps 2 to 4 (13 R323). -/
def fuseEff (g : Group) (p : Path) (s : State) : State :=
  if g.size = 1 then s.releaseForm g.gid
  else
    let joins := ((g.pathOf? g.reader).map (·.joins)).getD p.joins
    ((s.shareBanks g).oneForm g.gid (p.pc + 8) joins).2.settle g.gid

def execFuse (s : State) : Out := formWord .fuse fuseEff s

/-- Every path goes on alone at the word after the one it stands at, for the given reason. -/
def State.splitOn (s : State) (gid reason : Nat) (force : Bool) : State :=
  (s.fullSplit gid).modGroup gid (fun g => { g with
    paths := g.paths.map (fun p => { p with pc := p.pc + 8, halted := none }),
    lanes := g.lanes.map (fun l => if l.exited || (l.reason ≠ 0 && !force) then l else { l with reason := reason }) })

/-- SPLIT steps 2 and 3 (13 R324). -/
def splitEff (g : Group) (_p : Path) (s : State) : State :=
  if g.size = 1 || g.liveLanes.all (fun l => (g.lane l).reason == 1) then s.releaseForm g.gid
  else ((s.flushBanks g).modGroup g.gid (fun g => { g with priv := true })).splitOn g.gid 1 true

def execSplit (s : State) : Out := formWord .split splitEff s

/-! REFUSE (13 R325). -/

/-- The register of the REFUSE a path is halted at. -/
def Path.refuseReg (p : Path) : Option XReg :=
  match p.halted with
  | some (.refuse d) => some d
  | _ => none

/-- Every lane writes the result of its own REFUSE. -/
def State.refuseResult (s : State) (g : Group) (v : Nat) : State :=
  s.modGroup g.gid (fun x => { x with lanes := (x.lanes.zipIdx).map (fun y =>
    match (g.pathOf? y.2).bind (·.refuseReg) with
    | some d => if y.1.exited then y.1 else y.1.wx d (BitVec.ofNat 64 v)
    | none => y.1) })

/-- Rebuilds the form once every lane is halted at a REFUSE. -/
def State.refuseTry (s : State) (gid : Nat) : State :=
  match s.group? gid with
  | none => s
  | some g =>
    if !g.liveLanes.all (fun l => ((g.pathOf? l).bind (·.refuseReg)).isSome) then s
    else
      let at_ (l : Nat) : Word := ((g.pathOf? l).map (·.pc)).getD 0
      let joins (l : Nat) : List Nat := ((g.pathOf? l).map (·.joins)).getD []
      let parts := partsOf (g.liveLanes.map (fun l => (l, at_ l + 8)))
      let fail := (s.refuseResult g 1).splitOn gid 2 false
      if g.size = 1 then (s.refuseResult g 0).releaseForm gid
      else
        let s1 := (s.shareBanks g).refuseResult g 0
        let (n, s2) := s1.oneForm gid (at_ g.reader + 8) (joins g.reader)
        match parts with
        | [] => s
        | [_] => s2.settle gid
        | _ =>
          match (s2.group? gid).bind (fun h => h.path? n) with
          | none => s
          | some p =>
            match s2.spread gid p parts (fun ls => joins (ls.headD 0)) false with
            | .done s3 => s3.settle gid
            | .many | .held | .overflow => fail

def execRefuse (d : XReg) (s : State) : Out :=
  match s.current with
  | none => .next s
  | some (g, p) => .next (s.arrive g.gid p.pid (.refuse d) (fun s => s.refuseTry g.gid))

/-! DIVQ (13 R320, R326). -/

/-- The word of 13 R320. -/
def Group.splitWord (g : Group) (l : Nat) : Word :=
  let x := g.lane l
  let p := g.pathOf? l
  let sp := decide (x.reason ≠ 0)
  let jd := (p.map (·.joins.length)).getD 0
  let sd := if sp then 0 else (p.map (fun p => (g.stackOf p.qset).length)).getD 0
  let paths := if sp then 1 else (g.liveIn (quadOf l)).length
  BitVec.ofNat 64 (2 ^ 51 * codeOfSize g.size + 2 ^ 44 * (g.base % 128) + 2 ^ 31 * (x.owed % 8192) +
    2 ^ 18 * (sd % 8192) + 2 ^ 13 * (jd % 32) + 2 ^ 11 * (paths % 4) + 2 ^ 8 * (g.qsets.length % 8) +
    16 * g.priv.toNat + 8 + 2 * (x.reason % 4) + sp.toNat)

/-- A word that writes a value of each active lane computed from its group. -/
def groupRead (gd : Guard) (d : XReg) (f : Group → Nat → Word) (s : State) : Out :=
  match s.current with
  | none => .next s
  | some (g, p) =>
    let act := g.active p gd
    let s1 := s.modGroup g.gid (fun x => { x with lanes := (x.lanes.zipIdx).map (fun y =>
      if act.contains y.2 then y.1.wx d (f g y.2) else y.1) })
    .next ((s1.goTo g.gid p.pid (p.pc + 8)).settle g.gid)

def execDivqState (g : Guard) (d : XReg) (s : State) : Out := groupRead g d (fun g l => g.splitWord l) s

def execDivqJoin (g : Guard) (d : XReg) (s : State) : Out :=
  groupRead g d (fun g l => ((g.pathOf? l).bind g.joinAddr).getD 0) s

/-- x[a] is a valid limit word. -/
def limitOk (w : Word) : Bool := bitsAt w 0 13 ≤ 4096 && bitsAt w 13 3 == 0 && bitsAt w 17 47 == 0

def execDivqLimit (g : Guard) (d a : XReg) (s : State) : Out :=
  match s.current with
  | none => .next s
  | some (h, p) =>
    let good := (h.active p g).filter (fun l => limitOk ((h.lane l).rx a))
    let s1 := match good.getLast? with
      | none => s
      | some l =>
        let w := (h.lane l).rx a
        s.modGroup h.gid (fun x => { x with dlim := bitsAt w 0 13, ovf := bitsAt w 16 1 == 1 })
    groupRead g d (fun _ l =>
      if limitOk ((h.lane l).rx a) then BitVec.ofNat 64 (h.dlim + 65536 * h.ovf.toNat) else -1) s1

end Sys2Proof.Machine
end

