-- ==== Sys2Proof/Machine/Tile.lean ====
section
/-!
DEFINITION. The tile: MMA and its row steps, the words that clear, move, read and drain accumulators, and the hall pass
(02 R46 to R52, R65 to R68, 07 R165 to R190).
-/

namespace Sys2Proof.Machine

open Sys2Proof

/-! Layout (07 R165). -/

/-- Rows, columns and blocks per row of the tile of a form of n pipelines. -/
def tileShape (n : Nat) : Nat × Nat × Nat :=
  if n = 1 then (8, 8, 1) else if n = 4 then (16, 16, 2) else if n = 8 then (16, 32, 4) else if n = 16 then (32, 32, 4)
  else (32, 64, 8)

/-- The lane whose slice holds an element, and its index there. -/
def tilePlace (n i j : Nat) : Nat × Nat :=
  let nb := (tileShape n).2.2
  (i / 8 * nb + j / 8, 8 * (i % 8) + j % 8)

/-- Tile row and column of element (u, v) of lane l's block. -/
def tilePos (n l u v : Nat) : Nat × Nat :=
  let nb := (tileShape n).2.2
  (8 * (l / nb) + u, 8 * (l % nb) + v)

/-! The format block (02 R50, R51). -/

def fmtType : Nat → Option Ty
  | 0 => some .bf16 | 1 => some .f16 | 2 => some .e4m3 | 3 => some .e5m2 | 4 => some .i8 | 5 => some .lg6
  | _ => none

/-- The type of an operand, BF16 where the code is reserved (02 R51 refuses it before). -/
def MmaOperand.ty (o : MmaOperand) : Ty := (fmtType o.fmt).getD .bf16

def MmaOperand.size (o : MmaOperand) : Nat := o.ty.bits / 8

/-- One half of the block with the operand's base and stride registers. -/
def mmaOperand (base strides : Word) (half : Nat) : MmaOperand :=
  { base := base.toNat, rs := bitsAt strides 0 32, cs := bitsAt strides 32 32, fmt := fieldAt half 96 4,
    scaled := fieldAt half 101 1 == 1, blen := fieldAt half 100 1 == 1, sbase := fieldAt half 0 64,
    srow := fieldAt half 64 16, scol := fieldAt half 80 16 }

def MmaOperand.bad (o : MmaOperand) (half : Nat) : Bool :=
  fieldAt half 102 26 != 0 || (fmtType o.fmt).isNone ||
  (o.scaled && !(o.fmt == 2 || o.fmt == 3 || o.fmt == 5)) || (!o.scaled && o.blen)

/-- The allowed pairs of formats. -/
def pairOk (a b : Nat) : Bool := a == b || ((a == 2 || a == 3) && (b == 2 || b == 3))

/-! Arithmetic (02 R46, R47, R49, R65 to R67). -/

/-- G of 02 R65. -/
def kGroup : Ty → Nat
  | .lg6 => 16
  | .bf16 | .f16 => 4
  | _ => 8

/-- One group's value from its element pairs and scale codes (none: unscaled): the FP32 code and the flags. -/
def groupValue (ta tb : Ty) (ps : List (Nat × Nat)) (sa sb : Option Nat) : Nat × Fl :=
  let nan := defaultNaN .f32
  if ta = .lg6 then
    let prods := ps.map (fun p => logMul p.1 p.2)
    let li := Fl.liIf (prods.any (·.2))
    if sa == some 255 || sb == some 255 then (nan, Fl.invalid.or li)
    else
      let z := FV.sum false (prods.map (·.1))
      let k : Int := (sa.getD 127 : Int) + (sb.getD 127 : Int) - 254
      let r := roundTo .f32 .rne 0 (z.1.scale k)
      (r.1, r.2.or li)
  else
    let xs := ps.map (fun p => (val ta p.1, val tb p.2))
    if sa == some 255 || sb == some 255 then (nan, Fl.invalid)
    else if xs.any (fun x => x.1.isNaN || x.2.isNaN) then (nan, Fl.nvIf (xs.any (fun x => x.1.isSig || x.2.isSig)))
    else
      let prods := xs.map (fun x => x.1.mul x.2)
      if prods.any (·.2) then (nan, Fl.invalid)
      else
        let s := FV.sum false (prods.map (·.1))
        if s.2 then (nan, Fl.invalid)
        else
          let k : Int := (sa.getD 127 : Int) + (sb.getD 127 : Int) - 254
          let v : FV := match s.1 with
            | .fin _ 0 _ => .fin false 0 0
            | v => v.scale k
          roundTo .f32 .rne 0 v

/-- Adds a group's value to the accumulator. -/
def accStep (acc : Nat × Fl) (v : Nat × Fl) : Nat × Fl :=
  let r := roundSum .f32 .rne 0 (FV.sum false [val .f32 acc.1, val .f32 v.1])
  (r.1, (acc.2.or v.2).or r.2)

/-! Traps of form-wide words (07 R169). -/

/-- A check on uniform values: it raises in every lane that has not exited. -/
def State.trapForm (s : State) (g : Group) (pc : Word) (t : TrapInfo) : State :=
  (s.takeTraps g.gid pc (g.liveLanes.map (fun l => (l, t)))).settle g.gid

/-- An uncorrectable error on a read of the form: every path enters the whole-form handler. -/
def State.ueForm (s : State) (g : Group) (pc addr : Word) : State :=
  ((g.paths.filter (fun p => !p.lanes.isEmpty)).foldl
    (fun s p => s.enterWhole g.gid p.pid pc 2 (g.liveLanes.map (fun l => (l, addr)))) s).settle g.gid

/-- What a read of the reading lane came to: the value, a hold, or the state after its trap. -/
def State.formRead {α : Type} (s : State) (g : Group) (pc : Word) (r : LRes α) (ok : α → State → State)
    (stop : State → State) : State :=
  match r with
  | .ok v s1 => ok v s1
  | .hold => s
  | .trap t => ((stop s).takeTrap g.gid g.reader pc t).settle g.gid
  | .trapIn t s1 => ((stop s1).takeTrap g.gid g.reader pc t).settle g.gid
  | .ue a => (stop s).ueForm g pc a

/-! The hall pass (07 R183, R184). -/

/-- The group that occupies the other slot of exactly the same pipelines. -/
def State.pairOf? (s : State) (g : Group) : Option Group :=
  s.groups.find? (fun x => x.gid != g.gid && x.ctx == g.ctx && x.site == g.site && x.pipes == g.pipes)

def State.holdsPass (s : State) (g : Group) : Bool := (s.pairOf? g).isNone || g.pass == .held

/-! MMA (07 R170 to R174, R187). -/

/-- MRP with an owed restart at a row step. -/
def owedAt (step : Nat) : BitVec 32 := BitVec.ofNat 32 (step % 65536 + 65536)

def Group.owed (g : Group) : Bool := g.mrp.toNat / 65536 % 2 == 1

/-- Writes MRP := 0 where a restart is owed (07 R187). -/
def Group.clearMrp (g : Group) : Group := if g.owed then { g with mrp := 0 } else g

/-- The row step at which an MMA of the group begins. -/
def Group.firstStep (g : Group) : Nat := if g.owed then g.mrp.toNat % 65536 else 0

/-- The first base or stride register whose value is no multiple of its operand's element size, in the order x[a], x[a+1], x[b],
x[b+1], which is the model's choice (log 87). -/
def mmaMisaligned (xa sa xb sb : Word) (a b : MmaOperand) : Option Word :=
  let bad (z : Nat) (n : Nat) : Bool := n % z != 0
  if bad a.size xa.toNat then some xa
  else if bad a.size a.rs || bad a.size a.cs then some sa
  else if bad b.size xb.toNat then some xb
  else if bad b.size b.rs || bad b.size b.cs then some sb
  else none

/-- An MMA that stops before completion (07 R187): MRP names its first uncommitted step and the flags of the committed
ones are set (02 R68). -/
def State.stopMma (s : State) (gid : Nat) (m : Mma) : State :=
  (s.mmaFlags gid m.flags).modGroup gid (fun g =>
    { g with mrp := owedAt m.step, mmas := g.mmas.filter (fun x => x.ord != m.ord) })

/-- Starts an MMA once the form has converged (07 R172, R185). -/
def mmaEff (d : MReg) (a b c : XReg) (kq : Fin 1024) (g : Group) (p : Path) (s : State) : State :=
  if !s.holdsPass g || 4 ≤ g.mmas.length || g.mmas.any (·.reading) then s
  else
    let x := g.lane g.reader
    let fa := x.rx c
    let sp := fa.toNat / 2 ^ 56
    let bad : TrapInfo := ⟨1, 8, fa, false⟩
    if fa.toNat % 32 ≠ 0 || !(sp == 0xFC || sp == 0xFD) then s.trapForm g p.pc bad
    else
      let s0 := g.firstStep
      let stop (s : State) : State := s.modGroup g.gid (fun g => { g with mrp := owedAt s0 })
      s.formRead g p.pc (s.load16s g.gid g.reader fa 4 2) (fun us s1 =>
        let ha := us.getD 0 0
        let hb := us.getD 1 0
        let oa := mmaOperand (x.rx a) (x.rx (XReg.succ a)) ha
        let ob := mmaOperand (x.rx b) (x.rx (XReg.succ b)) hb
        if oa.bad ha || ob.bad hb || !pairOk oa.fmt ob.fmt then s.trapForm g p.pc bad
        else
          match mmaMisaligned (x.rx a) (x.rx (XReg.succ a)) (x.rx b) (x.rx (XReg.succ b)) oa ob with
          | some w => s.trapForm g p.pc ⟨2, 0, w, false⟩
          | none =>
            if 8 ≤ s0 then (s1.modGroup g.gid (fun g => { g with mrp := 0 })).releaseForm g.gid
            else
              let (n, s2) := s1.fresh
              s2.modGroup g.gid (fun g => { g with mmas := g.mmas ++ [⟨d.val, oa, ob, 4 * (kq.val + 1), s0, n, true, 0⟩] }))
        stop

def execMma (d : MReg) (a b c : XReg) (kq : Fin 1024) (hint : Hint) (seg : Bool) (s : State) : Out :=
  formWord (.mma d a b c kq hint seg) (mmaEff d a b c kq) s

/-- Loads of the reading lane in the order of a list of addresses and sizes. -/
def State.loadList (s : State) (gid l : Nat) : List (Nat × Nat) → LRes (List Nat)
  | [] => .ok [] s
  | (a, z) :: r => (s.load gid l (BitVec.ofNat 64 a) z 4).bind (fun v s1 =>
      (State.loadList s1 gid l r).bind (fun vs s2 => .ok (v :: vs) s2))

def MmaOperand.at_ (o : MmaOperand) (row col : Nat) : Nat × Nat := (o.base + row * o.rs + col * o.cs, o.size)

def MmaOperand.scaleAt (o : MmaOperand) (row col : Nat) : Nat × Nat := (o.sbase + row * o.srow + col * o.scol, 1)

def MmaOperand.block (o : MmaOperand) : Nat := if o.blen then 32 else 16

def MmaOperand.blocks (o : MmaOperand) (k : Nat) : Nat := if o.scaled then (k + o.block - 1) / o.block else 0

/-- What a row step reads: A's rows, B, A's scales, B's scales. -/
structure StepReads where
  rows : List Nat
  n : Nat
  k : Nat
  a : List Nat
  b : List Nat
  sa : List Nat
  sb : List Nat

def StepReads.elemA (r : StepReads) (ri kk : Nat) : Nat := r.a.getD (ri * r.k + kk) 0
def StepReads.elemB (r : StepReads) (kk j : Nat) : Nat := r.b.getD (kk * r.n + j) 0

/-- The value of an output element after its groups. -/
def Mma.element (m : Mma) (r : StepReads) (ri j acc : Nat) : Nat × Fl :=
  let g := kGroup m.a.ty
  (List.range ((m.k + g - 1) / g)).foldl (fun acc gi =>
    let ks := (List.range g).filterMap (fun q => if g * gi + q < m.k then some (g * gi + q) else none)
    let sa := if m.a.scaled then some (r.sa.getD (ri * m.a.blocks m.k + g * gi / m.a.block) 0) else none
    let sb := if m.b.scaled then some (r.sb.getD (g * gi / m.b.block * r.n + j) 0) else none
    accStep acc (groupValue m.a.ty m.b.ty (ks.map (fun kk => (r.elemA ri kk, r.elemB kk j))) sa sb)) (acc, Fl.none)

/-- Commits a row step on every slice (07 R172): the new blocks and the flags. -/
def Group.commitStep (g : Group) (m : Mma) (r : StepReads) : Group × Fl :=
  let els := (r.rows.zipIdx).flatMap (fun x => (List.range r.n).map (fun j =>
    let pl := tilePlace g.size x.1 j
    let v := m.element r x.2 j ((g.lane pl.1).rm m.d pl.2).toNat
    (pl.1, pl.2, v.1, v.2)))
  let g1 := els.foldl (fun g e => g.modLane e.1 (fun l => l.wm m.d e.2.1 (BitVec.ofNat 32 e.2.2.1))) g
  (g1, Fl.orAll (els.map (fun e => e.2.2.2)))

/-- The MMA of the group that still reads operands. -/
def Group.reading? (g : Group) : Option Mma := g.mmas.find? (·.reading)

/-- Another form that shares a slice has an MMA that began before (07 R183). -/
def State.datapathBusy (s : State) (g : Group) (m : Mma) : Bool :=
  s.groups.any (fun h => h.gid != g.gid && h.site == g.site && h.pipes.any g.pipes.contains &&
    h.mmas.any (fun x => x.reading && decide (x.ord < m.ord)))

/-- The context's drains and MMAs go on: a pre-emption waits for them, a fault discards them (07 R189, R190). -/
def State.drainsRun (s : State) (ctx : Nat) : Bool :=
  match s.ctx? ctx with
  | some c => (c.st == .running || c.st == .preempting) && !c.viol
  | none => false

/-- MMA_ROW_STEP: the next row step reads its operands and commits; after step 7 MRP is 0 and the form goes on. A faulted context
commits none (07 R190). -/
def execMmaRowStep (s : State) : Out :=
  let gid := s.arg 0
  match s.group? gid with
  | none => .next s
  | some g =>
    match g.reading? with
    | none => .next s
    | some m =>
      if g.frozen || g.paths.any (·.frozen) || s.datapathBusy g m || !s.drainsRun g.ctx then .next s
      else
        let sh := tileShape g.size
        let rows := (List.range sh.1).filter (fun i => i % 8 == m.step)
        let n := sh.2.1
        let pc := ((g.pathOf? g.reader).map (·.pc)).getD 0
        let la := rows.flatMap (fun i => (List.range m.k).map (fun kk => m.a.at_ i kk))
        let lb := (List.range m.k).flatMap (fun kk => (List.range n).map (fun j => m.b.at_ kk j))
        let lsa := rows.flatMap (fun i => (List.range (m.a.blocks m.k)).map (fun b => m.a.scaleAt i b))
        let lsb := (List.range (m.b.blocks m.k)).flatMap (fun b => (List.range n).map (fun j => m.b.scaleAt b j))
        .next (s.formRead g pc (s.loadList gid g.reader (la ++ lb ++ lsa ++ lsb)) (fun vs s1 =>
          let r : StepReads := ⟨rows, n, m.k, vs.take la.length, (vs.drop la.length).take lb.length,
            (vs.drop (la.length + lb.length)).take lsa.length, vs.drop (la.length + lb.length + lsa.length)⟩
          let last := m.step == 7
          let s2 := s1.modGroup gid (fun g =>
            let c := g.commitStep m r
            let next (x : Mma) : Mma :=
              { x with step := x.step + 1, reading := !last, flags := Nat.lor x.flags c.2.toNat }
            { c.1 with mrp := if last then 0 else c.1.mrp, mmas := updWhere (fun x => x.ord == m.ord) next c.1.mmas })
          if last then s2.releaseForm gid else s2)
          (fun s => s.stopMma gid m))

/-- MMA_COMPLETE: the oldest MMA whose steps are committed completes with its flags (07 R172, R174). -/
def execMmaComplete (s : State) : Out :=
  let gid := s.arg 0
  match (s.group? gid).bind (fun g => g.mmas.find? (fun m => !m.reading)) with
  | none => .next s
  | some m => .next ((s.mmaFlags gid m.flags).modGroup gid (fun g =>
      { g with mmas := g.mmas.filter (fun x => x.ord != m.ord) }))

/-- MMA_PREEMPT_STOP: 4,800 clk after a request, an MMA that has not read every operand is abandoned (07 R188). -/
def execMmaPreemptStop (s : State) : Out :=
  let gid := s.arg 0
  match s.group? gid with
  | none => .next s
  | some g =>
    match g.reading?, (s.ctx? g.ctx).bind (·.stopAt) with
    | some m, some t => if t + 4800 ≤ s.clk then .next (s.stopMma gid m) else .next s
    | _, _ => .next s

/-! Clearing, moving and reading (07 R175 to R177). -/

/-- The group after some of its m registers are cleared on every slice. -/
def Group.clearTiles (g : Group) (f : Nat → Bool) : Group :=
  { g with lanes := g.lanes.map (fun l =>
      (List.range 8).foldl (fun l r => if f r then l.setBlock r (Vector.replicate 64 0) else l) l) }

/-- A form-wide word that changes the group and goes on. -/
def formChange (f : Group → Group) (g : Group) (_p : Path) (s : State) : State :=
  (s.modGroup g.gid f).releaseForm g.gid

def mzeroEff (d : MReg) : Group → Path → State → State := formChange (fun g => g.clearMrp.clearTiles (· == d.val))

def execMzero (d : MReg) (s : State) : Out := formWord (.mzero d) (mzeroEff d) s

def mclrEff (mask : Fin 256) : Group → Path → State → State :=
  formChange (fun g => g.clearMrp.clearTiles (inMask mask.val))

def execMclr (mask : Fin 256) (s : State) : Out := formWord (.mclr mask) (mclrEff mask) s

/-- The block of an m register. -/
def Lane.block (l : Lane) (r : Nat) : Vector (BitVec 32) 64 := l.m.toList.getD r (Vector.replicate 64 0)

def mmovEff (d a : MReg) : Group → Path → State → State :=
  formChange (fun g => { g.clearMrp with lanes := g.lanes.map (fun l => l.setBlock d.val (l.block a.val)) })

def execMmov (d a : MReg) (s : State) : Out := formWord (.mmov d a) (mmovEff d a) s

def execMmovTov (g : Guard) (d : VReg) (a : MReg) (r : Fin 8) (h : Bool) (s : State) : Out :=
  regWord g (fun l => l.wv d (ofElts 32 ((List.range 4).map (fun c =>
    (l.rm a.val (8 * r.val + 4 * h.toNat + c)).toNat)))) s

def execMmovTom (g : Guard) (d : MReg) (a : VReg) (r : Fin 8) (h : Bool) (s : State) : Out :=
  regWord g (fun l => (List.range 4).foldl (fun x c =>
    x.wm d.val (8 * r.val + 4 * h.toNat + c) (BitVec.ofNat 32 (elt (l.rv a) c 32))) l) s

/-- The word of 07 R177. -/
def State.mresWord (s : State) (g : Group) : Word :=
  let drains := (s.eng.drains.filter (fun d => d.gid == g.gid)).length
  let shape := codeOfSize g.size
  BitVec.ofNat 64 (2 ^ 32 * (g.mrp.toNat % 256) + 2 ^ 24 * (drains % 256) + 2 ^ 16 * (g.mmas.length % 256) +
    32 * g.owed.toNat + 16 * (s.pairOf? g).isSome.toNat + 8 * (s.holdsPass g).toNat + shape)

def execMres (g : Guard) (d : XReg) (s : State) : Out := groupRead g d (fun h _ => s.mresWord h) s

/-! Drains (07 R178 to R182). -/

/-- What a drain writes: format and rounding, base, strides. -/
structure DrainWord where
  t : Ty
  rm : Rm
  base : Word
  rs : Nat
  cs : Nat
deriving DecidableEq, Repr

/-- The elements of one lane's block, with the lane's flags and draw counter after it (07 R180). -/
def Group.drainLane (g : Group) (b l : Nat) (w : DrainWord) (locOf : Word → Loc) : List DrainElem × Fl × Word :=
  let x := g.lane l
  let sr := if x.exited then x.drawCtr else x.srstate
  let mode := resolveRm w.rm x.fpctl w.t.isNarrowFloat
  let els := (List.range 64).map (fun q =>
    let pos := tilePos g.size l (q / 8) (q % 8)
    let a := w.base + BitVec.ofNat 64 (pos.1 * w.rs + pos.2 * w.cs)
    let r := convert .f32 w.t mode (srDrawAt sr x.jobSeed q) (x.rm b q).toNat
    ((⟨locOf a, a.toNat, toBytes (w.t.bits / 8) r.1, false⟩ : DrainElem), r.2))
  (els.map (·.1), Fl.orAll (els.map (·.2)), srAfter mode sr 64)

/-- The snapshot of a drain: its elements, and the group after flags and draws. -/
def State.drainSnap (s : State) (g : Group) (b : Nat) (w : DrainWord) (locOf : Word → Loc) : List DrainElem × State :=
  let r := (List.range g.size).map (fun l => g.drainLane b l w locOf)
  let s1 := ((List.range g.size).zip r).foldl (fun s x =>
    let live := !(g.lane x.1).exited
    let s1 := s.modLane g.gid x.1 (fun y =>
      if live then { y with srstate := x.2.2.2 } else { y with drawCtr := x.2.2.2 })
    if live then s1.raiseFlags g.gid x.1 x.2.2.1 else s1) s
  (r.flatMap (·.1), s1)

def Group.clrTile (g : Group) (b : MReg) (clr : Bool) : Group := if clr then g.clearTiles (· == b.val) else g

/-- Where an element of MDRAIN goes: outside the class it names a place that no engine may write. -/
def drainLoc (g : Group) (a : Word) : Loc :=
  let n := a.toNat
  let sp := n / 2 ^ 56
  if sp = 0 then .glob n
  else if sp = 0xFC then .pad g.cls (g.member g.reader) (n % 2 ^ 56)
  else if sp = 0xFD then .pad g.cls (n / 2 ^ 48 % 256) (n % 2 ^ 48)
  else .pad 0 256 n

/-- The base or stride register whose value is no multiple of the element size, the base first (07 R180). That TVAL is the value of
the register at fault is the model's choice (log 114). -/
def drainMisaligned (base strides : Word) (z : Nat) : Option Word :=
  if base.toNat % z ≠ 0 then some base
  else if bitsAt strides 0 32 % z ≠ 0 || bitsAt strides 32 32 % z ≠ 0 then some strides
  else none

def State.drainsOf (s : State) (gid : Nat) : Nat := (s.eng.drains.filter (fun d => d.gid == gid)).length

def State.addDrain (s : State) (d : Drain) : State :=
  let (n, s1) := s.fresh
  { s1 with eng := { s1.eng with drains := s1.eng.drains ++ [{ d with did := n }] } }

def mdrainEff (a : XReg) (b : MReg) (t : Ty) (rm : Rm) (clr : Bool) (g : Group) (p : Path) (s : State) : State :=
  if 4 ≤ s.drainsOf g.gid || g.mmas.any (fun m => m.reading && m.d == b.val) then s
  else
    let x := g.lane g.reader
    let base := x.rx a
    let str := x.rx (XReg.succ a)
    let sp := base.toNat / 2 ^ 56
    match drainMisaligned base str (t.bits / 8) with
    | some w => s.trapForm g p.pc ⟨2, 0, w, false⟩
    | none =>
      if !(sp == 0 || sp == 0xFC || sp == 0xFD) then s.trapForm g p.pc ⟨4, 1, base, false⟩
      else
        let w : DrainWord := ⟨t, rm, base, bitsAt str 0 32, bitsAt str 32 32⟩
        let (els, s1) := s.drainSnap g b.val w (drainLoc g)
        let s2 := s1.modGroup g.gid (fun g => g.clearMrp.clrTile b clr)
        let dr : Drain :=
          { did := 0, gid := g.gid, ctx := g.ctx, privS := x.privS, site := g.site, cls := g.cls, pts := x.pts,
            elems := els, remote := false, wake := [], wakeSite := g.site, job := x.origin.job, held := 0 }
        (s2.addDrain dr).releaseForm g.gid

def execMdrain (a : XReg) (b : MReg) (t : Ty) (rm : Rm) (scope : Scope) (clr : Bool) (s : State) : Out :=
  formWord (.mdrain a b t rm scope clr) (mdrainEff a b t rm clr) s

/-- The status of MDRAINR and the class it writes (07 R182). NO_CLASS stands before RANGE where both apply, and a PIPE below 96 that
the class does not have is RANGE: the model's choices (log 116). -/
def State.drainTarget (s : State) (g : Group) (desc : Word) (off : Nat) (w : DrainWord) : Nat × Option Klass :=
  let d := destDesc desc
  let k := (s.gridOf g g.reader).bind (fun l => (l.linear? d.cls d.stg).bind (fun n => s.classAt? g.ctx l.lid n))
  match k with
  | none => (1, none)
  | some k =>
    if 96 ≤ d.idx then (1, none)
    else
      let size := ((k.pads[d.idx]?).map (·.size)).getD 0
      let sh := tileShape g.size
      let ends := (List.range sh.1).flatMap (fun i => (List.range sh.2.1).map (fun j =>
        (off + i * w.rs + j * w.cs) % 2 ^ 64 + w.t.bits / 8))
      if d.rsv ≠ 0 || ends.any (fun e => decide (size < e)) then (2, none) else (0, some k)

/-- MDRAINR once the form has converged (07 R182). Bits 63:48 of x[a] are ignored (log 115). -/
def mdrainrEff (d a : XReg) (b : MReg) (c : XReg) (t : Ty) (rm : Rm) (clr : Bool) (g : Group) (p : Path) (s : State) :
    State :=
  if 4 ≤ s.drainsOf g.gid || g.mmas.any (fun m => m.reading && m.d == b.val) then s
  else
    let x := g.lane g.reader
    let off := bitsAt (x.rx a) 0 48
    let str := x.rx (XReg.succ a)
    let rec_ := x.rx d
    match drainMisaligned (BitVec.ofNat 64 off) str (t.bits / 8) with
    | some w => s.trapForm g p.pc ⟨2, 0, if w = BitVec.ofNat 64 off then x.rx a else w, false⟩
    | none =>
      if rec_.toNat % 64 ≠ 0 then s.trapForm g p.pc ⟨2, 0, rec_, false⟩
      else s.formRead g p.pc (s.load16s g.gid g.reader rec_ 4 4) (fun us s1 =>
        let w : DrainWord := ⟨t, rm, BitVec.ofNat 64 off, bitsAt str 0 32, bitsAt str 32 32⟩
        let (st, k) := s1.drainTarget g (x.rx c) off w
        let (els, s2) : List DrainElem × State := match k with
          | none => ([], s1)
          | some k => s1.drainSnap g b.val w (fun a => .pad k.kid (destDesc (x.rx c)).idx a.toNat)
        let s3 := s2.modGroup g.gid (fun g => g.clearMrp.clrTile b clr)
        let dr : Drain :=
          { did := 0, gid := g.gid, ctx := g.ctx, privS := x.privS, site := g.site, cls := g.cls,
            pts := ((s1.group? g.gid).map (fun h => (h.lane g.reader).pts)).getD x.pts,
            elems := els, remote := true, wake := (wordsOf16 us).set 7 (BitVec.ofNat 64 st),
            wakeSite := (k.map (·.site)).getD g.site, job := x.origin.job, held := 0 }
        (s3.addDrain dr).releaseForm g.gid) id

def execMdrainr (d a : XReg) (b : MReg) (c : XReg) (t : Ty) (rm : Rm) (clr : Bool) (s : State) : Out :=
  formWord (.mdrainr d a b c t rm clr) (mdrainrEff d a b c t rm clr) s

def State.drain? (s : State) (did : Nat) : Option Drain := s.eng.drains.find? (fun d => d.did == did)

def State.modDrain (s : State) (did : Nat) (f : Drain → Drain) : State :=
  { s with eng := { s.eng with drains := updWhere (fun d => d.did == did) f s.eng.drains } }

/-- A drain is complete: the form may acquire its writes (07 R186). -/
def State.endDrain (s : State) (d : Drain) : State :=
  let s1 := { s with eng := { s.eng with drains := s.eng.drains.filter (fun x => x.did != d.did) } }
  (s1.modGroup d.gid (fun g => { g with acqPts := max g.acqPts d.pts })).reap

/-- The form's L1s no longer hold a line that one of its drains has written: a later access of the form that overlaps the drain
follows it (07 R180, 09 R240). -/
def State.dropFormLine (s : State) (gid : Nat) (loc : Loc) : State :=
  match s.group? gid, loc with
  | some g, .glob va => s.setMem (s.mem.dropCopies (fun c => c.ctx == g.ctx && c.level == 0 && c.key == va / 128 && !c.owned &&
      g.pipes.any (fun p => c.holder == .l1 g.site.die g.site.cluster p)))
  | _, _ => s

/-- The next element of a drain goes to a package that is unreachable: it waits (19 R435). -/
def State.drainCut (s : State) (d : Drain) : Bool := ((d.elems.find? (fun e => !e.written)).map (fun e => s.cutLoc d.ctx e.at_)).getD false

/-- The messages of a drain, once its element `i` is written: a chunk is injected with its first element and consumed with its last,
on the links of its way as well (17 R397, log 121). -/
def State.countDrain (s : State) (d : Drain) (i : Nat) (e : DrainElem) (last : Bool) : State :=
  let n := e.bytes.length
  let s1 := if i * n % 512 = 0 then s.count d.ctx d.job (cniOf d.site) 1 0 else s
  if (i + 1) * n % 512 = 0 || last then
    let die := s1.locDie ⟨d.ctx, d.privS, d.pts, d.site⟩ e.at_ needW
    let back := match e.at_ with | .glob _ => true | .pad .. => false
    (s1.countWay d.ctx d.job d.site.die die.1 die.2 back).count d.ctx d.job (cniOf d.site) 0 1
  else s1

/-- DRAIN_WRITE: the next element of a drain is written (07 R180). -/
def execDrainWrite (s : State) : Out :=
  let did := s.arg 0
  match s.drain? did with
  | none => .next s
  | some d =>
    if !s.drainsRun d.ctx || d.held ≠ 0 || s.drainCut d then .next s
    else
      match d.elems.findIdx? (fun e => !e.written) with
      | none => .next (if d.remote then s else s.endDrain d)
      | some i =>
        match d.elems[i]? with
        | none => .next s
        | some e =>
          if s.ownedFor 0 e.at_ e.bytes.length then .next s
          else match s.engWrite ⟨d.ctx, d.privS, d.pts, d.site⟩ e.at_ e.bytes with
          | (.ok t, s1) =>
            let done : Drain := { d with elems := d.elems.set i { e with written := true }, pts := max d.pts t }
            let last := decide (d.elems.length ≤ i + 1)
            let s3 := ((s1.modDrain did (fun _ => done)).dropFormLine d.gid e.at_).countDrain done i e last
            .next (if last && !d.remote then s3.endDrain done else s3)
          | (r, s1) =>
            match engErr r 2 e.va with
            | some (.fault cause sub addr) =>
              let (s2, tag) := s1.engFault d.ctx 2 cause sub addr (siteWord d.site 0x7F) (.drain did)
              .next (s2.modDrain did (fun d => { d with held := tag }))
            | _ => .next (s1.engViolate d.ctx 2 e.va (siteWord d.site 0x7F))

/-- MDRAINR_WAKE: after its last write, the record of an MDRAINR is posted (07 R182). -/
def execMdrainrWake (s : State) : Out :=
  let did := s.arg 0
  match s.drain? did with
  | none => .next s
  | some d =>
    if !s.drainsRun d.ctx || !d.remote || d.elems.any (fun e => !e.written) then .next s
    else
      let r : TaskRec :=
        { words := d.wake, ctx := d.ctx, pts := d.pts, idStage := 0, idLogical := 0xFFFFFFFF, mail := none, fault := false,
          tag := 0, site := d.wakeSite, seq := 0, issuer := none, src := some d.site }
      let job := (recFields d.wake).theJob
      .next (((s.count d.ctx job (cniOf d.site) 1 0).sendRecord r).endDrain d)

/-! MPASS and MWAIT (07 R184 to R186). -/

/-- MPASS: a paired form that holds the pass lets it go. -/
def mpassEff (g : Group) (_p : Path) (s : State) : State :=
  let go := (s.pairOf? g).isSome && g.pass == .held
  (if go then s.modGroup g.gid (fun g => { g with pass := .inFlight }) else s).releaseForm g.gid

def execMpass (s : State) : Out := formWord .mpass mpassEff s

/-- PASS_ARRIVAL: once the form's earlier MMAs have completed the pass reaches the partner, or returns. -/
def execPassArrival (s : State) : Out :=
  let gid := s.arg 0
  match s.group? gid with
  | none => .next s
  | some g =>
    if g.pass != .inFlight || !g.mmas.isEmpty then .next s
    else
      match s.pairOf? g with
      | none => .next (s.modGroup gid (fun g => { g with pass := .held }))
      | some h => .next ((s.modGroup gid (fun g => { g with pass := .away })).modGroup h.gid
          (fun g => { g with pass := .held }))

/-- MWAIT once the form has converged. -/
def mwaitEff (all : Bool) (g : Group) (_p : Path) (s : State) : State :=
  if !g.mmas.isEmpty || (all && s.drainsOf g.gid ≠ 0) then s
  else
    let f (l : Lane) : Lane := if all && !l.exited then { l with pts := max l.pts g.acqPts } else l
    (s.modGroup g.gid (fun g => { g with lanes := g.lanes.map f })).releaseForm g.gid

def execMwait (s : State) : Out := formWord .mwait (mwaitEff false) s

def execMwaitAll (s : State) : Out := formWord .mwaitAll (mwaitEff true) s

end Sys2Proof.Machine
end

