-- ==== Sys2Proof/Machine/Barrier.lean ====
section
/-!
DEFINITION. Barrier words (14 R330 to R339) and wide barriers (14 R341 to R345), with the arrival that a transport
signal makes (14 R347).
-/

namespace Sys2Proof.Machine

open Sys2Proof

/-! Accesses to a barrier word. -/

/-- The indivisible access of R333: space 0x00 is no space of a barrier word (14 R334). -/
def State.barAccess (s : State) (gid l : Nat) (addr : Word) (f : Nat → Option Nat) : LRes (BarWord × Loc) :=
  match s.group? gid with
  | none => .hold
  | some g =>
    if addr.toNat / 2 ^ 56 = 0 then .trap ⟨4, 1, addr, false⟩
    else
      match resolve s g l addr 8 8 with
      | .error t => .trap t
      | .ok loc => (s.rmwAt gid l loc addr 8 false f).bind (fun v s1 => .ok (barWord v, loc) s1)

/-- The line and offset of a barrier word. -/
def Loc.barAt : Loc → LineAt × Nat
  | .pad k m off => (.pad k m (off / 128), off)
  | .glob a => (.phys (a / 128), a)

/-- Remembers or forgets that a lane has arrived at a word in a generation (14 R339). -/
def State.setJoined (s : State) (loc : Loc) (gen : Option Nat) : State :=
  match loc with
  | .glob _ => s
  | .pad k m off =>
    let rest := s.bars.joined.filter (fun j => !(j.1 == k && j.2.1 == m && j.2.2.1 == off))
    { s with bars := { s.bars with joined := match gen with | some g => (k, m, off, g) :: rest | none => rest } }

/-- What an arrival makes of a word: the result, whether the lane ends at once, and the new word (14 R336). -/
structure ArriveRes where
  res : Word
  ends : Bool
  new : Option Nat
deriving DecidableEq, Repr

def BarWord.arrive (w : BarWord) : ArriveRes :=
  if w.invalid then ⟨barResult w.gen 2 false, true, none⟩
  else if w.broken then ⟨barResult w.gen 1 false, true, none⟩
  else if w.arrived + 1 = w.expect then
    ⟨barResult ((w.gen + 1) % 2 ^ 16) 0 true, true, some { w with arrived := 0, gen := (w.gen + 1) % 2 ^ 16 }.bits⟩
  else ⟨barResult w.gen 0 false, false, some { w with arrived := w.arrived + 1 }.bits⟩

/-- One lane's arrival: what it came to, the generation it read and the word's place. -/
def State.barArrive (s : State) (gid l : Nat) (addr : Word) : LRes (ArriveRes × Nat × Loc) :=
  (s.barAccess gid l addr (fun v => (barWord v).arrive.new)).bind (fun r s1 =>
    let a := r.1.arrive
    let s2 := if a.new.isNone then s1 else s1.setJoined r.2 (if a.ends then none else some r.1.gen)
    .ok (a, r.1.gen, r.2) s2)

def WaitKind.isBar : WaitKind → Bool
  | .bar .. => true
  | _ => false

/-- The waiters of a cluster (14 R333). -/
def State.barWaiters (s : State) (site : Site) : Nat :=
  (((s.groups.filter (fun g => g.site == site)).flatMap (·.lanes)).filter (fun l => match l.wait with
    | some w => w.kind.isBar
    | none => false)).length

/-- Registers a lane as a waiter, held while the bank's 64 are in use; `arrived` says that BSYNC has made its arrival. -/
def State.barRegister (s : State) (gid l : Nat) (loc : Loc) (gen : Nat) (arrived : Bool) (d : XReg) : LRes Unit :=
  match s.group? gid with
  | none => .hold
  | some g =>
    if 64 ≤ s.barWaiters g.site then .hold
    else .ok () (s.modLane gid l (fun x => x.startWait ⟨.bar loc.barAt.1 loc.barAt.2 gen arrived, d, none, s.clk, false⟩))

/-- Wakes every waiter of a word with BROKEN (14 R332). -/
def State.wakeBroken (s : State) (loc : Loc) (gen : Nat) : State :=
  s.wakeLanes (fun _ _ _ w => match w.kind with
    | .bar at_ off _ _ =>
      if (at_, off) = loc.barAt then some (fun y => y.wx w.d (barResult gen 1 false)) else none
    | _ => none)

/-! The words. -/

/-- BINIT (14 R335). -/
def execBinit (g : Guard) (a b : XReg) (scope : Scope) (s : State) : Out :=
  laneWord g (fun s gid l =>
    let x := s.lane gid l
    let n := (x.rx b).toNat
    let ok := n % 2 ^ 16 ≠ 0 ∧ n < 2 ^ 16
    let new (v : Nat) : BarWord := { expect := n % 2 ^ 16, arrived := 0, gen := (barWord v).gen, broken := false,
                                     scope := scope.code, rsv := 0 }
    if ok then
      -- the waiters are woken by this access, before the new word is evaluated
      (s.barAccess gid l (x.rx a) (fun _ => none)).bind (fun r s1 =>
        let s2 := (s1.wakeBroken r.2 r.1.gen).setJoined r.2 none
        (s2.barAccess gid l (x.rx a) (fun v => some (new v).bits)).bind (fun _ s3 => .ok () s3))
    else (s.barAccess gid l (x.rx a) (fun _ => none)).bind (fun _ s1 => .ok () s1)) s

/-- BBREAK (14 R332, R339). -/
def execBbreak (g : Guard) (a : XReg) (s : State) : Out :=
  laneWord g (fun s gid l =>
    (s.barAccess gid l ((s.lane gid l).rx a) (fun v =>
      let w := barWord v
      if w.invalid || w.broken then none else some { w with broken := true }.bits)).bind (fun _ s1 => .ok () s1)) s

/-- BWAIT (14 R337). -/
def execBwait (g : Guard) (d a b : XReg) (s : State) : Out :=
  parkWord g (fun s gid l =>
    let x := s.lane gid l
    let n := (x.rx b).toNat
    (s.barAccess gid l (x.rx a) (fun _ => none)).bind (fun r s1 =>
      let now (v : Word) : LRes Unit := .ok () (s1.modLane gid l (fun y => y.wx d v))
      if 2 ^ 16 ≤ n then now (barResult r.1.gen 2 false)
      else match r.1.wake n with
        | some v => now v
        | none => s1.barRegister gid l r.2 n false d)) s

/-- The path that a returned lane's trap holds at its word (14 R336). -/
def Group.awaiting? (g : Group) (p : Path) (i : Instr) : Option Path :=
  match p.lanes with
  | [l] => g.paths.find? (fun q => q.pid != p.pid && q.halted == some i && q.pc == p.pc && q.awaits == some l)
  | _ => none

/-- A path goes on when the lane it awaits has exited or comes back to it; it executes its word again. -/
def Group.resumeAwaiting (g : Group) (p q : Path) : Group :=
  let back (x : Path) : Path := { x with lanes := sortNat (p.lanes ++ x.lanes), halted := none, awaits := none }
  let g1 := { g with paths := g.paths.filter (fun x => x.pid != p.pid) }
  let g2 := g1.modPath q.pid back
  p.lanes.foldl (fun g l => g.modLane l (fun x => { x with reason := 0, owed := 0 })) g2

/-- The lane that makes a group's arrival traps: its path is held at its word for it (14 R336). -/
def State.trapArrival (s : State) (i : Instr) (gid low : Nat) (p : Path) (t : TrapInfo) : State :=
  let stay (x : Path) : Path :=
    if x.lanes.contains low || x.lanes.isEmpty then x else { x with halted := some i, awaits := some low }
  ((s.takeTrap gid low p.pc t).modPath gid p.pid stay).settle gid

/-- The one arrival that BARR.grp and BSYNC.grp make for the active lanes of a path; `f` is what they do with it. -/
def groupArrive (i : Instr) (gd : Guard) (a : XReg) (f : ArriveRes × Nat × Loc → List Nat → State → LRes Unit) (park : Bool)
    (s : State) : Out :=
  match s.current with
  | none => .next s
  | some (g, p) =>
    match g.awaiting? p i with
    | some q => .next ((s.modGroup g.gid (fun g => g.resumeAwaiting p q)).settle g.gid)
    | none =>
      let act := g.active p gd
      match act with
      | [] => .next ((s.goTo g.gid p.pid (p.pc + 8)).settle g.gid)
      | low :: _ =>
        match s.barArrive g.gid low ((g.lane low).rx a) with
        | .hold => .next s
        | .ue addr => .next ((s.enterWhole g.gid p.pid p.pc 1 [(low, addr)]).settle g.gid)
        | .trap t => .next (s.trapArrival i g.gid low p t)
        | .trapIn t s1 => .next (s1.trapArrival i g.gid low p t)
        | .ok r s1 =>
          match f r act s1 with
          | .ok _ s2 =>
            if park then .next (s2.parkPath g.gid p.pid) else .next ((s2.goTo g.gid p.pid (p.pc + 8)).settle g.gid)
          | _ => .next s

/-- Writes one result in several lanes. -/
def State.writeLanes (s : State) (gid : Nat) (lanes : List Nat) (d : XReg) (v : Word) : State :=
  lanes.foldl (fun s l => s.modLane gid l (fun y => y.wx d v)) s

/-- BARR (14 R336). -/
def execBarr (g : Guard) (d a : XReg) (grp : Bool) (s : State) : Out :=
  if grp then
    groupArrive (.barr g d a grp) g a (fun r act s1 => .ok () (s1.writeLanes s.curG act d r.1.res)) false s
  else
    laneWord g (fun s gid l =>
      (s.barArrive gid l ((s.lane gid l).rx a)).bind (fun r s1 =>
        .ok () (s1.modLane gid l (fun y => y.wx d r.1.res)))) s

/-- Registers lanes one after the other. -/
def State.barRegisterAll (s : State) (gid : Nat) (loc : Loc) (gen : Nat) (d : XReg) : List Nat → LRes Unit
  | [] => .ok () s
  | l :: r => (s.barRegister gid l loc gen true d).bind (fun _ s1 => State.barRegisterAll s1 gid loc gen d r)

/-- BSYNC (14 R338). -/
def execBsync (g : Guard) (d a : XReg) (grp : Bool) (s : State) : Out :=
  if grp then
    groupArrive (.bsync g d a grp) g a (fun r act s1 =>
      if r.1.ends then .ok () (s1.writeLanes s.curG act d r.1.res)
      else s1.barRegisterAll s.curG r.2.2 r.2.1 d act) true s
  else
    parkWord g (fun s gid l =>
      (s.barArrive gid l ((s.lane gid l).rx a)).bind (fun r s1 =>
        if r.1.ends then .ok () (s1.modLane gid l (fun y => y.wx d r.1.res))
        else s1.barRegister gid l r.2.2 r.2.1 true d)) s

/-- The arrival of a transport signal, made by the CNI of the word's cluster after the deposits with timestamp pts: status 0
DONE, 1 BROKEN, 2 INVALID (14 R347); what it wakes follows them (09 R241). -/
def State.barSignal (s : State) (k m off pts : Nat) : Nat × State :=
  match s.pad? k m with
  | none => (2, s)
  | some pd =>
    if off % 8 ≠ 0 || pd.size < off + 8 then (2, s)
    else
      let w := barWord (pd.read off 8)
      match w.arrive.new with
      | none => (if w.invalid then 2 else 1, s)
      | some v =>
        let (w, pd') := pd.store ((s.klass? k).map (fun c => (c.site, 256, 0))) off pts (toBytes 8 v)
        (0, (s.modPad k m (fun _ => pd')).fireWatches (.pad k m (off / 128)) w)

/-! BARX (14 R341 to R345). -/

/-- ceil(log2 P). -/
def clog2 (p : Nat) : Nat := ((List.range 17).find? (fun k => decide (p ≤ 2 ^ k))).getD 17

/-- A roster entry: die, package and its reserved bits (14 R342). -/
structure RosterEntry where
  die : Nat
  pkg : Nat
  rsv : Nat
deriving DecidableEq, Repr

def rosterEntry (v : Nat) : RosterEntry := ⟨fieldAt v 0 3, fieldAt v 8 8, fieldAt v 3 5 + fieldAt v 16 48⟩

/-- An entry names a die outside SCOPE (14 R342), reckoned from the issuer's die. -/
def State.outsideScope (s : State) (e : RosterEntry) (scope : Scope) (die : Nat) : Bool :=
  match scope with
  | .sys => !s.inDomain e.pkg
  | .pkg => e.pkg != s.pkgIndex
  | _ => e.pkg != s.pkgIndex || e.die != die

/-- Sends a notice: within the package it is in flight, beyond it it leaves this package. -/
def State.sendNotice (s : State) (pkg : Nat) (n : Notice) : State :=
  if pkg = s.pkgIndex then { s with bars := { s.bars with flying := s.bars.flying ++ [n] } } else s

def BarxInst.rounds (i : BarxInst) : Nat := clog2 i.count

/-- A notice of an instance to the home of partner k: of round k, or its break notice. -/
def BarxInst.notice (i : BarxInst) (pkg k die : Nat) (round : Option Nat) : Notice :=
  { die := die, ctx := i.ctx, bid := i.bid, rank := i.rank, pkg := pkg, dest := (i.rank + 2 ^ k) % i.count, epoch := i.epoch,
    round := round, pts := i.pts }

/-- The notice that an instance sends in its round. -/
def State.sendRound (s : State) (i : BarxInst) : State :=
  match i.partners[i.round]? with
  | none => s
  | some p => s.sendNotice p.1 (i.notice s.pkgIndex i.round p.2 (some i.round))

def BarxInst.same (i j : BarxInst) : Bool :=
  i.pkg == j.pkg && i.die == j.die && i.ctx == j.ctx && i.bid == j.bid && i.rank == j.rank

def State.dropInst (s : State) (i : BarxInst) : State :=
  { s with bars := { s.bars with insts := s.bars.insts.filter (fun j => !i.same j) } }

/-- The instance is held at a home die of this package. -/
def State.atHome (s : State) (i : BarxInst) : Bool := i.pkg == s.pkgIndex

/-- The rank whose notice an instance waits for in its round. -/
def BarxInst.awaited (i : BarxInst) : Nat := (i.rank + i.count - 2 ^ i.round % i.count) % i.count

/-- A notice matches an instance in its round (14 R343). -/
def BarxInst.matches_ (i : BarxInst) (n : Notice) : Bool :=
  n.die == i.die && n.ctx == i.ctx && n.bid == i.bid && n.rank == i.awaited && n.epoch == i.epoch && n.round == some i.round

/-- A break notice that names the instance's epoch. -/
def BarxInst.brokenBy (i : BarxInst) (n : Notice) : Bool :=
  n.die == i.die && n.ctx == i.ctx && n.bid == i.bid && n.epoch == i.epoch && n.round == none

/-- The lanes of a group that wait in BARX receive a result; a status other than BROKEN puts what they do next after the
arrivals (09 R242). -/
def State.barxWake (s : State) (i : BarxInst) (status : Nat) : State :=
  let (n, s0) := s.free
  let gen := if status = 0 then i.epoch else Config.freeValue n % 2 ^ 16
  let follow (y : Lane) : Lane := if status = 1 then y else { y with pts := max y.pts i.pts }
  (if status = 0 then s else s0).wakeLanes (fun g _ _ w =>
    if g.gid = i.gid then match w.kind with
      | .barx b => if b = i.bid then some (fun y => follow (y.wx w.d (barResult gen status false))) else none
      | _ => none
    else none)

def State.epochOf (s : State) (ctx bid rank : Nat) : Nat :=
  ((s.bars.epochs.find? (fun e => e.1 == ctx && e.2.1 == bid && e.2.2.1 == rank)).map (·.2.2.2)).getD 0

def State.bumpEpoch (s : State) (ctx bid rank : Nat) : State :=
  let e := (ctx, bid, rank, (s.epochOf ctx bid rank + 1) % 2 ^ 16)
  { s with bars := { s.bars with
      epochs := e :: s.bars.epochs.filter (fun e => !(e.1 == ctx && e.2.1 == bid && e.2.2.1 == rank)) } }

/-- The instance that a notice is for exists. -/
def State.noticed (s : State) (n : Notice) : Bool :=
  s.bars.insts.any (fun i => i.pkg == s.pkgIndex && i.die == n.die && i.ctx == n.ctx && i.bid == n.bid && i.rank == n.dest &&
    i.epoch == n.epoch)

/-- The rank a notice is for has ended its BARX of that epoch: nothing will take the notice any more. A saved context's notices
are all held (14 R349). -/
def State.stale (s : State) (n : Notice) : Bool :=
  let ahead := (s.epochOf n.ctx n.bid n.dest + 2 ^ 16 - n.epoch % 2 ^ 16) % 2 ^ 16
  !(s.ctx? n.ctx).any (fun c => c.saved.isSome) && !s.noticed n && ahead != 0 && decide (ahead < 2 ^ 15)

/-- Drops the notices that nothing will take. -/
def State.dropStale (s : State) : State :=
  { s with bars := { s.bars with held := s.bars.held.filter (fun n => !s.stale n) } }

/-- Runs an instance as far as the held notices carry it. -/
def State.barxRun (s : State) (i : BarxInst) : Nat → State
  | 0 => s
  | n + 1 =>
    match s.bars.held.find? i.matches_ with
    | none => s
    | some h =>
      let s1 := { s with bars := { s.bars with held := s.bars.held.erase h } }
      let i1 := { i with pts := max i.pts h.pts }
      if i.rounds ≤ i.round + 1 then ((s1.dropInst i).barxWake i1 0).dropStale
      else
        let j := { i1 with round := i.round + 1 }
        let s2 := { s1 with bars := { s1.bars with insts := updWhere (fun k => i.same k) (fun _ => j) s1.bars.insts } }
        State.barxRun (s2.sendRound j) j n

/-- The break that an instance forwards, once, to every partner (14 R345). -/
def State.forwardBreak (s : State) (i : BarxInst) : State :=
  (i.partners.zipIdx).foldl (fun s p => s.sendNotice p.1.1 (i.notice s.pkgIndex p.2 p.1.2 none)) s

/-- An instance breaks. `wake` is false where its group is discarded. -/
def State.barxBreak (s : State) (i : BarxInst) (wake : Bool) : State :=
  let s1 := (s.dropInst i).forwardBreak i
  (if wake then s1.barxWake i 1 else s1).dropStale

/-- The lanes of a form wait, whatever path they are on; they go on at the next word. -/
def State.parkForm (s : State) (gid : Nat) (d : XReg) (k : WaitKind) (until_ : Option Nat) : State :=
  let start (l : Lane) : Lane := if l.exited then l else l.startWait ⟨k, d, until_, s.clk, false⟩
  s.modGroup gid (fun g =>
    let pids := g.paths.map (·.pid)
    let g1 := (List.range g.size).foldl (fun g l => g.rejoin pids l) g
    { g1 with
      lanes := g1.lanes.map start,
      paths := g1.paths.map (fun p => if p.halted.isSome then { p with halted := none, waiting := true } else p) })

/-- Writes a result in every live lane of a form, and lets it go on. -/
def State.formResult (s : State) (gid : Nat) (d : XReg) (v : Word) : State :=
  (s.modGroup gid (fun g => { g with lanes := g.lanes.map (fun l => if l.exited then l else l.wx d v) })).releaseForm gid

/-- Reads roster entries as ordinary loads of the reading lane. -/
def State.rosterRead (s : State) (gid l : Nat) (roster : Word) : List Nat → LRes (List Nat)
  | [] => .ok [] s
  | r :: t =>
    (s.load gid l (roster + BitVec.ofNat 64 (8 * r)) 8 4).bind (fun v s1 =>
      (State.rosterRead s1 gid l roster t).bind (fun vs s2 => .ok (v :: vs) s2))

/-- Instances held at a die of this package (14 R343). -/
def State.instsAt (s : State) (die : Nat) : Nat := (s.bars.insts.filter (fun i => s.atHome i && i.die == die)).length

/-- BARX once the form has converged. At a home die of another package the instance is held there: this one waits for its end. -/
def barxEff (d a b : XReg) (scope : Scope) (g : Group) (p : Path) (s : State) : State :=
  let x := g.lane g.reader
  let w := x.rx a
  let rank := bitsAt w 0 16
  let count := bitsAt w 16 16
  let bid := bitsAt w 32 16
  let (n, sf) := s.free
  let bad (t : State) : State := { t with freeN := sf.freeN }.formResult g.gid d (barResult (Config.freeValue n) 3 false)
  if count ≤ rank || bitsAt w 48 16 ≠ 0 then bad s
  else if (x.rx b).toNat / 2 ^ 56 ≠ 0 then s.trapForm g p.pc ⟨4, 1, x.rx b, false⟩
  else if (x.rx b).toNat % 8 ≠ 0 then s.trapForm g p.pc ⟨2, 0, x.rx b, false⟩
  else
    let ks := List.range (clog2 count)
    s.formRead g p.pc (s.rosterRead g.gid g.reader (x.rx b) (rank :: ks.map (fun k => (rank + 2 ^ k) % count))) (fun vs s1 =>
      let es := vs.map rosterEntry
      let home := es.headD ⟨0, 0, 0⟩
      let epoch := s1.epochOf g.ctx bid rank
      let inst : BarxInst :=
        { pkg := home.pkg, die := home.die, ctx := g.ctx, bid := bid, rank := rank, count := count, epoch := epoch, round := 0,
          partners := es.tail.map (fun e => (e.pkg, e.die)), gid := g.gid, since := s.clk,
          pts := (g.liveLanes.map (fun l => (s1.lane g.gid l).pts)).foldl max 0 }
      if es.any (fun e => e.rsv != 0 || s1.outsideScope e scope g.site.die) || s1.bars.insts.any inst.same then bad s1
      else if !s1.atHome inst then
        ({ s1 with bars := { s1.bars with insts := s1.bars.insts ++ [inst] } }).parkForm g.gid d (.barx bid) none
      else if count = 1 then (s1.bumpEpoch g.ctx bid rank).formResult g.gid d (barResult epoch 0 false)
      else if 64 ≤ s1.instsAt home.die then s
      else
        let s2 := s1.bumpEpoch g.ctx bid rank
        if s2.bars.held.any inst.brokenBy then
          let (m, s3) := s2.free
          ((s3.forwardBreak inst).dropStale).formResult g.gid d (barResult (Config.freeValue m) 1 false)
        else
          let s3 := { s2 with bars := { s2.bars with insts := s2.bars.insts ++ [inst] } }
          ((s3.parkForm g.gid d (.barx bid) none).sendRound inst).barxRun inst 17) id

def execBarx (d a b : XReg) (scope : Scope) (s : State) : Out :=
  formWord (.barx d a b scope) (barxEff d a b scope) s

/-- The outside may act for a context of the domain from another package. -/
def State.fromOutside (s : State) (ctx pkg : Nat) : Bool :=
  (s.ctx? ctx).any (fun c => c.domain.isSome) && pkg != s.pkgIndex && s.inDomain pkg

/-- A break notice breaks every instance of its ID and epoch on its die, at once (14 R344, R345). -/
def State.breakAt (s : State) (n : Notice) : State :=
  (s.bars.insts.filter (fun i => s.atHome i && i.brokenBy n && s.ctxRuns i.ctx)).foldl (fun s i => s.barxBreak i true) s

/-- Held notices of a die whose instance does not exist yet: at most 256 (14 R343). -/
def State.heldAt (s : State) (die : Nat) : Nat := (s.bars.held.filter (fun h => h.die == die && !s.noticed h)).length

/-- A notice arrives at its home die: it breaks what it breaks, is held while its instance is still to come or is in an
earlier round, and moves the instance that waits for it. None while it stays at its sender. -/
def State.takeNotice (s : State) (n : Notice) : Option State :=
  if s.stale n then some (s.breakAt n)
  else if !s.noticed n && decide (256 ≤ s.heldAt n.die) then none
  else
    let s1 := { s with bars := { s.bars with
      held := if n.round = none && s.bars.held.contains n then s.bars.held else s.bars.held ++ [n] } }
    if n.round = none then some (s1.breakAt n)
    else match s1.bars.insts.find? (fun i => s1.atHome i && i.matches_ n) with
      | some i => some (if s1.ctxRuns i.ctx then s1.barxRun i 17 else s1)
      | none => some s1

/-- The instance that another package holds for a group of this one ends: DONE after what its partners did, with its epoch, BROKEN,
or BAD_RANK (14 R342). -/
def State.awayResult (s : State) (i : BarxInst) (status pts epoch : Nat) : State :=
  (s.dropInst i).barxWake { i with pts := max i.pts pts, epoch := epoch } status

/-- A rank that runs in another package and has its home here enters its BARX: its instance, unless its die is full. It waits while
its context is saved or being saved (14 R349). -/
def State.awayRank (s : State) (i : BarxInst) : State :=
  let here := (s.ctx? i.ctx).any (fun c => (c.st == .running || c.st == .resident) && c.stopAt.isNone && c.saved.isNone)
  if !here || s.bars.insts.any i.same || 64 ≤ s.instsAt i.die then s
  else if i.count = 1 then s.bumpEpoch i.ctx i.bid i.rank
  else
    let s1 := s.bumpEpoch i.ctx i.bid i.rank
    if s1.bars.held.any i.brokenBy then (s1.forwardBreak i).dropStale
    else (({ s1 with bars := { s1.bars with insts := s1.bars.insts ++ [i] } }).sendRound i).barxRun i 17

/-- Pairs of numbers. -/
def pairsOf : List Nat → List (Nat × Nat)
  | a :: b :: r => (a, b) :: pairsOf r
  | _ => []

/-- BARX_NOTICE: a notice arrives at its home die (14 R343, R344). Arg 0 says whose: 0, the one in flight at place arg 1; 1, one
that another package of the domain sends: die, context, ID, rank, package, rank it is for, epoch, the round plus 1 (0 for a break
notice) and the timestamp; 2, the end of the instance at place arg 1, which another package holds, with status arg 2, timestamp
arg 3 and epoch arg 4; 3, the BARX of a rank that runs in package arg 1 and has its home here: die, context, ID, rank, P, timestamp and the
package and die of each partner. -/
def execBarxNotice (s : State) : Out :=
  match s.arg 0 with
  | 0 =>
    match s.bars.flying[s.arg 1]? with
    | none => .next s
    | some n =>
      match { s with bars := { s.bars with flying := s.bars.flying.eraseIdx (s.arg 1) } }.takeNotice n with
      | some s1 => .next s1
      | none => .next s
  | 1 =>
    let n : Notice :=
      { die := s.arg 1 % 8, ctx := s.arg 2, bid := s.arg 3, rank := s.arg 4, pkg := s.arg 5, dest := s.arg 6, epoch := s.arg 7,
        round := if s.arg 8 = 0 then none else some (s.arg 8 - 1), pts := s.arg 9 % 2 ^ 40 }
    .next (if s.fromOutside n.ctx n.pkg then (s.takeNotice n).getD s else s)
  | 2 =>
    match s.bars.insts[s.arg 1]? with
    | none => .next s
    | some i =>
      let st := if s.arg 2 = 0 then 0 else if s.arg 2 = 1 then 1 else 3
      .next (if s.atHome i || !s.ctxRuns i.ctx then s else s.awayResult i st (s.arg 3 % 2 ^ 40) (s.arg 4 % 2 ^ 16))
  | _ =>
    let i : BarxInst :=
      { pkg := s.pkgIndex, die := s.arg 2 % 8, ctx := s.arg 3, bid := s.arg 4, rank := s.arg 5, count := s.arg 6,
        epoch := s.epochOf (s.arg 3) (s.arg 4) (s.arg 5), round := 0, partners := pairsOf (s.pick.drop 8), gid := 0,
        since := s.clk, pts := s.arg 7 % 2 ^ 40 }
    .next (if s.fromOutside i.ctx (s.arg 1) && decide (i.rank < i.count) && i.partners.length == i.rounds
      then s.awayRank i else s)

/-- No port of the route to a package carries traffic (19 R435). -/
def State.unreachable (s : State) (pkg : Nat) : Bool := pkg != s.pkgIndex && (s.routePort? pkg).isNone

/-- BARX_BREAK: the instance at place arg 0 breaks on the exchange timeout, on a package that cannot be reached, on a held break
notice, or with its context (14 R345, 19 R435). -/
def execBarxBreak (s : State) : Out :=
  match s.bars.insts[s.arg 0]? with
  | none => .next s
  | some i =>
    match s.ctx? i.ctx with
    | none => .next (s.barxBreak i false)
    | some c =>
      if c.st == .faulted || c.st == .killed then .next (s.barxBreak i false)
      else if c.st != .running then .next s
      else
        let late := c.desc.exTimeout ≠ 0 && decide (i.since + 3600 * c.desc.exTimeout ≤ s.clk) &&
          (i.gid == 0 || (s.group? i.gid).isSome)
        let cut := s.unreachable i.pkg || i.partners.any (fun p => s.unreachable p.1)
        .next (if late || cut || s.bars.held.any i.brokenBy then s.barxBreak i true else s)

end Sys2Proof.Machine
end

