-- ==== Sys2Proof/Machine/Place.lean ====
section
/-!
DEFINITION. Placement (12 R305, 21 R458, R460), the runs of scratchpad units (08 R194, R195), how threads start
(01 R28, R29, R37, 02 R62, 12 R293, R300), and the shell need (10 R270).
-/

namespace Sys2Proof.Machine

open Sys2Proof

/-! Scratchpad runs. -/

/-- The occupied units of a pipeline: every run of a live or lingering class (08 R194). -/
def State.occupied (s : State) (site : Site) (pipe : Nat) : List Nat :=
  s.classes.flatMap (fun k => if k.site == site then
    k.pads.flatMap (fun p => if p.pipe = pipe then (List.range p.units).map (p.unit0 + ·) else []) else [])

/-- A run of n units on a pipeline whose occupied units are `occ`: its first unit, and the boundary it sets, none where that
stays (08 R194). -/
def takeRun (occ : List Nat) (n : Nat) : Option (Nat × Option Nat) :=
  if n = 0 then some (0, none)
  else
    match sortNat occ with
    | [] => if n ≤ 38 then some (40 - n, some (40 - n)) else none
    | h :: _ =>
      let idle (u : Nat) : Bool := (List.range n).all (fun i => !occ.contains (u + i))
      match ((List.range 41).filter (fun u => decide (h ≤ u) && decide (u + n ≤ 40) && idle u)).getLast? with
      | some u => some (u, none)
      | none => if n + 2 ≤ h then some (h - n, some (h - n)) else none

/-! Pipelines and slots. -/

/-- Quads that may take a placement: the platform tests and retires quads and clusters (20 R454, R455). -/
def State.quadUsable (s : State) (site : Site) (q : Nat) : Bool :=
  let bad (u : PUnit_) : Bool := u == .quad site.die site.cluster q || u == .cluster site.die site.cluster
  !s.plat.retired.any bad && !s.plat.tests.any (fun t => bad t.unit_)

def State.siteUsable (s : State) (site : Site) : Bool := s.plat.clusters.contains site

/-- The pipelines and slot granted to a group, with the runs of its members. -/
structure Grant where
  pipes : List Nat
  slot : Nat
  pads : List Pad
  moves : List (Nat × Nat)
deriving DecidableEq, Repr

def Grant.takes (x : Grant) (pipe slot : Nat) : Bool := x.slot == slot && x.pipes.contains pipe

def State.slotFree (s : State) (site : Site) (pipe slot : Nat) (got : List Grant) : Bool :=
  !s.groups.any (fun g => g.site == site && g.slot == slot && g.pipes.contains pipe) &&
  !got.any (fun x => x.takes pipe slot)

/-- Runs for the members of a group on its pipelines, with n units each. -/
def State.grantPads (s : State) (site : Site) (n : Nat) (got : List Grant) : List Nat → Option (List Pad × List (Nat × Nat))
  | [] => some ([], [])
  | p :: r =>
    let mine := got.flatMap (fun x => x.pads.flatMap (fun q =>
      if q.pipe = p then (List.range q.units).map (q.unit0 + ·) else []))
    match takeRun (s.occupied site p ++ mine) n, State.grantPads s site n got r with
    | some (u, mv), some (ps, ms) =>
      some (⟨p, u, n, [], [], [], [], []⟩ :: ps, (mv.toList.map (fun m => (p, m))) ++ ms)
    | _, _ => none

/-- One choice of pipelines and slot for a group. -/
def State.grantAt (s : State) (site : Site) (n : Nat) (got : List Grant) (pipes : List Nat) (slot : Nat) : Option Grant :=
  if pipes.all (fun p => s.slotFree site p slot got) then
    (s.grantPads site n got pipes).map (fun x => ⟨pipes, slot, x.1, x.2⟩)
  else none

/-- The pipelines a group of G threads may take, in the order of preference (12 R305, 21 R458). -/
def State.choices (s : State) (site : Site) (size : Nat) : List (List Nat) :=
  if size = 1 then ((List.range 96).filter (fun p => s.quadUsable site (p / 4))).map (fun p => [p])
  else
    let q := size / 4
    ((List.range (24 / q)).map (· * q)).filterMap (fun j =>
      if (List.range q).all (fun i => s.quadUsable site (j + i)) then some ((List.range size).map (4 * j + ·)) else none)

def State.grantGroup (s : State) (site : Site) (size n : Nat) (got : List Grant) : Option Grant :=
  (s.choices site size).findSome? (fun pipes =>
    match s.grantAt site n got pipes 0 with
    | some x => some x
    | none => s.grantAt site n got pipes 1)

/-- The grants of a class, its groups in ascending IDGROUP. -/
def State.grantClass (s : State) (site : Site) (n : Nat) : List Nat → List Grant → Option (List Grant)
  | [], got => some got
  | size :: r, got =>
    match s.grantGroup site size n got with
    | some x => State.grantClass s site n r (got ++ [x])
    | none => none

/-- The dies on which a context holds anything (10 R270): classes with their rings, event banks, trays, records and events on their
way or in spill slots, wide barriers, engine work, decrements owed, and messages of the transport. -/
def State.diesHeld (s : State) (ctx : Nat) : List Nat :=
  let mine {α : Type} (l : List α) (c : α → Nat) (d : α → Nat) : List Nat := (l.filter (fun x => c x == ctx)).map d
  (mine s.classes (·.ctx) (·.site.die) ++ mine s.groups (·.ctx) (·.site.die) ++ mine s.units (·.ctx) (·.site.die) ++
    mine s.eng.trays (·.ctx) (·.site.die) ++ mine s.eng.inbox (·.ctx) (·.site.die) ++ mine s.eng.front (·.ctx) (·.site.die) ++
    mine s.eng.flights (·.ctx) (·.site.die) ++ mine s.eng.events (·.ctx) (fun e => fieldAt e.bits.toNat 18 3) ++
    mine s.eng.spill (·.ctx) (·.site.die) ++ mine s.eng.decrements (·.ctx) (·.site % 8) ++
    mine s.eng.copies (·.ctx) (·.site.die) ++ mine s.eng.drains (·.ctx) (·.site.die) ++
    mine s.link.tx (·.ctx) (·.die) ++ mine s.link.rx (·.ctx) (·.die) ++ mine s.link.slotWrites (·.ctx) (·.die) ++
    mine s.bars.flying (·.ctx) (·.die) ++
    mine (s.bars.insts.filter (fun i => s.atHome i)) (·.ctx) (·.die) ++ mine s.bars.held (·.ctx) (·.die)).dedup

/-- The shell need of 10 R270 for what a context has placed and something more. -/
def State.shellNeed (s : State) (ctx threads groups padUnits : Nat) (site : Site) : Nat :=
  let gs := s.groups.filter (fun g => g.ctx == ctx)
  let ks := s.classes.filter (fun k => k.ctx == ctx)
  let t := ((gs.map (·.size)).foldl (· + ·) 0) + threads
  let p := ((ks.flatMap (·.pads)).map (·.size)).foldl (· + ·) 0 + 8192 * padUnits
  let d := ((site.die :: s.diesHeld ctx).dedup).length
  64 + 3200 * t + 4096 * (gs.length + groups) + p + 2 ^ 20 * d

/-- The shell need of one class by itself. -/
def aloneNeed (threads groups padUnits : Nat) : Nat := 64 + 3200 * threads + 4096 * groups + 8192 * padUnits + 2 ^ 20

def State.fitsShell (s : State) (ctx threads groups padUnits : Nat) (site : Site) : Bool :=
  match s.ctx? ctx with
  | some c => decide (s.shellNeed ctx threads groups padUnits site ≤ c.desc.shellSize)
  | none => false

/-- Units of a scratchpad of `kib` KiB. -/
def unitsOf (kib : Nat) : Nat := kib / 8

/-- The grants of a class of groups of the given sizes on a cluster, within its context's shell. -/
def State.grantHere (s : State) (ctx : Nat) (site : Site) (kib : Nat) (sizes : List Nat) : Option (List Grant) :=
  let t := sizes.foldl (· + ·) 0
  if s.siteUsable site && s.fitsShell ctx t sizes.length (t * unitsOf kib) site then
    s.grantClass site (unitsOf kib) sizes []
  else none

/-- The lowest cluster of a die on which a class fits, with its grants (21 R458). -/
def State.grantOnDie (s : State) (ctx die kib : Nat) (sizes : List Nat) : Option (Site × List Grant) :=
  (List.range 16).findSome? (fun c => (s.grantHere ctx ⟨die, c⟩ kib sizes).map (fun x => (⟨die, c⟩, x)))

/-! Threads. -/

/-- What a thread starts with besides zeros. -/
structure Start where
  args : List Word
  stage : Nat
  cls : Nat
  logical : Nat
  seed : Word
  pts : Nat
  privS : Bool
  origin : Origin
  exited : Bool
deriving DecidableEq, Repr

/-- x1 to xn from a list. -/
def setArgs (l : Lane) : Nat → List Word → Lane
  | _, [] => l
  | r, w :: t => setArgs (l.wx ⟨r % 64, Nat.mod_lt _ (by decide)⟩ w) (r + 1) t

/-- A thread at its start (01 R28, R29, 10 R251). -/
def startLane (sdata : Word) (z : Start) : Lane :=
  let l := setArgs Lane.zero 1 z.args
  { l with
    sx := (Vector.replicate 4 (0 : Word)).set 0 sdata, pts := z.pts, srstate := srSeed z.seed (BitVec.ofNat 64 z.logical),
    idStage := z.stage, idClass := z.cls, idLogical := z.logical, jobSeed := z.seed, privS := z.privS, origin := z.origin,
    exited := z.exited, drawCtr := srSeed z.seed (BitVec.ofNat 64 z.logical) }

/-- A group on its pipelines, not started yet: one path of its lanes at the entry. -/
def newGroup (gid pid ctx cls : Nat) (site : Site) (x : Grant) (base idGroup : Nat) (lanes : List Lane) (pc : Word)
    (excl : Bool) (pass : Pass) (clk : Nat) : Group :=
  let live := (List.range lanes.length).filter (fun l => !(lanes.getD l Lane.zero).exited)
  { gid := gid, ctx := ctx, cls := cls, site := site, pipes := x.pipes, slot := x.slot, base := base, entry := pc, idGroup := idGroup,
    lanes := lanes, paths := [{ Path.blank pid with lanes := live, pc := pc, qset := pid, since := pid }],
    qsets := [⟨pid, List.range ((lanes.length + 3) / 4), 0⟩], joins := [], owedEntries := [], dlim := 0, ovf := false,
    mrp := 0, priv := false, pass := pass, mmas := [], acqPts := 0, exch := none, excl := excl, started := false,
    placedAt := clk, startNo := 0, frozen := false }

/-- The group with which a newcomer pairs. -/
def State.pairAt? (s : State) (ctx : Nat) (site : Site) (x : Grant) : Option Group :=
  s.groups.find? (fun g => g.ctx == ctx && g.site == site && g.pipes == x.pipes)

/-- The newcomer of a pair takes the hall pass: both are placed in one clk and it is in slot 0 (07 R183). -/
def State.passTo (s : State) (x : Grant) (g : Group) : Bool := g.placedAt == s.clk && decide (x.slot < g.slot)

/-- The hall pass of a newcomer: with the group already placed when they pair (07 R183). -/
def State.passOf (s : State) (ctx : Nat) (site : Site) (x : Grant) : Pass :=
  match s.pairAt? ctx site x with
  | some g => if s.passTo x g then .held else .away
  | none => .held

/-- The group already placed gives its pass to a newcomer. -/
def State.givePass (s : State) (ctx : Nat) (site : Site) (x : Grant) : State :=
  match s.pairAt? ctx site x with
  | some g => if s.passTo x g then s.modGroup g.gid (fun g => { g with pass := .away }) else s
  | none => s

/-- Places groups one after the other: their grants, lanes and entry. -/
def State.addGroups (s : State) (ctx cls : Nat) (site : Site) (pc : Word) (excl : Bool) (lanesOf : Nat → List Lane) :
    Nat → Nat → List Grant → State
  | _, _, [] => s
  | i, base, x :: r =>
    let (n, s1) := s.fresh
    let g := newGroup n n ctx cls site x base i (lanesOf i) pc excl (s1.passOf ctx site x) s.clk
    let s2 := s1.givePass ctx site x
    State.addGroups { s2 with groups := s2.groups ++ [g] } ctx cls site pc excl lanesOf (i + 1) (base + x.pipes.length) r

/-- A class on its cluster, its groups placed and its boundary change begun; its context runs (10 R248). -/
def State.placeClass (s : State) (k : Klass) (grants : List Grant) (pc : Word) (excl : Bool) (lanesOf : Nat → List Lane) : State :=
  let (n, s1) := s.fresh
  let k1 := { k with kid := n, pads := grants.flatMap (·.pads), moves := grants.flatMap (·.moves), groupsLeft := grants.length }
  let s2 := { s1 with classes := s1.classes ++ [k1] }
  let s3 := s2.addGroups k.ctx n k.site pc excl lanesOf 0 0 grants
  s3.modCtx k.ctx (fun c => if c.st == .resident then { c with st := .running } else c)

/-- Placements of a context may be made now. -/
def State.mayPlace (s : State) (ctx : Nat) : Bool :=
  match s.ctx? ctx with
  | some c => (c.st == .running || c.st == .resident) && !c.viol && c.stopAt.isNone && s.plat.ready
  | none => false

/-- Ceiling division. -/
def cdiv (a b : Nat) : Nat := (a + b - 1) / b

/-- ORGROW, ORGCOL, EXTROWS and EXTCOLS of a group (12 R293). -/
def Launch.tile (l : Launch) (lin i : Nat) : Nat × Nat × Nat × Nat :=
  if l.trows = 0 then (0, 0, 0, 0)
  else
    let g := lin * l.gpc + i
    let tc := cdiv l.tcols l.tilec
    let row := g / tc * l.tiler
    let col := g % tc * l.tilec
    (row, col, min l.tiler (l.trows - row), min l.tilec (l.tcols - col))

/-- The lanes of group i of a class of a launch. -/
def Launch.lanes (l : Launch) (sdata : Word) (lin i : Nat) : List Lane :=
  let c := l.coords lin
  let t := l.tile lin i
  (List.range l.gsize).map (fun lane =>
    let x := startLane sdata
      { args := [BitVec.ofNat 64 l.arg], stage := c.2, cls := c.1, logical := 96 * lin + i * l.gsize + lane, seed := l.seed,
        pts := l.pts, privS := false, exited := false,
        origin := { kind := 0, job := l.job, succ := 0, launch := l.lid, counted := false, tag := 0 } }
    { x with orgRow := t.1, orgCol := t.2.1, extRows := t.2.2.1, extCols := t.2.2.2 })

/-- The first class of a launch, of those of a die and in ascending L, with the cluster and the grants it fits on (12 R305). All
classes of a launch need the same, so where the first does not fit no later one of the die does. -/
def State.launchFit (s : State) (c : Ctx) (l : Launch) (die : Nat) : Option (Nat × Site × List Grant) :=
  match (sortNat (l.unplaced.filter (fun n => l.dieOf n == die))).head? with
  | none => none
  | some lin => (s.grantOnDie c.num die l.scratch (List.replicate l.gpc l.gsize)).map (fun x => (lin, x.1, x.2))

/-- Places a class of a launch: the next placement of its cluster is the records' turn. -/
def State.placeLaunch (s : State) (c : Ctx) (l : Launch) (lin : Nat) (site : Site) (grants : List Grant) : State :=
  let co := l.coords lin
  let k : Klass :=
    { kid := 0, ctx := c.num, launch := l.lid, idClass := co.1, stage := co.2, linear := lin, site := site, pads := [],
      live := true, groupsLeft := l.gpc, moves := [], recs := [], fromSaved := false }
  let s1 := s.placeClass k grants (BitVec.ofNat 64 l.entry) false (fun i => l.lanes c.desc.sdata lin i)
  let s2 := s1.modLaunch c.num l.lid (fun l => { l with unplaced := l.unplaced.filter (· ≠ lin) })
  { s2 with eng := { s2.eng with turns := site :: s2.eng.turns.filter (· ≠ site) } }

/-! Groups started by records (12 R298 to R300, R304). -/

/-- The loader's writes of the object that holds an entry precede the accesses of its threads (11 R279). -/
def Ctx.loadedAt (c : Ctx) (entry : Nat) : Nat :=
  ((c.objs.filter (fun o => decide (o.codeBase ≤ entry) && decide (entry < o.codeBase + o.codeSize))).map (·.pts)).foldl max 0

/-- What the lane of a record starts with. -/
def State.recStart (s : State) (r : TaskRec) (kind : Nat) : Start :=
  let f := recFields r.words
  let op := if r.fault then none else s.opener? r.ctx f.theJob
  let o : Origin :=
    { kind := if r.fault then 4 else if f.mig then 3 else kind, job := f.theJob,
      succ := if f.mig || r.fault then 0 else f.succ, launch := (op.map (·.lid)).getD 0, counted := !r.fault, tag := r.tag }
  { args := if f.mig then r.words else r.words.drop 2, stage := r.idStage, cls := 2 ^ 48 - 1, logical := r.idLogical,
    seed := (op.map (·.seed)).getD 0,
    pts := max r.pts ((s.ctx? r.ctx).elim 0 (fun c => c.loadedAt f.entry)), privS := r.fault, origin := o, exited := false }

/-- The scratchpad of a record-started group (12 R300, R304). -/
def State.recScratch (s : State) (rs : List TaskRec) : Nat :=
  (rs.map (fun r => if r.fault then 0 else
    ((s.opener? r.ctx (recFields r.words).theJob).map (·.tscratch)).getD 0)).foldl max 0

/-- A lane without a record is exited from the start (12 R304). It is no thread, and no rule seeds its generator or draw counter or
gives it a JOBSEED: they are 0, also where a drain draws for its block (02 R62, log 95). -/
def goneLane : Lane := { Lane.zero with exited := true }

/-- Places a group of `size` for records of one context on a cluster: lane i from record i; for a group task every lane
from the one record. None where there is no room. -/
def State.placeRecs (s : State) (site : Site) (size : Nat) (grp : Bool) (rs : List TaskRec) : Option State :=
  match rs with
  | [] => none
  | r :: _ =>
    match s.ctx? r.ctx with
    | none => none
    | some c =>
      let f := recFields r.words
      let excl := rs.any (fun r => (recFields r.words).excl)
      let kib := s.recScratch rs
      match s.grantHere r.ctx site kib [size] with
      | none => none
      | some grants =>
        let lane (i : Nat) : Lane :=
          if grp then startLane c.desc.sdata (s.recStart r 1)
          else match rs[i]? with
            | some x => startLane c.desc.sdata (s.recStart x 2)
            | none => goneLane
        let k : Klass :=
          { kid := 0, ctx := r.ctx, launch := 0, idClass := 2 ^ 48 - 1, stage := r.idStage, linear := 0, site := site, pads := [],
            live := true, groupsLeft := 1, moves := [], recs := rs, fromSaved := false }
        some (s.placeClass k grants (BitVec.ofNat 64 (f.entry / 8 * 8)) excl (fun _ => (List.range size).map lane))

/-! The boundary change (08 R195). -/

/-- The lines of the ways at and above a boundary of an array, the highest way first. -/
def MemSys.reclaimed (m : MemSys) (site : Site) (pipe b : Nat) : List Copy :=
  sortBy (fun c => 40 - c.way) (m.copies.filter (fun c => c.holder == .l1 site.die site.cluster pipe && decide (b ≤ c.way)))

/-- Reclaims the ways at and above a boundary of an array. -/
def MemSys.shrink (m : MemSys) (site : Site) (pipe b : Nat) : MemSys := (m.reclaimed site pipe b).foldl (fun m c => m.evict c) m

/-- The boundary that a finished change sets, never above a unit that has been occupied since. -/
def State.newBoundary (s : State) (site : Site) (mv : Nat × Nat) : Nat := (s.occupied site mv.1).foldl min mv.2

/-- A change stopped at a line boundary: n lines of the ways it reclaims have left, and the boundary is what it was (08 R196). -/
def State.stopBoundary (s : State) (site : Site) (mv : Nat × Nat) (n : Nat) : State :=
  s.setMem (((s.mem.reclaimed site mv.1 (s.newBoundary site mv)).take n).foldl (fun m c => m.evict c) s.mem)

def State.moveBoundary (s : State) (site : Site) (mv : Nat × Nat) : State :=
  let b := s.newBoundary site mv
  s.setMem ((s.mem.shrink site mv.1 b).setBoundary site mv.1 b)

/-- A group of an encounter whose images have not been copied yet (15 R357). -/
def State.imagesOwed (s : State) (g : Group) : Bool :=
  let tag := (g.lane 0).origin.tag
  tag != 0 && s.rings.any (fun r => r.ctx == g.ctx && r.encs.any (fun e => e.tag + 1 == tag && !e.copied))

/-- An earlier placement has still to move the boundary of a pipeline that a class takes units of: the changes of one pipeline follow
each other in the order of the placements (08 R195, 21 R460). -/
def State.boundaryOwed (s : State) (k : Klass) : Bool :=
  (s.classes.takeWhile (fun x => x.kid != k.kid)).any (fun x => x.site == k.site &&
    x.moves.any (fun mv => k.pads.any (fun p => p.pipe == mv.1 && p.units != 0)))

/-- BOUNDARY_CHANGE_COMPLETE: the boundaries of class arg 0 have moved and its members start. -/
def execBoundaryChangeComplete (s : State) : Out :=
  match s.klass? (s.arg 0) with
  | none => .next s
  | some k =>
    let mine := s.groups.filter (fun g => g.cls == k.kid && !g.started)
    if !s.mayPlace k.ctx || mine.isEmpty || mine.any (fun g => s.imagesOwed g) || s.boundaryOwed k then .next s
    else
      let (n, s0) := s.fresh
      let s1 := k.moves.foldl (fun s mv => s.moveBoundary k.site mv) s0
      let s2 := s1.modKlass k.kid (fun k => { k with moves := [], recs := [], fromSaved := false })
      let start (g : Group) : Group := { g with started := true, startNo := if g.startNo = 0 then n else g.startNo }
      .next { s2 with groups := updWhere (fun g => g.cls == k.kid) start s2.groups }

/-! Restoring classes (10 R271, 07 R189). -/

/-- The passes of groups that are paired now, with their partners. -/
def State.passesOf (s : State) (gs : List Group) : List (Nat × Nat × Pass) :=
  gs.filterMap (fun g => (s.pairOf? g).map (fun h => (g.gid, h.gid, g.pass)))

/-- The pass of a group placed again (07 R183, R189): a saved pair on the same pipelines, neither of them running yet, is paired as
it was; else the group already placed holds the pass, and of two placed together the one in slot 0. -/
def State.pairAgain (s : State) (passes : List (Nat × Nat × Pass)) (gid : Nat) : State :=
  match s.group? gid with
  | none => s
  | some g =>
    match s.pairOf? g with
    | none => s.modGroup gid (fun g => { g with pass := .held })
    | some h =>
      let saved (a b : Nat) : Option Pass := (passes.find? (fun p => p.1 == a && p.2.1 == b)).map (·.2.2)
      match saved gid h.gid, saved h.gid gid with
      | some p, some q =>
        if h.started then s.modGroup gid (fun g => { g with pass := .away })
        else (s.modGroup gid (fun g => { g with pass := p })).modGroup h.gid (fun h => { h with pass := q })
      | _, _ =>
        let away := h.placedAt != g.placedAt || decide (h.slot < g.slot)
        if away then s.modGroup gid (fun g => { g with pass := .away })
        else (s.modGroup gid (fun g => { g with pass := .held })).modGroup h.gid (fun h => { h with pass := .away })

/-- CLFLAGS of a cluster that a restored class comes to first: the flags of all clusters at the save are ORed into it (01 R34). -/
def Ctx.restoreCl (c : Ctx) (site : Site) (sv : Saved) : Ctx :=
  if sv.moved.any (fun m => m.2 == site) then c else c.setCl site (Nat.lor (c.clOf site) sv.flags)

/-- Puts a saved class on a cluster of its die with its scratchpads' contents, and its groups on pipelines of their size. -/
def State.placeSaved (s : State) (c : Ctx) (sv : Saved) (k : Klass) : State :=
  let gs := sortBy (fun g => g.idGroup) (sv.groups.filter (fun g => g.cls == k.kid))
  let kib := ((k.pads.map (·.units)).foldl max 0) * 8
  -- members whose group has ended keep their scratchpads (08 R199)
  let size := ((gs.head?).map (·.size)).getD 1
  match s.grantOnDie c.num k.site.die kib (List.replicate (k.pads.length / size) size) with
  | none => s
  | some (site, grants) =>
    let newPads := grants.flatMap (·.pads)
    let pads := (k.pads.zip newPads).map (fun x => { x.1 with pipe := x.2.pipe, unit0 := x.2.unit0, units := x.2.units })
    let k1 := { k with site := site, pads := pads, moves := grants.flatMap (·.moves), fromSaved := true }
    let put (g : Group) : Group :=
      let x := grants.getD g.idGroup ⟨g.pipes, g.slot, [], []⟩
      { g with site := site, pipes := x.pipes, slot := x.slot, started := false, frozen := false, placedAt := s.clk,
               paths := g.paths.map (fun p => { p with pushedAt := s.clk, fbuf := [] }) }
    let news := gs.map put
    let stale (i : ILine) : Bool := i.ctx == c.num && i.die == site.die && i.cluster == site.cluster &&
      news.any (fun g => g.pipes.contains i.pipe)
    let s1 := { s with classes := s.classes ++ [k1],
                       mem := { s.mem with icache := s.mem.icache.filter (fun i => !stale i) } }
    let ids := news.map (·.gid)
    let s2 := ids.foldl (fun s gid => s.pairAgain sv.passes gid) { s1 with groups := s1.groups ++ news }
    -- engine commands, drains, wide barriers and ring stations follow their class
    let pipeOf (gid l : Nat) (old : Nat) : Nat := ((news.find? (fun g => g.gid == gid)).map (fun g => g.pipeOf l)).getD old
    let s3 := { s2 with
      eng := { s2.eng with
        copies := updWhere (fun x => x.cls == k.kid) (fun x => { x with site := site, pipe := pipeOf x.gid x.lane x.pipe }) s2.eng.copies,
        drains := updWhere (fun x => x.cls == k.kid) (fun x => { x with site := site }) s2.eng.drains },
      bars := { s2.bars with insts := updWhere (fun i => ids.contains i.gid) (fun i => { i with since := s.clk - i.since }) s2.bars.insts },
      rings := updWhere (fun r => r.ctx == c.num)
        (fun r => { r with stations := updWhere (fun t => t.kid == k.kid) (fun t => { t with site := site }) r.stations }) s2.rings }
    s3.modCtx c.num (fun c => { c.restoreCl site sv with
      st := .running,
      saved := c.saved.map (fun sv => { sv with
        groups := sv.groups.filter (fun g => g.cls != k.kid), classes := sv.classes.filter (fun x => x.kid != k.kid),
        moved := sv.moved ++ [(k.site, site)] }) })

/-- The images of encounters whose groups are placed no longer are owed again (15 R357, R370). -/
def State.uncopy (s : State) (ctx : Nat) (gs : List Group) : State :=
  let again (e : Encounter) : Bool := gs.any (fun g => (g.lane 0).origin.tag == e.tag + 1)
  let owe (r : Ring) : Ring := { r with encs := updWhere again (fun e => { e with copied := false }) r.encs }
  { s with rings := updWhere (fun r => r.ctx == ctx) owe s.rings }

/-- A placement stopped by a pre-emption within its boundary change, after n lines of each way it reclaims (08 R196): a launch
class is unplaced again, records return to the head of their inbox, a restored class is saved again. -/
def State.abandonPlacement (s : State) (k : Klass) (n : Nat) : State :=
  let gs := s.groups.filter (fun g => g.cls == k.kid)
  let s0 := k.moves.foldl (fun s mv => s.stopBoundary k.site mv n) s
  let s1 := { s0 with
    groups := s.groups.filter (fun g => g.cls != k.kid),
    classes := s.classes.filter (fun x => x.kid != k.kid) }
  if k.fromSaved then
    let again (sv : Saved) : Saved :=
      { sv with groups := gs ++ sv.groups, classes := k :: sv.classes, passes := sv.passes ++ s.passesOf gs }
    -- the exchange timeouts of its wide barriers stand still again (14 R349)
    let insts := updWhere (fun i => gs.any (fun g => g.gid == i.gid)) (fun i => { i with since := s.clk - i.since }) s1.bars.insts
    { s1 with bars := { s1.bars with insts := insts } }.modCtx k.ctx (fun c => { c with saved := some (again (c.saved.getD .none_)) })
  else if k.launch ≠ 0 then
    s1.modLaunch k.ctx k.launch (fun l => { l with unplaced := sortNat (k.linear :: l.unplaced) })
  else ({ s1 with eng := { s1.eng with inbox := k.recs ++ s1.eng.inbox } }).uncopy k.ctx gs

end Sys2Proof.Machine
end

