-- ==== Sys2Proof/Machine/Inbox.lean ====
section
/-!
DEFINITION. The inbox of a cluster: its entries, its spill slots, and the mailboxes of classes (12 R301 to R303, 24 R463).
-/

namespace Sys2Proof.Machine

open Sys2Proof

/-! Inbox entries (12 R301, R303). -/

/-- Entries 0 to 59 in use at a cluster: engine-fault records take entries 60 to 63 first. -/
def State.sharedUsed (s : State) (site : Site) : Nat :=
  let here := s.eng.inbox.filter (fun r => r.site == site)
  let f := (here.filter (·.fault)).length
  (here.length - f) + (f - 4)

/-- A free entry for a record. -/
def State.entryFree (s : State) (r : TaskRec) : Bool :=
  let f := (s.eng.inbox.filter (fun x => x.site == r.site && x.fault)).length
  (r.fault && decide (f < 4)) || decide (s.sharedUsed r.site < 60)

def Spill.isEvent (x : Spill) : Bool := match x.item with | .ev _ => true | .rec_ _ => false

/-- The spill slots of a context's partition that hold a record. -/
def State.spilledHere (s : State) (ctx : Nat) (site : Site) : List Spill :=
  s.eng.spill.filter (fun x => x.ctx == ctx && x.site == site && !x.isEvent)

/-- Puts a record into the inbox: WFI of its context on the cluster wakes (10 R264). -/
def State.enterInbox (s : State) (r : TaskRec) : State :=
  ({ s with eng := { s.eng with inbox := s.eng.inbox ++ [r] } }).wakeWfi r.ctx (some r.site) 0

/-- The spill slots of a partition are full: the next one holds something still (12 R309). -/
def State.spillFull (s : State) (ctx : Nat) (site : Site) : Bool :=
  (s.ctx? ctx).any (fun c => c.nslot == 0 || s.slotHeld ctx site ((s.physRead (c.huskPart site) 8).1 % c.nslot))

/-- Writes an item to the next spill slot of its partition and then counts it (24 R463); none when the slots are full, with
HFULL set (12 R303), or when the count there is poisoned, with an engine fault of KIND 7 (18 R422) under the number `key` of what is
held. -/
def State.spillItem (s : State) (ctx : Nat) (site : Site) (item : SpillItem) (ws : List Word) (seq key : Nat) : Option State × State :=
  match s.ctx? ctx with
  | none => (none, s)
  | some c =>
    let p := c.huskPart site
    if s.mem.poisoned p 8 then
      (none, if c.efs.any (fun e => e.ref == .record key) then s
        else (s.engFault ctx 7 6 1 p (siteWord site 0x7F) (.record key)).1)
    else
    let (n, s1) := s.physRead p 8
    let slot := n % c.nslot
    let one : Spill := { item := item, ctx := ctx, site := site, slot := slot, seq := seq }
    if c.nslot = 0 || s1.slotHeld ctx site slot then
      (none, s1.physWrite (p + 24) (toBytes 1 1))
    else
      let (t, s2) := s1.physWriteWordsAt item.pts (p + 1088 + 128 * slot) ws
      let s3 := { s2 with eng := { s2.eng with spill := s2.eng.spill ++ [one] } }
      (some (s3.physWriteAt t p (toBytes 8 ((n + 1) % 2 ^ 64))).2, s1)

/-- A record arrives at an inbox and takes its number in the order of arrival: an entry, a spill slot while its own context's
partition holds records or the shared entries are full, or none while its injector is held. -/
def State.inboxPut (s : State) (r0 : TaskRec) : Option State × State :=
  let (n, s1) := s.fresh
  let r := { r0 with seq := n }
  if r.fault then (if s.entryFree r then (some (s1.enterInbox r), s) else (none, s))
  else if (s.spilledHere r.ctx r.site).isEmpty && s.entryFree r then (some (s1.enterInbox r), s)
  else s1.spillItem r.ctx r.site (.rec_ r) r.words n r0.seq

/-! Mailboxes (12 R301). -/

/-- Where the class of a mailbox record stands. -/
inductive ClassPlace where
  | placed (site : Site) | waiting | ended
deriving DecidableEq, Repr

def State.classPlace (s : State) (ctx lid n : Nat) : ClassPlace :=
  match s.classAt? ctx lid n with
  | some k => .placed k.site
  | none =>
    let later := match s.launch? ctx lid with
      | some l => l.unplaced.contains n
      | none => false
    let kept := (s.ctx? ctx).any (fun c => c.saved.any (fun sv =>
      sv.classes.any (fun k => k.live && k.launch == lid && k.linear == n)))
    if later || kept then .waiting else .ended

end Sys2Proof.Machine
end

