-- ==== Sys2Proof/Machine/Life.lean ====
section
/-!
DEFINITION. The life cycle of a context (10 R248), its pre-emption, shell and restore (10 R265 to R272), and its fault
and kill (10 R259, R273).
-/

namespace Sys2Proof.Machine

open Sys2Proof

/-! Work of a context. -/

/-- Engine work of a context that has not ended (10 R248). -/
def State.engineWork (s : State) (c : Nat) : Bool :=
  s.eng.copies.any (fun x => x.ctx == c) || s.eng.drains.any (fun x => x.ctx == c) ||
  s.eng.decrements.any (fun x => x.ctx == c) || s.eng.events.any (fun x => x.ctx == c) ||
  s.rings.any (fun r => r.ctx == c && !r.tiles.isEmpty) ||
  s.banks.any (fun b => b.ctx == c && (!b.queue.isEmpty || b.emit.isSome)) ||
  s.eng.spill.any (fun x => x.ctx == c && x.isEvent)

/-- What keeps a context running (10 R248). -/
def State.workLeft (s : State) (c : Nat) : Bool :=
  s.groups.any (fun g => g.ctx == c) || s.engineWork c || (s.ctx? c).any (fun x => !x.efs.isEmpty)

/-- CONTEXT_IDLE: context arg 0, running, whose last work has ended becomes resident. -/
def execContextIdle (s : State) : Out :=
  let c := s.arg 0
  match s.ctx? c with
  | none => .next s
  | some x =>
    if x.st != .running || x.viol || x.stopAt.isSome || s.workLeft c then .next s
    else .next (s.modCtx c (fun x => { x with st := .resident }))

/-! Breaks and discards. -/

/-- The break of every barrier word that a lane of a context has joined (14 R339). -/
def State.breakWords (s : State) (c : Nat) : State :=
  let own (k : Nat) : Bool := (s.klass? k).any (fun x => x.ctx == c)
  let regs : List (Nat × Nat × Nat) := (s.groups.filter (fun g => g.ctx == c)).flatMap (fun g => g.lanes.filterMap (fun l =>
    match l.wait with
    | some w => match w.kind with
      | .bar (.pad k m _) off _ _ => some (k, m, off)
      | _ => none
    | none => none))
  let arr := s.bars.joined.filterMap (fun j =>
    if own j.1 && (s.pad? j.1 j.2.1).any (fun p => (barWord (p.read j.2.2.1 8)).gen == j.2.2.2) then some (j.1, j.2.1, j.2.2.1)
    else none)
  (regs ++ arr).dedup.foldl (fun s x =>
    match s.pad? x.1 x.2.1 with
    | none => s
    | some p =>
      let w := barWord (p.read x.2.2 8)
      if w.invalid || w.broken then s
      else
        let (ts, p1) := p.store ((s.klass? x.1).map (fun k => (k.site, 256, 0))) x.2.2 0 (toBytes 8 { w with broken := true }.bits)
        (s.modPad x.1 x.2.1 (fun _ => p1)).fireWatches (.pad x.1 x.2.1 (x.2.2 / 128)) ts) s

/-- Every BARX instance of a context forwards its break and is discarded (14 R345). -/
def State.breakInsts (s : State) (c : Nat) : State :=
  let mine := s.bars.insts.filter (fun i => i.ctx == c)
  let saved := ((s.ctx? c).bind (·.saved)).elim [] (·.insts)
  (mine ++ saved).foldl (fun s i => s.barxBreak i false) s

/-- The tiles, engines, queues, rings, banks, jobs and transport of a faulted or killed context drop what is not done (07 R190,
08 R230, 12 R311, 15 R371, 16 R395, 17 R407, 19 R451). -/
def State.dropWork (s : State) (c : Nat) : State :=
  let s0 := (s.breakWords c).breakInsts c
  let e := s0.eng
  let other {α : Type} (f : α → Nat) (l : List α) : List α := l.filter (fun x => f x != c)
  let eng : Engines :=
    { e with
      copies := other (·.ctx) e.copies, drains := other (·.ctx) e.drains, decrements := other (·.ctx) e.decrements,
      flights := other (·.ctx) e.flights, front := other (·.ctx) e.front, inbox := other (·.ctx) e.inbox,
      spill := other (·.ctx) e.spill, trays := other (·.ctx) e.trays, events := other (·.ctx) e.events,
      observed := other (·.ctx) e.observed, rejects := other (·.ctx) e.rejects }
  let bars : Barriers := { s0.bars with
    flying := other (·.ctx) s0.bars.flying,
    held := other (·.ctx) s0.bars.held,
    epochs := s0.bars.epochs.filter (fun e => e.1 != c),
    joined := s0.bars.joined.filter (fun j => !(s0.klass? j.1).any (fun k => k.ctx == c)) }
  let link : Link := { s0.link with
    tx := other (·.ctx) s0.link.tx,
    sends := other (·.ctx) s0.link.sends, slotWrites := other (·.ctx) s0.link.slotWrites, mcl := other (·.ctx) s0.link.mcl,
    rx := updWhere (fun r => r.ctx == c) (fun r => { r with refused := true }) s0.link.rx }
  let clear (k : Klass) : Klass := { k with pads := k.pads.map (fun p => { p with incoming := [] }) }
  { s0 with
    groups := updWhere (fun g => g.ctx == c) (fun g => { g with mmas := [] }) s0.groups,
    eng := eng, bars := bars, link := link,
    rings := other (·.ctx) s0.rings, banks := other (·.ctx) s0.banks, units := other (·.ctx) s0.units,
    jobs := other (·.ctx) s0.jobs, classes := updWhere (fun k => k.ctx == c) clear s0.classes }

/-- Frees the pipelines and scratchpads of a context; dirty lines go home (10 R248, R265). Table lines in the stations stay (18 R426,
log 122). -/
def State.freePlaces (s : State) (c : Nat) : State :=
  let mine (x : Copy) : Bool := x.ctx == c && (match x.holder with | .l1 .. => true | .station .. => false)
  let m1 := (s.mem.copies.filter mine).foldl (fun m x => m.evict x) s.mem
  { s with
    mem := { m1 with copies := m1.copies.filter (fun x => !mine x) },
    groups := s.groups.filter (fun g => g.ctx != c),
    classes := s.classes.filter (fun k => k.ctx != c) }

/-- The station entries of a context leave before its number is assigned again (18 R426). -/
def State.dropTables (s : State) (c : Nat) : State := s.setMem (s.mem.dropCopies (fun x => x.ctx == c))

/-- A timestamp above every access made so far: reads of the device's own firmware follow them all (08 R202, 18 R416). -/
def State.latest (s : State) : Nat := 1 + (s.mem.homes.map (·.rts)).foldl max 0

/-- The load result record of a load that a pre-emption or a kill ends (11 R274, R277), written where its request says. -/
def State.abortLoad (s : State) (c : Nat) (o : KObj) : State :=
  let a : Actor := ⟨c, true, s.latest, ⟨0, 0⟩⟩
  match s.engRead a (.glob (o.image + 24)) 8 with
  | (.ok bs, s1) =>
    let at_ := fromBytes bs
    let head := (0x4C524B5A + 2 ^ 32 * 10) :: List.replicate 7 0
    (head.zipIdx).foldl (fun s x => (s.engWrite a (.glob (at_ + 8 * x.2)) (toBytes 8 x.1)).2) s1
  | (_, s1) => s1

/-- Ends the loads of a context that are still checking. -/
def State.abortLoads (s : State) (c : Nat) : State :=
  match s.ctx? c with
  | none => s
  | some x =>
    let s1 := (x.objs.filter (fun o => o.st == 0)).foldl (fun s o => s.abortLoad c o) s
    let ended (p : PendCmd) : PendCmd := if p.kind = 3 && p.ctx = c && p.done.isNone then { p with done := some 0 } else p
    ({ s1 with link := { s1.link with pend := s1.link.pend.map ended } }).modCtx c (fun x => { x with objs := x.objs.filter (fun o => o.st != 0) })

/-- KILL and CTX_KILL: every master of the context halts and its work is discarded (10 R273). -/
def State.killCtx (s : State) (c : Nat) : State :=
  let s1 := ((s.abortLoads c).dropWork c).freePlaces c
  s1.modCtx c (fun x => { x with
    st := .killed, efs := [], launches := [], tt := [], objs := [], stopAt := none, boundary := false, viol := false, saved := none })

/-- KILL_DISCARD_COMPLETE: killed context arg 0 is destroyed. -/
def execKillDiscardComplete (s : State) : Out :=
  let c := s.arg 0
  match s.ctx? c with
  | none => .next s
  | some x =>
    if x.st != .killed then .next s
    else .next { s.dropTables c with
      ctxs := s.ctxs.filter (fun y => y.num != c),
      plat := { s.plat with displaced := s.plat.displaced.filter (· != c) },
      link := { s.link with xcfg := s.link.xcfg.filter (fun y => y.ctx != c), rx := s.link.rx.filter (fun y => y.ctx != c) } }

/-! Thread records (10 R268). -/

/-- The registers a lane of a saved context has in its record, besides STATUS and IDLOGICAL. -/
def Lane.recordWords (l : Lane) (pc : Word) (status : Nat) : List Word :=
  let kbits := ((List.range 8).map (fun i => if i = 0 || (l.k.toList.getD i false) then 2 ^ i else 0)).foldl (· + ·) 0
  [pc, BitVec.ofNat 64 status, l.fpctl, l.fpflags, BitVec.ofNat 64 l.pts, l.srstate, l.kstack,
    l.tcause.zeroExtend 64, l.tval, l.tepc, l.tlanes.zeroExtend 64, BitVec.ofNat 64 (kbits + 2 ^ 32 * l.idLogical)] ++
  l.sx.toList ++ (0 :: l.x.toList.tail) ++ l.v.toList.flatMap (fun v => [v.extractLsb' 0 64, v.extractLsb' 64 64]) ++
  l.m.toList.flatMap (fun b => (List.range 32).map (fun i =>
    BitVec.ofNat 64 ((b.toList.getD (2 * i) 0).toNat + 2 ^ 32 * (b.toList.getD (2 * i + 1) 0).toNat)))

/-- STATUS of a thread record. -/
def threadStatus (g : Group) (no l : Nat) : Nat :=
  let x := g.lane l
  (!x.exited).toNat + 2 * x.exited.toNat + 4 * (decide (x.reason ≠ 0)).toNat + 16 * x.privS.toNat +
  64 * (decide (x.origin.kind ≠ 0)).toNat + 2 ^ 8 * l + 2 ^ 24 * no

/-- Groups in the order in which they started, which numbers them in a shell (10 R268). -/
def startOrder (gs : List Group) : List Group := sortBy (fun g => g.startNo) (sortBy (fun g => g.gid) gs)

/-- The lanes of a save in the order of their records: group number, group and lane. -/
def saveOrder (gs : List Group) : List (Nat × Group × Nat) :=
  let all := (gs.zipIdx).flatMap (fun x => (List.range x.1.size).map (fun l => (x.2, x.1, l)))
  sortBy (fun x => (x.2.1.lane x.2.2).idLogical) all

def Group.pcOf (g : Group) (l : Nat) : Word := ((g.pathOf? l).map (·.pc)).getD 0

/-- What CHECK covers, read back from the shell (10 R269); the device section is modelled as 64 bytes (log 6). -/
def State.shellBytes (s : State) (shell threads : Nat) : List Nat × State :=
  let (a, s1) := s.physRead (shell + 4) 4
  let (b, s2) := s1.physRead (shell + 32) 24
  let (d, s3) := s2.physRead (shell + 64 + 3200 * threads) 64
  let r := (List.range threads).foldl (fun (acc : List Nat × State) i =>
    let (x, t1) := acc.2.physRead (shell + 64 + 3200 * i + 8) 8
    let (y, t2) := t1.physRead (shell + 64 + 3200 * i + 92) 4
    (acc.1 ++ [x, y], t2)) ([], s3)
  ([a, b, d] ++ r.1, r.2)

/-- Writes the header of a shell (10 R267) and its CHECK. -/
def State.writeHeader (s : State) (c : Ctx) (reason threads : Nat) : State :=
  let shell := c.desc.shell
  let cause := if reason = 1 then 0 else c.faultCause + 2 ^ 8 * c.faultSub + 2 ^ 16 * c.faultMaster
  let s1 := s.physWriteWords shell
    [BitVec.ofNat 64 (0x4C48535A + 2 ^ 32 * c.num + 2 ^ 48 * reason), BitVec.ofNat 64 cause,
      if reason = 1 then 0 else c.faultAddr, BitVec.ofNat 64 (if reason = 1 then 0 else c.faultSite),
      BitVec.ofNat 64 threads, 64, BitVec.ofNat 64 (64 + 3200 * threads)]
  let (bs, s2) := s1.shellBytes shell threads
  s2.physWrite (shell + 56) (toBytes 8 (Config.shellCheck bs))

/-- The device section: the version of the decode table that wrote it (11 R282), and bytes that are the device's own (log 6). -/
def State.writeSection (s : State) (pa : Nat) : State :=
  let (n, s1) := s.free
  s1.physWriteWords pa (BitVec.ofNat 64 s.plat.dtVersion :: (List.range 7).map (fun i => BitVec.ofNat 64 (Config.freeValue (n + i))))
    |> fun t => { t with freeN := n + 7 }

/-- Writes a context's shell for the groups saved (10 R267 to R270). -/
def State.writeShell (s : State) (c : Ctx) (gs : List Group) (reason : Nat) : State :=
  let order := saveOrder (startOrder gs)
  let s1 := (order.zipIdx).foldl (fun s x =>
    let g := x.1.2.1
    let l := x.1.2.2
    s.physWriteWords (c.desc.shell + 64 + 3200 * x.2)
      ((g.lane l).recordWords (g.pcOf l) (threadStatus g x.1.1 l))) s
  (s1.writeSection (c.desc.shell + 64 + 3200 * order.length)).writeHeader c reason order.length

/-- The lane a thread record holds (10 R268), with its PC. -/
def Lane.fromRecord (l : Lane) (ws : List Word) : Lane × Word :=
  let w (i : Nat) : Word := ws.getD i 0
  let k := (w 11).toNat
  ({ l with
      fpctl := fpctlWrite l.fpctl (w 2), fpflags := (w 3) &&& 0x3F, pts := (w 4).toNat % 2 ^ 48, srstate := w 5,
      kstack := (w 6) &&& ~~~(15#64), tcause := (w 7).truncate 16, tval := w 8, tepc := w 9, tlanes := (w 10).truncate 32,
      k := (Vector.range 8).map (fun i => i != 0 && k / 2 ^ i % 2 == 1),
      sx := (Vector.range 4).map (fun i => w (12 + i)),
      x := (Vector.range 64).map (fun i => if i = 0 then 0 else w (16 + i)),
      v := (Vector.range 32).map (fun i => (w (81 + 2 * i)) ++ (w (80 + 2 * i))),
      m := (Vector.range 8).map (fun r => (Vector.range 64).map (fun i =>
        BitVec.ofNat 32 ((w (144 + 32 * r + i / 2)).toNat / 2 ^ (32 * (i % 2))))) },
    (w 0) &&& ~~~(7#64))

/-- Reads the thread records back into saved groups; lanes whose PC has been rewritten go on from it. Of an exited lane the form still
uses the slices m0 to m7 (07 R168, R180). -/
def State.readThreads (s : State) (shell : Nat) (gs : List Group) : List Group × State :=
  (((saveOrder gs).zipIdx).foldl (fun (acc : List Group × State) x =>
    let gid := x.1.2.1.gid
    let l := x.1.2.2
    let (ws, s1) := acc.2.physReadWords (shell + 64 + 3200 * x.2) 400
    let one (g : Group) : Group :=
      if g.gid != gid then g
      else
        let r := (g.lane l).fromRecord ws
        let g1 := { g with lanes := g.lanes.modify l (fun _ => r.1) }
        match g.pathOf? l with
        | none => g1
        | some p =>
          if p.pc == r.2 then g1
          else if p.stacked.isSome && p.lanes.length = 1 then
            (g1.modPath p.pid (fun p => { p with redirect := some r.2, halted := none, waiting := false, part := [] })).modLane l
              (fun x => { x with wait := none })
          else if p.lanes.length = 1 || p.alone then
            (g1.modPath p.pid (fun p => { p with pc := r.2, halted := none, waiting := false, part := [], election := [] })).modLane l
              (fun x => { x with wait := none })
          else
            -- the lane leaves the path it was saved on
            let g2 := g1.modPath p.pid (fun p =>
              { p with lanes := p.lanes.filter (· ≠ l), election := p.election.filter (fun e => e.lane != l) })
            ({ g2 with paths := g2.paths ++ [{ soloPath (s.nextId + 64 * p.pid + l) p l r.2 with halted := none, waiting := false, part := [] }] }).modLane l
              (fun x => { x with reason := 2, wait := none })
    (acc.1.map one, s1)) (gs, s))

/-! Pre-emption (10 R265, R272). -/

/-- A pre-emption is accepted (10 R248): from now on no group is placed and the engines hold. -/
def State.requestPreempt (s : State) (c : Nat) : State :=
  let asked := (s.ctx? c).any (fun x => (x.st == .running || x.st == .resident) && !x.viol)
  (if asked then s.abortLoads c else s).modCtx c (fun x => if asked then
    { x with st := .preempting, stopAt := some s.clk, boundary := false } else x)

/-- A pre-emption drops the wait and saves the lane before its word, which runs again: BWAIT, RWAIT, QUIET, and IINV and EVADV not
yet acknowledged (13 R327, 14 R349, 15 R370, 16 R394, 17 R407). A BSYNC whose arrival is made stays registered. -/
def WaitKind.reissued : WaitKind → Bool
  | .bar _ _ _ arrived => !arrived
  | .rwait .. | .quiet .. | .ack _ => true
  | _ => false

def Lane.reissues (l : Lane) : Bool := l.wait.any (fun w => w.kind.reissued)

/-- A lane at the boundary: WAITM and WFI will return INTERRUPTED, watches are lost (08 R217, R229, 10 R272). -/
def Lane.atBoundary (l : Lane) : Lane :=
  let l1 := { l with watch := none }
  match l1.wait with
  | none => l1
  | some w => match w.kind with
    | .waitm | .wfi => { l1 with wait := some { w with intr := true } }
    | k => if k.reissued then { l1 with wait := none } else l1

/-- A path at the boundary: its lanes that execute their word again are no part of it that is done; the others are. -/
def Path.atBoundary (p : Path) (g : Group) : Path :=
  let again (l : Nat) : Bool := (g.lane l).reissues
  if p.waiting && p.lanes.any again then { p with waiting := false, part := p.lanes.filter (fun l => !again l) }
  else { p with part := p.part.filter (fun l => !again l) }

def Lane.inScall (l : Lane) : Bool :=
  match l.wait with
  | some w => match w.kind with | .scall _ => true | _ => false
  | none => false

/-- The counts of 17 R399 for the messages that the lanes of a parked group carry: `sign` adds or takes back one. A launch
class counts at the CNI of cluster 0 of its die, when it has just this group left unparked. -/
def State.quietCounts (s : State) (g : Group) (n : Nat) : State :=
  let o := (g.lane 0).origin
  if o.kind = 0 then
    let others := s.groups.filter (fun h => h.cls == g.cls && h.gid != g.gid)
    match s.klass? g.cls, s.launch? g.ctx o.launch with
    | some k, some l =>
      if others.all (fun h => h.liveLanes.all (fun i => (h.lane i).inQuiet)) then s.count g.ctx l.job (.cni (l.dieOf k.linear) 0) 0 n
      else s
    | _, _ => s
  else if o.perLane then
    (g.liveLanes.filter (fun i => (g.lane i).origin.counted)).foldl
      (fun s i => s.count g.ctx (g.lane i).origin.job (cniOf g.site) 0 n) s
  else if o.counted then s.count g.ctx o.job (cniOf g.site) 0 n
  else s

/-- A group at the boundary. -/
def State.groupAtBoundary (s : State) (g : Group) : State :=
  let quiet := g.liveLanes.any (fun l => (g.lane l).inQuiet)
  let s1 := if quiet then s.quietCounts g minus1 else s
  s1.modGroup g.gid (fun g =>
    let path (p : Path) : Path :=
      let p1 := p.atBoundary g
      if g.exch.isSome then { p1 with halted := none } else p1
    { g with frozen := true, exch := none, lanes := g.lanes.map Lane.atBoundary, paths := g.paths.map path })

/-- The bank of an event in flight has no room for it: the event is held at its injector. -/
def State.eventStuck (s : State) (e : QEvent) : Bool :=
  let f (lo w : Nat) : Nat := fieldAt e.bits.toNat lo w
  s.banks.any (fun b => b.ctx == e.ctx && b.die == f 18 3 && b.cluster == f 14 4 && b.num == f 12 2 &&
    decide (1024 ≤ b.queue.length) && s.spillFull e.ctx b.site)

/-- The work that has to end before the boundary: reads of an MMA, drains not held, SENDA chunks in the network whose turn has come,
transfers of tiles, firmware calls and the passes of an election. Events in flight reach their banks and are queued (16 R392). -/
def State.boundaryReady (s : State) (c : Nat) : Bool :=
  (s.groups.filter (fun g => g.ctx == c)).all (fun g => g.mmas.isEmpty && g.lanes.all (fun l => !l.inScall)) &&
  !s.eng.drains.any (fun d => d.ctx == c && d.held == 0 && !s.drainCut d) &&
  !s.eng.copies.any (fun x => x.ctx == c && x.kind == .senda && !x.payload.isEmpty && s.applies x && s.sendaTurn x) &&
  !s.eng.events.any (fun e => e.ctx == c && !s.eventStuck e) &&
  !s.rings.any (fun r => r.ctx == c && r.tiles.any (fun t => !t.resident && t.held == 0 && t.issuer.isNone))

/-- The save of a context writes to a stack of a die (18 R408). -/
def Ctx.savesOn (c : Ctx) (die : Nat) : Bool :=
  (List.range (c.desc.shellSize / 4096 + 1)).any (fun i => dieOfPa (c.desc.shell + 4096 * i) == die)

/-- The save begins: it waits out the stalls under way on the dies that it writes, at most 20 us (19 R431). -/
def State.beginSave (s : State) (c : Nat) : State :=
  s.modCtx c (fun x =>
    let ends := ((s.link.stalls.filter (fun y => x.savesOn y.1)).map (·.2)).foldl max s.clk
    let w := min 72000 (ends - s.clk)
    { x with boundary := true, saveWait := w, stallEnd := s.clk + w })

/-- PREEMPT_BOUNDARY: every pipeline of context arg 0 is at an instruction boundary; boundary changes under way stop after arg 1
lines of each way they reclaim. -/
def execPreemptBoundary (s : State) : Out :=
  let c := s.arg 0
  match s.ctx? c with
  | none => .next s
  | some x =>
    if x.stopAt.isNone || x.boundary || !s.boundaryReady c then .next s
    else
      let s1 := (s.classes.filter (fun k => k.ctx == c &&
        s.groups.any (fun g => g.cls == k.kid && !g.started))).foldl (fun s k => s.abandonPlacement k (s.arg 1)) s
      let s2 := (s1.groups.filter (fun g => g.ctx == c)).foldl (fun s g => s.groupAtBoundary g) s1
      let s3 := if x.st == .faulted then
          { s2 with eng := { s2.eng with inbox := s2.eng.inbox.filter (fun r => r.ctx != c) } } else s2
      .next (s3.beginSave c)

/-- The clk at which SAVEDL passes, extended by the wait for stalls (10 R266). -/
def Ctx.saveDeadline (x : Ctx) (since : Nat) : Nat := since + 3600 * x.desc.saveDl + x.saveWait

/-- Tray timers, dwell clocks and exchange timeouts stand still while their context is saved (12 R310, 14 R349, 15 R370): what is
kept is what they have left, or what has passed. -/
def Tray.freeze (t : Tray) (clk : Nat) : Tray := { t with deadline := t.deadline - clk }
def Tray.thaw (t : Tray) (clk : Nat) : Tray := { t with deadline := t.deadline + clk }
def Ring.dwell (r : Ring) (clk : Nat) : Ring := { r with tiles := r.tiles.map (fun t => { t with arrivedAt := clk - t.arrivedAt }) }

/-- An instance has waited up to now, unless its group is still to be placed again after an earlier save. -/
def State.freezeInst (s : State) (i : BarxInst) : BarxInst :=
  if i.gid = 0 || (s.group? i.gid).isSome then { i with since := s.clk - i.since } else i

/-- Records of a context in arrival order. -/
def recsOf (c : Nat) (l : List TaskRec) : List TaskRec := sortBy (fun r => r.seq) (l.filter (fun r => r.ctx == c))

/-- What is left of a context on the device when its shell is complete. -/
def State.savedOf (s : State) (x : Ctx) : Saved :=
  let c := x.num
  let o := x.saved.getD .none_
  let gs := s.groups.filter (fun g => g.ctx == c)
  let waiting (gid : Nat) : Bool := o.groups.any (fun g => g.gid == gid)
  { groups := o.groups ++ gs,
    classes := o.classes ++ s.classes.filter (fun k => k.ctx == c),
    recs := o.recs ++ recsOf c s.eng.inbox, front := o.front ++ recsOf c s.eng.front,
    banks := o.banks ++ s.banks.filter (fun b => b.ctx == c),
    units := o.units ++ s.units.filter (fun u => u.ctx == c), moved := [],
    insts := o.insts ++ (s.bars.insts.filter (fun i => i.ctx == c)).map s.freezeInst,
    notices := o.notices ++ s.bars.held.filter (fun n => n.ctx == c),
    epochs := o.epochs ++ s.bars.epochs.filter (fun e => e.1 == c),
    passes := o.passes.filter (fun p => waiting p.1 && waiting p.2.1) ++ s.passesOf gs,
    flags := (x.clflags.map (·.2)).foldl Nat.lor o.flags }

/-- The wide barriers of a context leave the barrier engines. -/
def State.dropBars (s : State) (c : Nat) : State :=
  { s with bars := { s.bars with
      insts := s.bars.insts.filter (fun i => i.ctx != c), held := s.bars.held.filter (fun n => n.ctx != c),
      epochs := s.bars.epochs.filter (fun e => e.1 != c) } }

/-- What the shell of a faulted context still shows of groups that a restore has not placed (10 R259). -/
def Saved.shellOnly (v : Saved) : Saved := { Saved.none_ with groups := v.groups }

/-- SAVE_DEADLINE: SAVEDL passes with the shell of context arg 0 incomplete; it is faulted with SAVE_LATE (10 R248). -/
def execSaveDeadline (s : State) : Out :=
  let c := s.arg 0
  match s.ctx? c with
  | none => .next s
  | some x =>
    match x.stopAt with
    | none => .next s
    | some since =>
      if x.st != .preempting || s.clk ≤ x.saveDeadline since then .next s
      else .next ((s.dropWork c).modCtx c (fun x => { x with
        st := .faulted, efs := [], saved := x.saved.map Saved.shellOnly, launches := [],
        faultCause := 0xFF, faultSub := 0, faultMaster := 0, faultAddr := 0, faultSite := 0 }))

/-- VIOLATION: context arg 0, of which a master has been frozen by a violation, halts and is faulted (10 R248, R259). -/
def execViolation (s : State) : Out :=
  let c := s.arg 0
  match s.ctx? c with
  | none => .next s
  | some x =>
    if !x.viol then .next s
    else
      match x.st with
      | .running | .resident | .preempting =>
        .next ((s.dropWork c).modCtx c (fun x => { x with
          st := .faulted, viol := false, stopAt := some (x.stopAt.getD s.clk), efs := [], saved := x.saved.map Saved.shellOnly, launches := [] }))
      | .saved =>
        let s1 := s.dropWork c
        let n := ((x.saved.map (fun sv => (sv.groups.map (·.size)).foldl (· + ·) 0)).getD 0)
        .next ((s1.writeHeader x 2 n).modCtx c (fun x => { x with
          st := .faulted, viol := false, efs := [], saved := x.saved.map Saved.shellOnly, launches := [] }))
      | _ => .next s

/-! Restore (10 R271). -/

/-- Two decode tables are of one generation (11 R282). -/
def sameGeneration (a b : Nat) : Bool := a == b || Config.generation a == Config.generation b

/-- The reserved fields of a shell of n threads are zero: header bytes 7 and 36 to 39, and bits 31:8 of bytes 88 to 95 of each thread
record (00 R6). -/
def State.shellZeros (s : State) (shell n : Nat) : Bool × State :=
  let (a, s1) := s.physRead (shell + 7) 1
  let (b, s2) := s1.physRead (shell + 36) 4
  (List.range n).foldl (fun (acc : Bool × State) i =>
    let (v, t) := acc.2.physRead (shell + 64 + 3200 * i + 89) 3
    (acc.1 && v == 0, t)) (a == 0 && b == 0, s2)

/-- A shell is valid when its header and CHECK are as they were written and its reserved fields zero, under a table of the generation
of the one that wrote it (00 R6, 10 R269, 11 R282, log 6). -/
def State.shellValid (s : State) (x : Ctx) (sv : Saved) : Bool × State :=
  let n := (sv.groups.map (·.size)).foldl (· + ·) 0
  let (m, s1) := s.physRead x.desc.shell 4
  let (k, s2) := s1.physRead (x.desc.shell + 56) 8
  let (bs, s3) := s2.shellBytes x.desc.shell n
  let (v, s4) := s3.physRead (x.desc.shell + 64 + 3200 * n) 8
  let (z, s5) := s4.shellZeros x.desc.shell n
  (m == 0x4C48535A && k == Config.shellCheck bs % 2 ^ 64 && sameGeneration v s.plat.dtVersion && z, s5)

/-- A restored group's exchange and waits begin anew (10 R272). -/
def Group.thaw (g : Group) (clk : Nat) : Group :=
  { g with frozen := false, lanes := g.lanes.map (fun l => { l with wait := l.wait.map (fun w => { w with since := clk }) }) }

/-- Reads the shell back and makes the context resident; its classes wait to be placed. -/
def State.beginRestore (s : State) (x : Ctx) (sv : Saved) : State :=
  let (gs, s1) := s.readThreads x.desc.shell (startOrder sv.groups)
  let s2 := { s1 with nextId := s1.nextId + 64 * (s1.nextId + 1) }
  let s3 := { s2 with
    bars := { s2.bars with held := s2.bars.held ++ sv.notices, epochs := s2.bars.epochs ++ sv.epochs },
    rings := updWhere (fun r => r.ctx == x.num) (fun r => r.dwell s2.clk) s2.rings,
    eng := { s2.eng with trays := updWhere (fun t => t.ctx == x.num) (fun (t : Tray) => t.thaw s2.clk) s2.eng.trays },
    jobs := updWhere (fun j => j.ctx == x.num) Job.stir s2.jobs }
  let groups := gs.map (fun (g : Group) => g.thaw s3.clk)
  s3.modCtx x.num (fun y => { y with
    st := .resident, saved := some { sv with groups := groups, moved := [], notices := [], epochs := [] } })

/-- A cluster of a die whose event bank unit is free, the home cluster of a unit's first bank before the others (16 R394). -/
def State.unitFor (s : State) (die : Nat) (bs : List Bank) : Option Site :=
  let ok (c : Nat) : Bool := !s.units.any (fun u => u.site == ⟨die, c⟩) && s.siteUsable ⟨die, c⟩
  ((bs.map (·.cluster) ++ List.range 16).find? ok).map (fun c => ⟨die, c⟩)

/-- Binds the banks of a saved unit, which keep its parameter sets in common (16 R372, R394). -/
def State.rebind (s : State) (sv : Saved) (u : EvUnit) : Option State :=
  let mine := sv.banks.filter (fun b => b.site == u.site)
  (s.unitFor u.site.die mine).map (fun site =>
    { s with units := s.units ++ [{ u with site := site }], banks := s.banks ++ mine.map (fun b => { b with site := site }) })

/-- Puts a wide-barrier instance back on the home die that its roster names, once that has room (14 R349). -/
def State.putInst (s : State) (i : BarxInst) : Option State :=
  if s.atHome i && decide (64 ≤ s.instsAt i.die) then none
  else some { s with bars := { s.bars with insts := s.bars.insts ++ [if i.gid = 0 then { i with since := s.clk - i.since } else i] } }

/-- Where a saved record goes: a mailbox record to its class, another to the cluster that took over its own. -/
def State.newSite (s : State) (sv : Saved) (r : TaskRec) : Site :=
  match r.mail with
  | some (lid, n) => ((s.classAt? r.ctx lid n).map (·.site)).getD r.site
  | none => ((sv.moved.find? (fun m => m.1 == r.site)).map (·.2)).getD r.site

/-- The counter pairs of each cluster are added to those of the cluster that receives its classes, all at once; the change is reported
as activity (17 R400, R407). -/
def Job.moveCounts (j : Job) (moved : List (Site × Site)) : Job :=
  let froms := (moved.map (·.1)).dedup
  let target (a : Site) : Site := ((moved.find? (fun m => m.1 == a)).map (·.2)).getD a
  let away := froms.filter (fun a => target a != a)
  let j1 := { j with counts := j.counts.filter (fun x => !away.any (fun a => x.at_ == cniOf a)) }
  (away.foldl (fun k a => let c := j.countAt (cniOf a); k.bump (cniOf (target a)) c.inj c.cons) j1).stir

/-- A saved record enters the inbox or the partition of the cluster it goes to; the record of a class not yet placed goes back to
its front end, and one that finds no room waits at its injector. -/
def State.putSaved (s : State) (sv : Saved) (r : TaskRec) : State :=
  let r1 := { r with site := s.newSite sv r }
  let held (t : State) : State := { t with eng := { t.eng with flights := t.eng.flights ++ [r1] } }
  let land : State := match s.inboxPut r1 with
    | (some t, _) => t
    | (none, t) => held t
  match r.mail with
  | none => land
  | some (lid, n) => match s.classPlace r.ctx lid n with
    | .placed _ => land
    | _ => { s with eng := { s.eng with front := s.eng.front ++ [r1] } }

/-- A record in a spill slot is put back as its bytes are now, and then counted as returned (12 R302, R310, 24 R463); one whose slot
the device cannot read stays. -/
def State.unspill (s : State) (x : Ctx) (sv : Saved) (y : Spill) : State :=
  match y.item with
  | .ev _ => s
  | .rec_ r =>
    if (s.slotBad? x y).isSome then s
    else
      let (ws, s1) := s.physReadWords (x.slotPa y) 8
      ((s1.dropSpill y).putSaved sv { r with words := ws }).leaveSlot x y

/-- The saved records that `sel` picks are injected again in arrival order: an inbox, then the records of its spill slots, then what
a front end held (12 R310). -/
def State.putBack (s : State) (x : Ctx) (sv : Saved) (sel : TaskRec → Bool) : State :=
  let spilled := s.eng.spill.filter (fun y => y.ctx == x.num && (match y.item with | .rec_ r => sel r | .ev _ => false))
  let enter (s : State) (r : TaskRec) : State :=
    let r1 := { r with site := s.newSite sv r }
    if s.entryFree r1 then let (n, s1) := s.fresh; s1.enterInbox { r1 with seq := n } else s.putSaved sv r
  let s1 := (sv.recs.filter sel).foldl enter s
  let s2 := (sortBy (fun y => y.seq) spilled).foldl (fun s y => s.unspill x sv y) s1
  let s3 := (sv.front.filter sel).foldl (fun s r => s.putSaved sv r) s2
  s3.modCtx x.num (fun c => { c with saved := c.saved.map (fun v => { v with
    recs := v.recs.filter (fun r => !sel r), front := v.front.filter (fun r => !sel r) }) })

/-- A record belongs to a saved class: to its mailbox, or to the dispatch queue of its cluster. -/
def Klass.takes (k : Klass) (r : TaskRec) : Bool :=
  match r.mail with
  | some m => k.launch != 0 && m == (k.launch, k.linear)
  | none => r.site == k.site

/-- Ends a restore once every class is placed: the records left are injected again, and the counts follow the classes. A context with
work of its engines runs (10 R248). -/
def State.endRestore (s : State) (x : Ctx) (sv : Saved) : State :=
  let s1 := s.putBack x sv (fun _ => true)
  let s2 := { s1 with jobs := updWhere (fun j => j.ctx == x.num) (fun j => j.moveCounts sv.moved) s1.jobs }
  let work := s2.workLeft x.num
  s2.modCtx x.num (fun y => { y with saved := none, st := if work && y.st == .resident then .running else y.st })

/-- One step of a restore: the banks and wide barriers, then one class at a time with its records, then what is left. -/
def State.restoreStep (s : State) (x : Ctx) : State :=
  match x.saved with
  | none => s
  | some sv =>
    match sv.units, sv.insts with
    | u :: r, _ =>
      match s.rebind sv u with
      | none => s
      | some s1 => s1.modCtx x.num (fun y => { y with saved := some { sv with
          units := r, banks := sv.banks.filter (fun b => b.site != u.site) } })
    | [], i :: r =>
      match s.putInst i with
      | none => s
      | some s1 => s1.modCtx x.num (fun y => { y with saved := some { sv with insts := r } })
    | [], [] =>
      match sv.classes with
      | [] => s.endRestore x sv
      | k :: r =>
        -- a class that has no room waits while another is placed
        match (k :: r).findSome? (fun k =>
            let t := s.placeSaved x sv k
            if t.classes.length = s.classes.length then none else some (k, t)) with
        | some (k, t) => match t.ctx? x.num with
          | some y => match y.saved with
            | some v => t.putBack y v k.takes
            | none => t
          | none => t
        | none => s

/-- Restores saved contexts by the device itself (11 R281, 20 R454). -/
def State.restoreAll (s : State) (cs : List Nat) : State :=
  cs.foldl (fun s n => match s.ctx? n with
    | none => s
    | some c => match c.st, c.saved with
      | .saved, some sv =>
        let (ok, s1) := s.shellValid c sv
        if ok then s1.beginRestore c sv else s1
      | _, _ => s) s

/-- SHELL_COMPLETE: the shell of context arg 0 is complete and its resources are freed (10 R248). A context that the device pre-empted
to free a unit is restored elsewhere at once (20 R454). The shell of a faulted context keeps its groups, of classes placed and not. -/
def execShellComplete (s : State) : Out :=
  let c := s.arg 0
  match s.ctx? c with
  | none => .next s
  | some x =>
    match x.stopAt with
    | none => .next s
    | some since =>
      if !x.boundary || decide (s.clk < x.stallEnd) then .next s
      else if x.st == .preempting then
        if x.saveDeadline since < s.clk then .next s
        else
          let sv := s.savedOf x
          let s1 := ((s.writeShell x sv.groups 1).freePlaces c).dropBars c
          let s2 := { s1 with
            eng := { s1.eng with
              inbox := s1.eng.inbox.filter (fun r => r.ctx != c), front := s1.eng.front.filter (fun r => r.ctx != c),
              trays := updWhere (fun t => t.ctx == c) (fun t => t.freeze s1.clk) s1.eng.trays },
            rings := updWhere (fun r => r.ctx == c) (fun r => r.dwell s1.clk) s1.rings,
            jobs := updWhere (fun j => j.ctx == c) Job.stir s1.jobs,
            banks := s1.banks.filter (fun b => b.ctx != c), units := s1.units.filter (fun u => u.ctx != c) }
          let s3 := s2.modCtx c (fun x => { x with
            st := .saved, stopAt := none, boundary := false, clflags := [], saved := some sv })
          .next (if !s.plat.displaced.contains c then s3
            else
              let p := { s3.plat with displaced := s3.plat.displaced.filter (· != c) }
              match s3.plat.installing with
              | some (v, d, cs) => { s3 with plat := { p with installing := some (v, d, cs ++ [c]) } }
              | none => { s3 with plat := p }.restoreAll [c])
      else if x.st == .faulted then
        let gs := (x.saved.getD .none_).groups ++ s.groups.filter (fun g => g.ctx == c)
        .next (((s.writeShell x gs 2).freePlaces c).modCtx c (fun x => { x with
          stopAt := none, boundary := false, saved := some { Saved.none_ with groups := gs } }))
      else .next s

/-- A group stands on the unit. -/
def unitHolds (u : PUnit_) (g : Group) : Bool :=
  match u with
  | .quad d c q => g.site == ⟨d, c⟩ && g.pipes.any (fun p => p / 4 == q)
  | .cluster d c => g.site == ⟨d, c⟩
  | _ => false

/-- A class has its scratchpads on the unit. -/
def unitHoldsClass (u : PUnit_) (k : Klass) : Bool :=
  match u with
  | .quad d c q => k.site == ⟨d, c⟩ && k.pads.any (fun p => p.pipe / 4 == q)
  | .cluster d c => k.site == ⟨d, c⟩
  | _ => false

/-- QUAD_EMPTY_TIMEOUT: the context arg 1 of a class still placed on a unit is pre-empted, to be restored elsewhere (20 R454, 01 R25). The units, by arg 0, are
those under test, from 1 ms after the test began, and then the retired ones. -/
def execQuadEmptyTimeout (s : State) : Out :=
  let units := s.plat.tests.map (fun t => (t.unit_, t.since + 3600000)) ++ s.plat.retired.map (fun u => (u, 0))
  match units[s.arg 0]? with
  | none => .next s
  | some (u, at_) =>
    let placed := s.groups.any (fun g => unitHolds u g && g.ctx == s.arg 1) ||
      s.classes.any (fun k => unitHoldsClass u k && k.ctx == s.arg 1)
    let asked := (s.ctx? (s.arg 1)).any (fun x => (x.st == .running || x.st == .resident) && !x.viol)
    if s.clk < at_ || !placed || !asked then .next s
    else .next (({ s with plat := { s.plat with displaced := s.arg 1 :: s.plat.displaced.filter (· != s.arg 1) } }).requestPreempt (s.arg 1))

end Sys2Proof.Machine
end

