-- ==== Sys2Proof/Machine/System.lean ====
section
/-!
DEFINITION. The control and identity registers (01 R31 to R37), traps by instruction, firmware calls, ERET and WFI (10 R249
to R264), and IINV and ISYNC (11 R284, R286).
-/

namespace Sys2Proof.Machine

open Sys2Proof

/-! Privilege (10 R250). -/

/-- A word that needs S: the lanes of the path at U raise PRIVILEGE, whether or not their guards hold. -/
def needS (i : Instr) (f : State → Out) (s : State) : Out :=
  match s.current with
  | none => .next s
  | some (g, p) =>
    match p.lanes.filter (fun l => !(g.lane l).privS) with
    | [] => f s
    | us =>
      let t : TrapInfo := ⟨8, 0, (encode i).getD 0, false⟩
      .next ((s.takeTraps g.gid p.pc (us.map (fun l => (l, t)))).settle g.gid)

/-! MFC, MTC and RID (01 R31, R36, 10 R263). -/

/-- The value of a control register as a lane reads it. -/
def State.mfcValue (s : State) (g : Group) (l : Nat) (sel : Nat) : Word :=
  let x := g.lane l
  match sel with
  | 0x00 => x.fpctl
  | 0x01 => x.fpflags
  | 0x02 => BitVec.ofNat 64 (x.pts % 2 ^ 48)
  | 0x03 => tvecOf s g.ctx
  | 0x04 => x.tcause.zeroExtend 64
  | 0x05 => x.tval
  | 0x06 => x.tepc
  | 0x07 => x.tlanes.zeroExtend 64
  | 0x08 => g.mrp.zeroExtend 64
  | 0x09 => x.srstate
  | 0x0A => x.kstack
  | 0x0B => BitVec.ofNat 64 s.clk
  | 0x0C => BitVec.ofNat 64 s.ptp
  | 0x0D => BitVec.ofNat 64 ((s.ctx? g.ctx).elim 0 (fun c => c.clOf g.site))
  | 0x0E => BitVec.ofNat 64 g.ctx
  | _ => 0

/-- One lane of MFC; a read of FPFLAGS waits for an MMA in progress (02 R61). -/
def State.mfcLane (s : State) (gid l : Nat) (d : XReg) (sel : Nat) : LRes Unit :=
  match s.group? gid with
  | none => .hold
  | some g =>
    if sel = 1 && g.mmas.any (fun m => !m.reading) then .hold
    else .ok () (s.modLane gid l (fun x => x.wx d (s.mfcValue g l sel)))

/-- A write of a control register by a lane at its level: RO accesses change nothing, reserved bits stay zero. A write of FPFLAGS
waits for no MMA: one still in progress sets its flags later (log 88). -/
def State.mtcLane (s : State) (gid l : Nat) (sel : Nat) (w : Word) : State :=
  match s.group? gid with
  | none => s
  | some g =>
    let sup := (g.lane l).privS
    let lane (f : Lane → Lane) : State := s.modLane gid l f
    match sel with
    | 0x00 => lane (fun x => { x with fpctl := fpctlWrite x.fpctl w })
    | 0x01 => lane (fun x => { x with fpflags := w &&& 0x3F })
    | 0x03 => if sup then s.modCtx g.ctx (fun c => { c with tvec := w &&& ~~~(7#64) }) else s
    | 0x04 => if sup then lane (fun x => { x with tcause := w.truncate 16 }) else s
    | 0x05 => if sup then lane (fun x => { x with tval := w }) else s
    | 0x06 => if sup then lane (fun x => { x with tepc := w }) else s
    | 0x07 => if sup then lane (fun x => { x with tlanes := w.truncate 32 }) else s
    | 0x08 => if sup then s.modGroup gid (fun g => { g with mrp := w.truncate 32 &&& 0x1FFFF }) else s
    | 0x09 => lane (fun x => { x with srstate := w })
    | 0x0A => lane (fun x => { x with kstack := w &&& ~~~(15#64) })
    | 0x0D => if sup then s.modCtx g.ctx (fun c =>
        c.setCl g.site ((BitVec.ofNat 6 (c.clOf g.site) &&& ~~~(w.truncate 6)).toNat)) else s
    | _ => s

/-- CLFLAGS traps at U (01 R31). -/
def levelOf (sel : Nat) (i : Instr) (f : State → Out) : State → Out := if sel = 0x0D then needS i f else f

def execMfc (g : Guard) (d : XReg) (sel : Fin 64) (s : State) : Out :=
  levelOf sel.val (.mfc g d sel) (laneWord g (fun s gid l => s.mfcLane gid l d sel.val)) s

def execMtc (g : Guard) (a : XReg) (sel : Fin 64) (s : State) : Out :=
  levelOf sel.val (.mtc g a sel)
    (laneWord g (fun s gid l => .ok () (s.mtcLane gid l sel.val ((s.lane gid l).rx a)))) s

/-- An identity register (01 R36). -/
def Group.ident (g : Group) (l : Nat) (sel : Nat) : Word :=
  let x := g.lane l
  match sel with
  | 0x00 => BitVec.ofNat 64 l
  | 0x01 => BitVec.ofNat 64 g.size
  | 0x02 => BitVec.ofNat 64 g.idGroup
  | 0x03 => BitVec.ofNat 64 x.idClass
  | 0x04 => BitVec.ofNat 64 x.idStage
  | 0x05 => BitVec.ofNat 64 (siteWord g.site (g.pipeOf l))
  | 0x06 => BitVec.ofNat 64 x.idLogical
  | 0x07 => BitVec.ofNat 64 x.orgRow
  | 0x08 => BitVec.ofNat 64 x.orgCol
  | 0x09 => BitVec.ofNat 64 x.extRows
  | 0x0A => BitVec.ofNat 64 x.extCols
  | 0x0B => x.jobSeed
  | _ => 0

def execRid (g : Guard) (d : XReg) (sel : Fin 64) (s : State) : Out :=
  groupRead g d (fun h l => h.ident l sel.val) s

/-! TRAP, SCALL and the firmware (10 R258, R261). -/

def execTrap (g : Guard) (code : BitVec 16) (s : State) : Out :=
  laneWord g (fun _ _ _ => .trap ⟨9, 0, code.zeroExtend 64, true⟩) s

/-- SCALL: SYSCALL at U; at S a call that the firmware completes (log 17), or status all ones for a code it does not know. -/
def execScall (g : Guard) (code : BitVec 16) (s : State) : Out :=
  parkWord g (fun s gid l =>
    if !(s.lane gid l).privS then .trap ⟨0x0A, 0, code.zeroExtend 64, true⟩
    else if 1 ≤ code.toNat ∧ code.toNat ≤ 4 then
      .ok () (s.modLane gid l (fun x => x.startWait ⟨.scall code.toNat, 1, none, s.clk, false⟩))
    else .ok () (s.modLane gid l (fun x => x.wx 1 (-1)))) s

/-- The lane has called the firmware with a code, and no lower lane of its path waits for a call of its own. -/
def State.calling (s : State) (gid l code : Nat) : Option Group :=
  match s.group? gid with
  | none => none
  | some g =>
    let turn : Bool := match g.pathOf? l with
      | some p => (p.lanes.filter (· < l)).all (fun i => !(g.lane i).inScall)
      | none => false
    match (g.lane l).wait with
    | some w => if w.kind == .scall code && turn then some g else none
    | none => none

/-- ENGINE_RESUME for lane arg 1 of group arg 0. -/
def execEngineResume (s : State) : Out :=
  let gid := s.arg 0
  let l := s.arg 1
  match s.calling gid l 1 with
  | none => .next s
  | some g =>
    match s.fault? g.ctx ((g.lane l).rx 1) with
    | none => .next (s.endWait gid l (fun x => x.wx 1 1))
    | some e => .next ((s.ackFault g.ctx e.tag true).endWait gid l (fun x => x.wx 1 0))

/-- ENGINE_ABORT for lane arg 1 of group arg 0. -/
def execEngineAbort (s : State) : Out :=
  let gid := s.arg 0
  let l := s.arg 1
  match s.calling gid l 2 with
  | none => .next s
  | some g =>
    match s.fault? g.ctx ((g.lane l).rx 1) with
    | none => .next (s.endWait gid l (fun x => x.wx 1 1))
    | some e =>
      let s1 := s.violate g.ctx e.cause e.sub e.kind (BitVec.ofNat 64 e.addr) e.site
      .next (((s1.ackFault g.ctx e.tag false).endWait gid l (fun x => x.wx 1 0)).freezeLane gid l)

/-- CTX_FAULT for lane arg 1 of group arg 0. -/
def execCtxFault (s : State) : Out :=
  let gid := s.arg 0
  let l := s.arg 1
  match s.calling gid l 3 with
  | none => .next s
  | some g =>
    let s1 := s.violate g.ctx 0 0 0 ((g.lane l).rx 1) (siteWord g.site (g.pipeOf l))
    .next ((s1.endWait gid l (fun x => x.wx 1 0)).freezeLane gid l)

/-- CTX_KILL for lane arg 1 of group arg 0. -/
def execCtxKill (s : State) : Out :=
  match s.calling (s.arg 0) (s.arg 1) 4 with
  | none => .next s
  | some g => .next (s.killCtx g.ctx)

/-! ERET (10 R262). -/

/-- The target of a lane's ERET, and its trap: a level above S, or a target outside space 0x00 (03 R71). -/
def Lane.eretPc (l : Lane) : Word := l.tepc &&& ~~~(7#64)

def Lane.eretTrap (l : Lane) (word : Word) : Option TrapInfo :=
  if 1 < l.tepc.toNat % 4 then some ⟨8, 0, word, false⟩
  else if l.eretPc.toNat / 2 ^ 56 ≠ 0 then some ⟨4, 1, l.eretPc, false⟩
  else none

/-- The lane after ERET: its level, and a cross-lane word it still owes only where it returns to that word (06 R164). -/
def Lane.eret (l : Lane) : Lane :=
  { l with privS := decide (l.tepc.toNat % 4 ≠ 0),
           crossOwed := if l.crossOwed == some l.eretPc then l.crossOwed else none }

def execEret (s : State) : Out :=
  needS .eret (fun s =>
    match s.current with
    | none => .next s
    | some (g, p) =>
      let w := (encode .eret).getD 0
      let traps := p.lanes.filterMap (fun l => ((g.lane l).eretTrap w).map (fun t => (l, t)))
      let go := p.lanes.filter (fun l => ((g.lane l).eretTrap w).isNone)
      let parts := partsOf (go.map (fun l => (l, (g.lane l).eretPc)))
      let s1 := s.takeTraps g.gid p.pc traps
      let s2 := s1.modGroup g.gid (fun h => { h with lanes := (h.lanes.zipIdx).map (fun x =>
        if go.contains x.2 then x.1.eret else x.1) })
      .next (s2.control g.gid p.pid p.pc [] parts none none)) s

/-! WFI (10 R264). -/

def execWfi (g : Guard) (d a : XReg) (s : State) : Out :=
  needS (.wfi g d a) (fun s =>
    match s.current with
    | none => .next s
    | some (h, p) => .next (s.register h p g (fun l => ⟨.wfi, d, deadline s.clk (l.rx a), s.clk, false⟩))) s

/-- The code of a lane of WFI that returns without a record or an engine fault. -/
def wfiCode (clk : Nat) (w : Wait) : Nat :=
  if w.intr then 3 else if (w.until_).any (fun t => decide (t ≤ clk)) then 2 else 4

/-- The lanes of a path that wait in WFI return together, each with its own code. -/
def State.wfiReturn (s : State) (gid pid : Nat) : State :=
  s.wakeLanes (fun g l _ w =>
    if g.gid == gid && (g.path? pid).any (fun p => p.lanes.contains l) && w.kind.isWfi then
      some (fun y => y.wx w.d (BitVec.ofNat 64 (wfiCode s.clk w)))
    else none)

/-- WFI_TIMEOUT: the timeout of lane arg 1 of group arg 0 has elapsed. -/
def execWfiTimeout (s : State) : Out :=
  let gid := s.arg 0
  let l := s.arg 1
  match s.group? gid with
  | none => .next s
  | some g =>
    match (g.lane l).wait, g.pathOf? l with
    | some w, some p => .next (if w.kind.isWfi && wfiCode s.clk w == 2 then s.wfiReturn gid p.pid else s)
    | _, _ => .next s

/-- SPURIOUS_RETURN: the WAITM or WFI of path arg 1 of group arg 0 returns with no cause (08 R217, 10 R264). -/
def execSpuriousReturn (s : State) : Out :=
  .next ((s.wfiReturn (s.arg 0) (s.arg 1)).waitmReturn (s.arg 0) (s.arg 1))

/-! IINV and ISYNC (11 R284, R286). -/

/-- The pipelines of a lane's .form scope: those of its current quad set, itself once it is split (01 R38). -/
def Group.formPipes (g : Group) (l : Nat) : List Nat :=
  match g.pathOf? l with
  | some p =>
    if p.alone || g.size = 1 then [g.pipeOf l]
    else (g.pipes.zipIdx).filterMap (fun x => if (g.qset? p.qset).any (fun q => q.quads.contains (quadOf x.2)) then some x.1 else none)
  | none => [g.pipeOf l]

/-- A pipeline of the issuer's device lies within a scope (01 R38). -/
def Group.within (g : Group) (l : Nat) (scope : Scope) (die cluster pipe : Nat) : Bool :=
  match scope with
  | .pl => die == g.site.die && cluster == g.site.cluster && pipe == g.pipeOf l
  | .form => die == g.site.die && cluster == g.site.cluster && (g.formPipes l).contains pipe
  | .cl => die == g.site.die && cluster == g.site.cluster
  | .die => die == g.site.die
  | .pkg => true
  | .sys => true

/-- Virtual lines of a range of n bytes, none when n = 0. -/
def inLines (a n line : Nat) : Bool := n != 0 && decide (a / 128 ≤ line) && decide (line ≤ (min (a + n - 1) (2 ^ 56 - 1)) / 128)

/-- Writes back owned copies of a context's lines and drops its instruction cache entries over them (11 R284). -/
def MemSys.iinv (m : MemSys) (ctx : Nat) (lines : Nat → Bool) (here : Nat → Nat → Nat → Bool) : MemSys :=
  let own := m.copies.filter (fun c => c.ctx == ctx && c.owned && lines c.key && (match c.holder with
    | .l1 d cl p => here d cl p
    | .station .. => false))
  let m1 := own.foldl (fun m c => m.recall c.pline) m
  { m1 with icache := m1.icache.filter (fun i => !(i.ctx == ctx && lines i.vline && here i.die i.cluster i.pipe)) }

def State.iinvLane (s : State) (gid l : Nat) (a b : XReg) (scope : Scope) : LRes Unit :=
  match s.group? gid with
  | none => .hold
  | some g =>
    let x := g.lane l
    let addr := x.rx a
    let n := x.rx b
    -- lines in unmapped pages are skipped
    let mapped (line : Nat) : Bool := (s.ctx? g.ctx).any (fun c => (s.mem.walk c.desc.ptRoot g.site.die g.ctx (128 * line) x.pts).1.isSome)
    if addr.toNat / 2 ^ 56 ≠ 0 then .trap ⟨4, 1, addr, false⟩
    else if n.toNat / 2 ^ 32 ≠ 0 then .trap ⟨4, 4, n, false⟩
    else .ok () (s.setMem (s.mem.iinv g.ctx (fun i => inLines addr.toNat n.toNat i && mapped i) (fun d c p => g.within l scope d c p)))

/-- A scope whose acknowledgements park a path (13 R327). -/
def Scope.wide : Scope → Bool
  | .pl | .form | .cl => false
  | .die | .pkg | .sys => true

/-- A word that acts at a scope in each active lane and answers a result: at .die or wider it acts at once and the path parks until
every die, and at .sys every package, has acknowledged, after a number of clk that is free (log 61); then x[d] is written. -/
def scopedWord (g : Guard) (d : XReg) (scope : Scope) (f : State → Nat → Nat → LRes Nat) (s : State) : Out :=
  if scope.wide then
    let (n, s1) := s.free
    let at_ := s.clk + 1 + Config.freeValue n % 4096
    parkWord g (fun s gid l => (f s gid l).bind (fun v t =>
      .ok () (t.modLane gid l (fun x => x.startWait ⟨.ack v, d, some at_, s.clk, false⟩)))) s1
  else laneWord g (fun s gid l => (f s gid l).bind (fun v t => .ok () (t.modLane gid l (fun x => x.wx d (BitVec.ofNat 64 v))))) s

/-- The acknowledgements have come. -/
def State.returnAcks (s : State) : State :=
  s.wakeLanes (fun _ _ _ w => match w.kind with
    | .ack v => if (w.until_).any (fun t => decide (t ≤ s.clk)) then some (fun y => y.wx w.d (BitVec.ofNat 64 v)) else none
    | _ => none)

def execIinv (g : Guard) (a b : XReg) (scope : Scope) (s : State) : Out :=
  scopedWord g 0 scope (fun s gid l => (s.iinvLane gid l a b scope).bind (fun _ t => .ok 0 t)) s

/-- The pipeline whose fetch stage serves a path: the quad leader of its set, or its own when split (03 R72, 13 R312). -/
def Group.fetchPipe (g : Group) (p : Path) : Nat :=
  if p.alone || g.size = 1 then g.pipeOf (p.lanes.headD 0)
  else match g.qset? p.qset with
    | some q => g.pipeOf (4 * ((sortNat q.quads).headD 0))
    | none => g.pipeOf 0

def execIsync (s : State) : Out :=
  match s.current with
  | none => .next s
  | some (g, p) =>
    let stage := g.fetchPipe p
    let drop (h : Group) : Group :=
      if h.site == g.site then
        { h with paths := h.paths.map (fun q => if h.fetchPipe q = stage then { q with fbuf := [] } else q) }
      else h
    .next (({ s with groups := s.groups.map drop }.goTo g.gid p.pid (p.pc + 8)).settle g.gid)

end Sys2Proof.Machine
end

