-- ==== Sys2Proof/Machine/Queue.lean ====
section
/-!
DEFINITION. The arrival of records, dispatch, trays and placement (12 R301 to R305, 24 R463), POST, TRAYCFG and INBOXQ (12 R307 to
R309), and the counter decrements (05 R132, 12 R295).
-/

namespace Sys2Proof.Machine

open Sys2Proof

/-- Records that a die's front end holds for classes not placed. -/
def State.frontOf (s : State) (die : Nat) : Nat := (s.eng.front.filter (fun r => r.site.die == die)).length

/-- A context whose records move. -/
def State.ctxTakes (s : State) (ctx : Nat) : Bool :=
  match s.ctx? ctx with
  | some c => (c.st == .running || c.st == .resident || c.st == .preempting) && !c.boundary
  | none => false

/-- A flight goes ahead of another: one cluster sends both to one cluster, or to one mailbox, in that order (08 R201, 23 R462). -/
def TaskRec.ahead (x r : TaskRec) : Bool :=
  decide (x.seq < r.seq) && x.src == r.src && r.src.isSome && x.ctx == r.ctx &&
  (x.site == r.site || (r.mail.isSome && x.mail == r.mail))

/-- An event in flight goes ahead of a message that its cluster sends later, with number n, to the same cluster. -/
def QEvent.goesBefore (e : QEvent) (src : Option Site) (ctx n : Nat) (to_ : Site) : Bool :=
  decide (e.arr < n) && e.src == src && src.isSome && e.ctx == ctx && (⟨fieldAt e.bits.toNat 18 3, fieldAt e.bits.toNat 14 4⟩ : Site) == to_

/-- Something that the sender of a flight sent before it has still to arrive where it goes. -/
def State.flightWaits (s : State) (r : TaskRec) : Bool :=
  s.eng.flights.any (fun x => x.ahead r) || s.eng.events.any (fun e => e.goesBefore r.src r.ctx r.seq r.site)

/-- A restore has still to put back records of the mailbox or of the dispatch queue that a record goes to (12 R310). -/
def State.backOwed (s : State) (r : TaskRec) : Bool :=
  let like (x : TaskRec) : Bool := x.mail == r.mail && (r.mail.isSome || x.site == r.site)
  (s.ctx? r.ctx).any (fun c => c.saved.any (fun sv => sv.recs.any like || sv.front.any like ||
    s.eng.spill.any (fun y => y.ctx == r.ctx && (match y.item with | .rec_ x => like x | .ev _ => false))))

/-- The way of a record is counted once it is there (17 R397); engine-fault records are not counted. -/
def State.countRecord (s : State) (r : TaskRec) : State :=
  match r.src with
  | some a => if r.fault then s else s.countWay r.ctx (recFields r.words).theJob a.die r.site.die none false
  | none => s

/-- The front end holds older records of a mailbox. -/
def State.frontHolds (s : State) (ctx : Nat) (mail : Option (Nat × Nat)) : Bool :=
  s.eng.front.any (fun x => x.mail == mail && x.ctx == ctx)

/-- A record that finds no room stays with its injector. -/
def State.holdFlight (s : State) (r : TaskRec) : State := { s with eng := { s.eng with flights := s.eng.flights ++ [r] } }

/-- RECORD_ARRIVAL: the flight arg 0 reaches its inbox or its die's front end, behind the records of its mailbox that the front end
holds. -/
def execRecordArrival (s : State) : Out :=
  match s.eng.flights.find? (fun r => r.seq == s.arg 0) with
  | none => .next s
  | some r =>
    if !s.ctxTakes r.ctx || s.flightWaits r || s.backOwed r then .next s
    else
      let s1 := { s with eng := { s.eng with flights := s.eng.flights.filter (fun x => x.seq != r.seq) } }
      let land (q : TaskRec) : State := match (s1.countRecord q).inboxPut q with
        | (some s2, _) => s2
        | (none, _) => (s1.inboxPut q).2.holdFlight r
      let wait : State :=
        if 256 ≤ s.frontOf r.site.die then s
        else
          let (n, s2) := (s1.countRecord r).fresh
          { s2 with eng := { s2.eng with front := s2.eng.front ++ [{ r with seq := n }] } }
      match r.mail with
      | none => .next (land r)
      | some (lid, n) =>
        match s.classPlace r.ctx lid n with
        | .placed site => .next (if s.frontHolds r.ctx r.mail then wait else land { r with site := site })
        | .ended => .next ((s1.countRecord r).rejectRec r 2)
        | .waiting => .next wait

/-- MAILBOX_ACCEPT: the oldest record arg 0 that a front end holds for its class is accepted once the class is placed. -/
def execMailboxAccept (s : State) : Out :=
  match s.eng.front.find? (fun r => r.seq == s.arg 0) with
  | none => .next s
  | some r =>
    let first := (s.eng.front.find? (fun x => x.mail == r.mail && x.ctx == r.ctx)).any (fun x => x.seq == r.seq)
    if !s.ctxTakes r.ctx || !first then .next s
    else
      let s1 := { s with eng := { s.eng with front := s.eng.front.filter (fun x => x.seq != r.seq) } }
      match r.mail with
      | none => .next s
      | some (lid, n) =>
        match s.classPlace r.ctx lid n with
        | .placed site => match s1.inboxPut { r with site := site } with
          | (some s2, _) => .next s2
          | (none, s2) => .next { s2 with eng := { s2.eng with front := s.eng.front } }
        | .ended => .next (s1.rejectRec r 2)
        | .waiting => .next s

/-! Spilled records (12 R302, R303, 24 R463). -/

/-- The read of a poisoned slot, or of the counts beside it, is an engine fault, held until it is resumed. -/
def State.slotFault (s : State) (c : Ctx) (x : Spill) (pa : Nat) : State :=
  if c.efs.any (fun e => e.ref == .record x.seq) then s
  else (s.engFault c.num 7 6 1 pa (siteWord x.site 0x7F) (.record x.seq)).1

/-- SPILL_RETURN: at cluster arg 1 of die arg 0 the oldest spilled record returns into a free entry; with arg 2 not 0, the CNI
meets the poison of the slot of record arg 2 for an INBOXQ.take. -/
def execSpillReturn (s : State) : Out :=
  let site : Site := ⟨s.arg 0, s.arg 1⟩
  let here := s.eng.spill.filter (fun x => x.site == site && !x.isEvent && s.ctxTakes x.ctx &&
    !(s.ctx? x.ctx).any (fun c => c.saved.isSome))
  let pick := if s.arg 2 = 0 then (sortBy (fun x => x.seq) here).head? else here.find? (fun x => x.seq == s.arg 2)
  match pick with
  | none => .next s
  | some x =>
    match s.ctx? x.ctx, x.item with
    | some c, .rec_ r =>
      let pa := c.slotPa x
      match s.slotBad? c x with
      | some bad => .next (s.slotFault c x bad)
      | none =>
      if s.arg 2 ≠ 0 || 60 ≤ s.sharedUsed site || c.efs.any (fun e => e.ref == .record x.seq) then .next s
      else
        let (ws, s1) := s.physReadWords pa 8
        let r1 := { r with words := ws, seq := x.seq }
        let ended : Bool := match r.mail with
          | some (lid, n) => s.classPlace r.ctx lid n == .ended
          | none => false
        .next (if ended then (s1.leaveSlot c x).rejectRec r1 2 else (s1.enterInbox r1).leaveSlot c x)
    | _, _ => .next s

/-! Dispatch (12 R299, R303, R304). -/

/-- A record that starts nothing (12 R299). -/
def State.malformed (s : State) (r : TaskRec) : Bool :=
  if r.fault then false
  else
    let f := recFields r.words
    (!f.mig && (f.jobm != 0 || f.top != 0)) || decide (5 ≤ f.gcode) || (!f.group && f.gcode != 0) || (f.mig && f.group) ||
    decide (64 ≤ f.theJob) || !s.jobOpen r.ctx f.theJob

/-- Takes a record out of the inbox. -/
def State.takeInbox (s : State) (r : TaskRec) : State :=
  { s with eng := { s.eng with inbox := s.eng.inbox.filter (fun x => x.seq != r.seq) } }

/-- A tray takes no more records: it is full or its timer has reached 0 (12 R304). -/
def Tray.closed (t : Tray) (clk : Nat) : Bool := t.full || (!t.recs.isEmpty && decide (t.deadline ≤ clk))

def State.trayFor (s : State) (r : TaskRec) : Option Tray :=
  s.eng.trays.find? (fun t => t.site == r.site && t.ctx == r.ctx && t.key == (recFields r.words).entry)

/-- A lane task joins a tray. -/
def State.joinTray (s : State) (t : Tray) (r : TaskRec) : State :=
  let add (u : Tray) : Tray :=
    { u with recs := u.recs ++ [r], deadline := if u.recs.isEmpty then s.clk + u.timer else u.deadline,
             full := decide (u.size ≤ u.recs.length + 1) }
  let s1 := s.takeInbox r
  ({ s1 with eng := { s1.eng with trays := updWhere (fun u => u.site == t.site && u.num == t.num) add s1.eng.trays } }).wakeWfi
    r.ctx (some r.site) 0

/-- The priority at which a record is dispatched: engine-fault records have 0 (10 R256). -/
def TaskRec.prio (r : TaskRec) : Nat := if r.fault then 0 else (recFields r.words).prio

/-- A group that a cluster may start for records: one record's, or a full tray's. -/
inductive Cand where
  | one (r : TaskRec)
  | tray (t : Tray)
deriving DecidableEq, Repr

def Cand.recs : Cand → List TaskRec
  | .one r => [r]
  | .tray t => t.recs

/-- Its priority, that of its most urgent record (12 R304), and the age of its oldest record. -/
def Cand.prio (c : Cand) : Nat := (c.recs.map (·.prio)).foldl min 3
def Cand.age (c : Cand) : Nat := ((c.recs.map (·.seq)).foldl (fun a b => match a with | none => some b | some x => some (min x b)) none).getD 0

/-- The cluster's dispatch queue and full trays: the highest priority first, oldest first within a level (12 R303). -/
def State.candidates (s : State) (site : Site) : List Cand :=
  let rs := s.eng.inbox.filter (fun r => r.site == site && r.mail.isNone && s.mayPlace r.ctx)
  let ts := s.eng.trays.filter (fun t => t.site == site && t.closed s.clk && !t.recs.isEmpty && s.mayPlace t.ctx)
  sortBy (fun c => c.prio) (sortBy (fun c => c.age) (rs.map .one ++ ts.map .tray))

/-- A record with EXCL waits while another EXCL group of its context runs on the cluster (12 R303). -/
def State.exclWaits (s : State) (site : Site) (rs : List TaskRec) : Bool :=
  rs.any (fun r => (recFields r.words).excl && s.groups.any (fun g => g.ctx == r.ctx && g.site == site && g.excl))

def TaskRec.size (r : TaskRec) : Nat :=
  let f := recFields r.words
  if f.group then (sizeOfCode f.gcode).getD 1 else 1

/-- The group of a record can never fit its shell (10 R270). -/
def State.tooLarge (s : State) (r : TaskRec) : Bool :=
  (s.ctx? r.ctx).any (fun c => decide (c.desc.shellSize < aloneNeed r.size 1 (r.size * unitsOf (s.recScratch [r]))))

/-- A tray after its group is placed. -/
def State.emptyTray (s : State) (t : Tray) : State :=
  { s with eng := { s.eng with
    trays := updWhere (fun u => u.site == t.site && u.num == t.num) (fun u => { u with recs := [], full := false }) s.eng.trays } }

/-- The cluster's next placement is the launch classes' turn (12 R305). -/
def State.recTurnTaken (s : State) (site : Site) : State := { s with eng := { s.eng with turns := s.eng.turns.filter (· ≠ site) } }

/-- Starts the group of a candidate; none while it does not fit. -/
def State.startCand (s : State) (site : Site) (c : Cand) : Option State :=
  if s.exclWaits site c.recs then none
  else (match c with
    | .one r => (s.takeInbox r).placeRecs site r.size (recFields r.words).group [r]
    | .tray t => (s.placeRecs site t.size false t.recs).map (fun (s1 : State) => s1.emptyTray t)).map
    (fun (s1 : State) => s1.recTurnTaken site)

/-- The tray a record goes to: lane tasks only. -/
def State.trayOf? (s : State) (r : TaskRec) : Option Tray := if (recFields r.words).group || r.fault then none else s.trayFor r

/-- The candidate that starts a group next: behind it no group starts (12 R303). -/
def State.headCand (s : State) (site : Site) : Option Cand :=
  (s.candidates site).find? (fun c => match c with
    | .one r => !s.malformed r && (s.trayOf? r).isNone
    | .tray _ => true)

/-- A record's group fits on a cluster now. -/
def State.recFits (s : State) (site : Site) : Bool := (s.headCand site).any (fun c => (s.startCand site c).isSome)

/-- A class of some launch fits, and goes to the cluster. -/
def State.classFits (s : State) (site : Site) : Bool :=
  s.ctxs.any (fun c => s.mayPlace c.num && c.launches.any (fun l => !l.waiting &&
    (s.launchFit c l site.die).any (fun x => x.2.1 == site)))

/-- The two sources of placements take turns at a cluster where both fit (12 R305). -/
def State.recTurn (s : State) (site : Site) : Bool := s.eng.turns.contains site || !s.classFits site
def State.classTurn (s : State) (site : Site) : Bool := !s.eng.turns.contains site || !s.recFits site

/-- The first candidate that can move: a malformed record is rejected, a lane task joins its tray, and the head starts its group;
behind a head that cannot start only lane tasks go on to trays. -/
def State.dispatchFirst (s : State) (site : Site) (blocked : Bool) : List Cand → State
  | [] => s
  | .tray _ :: rest => State.dispatchFirst s site true rest
  | .one r :: rest =>
    if s.malformed r then (s.takeInbox r).rejectRec r 1
    else
      match s.trayOf? r with
      | some t => if t.closed s.clk then State.dispatchFirst s site blocked rest else s.joinTray t r
      | none =>
        if blocked then State.dispatchFirst s site true rest
        else if s.tooLarge r then (s.takeInbox r).rejectRec r 4
        else match (if s.recTurn site then s.startCand site (.one r) else none) with
          | some s1 => s1
          | none => State.dispatchFirst s site true rest

/-- DISPATCH at cluster arg 1 of die arg 0. -/
def execDispatch (s : State) : Out :=
  let site : Site := ⟨s.arg 0, s.arg 1⟩
  .next (s.dispatchFirst site false (s.candidates site))

/-- PLACEMENT: arg 0 says what is placed. 0: the first fitting class of launch arg 2 of context arg 1 on die arg 3; 1: the group of
full tray arg 3 of cluster arg 2 of die arg 1, when it is the cluster's next; 2: the next part of the restore of context arg 1. -/
def execPlacement (s : State) : Out :=
  match s.arg 0 with
  | 0 =>
    match s.ctx? (s.arg 1) with
    | none => .next s
    | some c =>
      match c.launch? (s.arg 2) with
      | none => .next s
      | some l =>
        match s.launchFit c l (s.arg 3) with
        | none => .next s
        | some (lin, site, grants) =>
          .next (if s.mayPlace c.num && !l.waiting && s.classTurn site then s.placeLaunch c l lin site grants else s)
  | 1 =>
    let site : Site := ⟨s.arg 1, s.arg 2⟩
    match s.headCand site with
    | some (.tray t) => .next (if t.num = s.arg 3 && s.recTurn site then (s.startCand site (.tray t)).getD s else s)
    | _ => .next s
  | _ =>
    match s.ctx? (s.arg 1) with
    | none => .next s
    | some c => .next (if s.mayPlace c.num then s.restoreStep c else s)

/-- TRAY_TIMER: the timer of tray arg 2 of cluster arg 1 of die arg 0 has reached 0. -/
def execTrayTimer (s : State) : Out :=
  let site : Site := ⟨s.arg 0, s.arg 1⟩
  let hit (t : Tray) : Bool := t.site == site && t.num == s.arg 2 && !t.recs.isEmpty && decide (t.deadline ≤ s.clk) && s.mayPlace t.ctx
  .next { s with eng := { s.eng with trays := updWhere hit (fun t => { t with full := true }) s.eng.trays } }

/-! POST (12 R307). -/

/-- Where a POST sends its record: a status, or the cluster and the mailbox. -/
inductive PostTo where
  | bad (status : Nat)
  | to_ (site : Site) (mail : Option (Nat × Nat))
deriving DecidableEq, Repr

def Launch.postTo (l : Launch) (cls stg lid : Nat) (st : Nat) (here : Nat → Nat → Option Site) : PostTo :=
  match l.linear? cls stg with
  | none => .bad st
  | some n => .to_ ((here lid n).getD ⟨l.dieOf n, 0⟩) (some (lid, n))

def State.postTarget (s : State) (g : Group) (l : Nat) (w : Word) : PostTo :=
  let x := g.lane l
  let grid := s.gridOf g l
  let here (lid n : Nat) : Option Site := (s.classAt? g.ctx lid n).map (·.site)
  let cls := if x.idClass = 2 ^ 48 - 1 then 0 else x.idClass
  match bitsAt w 62 2 with
  | 0 => if bitsAt w 7 55 ≠ 0 then .bad 2 else .to_ ⟨bitsAt w 0 3, bitsAt w 3 4⟩ none
  | 1 =>
    if bitsAt w 2 60 ≠ 0 || bitsAt w 0 2 = 3 then .bad 2
    else
      match grid with
      | none => .bad 1
      | some la =>
        let r := la.routes.getD x.idStage ⟨none, none⟩
        match (match bitsAt w 0 2 with | 0 => r.next | 1 => r.prev | _ => some x.idStage) with
        | none => .bad 1
        | some stg => la.postTo cls stg la.lid 1 here
  | 2 =>
    if bitsAt w 54 8 ≠ 0 then .bad 2
    else
      match grid with
      | none => .bad 3
      | some la => la.postTo (bitsAt w 0 48) (bitsAt w 48 6) la.lid 3 here
  | _ => .bad 2

/-- The front end has room for a mailbox record of a class not placed (12 R301). -/
def State.frontRoom (s : State) (ctx : Nat) (site : Site) (mail : Option (Nat × Nat)) : Bool :=
  match mail with
  | none => true
  | some (lid, n) =>
    match s.classPlace ctx lid n with
    | .waiting => decide (s.frontOf site.die + (s.eng.flights.filter (fun r => r.mail.isSome && r.site.die == site.die)).length < 256)
    | _ => true

def State.postLane (s : State) (gid l : Nat) (d a b : XReg) : LRes Unit :=
  match s.group? gid with
  | none => .hold
  | some g =>
    let x := g.lane l
    let addr := x.rx a
    let put (t : State) (v : Nat) : LRes Unit := .ok () (t.modLane gid l (fun y => y.wx d (BitVec.ofNat 64 v)))
    if addr.toNat % 64 ≠ 0 then .trap ⟨2, 0, addr, false⟩
    else
      match s.postTarget g l (x.rx b) with
      | .bad v => put s v
      | .to_ site mail =>
        if !s.frontRoom g.ctx site mail then .hold
        else
          (s.load16s gid l addr 1 4).bind (fun us s1 =>
            let ws := wordsOf16 us
            let job := (recFields ws).theJob
            let y := s1.lane gid l
            let r : TaskRec :=
              { words := ws, ctx := g.ctx, pts := y.pts, idStage := y.idStage, idLogical := y.idLogical, mail := mail, fault := false,
                tag := 0, site := site, seq := 0, issuer := some (gid, l), src := some g.site }
            put ((s1.count g.ctx job (cniOf g.site) 1 0).sendRecord r) 0)

def execPost (g : Guard) (d a b : XReg) (s : State) : Out :=
  partWord g (fun s gid l => s.postLane gid l d a b) s

/-! TRAYCFG (12 R308). -/

/-- The status of TRAYCFG and, when it is DONE, the tray to hold, none for a release. -/
def State.trayStatus (s : State) (g : Group) (w key : Word) : Nat × Option Tray :=
  let n := bitsAt w 0 4
  let t := s.eng.trays.find? (fun t => t.site == g.site && t.num == n)
  let k := key.toNat
  let rsv := bitsAt w 4 4 ≠ 0 || bitsAt w 11 5 ≠ 0 || bitsAt w 32 32 ≠ 0
  let code := bitsAt w 8 3
  let bad := rsv || (k ≠ 0 && (code = 0 || 4 < code || bitsAt w 16 16 = 0 || k % 8 ≠ 0))
  if bad then (3, none)
  else if t.any (fun t => t.ctx != g.ctx) then (1, none)
  else if t.any (fun t => !t.recs.isEmpty) then (2, none)
  else if k = 0 then (0, none)
  else if s.eng.trays.any (fun t => t.site == g.site && t.num != n && t.ctx == g.ctx && t.key == k) then (4, none)
  else (0, some { site := g.site, num := n, ctx := g.ctx, key := k, size := (sizeOfCode code).getD 4, timer := bitsAt w 16 16,
                  recs := [], deadline := 0, full := false })

def State.trayLane (s : State) (gid l : Nat) (d a b : XReg) : State :=
  match s.group? gid with
  | none => s
  | some g =>
    let x := g.lane l
    let w := x.rx a
    let (v, t) := s.trayStatus g w (x.rx b)
    let s1 := if v ≠ 0 then s
      else
        let rest := s.eng.trays.filter (fun u => !(u.site == g.site && u.num == bitsAt w 0 4))
        { s with eng := { s.eng with trays := rest ++ t.toList } }
    s1.modLane gid l (fun y => y.wx d (BitVec.ofNat 64 v))

def execTrayCfg (g : Guard) (d a b : XReg) (s : State) : Out :=
  laneWord g (fun s gid l => .ok () (s.trayLane gid l d a b)) s

/-! INBOXQ (12 R309). -/

/-- A record of a mailbox: an inbox entry, or a spill slot with the words it holds now. -/
structure MailItem where
  rec_ : TaskRec
  slot : Option Spill
deriving DecidableEq, Repr

/-- The mailbox of a class, oldest first. -/
def State.mailbox (s : State) (k : Klass) : List MailItem :=
  (s.eng.inbox.filter (fun r => r.mailOf k)).map (fun r => ⟨r, none⟩) ++
  (sortBy (fun x => x.seq) s.eng.spill).filterMap (fun x => match x.item with
    | .rec_ r => if r.mailOf k then
        some ⟨{ r with words := match s.ctx? x.ctx with
          | some c => (s.physReadWords (c.slotPa x) 8).1
          | none => r.words }, some x⟩
      else none
    | .ev _ => none)

/-- The space, bound and alignment checks of x[a], which names a scratchpad. -/
def padAddress (s : State) (g : Group) (l : Nat) (addr : Word) (n : Nat) : Option TrapInfo :=
  if addr.toNat / 2 ^ 56 = 0 then some ⟨4, 1, addr, false⟩
  else match resolve s g l addr n n with
    | .error t => some t
    | .ok _ => none

/-- The oldest record of the highest allowed priority. -/
def pickMail (mask : Nat) (items : List MailItem) : Option MailItem :=
  (sortBy (fun i => i.rec_.prio) (items.filter (fun i => mask == 0 || mask / 2 ^ i.rec_.prio % 2 == 1))).head?

def State.takeLane (s : State) (gid l : Nat) (d a b : XReg) : LRes Unit :=
  match s.group? gid with
  | none => .hold
  | some g =>
    let x := g.lane l
    let put (t : State) (v : Nat) : LRes Unit := .ok () (t.modLane gid l (fun y => y.wx d (BitVec.ofNat 64 v)))
    match padAddress s g l (x.rx a) 64 with
    | some t => .trap t
    | none =>
      if bitsAt (x.rx b) 4 60 ≠ 0 then put s 3
      else
        match (s.klass? g.cls).bind (fun k => pickMail (bitsAt (x.rx b) 0 4) (s.mailbox k)) with
        | none => put s 1
        | some it =>
          let r := it.rec_
          let c? := s.ctx? r.ctx
          if (match it.slot, c? with | some sl, some c => (s.slotBad? c sl).isSome | _, _ => false) then .hold
          else
            let f := recFields r.words
            let bad := s.malformed r
            let s0 := s.modLane gid l (fun y => { y with pts := max y.pts r.pts })
            (s0.store16s gid l (x.rx a) (units16 r.words)).bind (fun _ s1 =>
              let s2 := match it.slot, c? with
                | some sl, some c => s1.leaveSlot c sl
                | _, _ => s1.takeInbox r
              let s3 := if bad then s2.reject r.ctx g.site r.words 1 else s2
              put (s3.count r.ctx f.theJob (cniOf g.site) 0 1) ((if bad then 2 else 0) + 4 * f.prio + 2 ^ 8 * (f.theJob % 256)))

def execInboxqTake (g : Guard) (d a b : XReg) (s : State) : Out :=
  partWord g (fun s gid l => s.takeLane gid l d a b) s

/-- The counts of a class's mailbox by priority. -/
def State.mailCounts (s : State) (g : Group) : Word :=
  match s.klass? g.cls with
  | none => 0
  | some k =>
    let box := s.mailbox k
    let n (p : Nat) : Nat := min 65535 (box.filter (fun i => i.rec_.prio == p)).length
    BitVec.ofNat 64 (n 0 + 2 ^ 16 * n 1 + 2 ^ 32 * n 2 + 2 ^ 48 * n 3)

def execInboxqCount (g : Guard) (d : XReg) (s : State) : Out := groupRead g d (fun h _ => s.mailCounts h) s

/-! Counter decrements (05 R132, 12 R295). -/

/-- Makes the decrement numbered `idx`, of a launch counter or of a successor counter. -/
def State.decrement (s : State) (idx : Nat) (launch : Bool) : State :=
  match s.eng.decrements.find? (fun d => d.idx == idx && d.launch == launch) with
  | none => s
  | some d =>
    if !s.ctxRuns d.ctx || d.held ≠ 0 || s.cutOff d.ctx d.addr then s
    else
      let va := d.addr / 8 * 8
      let a : Actor := ⟨d.ctx, false, d.pts, ⟨d.site % 8, d.site / 8 % 16⟩⟩
      let hold (t : State) (tag : Nat) : State :=
        { t with eng := { t.eng with decrements := updWhere (fun x => x.idx == idx) (fun x => { x with held := tag }) t.eng.decrements } }
      match s.engTranslate a va needRW with
      | (.ok _, s1) =>
        match s1.engRead a (.glob va) 8 with
        | (.ok bs, s2) =>
          let (_, s3) := s2.engWrite a (.glob va) (toBytes 8 ((fromBytes bs + 2 ^ 64 - 1) % 2 ^ 64))
          { s3 with eng := { s3.eng with decrements := s3.eng.decrements.filter (fun x => x.idx != idx) } }
        | (_, s2) =>
          let (s3, tag) := s2.engFault d.ctx 3 6 1 va d.site (.decrement idx)
          hold s3 tag
      | (r, s1) =>
        match engErr r 2 va with
        | some (.fault cause sub addr) =>
          let (s2, tag) := s1.engFault d.ctx 3 cause sub addr d.site (.decrement idx)
          hold s2 tag
        | _ => s1.engViolate d.ctx 3 va d.site

/-- SUCCESSOR_DECREMENT: the decrement arg 0 of a retired record's successor counter. -/
def execSuccessorDecrement (s : State) : Out := .next (s.decrement (s.arg 0) false)

/-- LAUNCH_COUNTER_DECREMENT: the decrement arg 0 of a DONEADDR. -/
def execLaunchCounterDecrement (s : State) : Out := .next (s.decrement (s.arg 0) true)

end Sys2Proof.Machine
end

