-- ==== Sys2Proof/Machine/Ring.lean ====
section
/-!
DEFINITION. Tile rings: attachment, the chart, injection, encounters, movement, laps and misses (15 R351 to R371).
-/

namespace Sys2Proof.Machine

open Sys2Proof

def State.ring? (s : State) (ctx num : Nat) : Option Ring := s.rings.find? (fun r => r.ctx == ctx && r.num == num)

def State.modRing (s : State) (ctx num : Nat) (f : Ring → Ring) : State :=
  { s with rings := updWhere (fun r => r.ctx == ctx && r.num == num) f s.rings }

def Ring.modTile (r : Ring) (tid : Nat) (f : Tile → Tile) : Ring := { r with tiles := updWhere (fun t => t.tid == tid) f r.tiles }

def Ring.tile? (r : Ring) (tid : Nat) : Option Tile := r.tiles.find? (fun t => t.tid == tid)

def Ring.slotSize (r : Ring) : Nat := 2 ^ r.lslot

/-- chart(c, w) (15 R355). -/
def Ring.named (r : Ring) (c w : Nat) : Bool := (r.chart.getD c 0) / 2 ^ w % 2 == 1

/-- The tiles of the other family that a tile's row or column names. -/
def Ring.partners (r : Ring) (t : Tile) : List Nat :=
  if t.ccw then (List.range r.ncw).filter (fun c => r.named c t.num) else (List.range r.nccw).filter (fun w => r.named t.num w)

/-- A tile's DONE covers every named pair. -/
def Ring.covered (r : Ring) (t : Tile) : Bool := (r.partners t).all t.doneBits.contains

/-- The header of a tile (15 R353). -/
def Tile.header (t : Tile) : List Byte :=
  let done := (t.doneBits.dedup.map (fun j => 2 ^ j)).foldl (· + ·) 0
  toBytes 8 (t.num % 2 ^ 16 + 2 ^ 16 * t.ccw.toNat + 2 ^ 24 * (t.lap % 256) + 2 ^ 32 * (t.pins % 256) + 2 ^ 40 * (t.homest % 256) +
    2 ^ 48 * (t.len % 2 ^ 16)) ++ toBytes 8 t.home.toNat ++ toBytes 32 done ++ toBytes 16 0

/-- The scratchpad place of a slot (15 R352). -/
def Ring.slotLoc (r : Ring) (station slot : Nat) : Option Loc :=
  (r.stations[station]?).map (fun st => .pad st.kid (st.pbase + slot) st.soff)

def Ring.siteOf (r : Ring) (station : Nat) : Site := ((r.stations[station]?).map (·.site)).getD ⟨0, 0⟩

/-- The ring unit's accesses. -/
def Ring.actor (r : Ring) (station : Nat) : Actor := ⟨r.ctx, false, 0, r.siteOf station⟩

/-- Its writes of a tile follow the accesses of the tile's issuer and the tile's earlier writes (09 R236, R243). -/
def Ring.writer (r : Ring) (t : Tile) : Actor := { r.actor t.station with pts := t.pts }

/-- Bytes in units of 16. -/
def chunks16 (bs : List Byte) : Nat → List (List Byte)
  | 0 => []
  | n + 1 => if bs.isEmpty then [] else bs.take 16 :: chunks16 (bs.drop 16) n

/-- Writes a header's copy into its slot. -/
def State.putHeader (s : State) (r : Ring) (t : Tile) : State :=
  match r.slotLoc t.station t.slot with
  | none => s
  | some loc => (s.engPut (r.writer t) loc 16 (chunks16 t.header 4)).2

/-- Changes the header of a tile, in the ring unit and in its slot. -/
def State.setHeader (s : State) (ctx num tid : Nat) (f : Tile → Tile) : State :=
  let s1 := s.modRing ctx num (fun r => r.modTile tid f)
  match s1.ring? ctx num with
  | none => s1
  | some r => match r.tile? tid with
    | some t => s1.putHeader r t
    | none => s1

/-! RWAIT (15 R367). -/

/-- The largest timestamp a write has taken so far: what an acquire at .sys makes later accesses follow (log 38). -/
def State.maxTs (s : State) : Nat :=
  ((s.mem.homes.map (·.wts)) ++ (s.mem.copies.map (·.wts)) ++
    ((s.classes.flatMap (·.pads)).flatMap (fun p => p.ts.map (·.wts)))).foldl max 0

/-- What RWAIT returns now, none while it waits. -/
def State.rwaitStatus (s : State) (ctx num count : Nat) : Option Nat :=
  match s.ring? ctx num with
  | none => some 4
  | some r =>
    if r.st = 3 then some 7
    else if count ≤ r.retired && r.injected = r.retired then some (if r.lost ≠ 0 then 8 else 0)
    else none

/-- RWAIT ends in a lane: its status, and an acquire at .sys whatever it is. -/
def Lane.rwaitDone (l : Lane) (d : XReg) (st ts : Nat) : Lane := { l.wx d (BitVec.ofNat 64 st) with pts := max l.pts ts }

/-- Wakes the lanes whose RWAIT has its answer. -/
def State.wakeRwait (s : State) : State :=
  s.wakeLanes (fun g _ _ w => match w.kind with
    | .rwait num count => (s.rwaitStatus g.ctx num count).map (fun v => fun y => y.rwaitDone w.d v s.maxTs)
    | _ => none)

/-- A register that holds only a ring number. -/
def ringNum (w : Word) : Option Nat := if w.toNat < 16 then some w.toNat else none

def execRwait (g : Guard) (d a b : XReg) (s : State) : Out :=
  parkWord g (fun s gid l =>
    let x := s.lane gid l
    let ctx := ((s.group? gid).map (·.ctx)).getD 0
    let now (v : Nat) : LRes Unit := .ok () (s.modLane gid l (fun y => y.rwaitDone d v s.maxTs))
    match ringNum (x.rx a) with
    | none => now 4
    | some n =>
      match s.rwaitStatus ctx n (x.rx b).toNat with
      | some v => now v
      | none => .ok () (s.modLane gid l (fun y => y.startWait ⟨.rwait n (x.rx b).toNat, d, none, s.clk, false⟩))) s

/-! RQRY (15 R368). -/

def Ring.stateWord (r : Ring) : Word :=
  BitVec.ofNat 64 (r.st + 2 ^ 8 * (r.stations.length - 1) + 2 ^ 16 * r.laps + 2 ^ 24 * r.lslot)

/-- A query of a ring in each active lane. -/
def ringQuery (gd : Guard) (d a : XReg) (f : Ring → Word) (s : State) : Out :=
  groupRead gd d (fun g l =>
    match ringNum ((g.lane l).rx a) with
    | none => -1
    | some n => ((s.ring? g.ctx n).map f).getD 0) s

def execRqryState (g : Guard) (d a : XReg) (s : State) : Out := ringQuery g d a (fun r => r.stateWord) s
def execRqryInj (g : Guard) (d a : XReg) (s : State) : Out := ringQuery g d a (fun r => BitVec.ofNat 64 r.injected) s
def execRqryRet (g : Guard) (d a : XReg) (s : State) : Out := ringQuery g d a (fun r => BitVec.ofNat 64 r.retired) s
def execRqryEnc (g : Guard) (d a : XReg) (s : State) : Out := ringQuery g d a (fun r => BitVec.ofNat 64 r.encounters) s
def execRqryMiss (g : Guard) (d a : XReg) (s : State) : Out := ringQuery g d a (fun r => BitVec.ofNat 64 r.missed) s
def execRqryLost (g : Guard) (d a : XReg) (s : State) : Out := ringQuery g d a (fun r => BitVec.ofNat 64 r.lost) s

/-! RATT (15 R351, R363). -/

/-- A station entry of a descriptor. -/
structure StationDesc where
  cls : Nat
  stg : Nat
  pbase : Nat
  soff : Nat
  rsv : Nat
deriving DecidableEq, Repr

def stationDesc (v : Nat) : StationDesc :=
  ⟨fieldAt v 0 48, fieldAt v 48 6, fieldAt v 56 8, fieldAt v 64 32, fieldAt v 54 2 + fieldAt v 96 32⟩

/-- A descriptor's header as its bytes give it. -/
def ringOf (ctx : Nat) (v : Nat) : Ring :=
  { ctx := ctx, num := fieldAt v 0 8, st := 1, lslot := fieldAt v 16 8, laps := fieldAt v 24 8, gcode := fieldAt v 32 8,
    prio := fieldAt v 40 8, job := fieldAt v 48 8, task := fieldAt v 64 64, miss := fieldAt v 128 64,
    arg := BitVec.ofNat 64 (fieldAt v 192 64), mlist := fieldAt v 256 64, mcap := fieldAt v 320 32, stations := [], chart := [],
    ncw := 0, nccw := 0, tiles := [], encs := [], seenCw := [], seenCcw := [], injected := 0, retired := 0, encounters := 0,
    missed := 0, lost := 0, order := 0 }

/-- Reserved fields and limits of the header (15 R351). -/
def Ring.badHeader (r : Ring) (v nst : Nat) : Bool :=
  decide (16 ≤ r.num) || decide (nst < 2) || decide (128 < nst) || decide (r.lslot < 10) || decide (15 < r.lslot) ||
  decide (r.laps < 3) || decide (5 ≤ r.gcode) || decide (4 ≤ r.prio) || decide (64 ≤ r.job) || fieldAt v 56 8 != 0 ||
  r.task % 8 != 0 || r.miss % 8 != 0 || r.mlist / 2 ^ 56 != 0 || r.mlist % 16 != 0 || decide (2 ^ 24 < r.mcap) ||
  fieldAt v 352 160 != 0

def StationDesc.bad (e : StationDesc) (slot : Nat) : Bool := e.rsv != 0 || decide (80 < e.pbase) || e.soff % slot != 0

/-- The stations of a descriptor, none when a class is not placed or two share a cluster. -/
def State.stationsOf (s : State) (g : Group) (l : Nat) (es : List StationDesc) : Option (List Station) :=
  match s.gridOf g l with
  | none => none
  | some la =>
    let ks := es.map (fun e => (la.linear? e.cls e.stg).bind (fun n => (s.classAt? g.ctx la.lid n).map (fun k =>
      (⟨k.kid, k.site, e.pbase, e.soff⟩ : Station))))
    if ks.any (·.isNone) then none
    else
      let st := ks.filterMap id
      if (st.map (·.site)).dedup.length = st.length then some st else none

/-- NO_ROOM of 15 R363. The rings of a saved context are on no cluster (15 R370). -/
def State.ringRoom (s : State) (r : Ring) (st : List Station) : Bool :=
  st.all (fun t =>
    ((s.klass? t.kid).any (fun k => decide (t.pbase + 16 ≤ k.pads.length) &&
      ((k.pads.drop t.pbase).take 16).all (fun p => decide (t.soff + r.slotSize ≤ p.size)))) &&
    decide ((s.rings.filter (fun q => q.stations.any (fun u => (s.klass? u.kid).any (fun k => k.site == t.site)))).length < 4)) &&
  decide (2 * r.slotSize ≤ 1024 * ((s.opener? r.ctx r.job).map (·.tscratch)).getD 0)

def State.rattLane (s : State) (gid l : Nat) (d a : XReg) : LRes Unit :=
  match s.group? gid with
  | none => .hold
  | some g =>
    let addr := (g.lane l).rx a
    let put (t : State) (v : Nat) : LRes Unit := .ok () (t.modLane gid l (fun y => y.wx d (BitVec.ofNat 64 v)))
    if addr.toNat / 2 ^ 56 ≠ 0 then .trap ⟨4, 1, addr, false⟩
    else if addr.toNat % 64 ≠ 0 then .trap ⟨2, 0, addr, false⟩
    else
      (s.load16s gid l addr 1 4).bind (fun us s1 =>
        let v := ofBytes (us.flatMap (bytesOf 16))
        let r := ringOf g.ctx v
        let nst := fieldAt v 8 8
        if r.badHeader v nst then put s1 2
        else
          (s1.load16s gid l (addr + 64) 1 nst).bind (fun es s2 =>
            let ds := es.map stationDesc
            if ds.any (fun e => e.bad r.slotSize) then put s2 2
            else if (s2.ring? g.ctx r.num).isSome then put s2 1
            else match s2.stationsOf g l ds with
              | none => put s2 3
              | some st =>
                if s2.ringRoom r st then put { s2 with rings := s2.rings ++ [{ r with stations := st }] } 0 else put s2 2))

def execRatt (g : Guard) (d a : XReg) (s : State) : Out := laneWord g (fun s gid l => s.rattLane gid l d a) s

/-- RATT.det in one lane. -/
def State.detLane (s : State) (gid l : Nat) (d a : XReg) : State :=
  match s.group? gid with
  | none => s
  | some g =>
    let put (t : State) (v : Nat) : State := t.modLane gid l (fun y => y.wx d (BitVec.ofNat 64 v))
    match (ringNum ((g.lane l).rx a)).bind (fun n => s.ring? g.ctx n) with
    | none => put s 4
    | some r =>
      if r.injected = r.retired || r.st = 3 then
        put ({ s with rings := s.rings.filter (fun q => !(q.ctx == g.ctx && q.num == r.num)) }.wakeRwait) 0
      else put s 1

def execRattDet (g : Guard) (d a : XReg) (s : State) : Out := laneWord g (fun s gid l => .ok () (s.detLane gid l d a)) s

/-! RMAP (15 R365). -/

def State.rmapLane (s : State) (gid l : Nat) (d a b : XReg) : LRes Unit :=
  match s.group? gid with
  | none => .hold
  | some g =>
    let x := g.lane l
    let addr := x.rx a
    let w := x.rx b
    let put (t : State) (v : Nat) : LRes Unit := .ok () (t.modLane gid l (fun y => y.wx d (BitVec.ofNat 64 v)))
    if addr.toNat / 2 ^ 56 ≠ 0 then .trap ⟨4, 1, addr, false⟩
    else if addr.toNat % 32 ≠ 0 then .trap ⟨2, 0, addr, false⟩
    else if bitsAt w 4 4 ≠ 0 || bitsAt w 24 40 ≠ 0 then put s 2
    else
      match s.ring? g.ctx (bitsAt w 0 4) with
      | none => put s 4
      | some r =>
        if r.st = 3 then put s 4
        else if r.injected ≠ 0 then put s 1
        else
          let ncw := bitsAt w 8 8 + 1
          let nccw := bitsAt w 16 8 + 1
          (s.load16s gid l addr 1 (2 * ncw)).bind (fun us s1 =>
            let rows := (List.range ncw).map (fun c => (us.getD (2 * c) 0 + 2 ^ 128 * us.getD (2 * c + 1) 0) % 2 ^ nccw)
            put (s1.modRing g.ctx r.num (fun r => { r with st := 2, chart := rows, ncw := ncw, nccw := nccw })) 0)

def execRmap (g : Guard) (d a b : XReg) (s : State) : Out := laneWord g (fun s gid l => s.rmapLane gid l d a b) s

/-! RINJ (15 R361, R364). -/

/-- A slot of a family free at a station: neither resident nor claimed; the lowest. -/
def Ring.freeSlot (r : Ring) (station : Nat) (ccw : Bool) : Option Nat :=
  ((List.range 8).map (fun i => if ccw then i + 8 else i)).find? (fun i => !r.tiles.any (fun t => t.station == station && t.slot == i))

def Ring.family (r : Ring) (ccw : Bool) : Nat := (r.tiles.filter (fun t => t.ccw == ccw)).length

/-- The station after another in a tile's direction. -/
def Ring.nextStation (r : Ring) (t : Tile) : Nat :=
  let n := r.stations.length
  (t.station + (if t.ccw then n - 1 else 1)) % n

/-- A tile may leave its station (15 R358). -/
def Ring.mayLeave (r : Ring) (t : Tile) : Bool :=
  t.resident && t.pins == 0 && !t.dwelling && t.pending.isNone && t.missing.isEmpty && t.held == 0 && !r.covered t &&
  (r.freeSlot (r.nextStation t) t.ccw).isSome

/-- The slot an injection takes: a transfer that may start for the station takes a free slot ahead of it (15 R358, log 53). -/
def Ring.injectSlot (r : Ring) (station : Nat) (ccw : Bool) : Option Nat :=
  let comes := r.tiles.any (fun t => t.ccw == ccw && r.nextStation t == station && r.mayLeave t)
  let free := ((List.range 8).map (fun i => if ccw then i + 8 else i)).filter (fun i => !r.tiles.any (fun t => t.station == station && t.slot == i))
  (if comes then free.drop 1 else free).head?

/-- The ring, station and slot of an injection, or its status. -/
def State.rinjCheck (s : State) (g : Group) (w len : Word) : Except Nat (Ring × Nat × Nat) :=
  let ccw := bitsAt w 16 1 == 1
  let num := bitsAt w 0 16
  match s.ring? g.ctx (bitsAt w 20 4) with
  | none => .error 4
  | some r =>
    if r.st ≠ 2 || bitsAt w 17 3 ≠ 0 || bitsAt w 24 40 ≠ 0 then .error 4
    else match r.stations.findIdx? (fun t => t.site == g.site) with
      | none => .error 3
      | some st =>
        if len.toNat % 16 ≠ 0 || len.toNat < 16 || r.slotSize - 64 < len.toNat then .error 2
        else if (if ccw then r.nccw else r.ncw) ≤ num then .error 2
        else if (if ccw then r.seenCcw else r.seenCw).contains num then .error 6
        else if 8 * r.stations.length - 1 ≤ r.family ccw then .error 5
        else match r.injectSlot st ccw with
          | none => .error 5
          | some i => .ok (r, st, i)

def State.rinjLane (s : State) (gid l : Nat) (d a b c : XReg) : LRes Unit :=
  match s.group? gid with
  | none => .hold
  | some g =>
    let x := g.lane l
    let w := x.rx b
    let addr := x.rx a
    let len := x.rx c
    let put (t : State) (v : Nat) : LRes Unit := .ok () (t.modLane gid l (fun y => y.wx d (BitVec.ofNat 64 v)))
    match s.rinjCheck g w len with
    | .error v => put s v
    | .ok (r, st, slot) =>
      if addr.toNat / 2 ^ 56 ≠ 0xFC then .trap ⟨4, 1, addr, false⟩
      else match resolve s g l addr len.toNat 16 with
        | .error t => .trap t
        | .ok loc =>
          if s.loadHeld loc len.toNat || s.sourcesFull g l then .hold
          else
            let act : Actor := ⟨g.ctx, x.privS, x.pts, g.site⟩
            match s.engGather act loc 16 (len.toNat / 16) with
            | (.error _, _) => .hold
            | (.ok bs, s1) =>
              let (n, s2) := s1.fresh
              let t : Tile :=
                { tid := n, ccw := bitsAt w 16 1 == 1, num := bitsAt w 0 16, len := len.toNat, homest := st, lap := 0, pins := 0,
                  home := x.rx (XReg.succ b), doneBits := [], station := st, slot := slot, resident := false, image := bs,
                  left := false, dwelling := false, arrivedAt := 0, order := 0, pending := none, missing := [], missDone := 0,
                  issuer := some (gid, l), held := 0, pts := x.pts }
              let s3 := s2.modRing g.ctx r.num (fun r => { r with
                tiles := r.tiles ++ [t], injected := r.injected + 1,
                seenCw := if t.ccw then r.seenCw else t.num :: r.seenCw,
                seenCcw := if t.ccw then t.num :: r.seenCcw else r.seenCcw })
              put (s3.count g.ctx r.job (cniOf g.site) 1 0) 0

def execRinj (g : Guard) (d a b c : XReg) (s : State) : Out := partWord g (fun s gid l => s.rinjLane gid l d a b c) s

/-! Arrival and encounters (15 R356 to R359). -/

/-- A group task record of the ring, injected into a station's dispatch queue. -/
def State.ringRecord (s : State) (r : Ring) (site : Site) (entry tag pts : Nat) (payload : List Word) : State :=
  let w0 := entry % 2 ^ 48 + 2 ^ 48 + 2 ^ 49 * r.prio + 2 ^ 51 * r.gcode
  let t : TaskRec :=
    { words := [BitVec.ofNat 64 w0, BitVec.ofNat 64 (2 ^ 48 * r.job)] ++ payload, ctx := r.ctx, pts := pts, idStage := 0,
      idLogical := 0xFFFFFFFF, mail := none, fault := false, tag := tag, site := site, seq := 0, issuer := none, src := some site }
  (s.count r.ctx r.job (cniOf site) 1 0).sendRecord t

/-- The tag of an encounter (15 R357). -/
def encTag (station ring entry cwSlot ccwSlot ccwId cwId : Nat) : Nat :=
  cwId % 2 ^ 16 + 2 ^ 16 * (ccwId % 2 ^ 16) + 2 ^ 32 * ((ccwSlot - 8) % 8) + 2 ^ 35 * (cwSlot % 8) + 2 ^ 38 * entry +
  2 ^ 44 * ring + 2 ^ 48 * station

/-- The largest wts of a slot's lines: what the records that name it follow. -/
def State.slotTs (s : State) (r : Ring) (station slot : Nat) : Nat :=
  match r.slotLoc station slot with
  | some (.pad k m off) => match s.pad? k m with
    | some p => ((p.ts.filter (fun t => decide (off / 128 ≤ t.line) && decide (t.line ≤ (off + r.slotSize) / 128))).map (·.wts)).foldl max 0
    | none => 0
  | _ => 0

/-- One encounter of an arriving tile t with a resident tile u, with table entry e. -/
def State.encounter (s : State) (r : Ring) (t u : Tile) (e : Nat) : State :=
  let cw := if t.ccw then u else t
  let ccw := if t.ccw then t else u
  let tag := encTag t.station r.num e cw.slot ccw.slot ccw.num cw.num
  let see (num : Nat) (x : Tile) : Tile := { x with doneBits := num :: x.doneBits, pins := x.pins + 1 }
  let s1 := (s.setHeader r.ctx r.num cw.tid (see ccw.num)).setHeader r.ctx r.num ccw.tid (see cw.num)
  let enc : Encounter := { entry := e, station := t.station, tag := tag, cw := cw.tid, ccw := ccw.tid, copied := false }
  let s2 := s1.modRing r.ctx r.num (fun r => { r with encs := r.encs ++ [enc], encounters := r.encounters + 1 })
  let pts := max (s2.slotTs r t.station cw.slot) (s2.slotTs r t.station ccw.slot)
  let image := 0xFD00000000000000
  s2.ringRecord r (r.siteOf t.station) r.task (tag + 1) pts
    [r.arg, BitVec.ofNat 64 image, BitVec.ofNat 64 (image + r.slotSize), BitVec.ofNat 64 tag, cw.home, ccw.home]

/-- A free one of the 64 encounter table entries of a ring's station (15 R356). -/
def Ring.freeEntry (r : Ring) (station : Nat) : Option Nat :=
  firstFree 64 ((r.encs.filter (fun e => e.station == station)).map (·.entry))

/-- The encounter check of an arriving tile over the slots from `slots` on; it is suspended where no entry is free. -/
def State.checkPairs (s : State) (ctx num tid : Nat) : List Nat → State × Bool
  | [] => (s.modRing ctx num (fun r => r.modTile tid (fun t => { t with pending := none })), true)
  | i :: rest =>
    match s.ring? ctx num with
    | none => (s, false)
    | some r =>
      match r.tile? tid with
      | none => (s, false)
      | some t =>
        match r.tiles.find? (fun u => u.resident && u.station == t.station && u.slot == i) with
        | none => State.checkPairs s ctx num tid rest
        | some u =>
          let c := if t.ccw then u.num else t.num
          let w := if t.ccw then t.num else u.num
          if r.named c w && !t.doneBits.contains u.num && !u.doneBits.contains t.num then
            match r.freeEntry t.station with
            | none => (s.modRing ctx num (fun r => r.modTile tid (fun t => { t with pending := some i })), false)
            | some e => State.checkPairs (s.encounter r t u e) ctx num tid rest
          else State.checkPairs s ctx num tid rest

/-- The bytes of a miss entry (15 R359). -/
def missBytes (home : Word) (cw ccw ring : Nat) : List Byte :=
  toBytes 8 home.toNat ++ toBytes 2 cw ++ toBytes 2 ccw ++ toBytes 1 ring ++ toBytes 3 0

/-- Writes the miss entries a tile still owes and then posts its miss record; a fault holds the tile and the entries from the one it
met (10 R256). -/
def State.writeMisses (s : State) (r : Ring) (t : Tile) : State :=
  match t.missing with
  | [] => s
  | first :: _ =>
    let a := r.writer t
    let rec go (s : State) (ts : Nat) : List (Nat × Nat) → Nat × State × Option (Option (Nat × Nat × Nat) × Nat × Nat)
      | [] => (ts, s, none)
      | m :: rest =>
        let va := r.mlist + 16 * m.1
        match s.engWrite a (.glob va) (missBytes t.home t.num m.2 r.num) with
        | (.ok w, s1) => go s1 (max ts w) rest
        | (x, s1) => (ts, s1, some (match engErr x 2 va with | some (.fault c sb ad) => some (c, sb, ad) | _ => none, va, m.1))
    match go s t.pts (t.missing.drop t.missDone) with
    | (ts, s1, some (some (c, sb, ad), _, at_)) =>
      let (s2, tag) := s1.engFault r.ctx 4 c sb ad (siteWord (r.siteOf t.station) 0x7F) (.ring r.num)
      s2.modRing r.ctx r.num (fun r => r.modTile t.tid (fun t => { t with held := tag, missDone := at_ - first.1, pts := ts }))
    | (_, s1, some (none, va, _)) => s1.engViolate r.ctx 4 va (siteWord (r.siteOf t.station) 0x7F)
    | (ts, s1, none) =>
      let s2 := s1.modRing r.ctx r.num (fun r => r.modTile t.tid (fun t => { t with missing := [], missDone := 0 }))
      s2.ringRecord r (r.siteOf t.station) r.miss 0 ts
        [r.arg, BitVec.ofNat 64 (r.mlist + 16 * first.1), BitVec.ofNat 64 t.missing.length, BitVec.ofNat 64 r.num, 0, 0]

/-- The lap limit of a tile that has arrived at HOMEST with LAP = LAPS (15 R359). -/
def State.lapLimit (s : State) (ctx num tid : Nat) : State :=
  match s.ring? ctx num with
  | none => s
  | some r =>
    match r.tile? tid with
    | none => s
    | some t =>
      if t.station ≠ t.homest || t.lap ≠ r.laps then s
      else
        let open_ := (r.partners t).filter (fun j => !t.doneBits.contains j)
        let s1 := s.setHeader ctx num tid (fun t => { t with doneBits := open_ ++ t.doneBits })
        if t.ccw then s1
        else
          let k := min open_.length (r.mcap - r.missed)
          let miss := ((open_.take k).zipIdx).map (fun x => (r.missed + x.2, x.1))
          let s2 := s1.modRing ctx num (fun r => { r.modTile tid (fun t => { t with missing := miss }) with
            missed := r.missed + k, lost := r.lost + (open_.length - k) })
          match s2.ring? ctx num with
          | none => s2
          | some r2 => match r2.tile? tid with
            | some t2 => s2.writeMisses r2 t2
            | none => s2

/-- The slots of the other family. -/
def otherSlots (ccw : Bool) (from_ : Nat) : List Nat :=
  ((List.range 8).map (fun i => if ccw then i else i + 8)).filter (fun i => decide (from_ ≤ i))

/-- The ring unit's step for a tile, from a slot of the other family on. -/
def State.arrivalStep (s : State) (ctx num tid from_ : Nat) (ccw : Bool) : State :=
  let (s1, all) := s.checkPairs ctx num tid (otherSlots ccw from_)
  if all then s1.lapLimit ctx num tid else s1

/-- The ring's tiles move: its context runs, or completes a transfer before its boundary (15 R370). -/
def State.ringMoves (s : State) (ctx : Nat) (finish : Bool) : Bool :=
  s.ctxRuns ctx || (finish && (s.ctx? ctx).any (fun c => c.st == .preempting && !c.boundary && !c.viol))

/-- The station from which a tile in transfer comes. -/
def Ring.prevStation (r : Ring) (t : Tile) : Nat :=
  let n := r.stations.length
  (t.station + (if t.ccw then 1 else n - 1)) % n

/-- The links that a tile has crossed from its last station (17 R397). -/
def State.countTile (s : State) (r : Ring) (t : Tile) : State :=
  if t.left then s.countWay r.ctx r.job (r.siteOf (r.prevStation t)).die (r.siteOf t.station).die none false else s

/-- A tile is written into its slot and resident: its LAP, and the dwell of the other family at its station, which ends. -/
def State.landTile (s : State) (ctx num tid : Nat) : State :=
  match s.ring? ctx num with
  | none => s
  | some r =>
    match r.tile? tid with
    | none => s
    | some t =>
      match r.slotLoc t.station t.slot with
      | none => s
      | some loc =>
        let here (u : Tile) : Bool := u.resident && u.station == t.station && u.ccw != t.ccw
        let lap := if t.station = t.homest && t.left then t.lap + 1 else t.lap
        let t1 := { t with resident := true, image := [], issuer := none, lap := lap, dwelling := decide (2 ≤ lap),
                           arrivedAt := s.clk, order := r.order }
        let s1 := (s.engPut (r.writer t) (loc.plus 64) 16 (chunks16 t.image 4096)).2
        let s2 := s1.modRing ctx num (fun r => { r with
          order := r.order + 1,
          tiles := (updWhere here (fun u => { u with dwelling := false }) r.tiles).map (fun u => if u.tid = tid then t1 else u) })
        (s2.putHeader r t1).countTile r t

/-- TILE_ARRIVAL: the tiles of ring arg 1 of context arg 0 that arrive in one clk at the station of the first; their numbers are arg 2 and
the operands after it. All are resident before the first step is made; the steps run clockwise tiles first and then by slot (15 R356,
25 R464). A tile for that station in the same clk that is not named waits for the next. Of a tile already resident, a lap limit that an
engine fault held goes on. -/
def execTileArrival (s : State) : Out :=
  let ctx := s.arg 0
  match s.ring? ctx (s.arg 1) with
  | none => .next s
  | some r =>
    match r.tile? (s.arg 2) with
    | none => .next s
    | some t =>
      if r.st ≠ 2 || !s.ringMoves ctx true || t.held ≠ 0 then .next s
      else if t.resident then .next (s.writeMisses r t)
      else if r.tiles.any (fun u => u.resident && u.station == t.station && u.arrivedAt == s.clk) then .next s
      else
        let mine := ((s.pick.drop 2).dedup.filterMap r.tile?).filter (fun u => !u.resident && u.held == 0 && u.station == t.station &&
          (r.slotLoc u.station u.slot).isSome)
        let order := sortBy (fun u => (if u.ccw then 16 else 0) + u.slot) mine
        let s1 := order.foldl (fun s u => s.landTile ctx r.num u.tid) s
        .next (order.foldl (fun s u => s.arrivalStep ctx r.num u.tid 0 u.ccw) s1)

/-- ENCOUNTER_IMAGE_COPY: for the encounter with tag arg 2 of ring arg 1 of context arg 0, both slots are copied into the
scratchpad of the placed group (15 R357). -/
def execEncounterImageCopy (s : State) : Out :=
  let ctx := s.arg 0
  match s.ring? ctx (s.arg 1) with
  | none => .next s
  | some r =>
    match r.encs.find? (fun e => e.tag == s.arg 2 && !e.copied) with
    | none => .next s
    | some e =>
      match s.groups.find? (fun g => g.ctx == ctx && !g.started && (g.lane 0).origin.tag == e.tag + 1), r.tile? e.cw, r.tile? e.ccw with
      | some g, some cw, some ccw =>
        if !s.ctxRuns ctx then .next s
        else
          let n := r.slotSize / 16
          let a := r.actor e.station
          match r.slotLoc e.station cw.slot, r.slotLoc e.station ccw.slot with
          | some la, some lb =>
            match s.engGather a la 16 n with
            | (.ok xs, s1) =>
              match s1.engGather a lb 16 n with
              | (.ok ys, s2) =>
                let s3 := (s2.engPut a (.pad g.cls 0 0) 16 (chunks16 xs (n + 1))).2
                let s4 := (s3.engPut a (.pad g.cls 0 r.slotSize) 16 (chunks16 ys (n + 1))).2
                .next (s4.modRing ctx r.num (fun r => { r with
                  encs := updWhere (fun x => x.tag == e.tag) (fun x => { x with copied := true }) r.encs }))
              | _ => .next s
            | _ => .next s
          | _, _ => .next s
      | _, _, _ => .next s

/-- TILE_TRANSFER: tile arg 2 of ring arg 1 of context arg 0 starts for the next station; the one resident longest goes
first. In the clk of its arrival a tile stays (25 R464). -/
def execTileTransfer (s : State) : Out :=
  let ctx := s.arg 0
  match s.ring? ctx (s.arg 1) with
  | none => .next s
  | some r =>
    match r.tile? (s.arg 2) with
    | none => .next s
    | some t =>
      let before := r.tiles.any (fun u => u.station == t.station && u.ccw == t.ccw && decide (u.order < t.order) && r.mayLeave u)
      if r.st ≠ 2 || !s.ctxRuns ctx || !r.mayLeave t || before || s.clk ≤ t.arrivedAt then .next s
      else
        match r.freeSlot (r.nextStation t) t.ccw, r.slotLoc t.station t.slot with
        | some i, some loc =>
          match s.engGather (r.actor t.station) (loc.plus 64) 16 (t.len / 16) with
          | (.ok bs, s1) =>
            let go (u : Tile) : Tile :=
              { u with station := r.nextStation t, slot := i, resident := false, image := bs, left := true, dwelling := false,
                       pts := max u.pts (s.slotTs r t.station t.slot) }
            .next (s1.modRing ctx r.num (fun r => r.modTile t.tid go))
          | _ => .next s
        | _, _ => .next s

/-- DWELL_EXPIRY: the dwell of tile arg 2 of ring arg 1 of context arg 0 has lasted 2,048 clk. -/
def execDwellExpiry (s : State) : Out :=
  let late (t : Tile) : Bool := t.tid == s.arg 2 && t.resident && t.dwelling && decide (t.arrivedAt + 2048 ≤ s.clk)
  .next (if s.ctxRuns (s.arg 0) then
      s.modRing (s.arg 0) (s.arg 1) (fun r => { r with tiles := updWhere late (fun t => { t with dwelling := false }) r.tiles })
    else s)

/-- TILE_RETIRE: tile arg 2 of ring arg 1 of context arg 0, whose pairs are all done and which no task pins, frees its slot
(15 R354), not in the clk of its arrival (25 R464). -/
def execTileRetire (s : State) : Out :=
  let ctx := s.arg 0
  match s.ring? ctx (s.arg 1) with
  | none => .next s
  | some r =>
    match r.tile? (s.arg 2) with
    | none => .next s
    | some t =>
      if !s.ctxRuns ctx || !t.resident || t.pins ≠ 0 || t.pending.isSome || !t.missing.isEmpty || !r.covered t || s.clk ≤ t.arrivedAt then .next s
      else
        let s1 := s.modRing ctx r.num (fun r => { r with tiles := r.tiles.filter (fun u => u.tid != t.tid), retired := r.retired + 1 })
        .next ((s1.count ctx r.job (cniOf (r.siteOf t.station)) 0 1).wakeRwait)

/-- RING_ABANDON: a station class of ring arg 1 of context arg 0 has ended (15 R354). -/
def execRingAbandon (s : State) : Out :=
  match s.ring? (s.arg 0) (s.arg 1) with
  | none => .next s
  | some r =>
    let saved (k : Nat) : Bool := (s.ctx? r.ctx).any (fun c => c.saved.any (fun sv => sv.classes.any (fun x => x.kid == k && x.live)))
    if r.st == 3 || r.stations.any (fun t => !(s.klass? t.kid).any (·.live) && !saved t.kid) then
      .next ((s.modRing r.ctx r.num (fun r => { r with st := 3, tiles := [], encs := [] })).wakeRwait)
    else .next s

/-! RREL (15 R366). -/

/-- Arrival steps that waited for an entry of a station go on, in the order of arrival. -/
def State.resumePending (s : State) (ctx num station : Nat) : State :=
  match s.ring? ctx num with
  | none => s
  | some r =>
    (sortBy (fun t => t.order) (r.tiles.filter (fun t => t.station == station && t.pending.isSome))).foldl
      (fun s t => s.arrivalStep ctx num t.tid (t.pending.getD 0) t.ccw) s

/-- RREL once the form has converged: what it changes, and the steps that it lets go on, follow the form's accesses (09 R239). -/
def rrelEff (d a : XReg) (g : Group) (_p : Path) (s : State) : State :=
  let w := ((g.lane g.reader).rx a).toNat
  let hit := s.rings.find? (fun r => r.ctx == g.ctx && r.num == fieldAt w 44 4 && r.encs.any (fun e => e.tag == w))
  match hit.bind (fun r => (r.encs.find? (fun e => e.tag == w)).map (fun e => (r, e))) with
  | none => s.formResult g.gid d 2
  | some (r, e) =>
    let unpin (t : Tile) : Tile := { t with pins := t.pins - 1 }
    let pts := (g.liveLanes.map (fun l => (g.lane l).pts)).foldl max 0
    let after (t : Tile) : Bool := t.tid == e.cw || t.tid == e.ccw || (t.station == e.station && t.pending.isSome)
    let s1 := s.modRing r.ctx r.num (fun r => { r with
      encs := r.encs.filter (fun x => x.tag != w), tiles := updWhere after (fun t => { t with pts := max t.pts pts }) r.tiles })
    let s2 := (s1.setHeader r.ctx r.num e.cw unpin).setHeader r.ctx r.num e.ccw unpin
    (s2.resumePending r.ctx r.num e.station).formResult g.gid d 0

def execRrel (d a : XReg) (s : State) : Out := formWord (.rrel d a) (rrelEff d a) s

end Sys2Proof.Machine
end

