-- ==== Sys2Proof/Machine/Job.lean ====
section
/-!
DEFINITION. Jobs: JCNT, JREP, QUIET, the two passes of a roll call, and lost messages (17 R396 to R407).
-/

namespace Sys2Proof.Machine

open Sys2Proof

/-! JCNT (17 R405). -/

/-- The job number of x[a], none with a reserved bit set. -/
def jobNum (w : Word) : Option Nat := if bitsAt w 6 58 = 0 then some (bitsAt w 0 6) else none

/-- The open job that x[a] names. -/
def State.jobOf (s : State) (ctx : Nat) (w : Word) : Option Job := (jobNum w).bind (fun j => s.job? ctx j)

def jcntWord (gd : Guard) (d a : XReg) (f : Group → Job → Nat) (s : State) : Out :=
  groupRead gd d (fun g l => match s.jobOf g.ctx ((g.lane l).rx a) with
    | none => -1
    | some j => BitVec.ofNat 64 (f g j)) s

def execJcntInj (g : Guard) (d a : XReg) (s : State) : Out := jcntWord g d a (fun h j => (j.countAt (cniOf h.site)).inj) s
def execJcntCons (g : Guard) (d a : XReg) (s : State) : Out := jcntWord g d a (fun h j => (j.countAt (cniOf h.site)).cons) s
def execJcntRep (g : Guard) (d a : XReg) (s : State) : Out := jcntWord g d a (fun _ j => j.repairs) s
def execJcntCalls (g : Guard) (d a : XReg) (s : State) : Out := jcntWord g d a (fun _ j => j.calls) s

/-! JREP (17 R406). -/

/-- Sets a register of one lane: the status of a word. -/
def State.putX (s : State) (gid l : Nat) (d : XReg) (v : Nat) : State := s.modLane gid l (fun y => y.wx d (BitVec.ofNat 64 v))

def State.repTake (s : State) (gid l : Nat) (d a b : XReg) : LRes Unit :=
  match s.group? gid with
  | none => .hold
  | some g =>
    let x := g.lane l
    match s.jobOf g.ctx (x.rx a) with
    | none => .ok () (s.putX gid l d 2)
    | some j =>
      match padAddress s g l (x.rx b) 32 with
      | some t => .trap t
      | none =>
        match j.loss with
        | [] => .ok () (s.putX gid l d 1)
        | e :: r =>
          (s.store16s gid l (x.rx b) (units16 e)).bind (fun _ s1 =>
            .ok () ((s1.modJob g.ctx j.num (fun j => { j with loss := r }.stir)).putX gid l d 0))

def execJrepTake (g : Guard) (d a b : XReg) (s : State) : Out := laneWord g (fun s gid l => s.repTake gid l d a b) s

/-- OVERFLOW cleared, which is a change of the loss record when it was not 0. -/
def Job.clearOverflow (j : Job) : Job := if j.overflow = 0 then j else { j with overflow := 0 }.stir

/-- Counts the loss record and clears OVERFLOW. -/
def State.repCount (s : State) (gid l : Nat) (d a : XReg) : State :=
  let ctx := ((s.group? gid).map (·.ctx)).getD 0
  match s.jobOf ctx ((s.lane gid l).rx a) with
  | none => s.putX gid l d 2
  | some j => (s.modJob ctx j.num Job.clearOverflow).putX gid l d (j.loss.length + 2 ^ 16 * j.overflow)

def execJrepCount (g : Guard) (d a : XReg) (s : State) : Out := laneWord g (fun s gid l => .ok () (s.repCount gid l d a)) s

/-- A launch of the job is held or has a class that has not ended. -/
def State.jobBusy (s : State) (ctx num : Nat) : Bool :=
  (s.ctx? ctx).any (fun c => c.launches.any (fun l => l.job == num && l.left != 0))

/-- Closes a job: its counts, loss record and ended launches go (17 R396). -/
def State.closeJob (s : State) (ctx num : Nat) : State :=
  ({ s with jobs := s.jobs.filter (fun j => !(j.ctx == ctx && j.num == num)) }).modCtx ctx
    (fun c => { c with launches := c.launches.filter (fun l => !(l.job == num && l.left == 0)) })

def State.repClose (s : State) (gid l : Nat) (d a : XReg) : State :=
  let ctx := ((s.group? gid).map (·.ctx)).getD 0
  match s.jobOf ctx ((s.lane gid l).rx a) with
  | none => s.putX gid l d 2
  | some j => if j.quietPkg && !s.jobBusy ctx j.num then (s.closeJob ctx j.num).putX gid l d 0 else s.putX gid l d 1

def execJrepClose (g : Guard) (d a : XReg) (s : State) : Out := laneWord g (fun s gid l => .ok () (s.repClose gid l d a)) s

/-! Lost messages (17 R403). -/

/-- A loss entry. -/
def lossEntry (dest target seq port pkg kind job len : Nat) : List Word :=
  [BitVec.ofNat 64 dest, BitVec.ofNat 64 target,
    BitVec.ofNat 64 (seq % 2 ^ 32 + 2 ^ 32 * (port % 64) + 2 ^ 40 * (pkg % 256) + 2 ^ 48 * kind + 2 ^ 56 * job),
    BitVec.ofNat 64 (len % 2 ^ 32)]

/-- Repairs a lost message at an interface and records it. -/
def State.repair (s : State) (ctx job : Nat) (at_ : Iface) (entry : List Word) : State :=
  let note (j : Job) : Job :=
    if j.loss.length < 64 then { j with loss := j.loss ++ [entry], repairs := j.repairs + 1 }
    else { j with overflow := min 65535 (j.overflow + 1), repairs := j.repairs + 1 }
  (s.count ctx job at_ minus1 0).modJob ctx job note

/-! QUIET (17 R404) and roll calls (17 R400, R401). -/

/-- Lets a parked group go on from QUIET: R399's counts are taken back; QUIET and QUIET_LOSSES acquire at .sys (log 38). -/
def State.endQuiet (s : State) (gid status : Nat) : State :=
  match s.group? gid with
  | none => s
  | some g =>
    let ts := s.maxTs
    let done (w : Wait) (l : Lane) : Lane :=
      let y := l.wx w.d (BitVec.ofNat 64 status)
      if status = 2 then y else { y with pts := max y.pts ts }
    (s.quietCounts g minus1).wakeLanes (fun h _ l w => if h.gid == gid && l.inQuiet then some (done w) else none)

def quietEff (d a b : XReg) (scope : Scope) (g : Group) (_p : Path) (s : State) : State :=
  let x := g.lane g.reader
  match s.jobOf g.ctx (x.rx a) with
  | none => s.formResult g.gid d 3
  | some j =>
    let t := (x.rx b).toNat
    let s1 := s.parkForm g.gid d (.quiet j.num scope.code) (if t = 0 then none else some (s.clk + t))
    match s1.group? g.gid with
    | none => s1
    | some g1 => s1.quietCounts g1 1

def execQuiet (d a b : XReg) (scope : Scope) (s : State) : Out := formWord (.quiet d a b scope) (quietEff d a b scope) s

/-- What a parked QUIET waits for: job and scope. -/
def Group.quietOn (g : Group) : Option (Nat × Nat) :=
  (g.lanes.filterMap (fun l => l.wait)).findSome? (fun w => match w.kind with | .quiet j sc => some (j, sc) | _ => none)

/-- QUIET_TIMEOUT: the timeout of the QUIET in which group arg 0 is parked. -/
def execQuietTimeout (s : State) : Out :=
  match s.group? (s.arg 0) with
  | none => .next s
  | some g =>
    if g.lanes.any (fun l => l.inQuiet && l.wait.any (fun w => w.until_.any (fun t => decide (t ≤ s.clk)))) then
      .next (s.endQuiet g.gid 2)
    else .next s

/-- An interface within a scope of a cluster (17 R400). -/
def Iface.within (i : Iface) (scope : Nat) (site : Site) : Bool :=
  match i, scope with
  | .cni d c, 2 => d == site.die && c == site.cluster
  | _, 2 => false
  | .cni d _, 3 => d == site.die
  | .ucie d _, 3 => d == site.die
  | .port n, 3 => n / 6 == site.die
  | _, _ => true

/-- The totals of some counts: injected and consumed in pass 1 and in pass 2, and whether an interface reports activity. -/
structure Totals where
  inj1 : Nat
  cons1 : Nat
  inj2 : Nat
  cons2 : Nat
  active : Bool
deriving DecidableEq, Repr

def Totals.add (t u : Totals) : Totals :=
  ⟨wrap48 (t.inj1 + u.inj1), wrap48 (t.cons1 + u.cons1), wrap48 (t.inj2 + u.inj2), wrap48 (t.cons2 + u.cons2), t.active || u.active⟩

def JobCount.totals (c : JobCount) : Totals := ⟨c.snapInj, c.snapCons, c.inj, c.cons, c.active⟩

/-- The decision of 17 R401. -/
def Totals.quiet (t : Totals) : Bool :=
  t.inj1 == t.cons1 && t.inj2 == t.cons2 && t.inj1 == t.inj2 && !t.active

/-- What the other packages of the domain report for a job: context, job, the four totals, activity. -/
def reported (ctx job : Nat) : List Nat → Totals
  | c :: j :: i1 :: c1 :: i2 :: c2 :: act :: r => if c = ctx && j = job then ⟨i1, c1, i2, c2, act != 0⟩ else reported ctx job r
  | _ => ⟨0, 0, 0, 0, false⟩

/-- Every package of the domain is reachable (19 R435). -/
def State.allReachable (s : State) : Bool := s.link.routes.all (fun r => (s.routePort? r.1).isSome)

/-- The job is quiet at a scope of a cluster, by the snapshots of both passes. -/
def State.quietAt (s : State) (j : Job) (scope : Nat) (site : Site) : Bool :=
  let here : Totals := (j.counts.filter (fun c => c.at_.within scope site)).foldl (fun (t : Totals) c => t.add c.totals) ⟨0, 0, 0, 0, j.stirred⟩
  if scope = 5 then s.allReachable && (here.add (reported j.ctx j.num s.pick)).quiet else here.quiet

/-- ROLL_CALL: a period after the last one began, pass 1 takes every snapshot. -/
def execRollCall (s : State) : Out :=
  if s.roll.pass1 || decide (s.clk < s.roll.since + 1800 * s.roll.period) then .next s
  else
    let snap (j : Job) : Job :=
      { j with counts := j.counts.map (fun c => { c with snapInj := c.inj, snapCons := c.cons, active := false }), stirred := false }
    .next { s with jobs := s.jobs.map snap, roll := { s.roll with pass1 := true, since := s.clk } }

/-- ROLL_CALL_PASS_2: the second pass and the decision; the operands are what the other packages report (`reported`). -/
def execRollCallPass2 (s : State) : Out :=
  if !s.roll.pass1 then .next s
  else
    let parked := s.groups.filter (fun g => (s.ctx? g.ctx).any (fun c => c.st == .running) && g.quietOn.isSome)
    let pkg := parked.any (fun g => g.quietOn.any (fun q => q.2 == 4))
    let done := parked.filterMap (fun g => match g.quietOn with
      | none => none
      | some (n, sc) => (s.job? g.ctx n).bind (fun j =>
          if s.quietAt j sc g.site then some (g.gid, if j.loss.isEmpty && j.overflow == 0 then 0 else 1) else none))
    -- the counts of a saved context are in its shell: no roll call declares its jobs quiet
    let away (j : Job) : Bool := (s.ctx? j.ctx).any (fun c => c.st == .saved)
    let close (j : Job) : Job :=
      { j with calls := j.calls + 1, quietPkg := if pkg then !away j && s.quietAt j 4 ⟨0, 0⟩ else j.quietPkg }
    let s1 := { s with jobs := s.jobs.map close, roll := { s.roll with pass1 := false } }
    .next (done.foldl (fun s x => s.endQuiet x.1 x.2) s1)

end Sys2Proof.Machine
end

