-- ==== Sys2Proof/Machine/Event.lean ====
section
/-!
DEFINITION. Event banks: binding, accumulators, arrival, delivery, fire actions and frontiers (16 R372 to R395, 26 R465).
-/

namespace Sys2Proof.Machine

open Sys2Proof

/-! Events (16 R375). -/

def QEvent.field (e : QEvent) (lo width : Nat) : Nat := fieldAt e.bits.toNat lo width
def QEvent.index (e : QEvent) : Nat := e.field 0 12
def QEvent.pkg (e : QEvent) : Nat := e.field 21 8
def QEvent.tick (e : QEvent) : Nat := e.field 32 32
def QEvent.value (e : QEvent) : Nat := e.field 64 32
def QEvent.job (e : QEvent) : Nat := e.field 96 6
def QEvent.home (e : QEvent) : Site := ⟨e.field 18 3, e.field 14 4⟩
def QEvent.bankNum (e : QEvent) : Nat := e.field 12 2

/-- A reserved bit of an event is set. -/
def eventReserved (n : Nat) : Bool := fieldAt n 29 3 != 0 || fieldAt n 102 26 != 0

/-- The bits of an event. -/
def eventBits (target tick value job : Nat) : BitVec 128 :=
  BitVec.ofNat 128 (target % 2 ^ 29 + 2 ^ 32 * (tick % 2 ^ 32) + 2 ^ 64 * (value % 2 ^ 32) + 2 ^ 96 * (job % 64))

def QEvent.atTick (e : QEvent) (t : Nat) : QEvent := { e with bits := eventBits (e.field 0 29) t e.value e.job }

/-- The eight words of an event in a spill slot or a reject. -/
def QEvent.words (e : QEvent) : List Word :=
  [BitVec.ofNat 64 (e.field 0 64), BitVec.ofNat 64 (e.field 64 64), 0, 0, 0, 0, 0, 0]

/-! Banks (16 R372, R373, R376). -/

/-- A bank of a context, by home. -/
def State.bankHome? (s : State) (ctx : Nat) (home : Site) (num : Nat) : Option Bank :=
  s.banks.find? (fun b => b.ctx == ctx && b.die == home.die && b.cluster == home.cluster && b.num == num)

/-- A bank of a unit. -/
def State.bankAt? (s : State) (site : Site) (num : Nat) : Option Bank := s.banks.find? (fun b => b.site == site && b.num == num)

def Bank.same (b c : Bank) : Bool := c.ctx == b.ctx && c.die == b.die && c.cluster == b.cluster && c.num == b.num

def State.modBank (s : State) (b : Bank) (f : Bank → Bank) : State := { s with banks := updWhere b.same f s.banks }

/-- 64-bit counters saturate. -/
def sat64 (n : Nat) : Nat := min n (2 ^ 64 - 1)

def Bank.acc (b : Bank) (i : Nat) : Acc := ((b.accs.find? (fun x => x.1 == i)).map (·.2)).getD ⟨0, 0, false, 0, b.f0, 0, 0⟩

def Bank.setAcc (b : Bank) (i : Nat) (a : Acc) : Bank := { b with accs := (i, a) :: b.accs.filter (fun x => x.1 != i) }

/-- The image of an accumulator (16 R373), and back; none with a reserved bit set or PSET above 63. -/
def Acc.image (a : Acc) : Nat :=
  a.value % 2 ^ 32 + 2 ^ 32 * (a.last % 2 ^ 32) + 2 ^ 64 * (a.pset % 2 ^ 8) + 2 ^ 72 * a.en.toNat + 2 ^ 80 * (a.refr % 2 ^ 16) +
  2 ^ 96 * (a.fires % 2 ^ 32)

def accOf (n : Nat) : Option Acc :=
  if fieldAt n 73 7 ≠ 0 || 64 ≤ fieldAt n 64 8 then none
  else some ⟨fieldAt n 96 32, fieldAt n 80 16, fieldAt n 72 1 == 1, fieldAt n 64 8, fieldAt n 32 32, fieldAt n 0 32, 0⟩

/-- Events of a bank in spill slots. -/
def State.spilledOf (s : State) (b : Bank) : List Spill :=
  s.eng.spill.filter (fun x => match x.item with
    | .ev e => x.ctx == b.ctx && e.home == ⟨b.die, b.cluster⟩ && e.bankNum == b.num
    | .rec_ _ => false)

/-- The status block (16 R376). -/
def State.bankStatus (s : State) (b : Bank) : List Word :=
  [BitVec.ofNat 64 (b.frontier + 2 ^ 32 * 1 + 2 ^ 40 * b.job), BitVec.ofNat 64 (b.queue.length + 2 ^ 32 * (s.spilledOf b).length),
    BitVec.ofNat 64 b.delivered, BitVec.ofNat 64 b.fired, BitVec.ofNat 64 b.late, BitVec.ofNat 64 b.dropped,
    BitVec.ofNat 64 b.reordered, 0]

def State.unit? (s : State) (site : Site) : Option EvUnit := s.units.find? (fun u => u.site == site)

def EvUnit.pset (u : EvUnit) (i : Nat) : PSet := ((u.psets.find? (fun x => x.1 == i)).map (·.2)).getD ⟨0, 0, 0, 0, 0, 0, 0, 0⟩

/-! Arrival (16 R378, R380). -/

/-- A rejected event: the husk of the sending context gets it with reason 3, and its message is consumed. -/
def State.rejectEvent (s : State) (e : QEvent) (at_ : Iface) : State := (s.reject e.ctx e.home e.words 3).count e.ctx e.job at_ 0 1

/-- Puts an event into a bank's queue, or into a spill slot when the queue is full; none while no slot is free, with the state that
leaves. `key` numbers what is held then. -/
def State.queueEvent (s : State) (b : Bank) (e : QEvent) (key : Nat) : Option State × State :=
  if b.queue.length < 1024 then (some (s.modBank b (fun b => { b with queue := b.queue ++ [e] })), s)
  else
    let (n, s1) := s.fresh
    s1.spillItem b.ctx b.site (.ev e) e.words n key

/-- The way of an event from its cluster is counted once it is there (17 R397). -/
def State.countEvent (s : State) (e : QEvent) : State :=
  match e.src with
  | some a => s.countWay e.ctx e.job a.die e.home.die none false
  | none => s

/-- An event reaches its home; none while it is held, with the state that leaves. -/
def State.arriveEvent (s : State) (e0 : QEvent) : Option State × State :=
  let (n, s0) := s.fresh
  let e := { e0 with arr := n }
  match s0.bankHome? e.ctx e.home e.bankNum with
  | none => (some ((s0.countEvent e).rejectEvent e (cniOf e.home)), s)
  | some b =>
    if b.job ≠ e.job then (some ((s0.countEvent e).rejectEvent e (cniOf b.site)), s)
    else if e.tick < b.frontier then
      match s0.queueEvent b { e.atTick (b.frontier - 1) with passed := true } e0.arr with
      | (some s1, h) => (some ((s1.countEvent e).modBank b (fun b => { b with late := sat64 (b.late + 1) })), h)
      | (none, h) => (none, h)
    else
      match s0.queueEvent b { e with passed := false } e0.arr with
      | (some s1, h) => (some ((s1.countEvent e).count e.ctx e.job (cniOf b.site) 0 1), h)
      | (none, h) => (none, h)

/-- A spilled event at the head of its cluster's sequence goes to its bank's queue, as its bytes are now; with the queue full, the
event of the highest tick of both goes to the next slot instead (16 R378). Bytes that are no event for that bank are rejected (00 R6,
16 R380). -/
def State.returnEvent (s : State) (x : Spill) (e0 : QEvent) : State :=
  match s.ctx? x.ctx with
  | none => s
  | some c =>
    match s.slotBad? c x with
    | some pa => s.slotFault c x pa
    | none =>
      if c.efs.any (fun e => e.ref == .record x.seq) then s
      else
        let (v, s1) := s.physRead (c.slotPa x) 16
        let e := { e0 with bits := BitVec.ofNat 128 v }
        let s2 := s1.leaveSlot c x
        match s.bankHome? e.ctx e.home e.bankNum with
        | none => s2.rejectEvent e (cniOf x.site)
        | some b =>
          if eventReserved v || b.site != x.site || b.job != e.job then s2.rejectEvent e (cniOf x.site)
          else if b.queue.length < 1024 then s2.modBank b (fun b => { b with queue := b.queue ++ [e] })
          else
            let all := sortBy (fun q => q.tick) (sortBy (fun q => q.arr) (e :: b.queue))
            match all.getLast? with
            | none => s
            | some top =>
              -- the next slot, at the end of the sequence
              let (n, s2) := s2.fresh
              match s2.spillItem b.ctx b.site (.ev top) top.words n top.arr with
              | (some s3, _) => s3.modBank b (fun b => { b with queue := (e :: b.queue).filter (fun q => q.arr != top.arr) })
              | (none, _) => s

/-- The bank an event goes to has still to be bound again by a restore (16 R394). -/
def State.bankAwaited (s : State) (e : QEvent) : Bool :=
  (s.ctx? e.ctx).any (fun c => c.saved.any (fun sv => sv.banks.any (fun b =>
    (⟨b.die, b.cluster⟩ : Site) == e.home && b.num == e.bankNum)))

/-- Something that the sender of an event sent before it has still to arrive where it goes (08 R201, 16 R390). -/
def State.eventWaits (s : State) (e : QEvent) : Bool :=
  s.eng.events.any (fun x => x.goesBefore e.src e.ctx e.arr e.home) ||
  s.eng.flights.any (fun r => decide (r.seq < e.arr) && r.src == e.src && e.src.isSome && r.ctx == e.ctx && r.site == e.home)

/-- An event that another package of the domain sends: its bits, context, timestamp and the MCL port it comes in by, which counts it
(16 R387, 17 R397, 19 R434). -/
def State.outsideEvent (s : State) (bits ctx pts port : Nat) : State :=
  let e : QEvent := { bits := BitVec.ofNat 128 bits, ctx := ctx, arr := 0, passed := false, pts := pts, issuer := none, src := none }
  let known := (s.ctx? ctx).any (fun c => c.domain.isSome) && s.carries port && e.pkg == s.pkgIndex && !eventReserved e.bits.toNat
  if !known || !s.ctxTakes ctx || s.bankAwaited e then s
  else
    match ((s.count ctx e.job (.port port) 1 0).countWay ctx e.job (port / 6) e.home.die none false).arriveEvent e with
    | (some t, _) => t
    | (none, _) => (s.arriveEvent e).2

/-- EVENT_ARRIVAL: the event in flight with number arg 0; with arg 0 = 0 the spilled event at the head of the sequence of
cluster arg 2 of die arg 1, or, with arg 3 not 0, an event from outside: bits arg 4, context arg 5, timestamp arg 6, port arg 7. -/
def execEventArrival (s : State) : Out :=
  if s.arg 0 = 0 && s.arg 3 ≠ 0 then .next (s.outsideEvent (s.arg 4) (s.arg 5) (s.arg 6 % 2 ^ 40) (s.arg 7))
  else if s.arg 0 = 0 then
    let site : Site := ⟨s.arg 1, s.arg 2⟩
    match (sortBy (fun x => x.seq) (s.eng.spill.filter (fun x => x.site == site && s.ctxTakes x.ctx &&
        !(s.ctx? x.ctx).any (fun c => c.saved.isSome)))).head? with
    | none => .next s
    | some x => match x.item with
      | .ev e => .next (s.returnEvent x e)
      | .rec_ _ => .next s
  else
    match s.eng.events.find? (fun e => e.arr == s.arg 0) with
    | none => .next s
    | some e =>
      if !s.ctxTakes e.ctx || s.eventWaits e || s.bankAwaited e then .next s
      else
        let s1 := { s with eng := { s.eng with events := s.eng.events.filter (fun x => x.arr != e.arr) } }
        match s1.arriveEvent e with
        | (some s2, _) => .next s2
        | (none, s2) => .next { s2 with eng := { s2.eng with events := s.eng.events } }

/-! Sending (16 R382, R387), and messages on their way over MCL (17 R397, R403, 19 R432, R433, R435). -/

def State.dropMcl (s : State) (m : MclMsg) : State := { s with link := { s.link with mcl := s.link.mcl.filter (fun x => x.key != m.key) } }

/-- The receiver has acknowledged a message: it is consumed at the port that sent it. -/
def State.ackMcl (s : State) (m : MclMsg) : State :=
  ((s.dropMcl m).countHops m.ctx m.job m.die (m.port / 6)).count m.ctx m.job (.port m.port) 0 1

/-- A message not acknowledged when its port stops carrying is lost: repaired at the port and recorded with KIND 2. The deposit address
of an entry that has none is free (log 31). -/
def State.loseMcl (s : State) (m : MclMsg) : State :=
  let (n, s1) := ((s.dropMcl m).countHops m.ctx m.job m.die (m.port / 6)).free
  s1.repair m.ctx m.job (.port m.port) (lossEntry (Config.freeValue n) 0 m.key m.port s.pkgIndex 2 m.job m.len)

/-- Loses the messages not acknowledged whose link has failed, is down or is in another mode (17 R403, 19 R435); a port in retraining
holds its flits (19 R430, log 123). -/
def State.loseCut (s : State) : State :=
  let gone (n : Nat) : Bool := s.link.ports.any (fun p => p.num == n && (p.st == .down || p.st == .failed || !p.mcl))
  (s.link.mcl.filter (fun m => gone m.port)).foldl (fun s m => s.loseMcl m) s

/-- Injects an event at a cluster. One for another package leaves at the port by which it is reached, or is lost there (19 R435). -/
def State.sendEvent (s : State) (site : Site) (e0 : QEvent) : State :=
  let e := { e0 with src := some site }
  let (n, s1) := (s.count e.ctx e.job (cniOf site) 1 0).fresh
  if e.pkg = s.pkgIndex then { s1 with eng := { s1.eng with events := s1.eng.events ++ [{ e with arr := n }] } }
  else match s.mclPort? e.pkg with
    | some p => { s1 with link := { s1.link with
        via := (e.pkg, p) :: s1.link.via.filter (fun u => u.1 != e.pkg),
        mcl := s1.link.mcl ++ [⟨n, site.die, p, e.pkg, e.ctx, e.job, 16⟩] } }
    | none =>
      let (k, s2) := s1.free
      s2.repair e.ctx e.job (cniOf site) (lossEntry (Config.freeValue k) 0 n 0 s.pkgIndex 2 e.job 16)

/-! Delivery (16 R379). -/

def mulF32 (x y : Nat) : Nat := (roundTo .f32 .rne 0 (FV.mul (val .f32 x) (val .f32 y)).1).1
def addF32 (x y : Nat) : Nat := (roundSum .f32 .rne 0 (FV.sum false [val .f32 x, val .f32 y])).1

/-- leak_pow by repeated squaring: 32 bits of the exponent. -/
def leakLoop : Nat → Nat → Nat → Nat → Nat
  | 0, r, _, _ => r
  | k + 1, r, b, n =>
    if n = 0 then r else leakLoop k (if n % 2 = 1 then mulF32 r b else r) (mulF32 b b) (n / 2)

/-- λ = (LEAK + 1) / 2^16 as an FP32 code. -/
def leakCode (l : Nat) : Nat := (roundTo .f32 .rne 0 (.fin false (l + 1) (-16))).1

def leakPow (l n : Nat) : Nat := leakLoop 32 0x3F800000 (leakCode l) n

/-- What a delivery does to an accumulator: the new one, whether it was out of order, and the value that fired. -/
structure Delivery where
  acc : Acc
  reordered : Bool
  fired : Option Nat
  tick : Nat
deriving DecidableEq, Repr

def deliverTo (p : PSet) (a : Acc) (tick value : Nat) : Delivery :=
  let re := decide (tick < a.last)
  let t := if re then a.last else tick
  let n := t - a.last
  let v1 := mulF32 a.value (leakPow p.leak n)
  let a1 := { a with value := v1, refr := a.refr - n, last := t }
  if 0 < a1.refr then ⟨a1, re, none, t⟩
  else
    let v2 := addF32 v1 value
    if (fcmpElt .ge .f32 v2 p.thresh).1 then
      ⟨{ a1 with value := p.reset, refr := p.refticks, fires := (a1.fires + 1) % 2 ^ 32 }, re, some v2, t⟩
    else ⟨{ a1 with value := v2 }, re, none, t⟩

/-- The event a bank delivers next: the lowest tick below the frontier, oldest first. -/
def Bank.next (b : Bank) : Option QEvent :=
  (sortBy (fun e => e.tick) (sortBy (fun e => e.arr) (b.queue.filter (fun e => decide (e.tick < b.frontier))))).head?

/-- The bank that arg 0 to 3 name: context, die, cluster and number of its home. -/
def State.argBank (s : State) : Option Bank := s.bankHome? (s.arg 0) ⟨s.arg 1, s.arg 2⟩ (s.arg 3)

/-- EVENT_DELIVERY in the bank of `argBank`. -/
def execEventDelivery (s : State) : Out :=
  match s.argBank with
  | none => .next s
  | some b =>
    if !s.ctxRuns b.ctx || b.emit.isSome then .next s
    else match b.next with
    | none => .next s
    | some e =>
      let s1 := s.modBank b (fun b => { b with queue := b.queue.filter (fun q => q.arr != e.arr) })
      let a := b.acc e.index
      if !a.en then .next (s1.rejectEvent e (cniOf b.site))
      else
        let p := ((s.unit? b.site).map (fun u => u.pset a.pset)).getD ⟨0, 0, 0, 0, 0, 0, 0, 0⟩
        let r := deliverTo p a e.tick e.value
        -- its place in the one order of the accesses to the accumulator (09 R243)
        let ts := max (a.ts + 1) e.pts
        let emit : Option Emission := match r.fired with
          | none => none
          | some v => if p.action = 0 then none
            else some { index := e.index, tick := r.tick, value := v, action := p.action, taddr := p.taddr, prio := p.prio,
                        arg := p.arg, list := none, pts := ts, held := 0 }
        let upd (b : Bank) : Bank :=
          { b.setAcc e.index { r.acc with ts := ts } with
            delivered := sat64 (b.delivered + 1), reordered := sat64 (b.reordered + r.reordered.toNat),
            fired := sat64 (b.fired + r.fired.isSome.toNat), emit := emit }
        let s2 := s1.modBank b upd
        -- the delivery's message is consumed after those of its fire action have been injected (16 R382)
        .next (if emit.isSome then s2 else s2.count b.ctx b.job (cniOf b.site) 0 1)

/-! Fire actions (16 R381). -/

def State.endEmission (s : State) (b : Bank) : State :=
  (s.modBank b (fun b => { b with emit := none })).count b.ctx b.job (cniOf b.site) 0 1

def State.setList (s : State) (b : Bank) (m : Emission) (l : Option (Nat × Nat)) : State :=
  s.modBank b (fun b => { b with emit := some { m with list := l } })

/-- An engine read of an emission failed: an engine fault of KIND 5 under which it is held, or a violation. -/
def State.emitErr {α : Type} (s : State) (b : Bank) (m : Emission) (r : MRes α) (va : Nat) : State :=
  match engErr r 1 va with
  | some (.fault cause sub addr) =>
    let (s1, tag) := s.engFault b.ctx 5 cause sub addr (siteWord b.site 0x7F) (.event b.die b.cluster b.num)
    s1.modBank b (fun b => { b with emit := some { m with held := tag } })
  | some (.viol addr) => s.engViolate b.ctx 5 addr (siteWord b.site 0x7F)
  | none => s

/-- The lane task of ACTION 2. -/
def Emission.words (m : Emission) (b : Bank) (pkg : Nat) : List Word :=
  let target := m.index + 2 ^ 12 * b.num + 2 ^ 14 * b.cluster + 2 ^ 18 * b.die + 2 ^ 21 * pkg
  [BitVec.ofNat 64 (m.taddr % 2 ^ 48 + 2 ^ 49 * m.prio), BitVec.ofNat 64 (2 ^ 48 * b.job), m.arg, BitVec.ofNat 64 target,
    BitVec.ofNat 64 m.value, BitVec.ofNat 64 m.tick, 0, 0]

/-- Emits the event of one fan-out entry; none while its arrival is held. -/
def State.emitEntry (s : State) (b : Bank) (m : Emission) (n : Nat) : Option State × State :=
  let delay := fieldAt n 32 32
  let pkg := fieldAt n 21 8
  if delay = 0 || eventReserved n || fieldAt n 96 6 ≠ 0 || 2 ^ 32 ≤ m.tick + delay || !s.inDomain pkg then
    (some (s.modBank b (fun b => { b with dropped := sat64 (b.dropped + 1) })), s)
  else
    let e : QEvent :=
      { bits := eventBits (fieldAt n 0 29) (m.tick + delay) (fieldAt n 64 32) b.job, ctx := b.ctx, arr := 0, passed := false,
        pts := m.pts, issuer := none, src := some b.site }
    let own := pkg = s.pkgIndex && (match s.bankHome? b.ctx e.home e.bankNum with
      | some t => t.site == b.site
      | none => e.home == b.site)
    if own then
      match (s.count b.ctx b.job (cniOf b.site) 1 0).arriveEvent e with
      | (some t, h) => (some t, h)
      | (none, _) => (none, (s.arriveEvent e).2)
    else (some (s.sendEvent b.site e), s)

/-- One step of a fan-out: the directory word, then one entry. An access to a package that cannot be reached waits (19 R435). -/
def State.fanOut (s : State) (b : Bank) (m : Emission) : State :=
  let a : Actor := ⟨b.ctx, false, m.pts, b.site⟩
  match m.list with
  | none =>
    let va := m.taddr + 8 * (4096 * b.num + m.index)
    if s.cutOff b.ctx va then s
    else match s.engRead a (.glob va) 8 with
    | (.ok bs, s1) =>
      let w := fromBytes bs
      let at_ := fieldAt w 0 48
      let count := fieldAt w 48 16
      if count = 0 then s1.endEmission b
      else if at_ % 16 ≠ 0 then (s1.modBank b (fun b => { b with dropped := sat64 (b.dropped + count) })).endEmission b
      else s1.setList b m (some (at_, count))
    | (r, s1) => s1.emitErr b m r va
  | some (at_, left) =>
    if s.cutOff b.ctx at_ then s
    else match s.engRead a (.glob at_) 16 with
    | (.ok bs, s1) =>
      match s1.emitEntry b m (fromBytes bs) with
      | (none, s2) => s2
      | (some s2, _) => if left ≤ 1 then s2.endEmission b else s2.setList b m (some (at_ + 16, left - 1))
    | (r, s1) => s1.emitErr b m r at_

/-- FIRE_ACTION: the next step of the fire action of the bank of `argBank`. -/
def execFireAction (s : State) : Out :=
  match s.argBank with
  | none => .next s
  | some b =>
    match b.emit with
    | none => .next s
    | some m =>
      if !s.ctxRuns b.ctx || m.held ≠ 0 then .next s
      else if m.action = 1 then .next (s.fanOut b m)
      else
        let r : TaskRec :=
          { words := m.words b s.pkgIndex, ctx := b.ctx, pts := m.pts, idStage := 0, idLogical := 0xFFFFFFFF, mail := none,
            fault := false, tag := 0, site := b.site, seq := 0, issuer := none, src := some b.site }
        .next (((s.count b.ctx b.job (cniOf b.site) 1 0).sendRecord r).endEmission b)

/-! EVCFG (16 R377, R385). -/

def State.bindBank (s : State) (g : Group) (num job f0 : Nat) : State :=
  let u : EvUnit := ⟨g.site, g.ctx, []⟩
  let b : Bank :=
    { die := g.site.die, cluster := g.site.cluster, num := num, site := g.site, ctx := g.ctx, job := job, frontier := f0, f0 := f0,
      accs := [], queue := [], delivered := 0, fired := 0, late := 0, dropped := 0, reordered := 0, emit := none }
  { s with units := if (s.unit? g.site).isSome then s.units else s.units ++ [u], banks := s.banks ++ [b] }

def State.bindLane (s : State) (gid l : Nat) (d a b : XReg) : State :=
  match s.group? gid with
  | none => s
  | some g =>
    let x := (g.lane l).rx a
    let y := (g.lane l).rx b
    let num := bitsAt x 0 2
    if bitsAt x 2 62 ≠ 0 || bitsAt y 6 26 ≠ 0 || !s.jobOpen g.ctx (bitsAt y 0 6) then s.putX gid l d 2
    else if (s.unit? g.site).any (fun u => u.ctx != g.ctx) || (s.bankAt? g.site num).isSome || (s.bankHome? g.ctx g.site num).isSome then
      s.putX gid l d 1
    else (s.bindBank g num (bitsAt y 0 6) (bitsAt y 32 32)).putX gid l d 0

def execEvcfgBind (g : Guard) (d a b : XReg) (s : State) : Out := laneWord g (fun s gid l => .ok () (s.bindLane gid l d a b)) s

/-- The bank of the lane's own cluster that its context holds. -/
def State.ownBank (s : State) (g : Group) (num : Nat) : Option Bank :=
  match s.bankAt? g.site num with
  | some b => if b.ctx = g.ctx then some b else none
  | none => none

def State.freeLane (s : State) (gid l : Nat) (d a : XReg) : State :=
  match s.group? gid with
  | none => s
  | some g =>
    let x := (g.lane l).rx a
    if bitsAt x 2 62 ≠ 0 then s.putX gid l d 2
    else match s.ownBank g (bitsAt x 0 2) with
      | none => s.putX gid l d 3
      | some b =>
        if !b.queue.isEmpty || !(s.spilledOf b).isEmpty || b.emit.isSome then s.putX gid l d 1
        else
          let banks := s.banks.filter (fun c => !b.same c)
          let units := if banks.any (fun c => c.site == b.site) then s.units else s.units.filter (fun u => u.site != b.site)
          ({ s with banks := banks, units := units }).putX gid l d 0

def execEvcfgFree (g : Guard) (d a : XReg) (s : State) : Out := laneWord g (fun s gid l => .ok () (s.freeLane gid l d a)) s

/-- A parameter set from its 32 bytes, none with a reserved field or a TADDR that breaks 16 R374. -/
def psetOf (n : Nat) : Option PSet :=
  let act := fieldAt n 96 8
  let taddr := fieldAt n 128 64
  if 3 ≤ act || fieldAt n 106 6 ≠ 0 || fieldAt n 112 16 ≠ 0 || (act = 0 && taddr ≠ 0) ||
      (act = 1 && (taddr % 8 ≠ 0 || taddr / 2 ^ 56 ≠ 0)) || (act = 2 && taddr % 8 ≠ 0) then none
  else some ⟨fieldAt n 0 16, fieldAt n 16 16, fieldAt n 32 32, fieldAt n 64 32, act, fieldAt n 104 2, taddr,
    BitVec.ofNat 64 (fieldAt n 192 64)⟩

def State.psetLane (s : State) (gid l : Nat) (d a b : XReg) : LRes Unit :=
  match s.group? gid with
  | none => .hold
  | some g =>
    let x := (g.lane l).rx a
    let addr := (g.lane l).rx b
    match resolve s g l addr 32 32 with
    | .error t => .trap t
    | .ok _ =>
      (s.load16s gid l addr 1 2).bind (fun us s1 =>
        let held := (s1.unit? g.site).any (fun u => u.ctx == g.ctx)
        if bitsAt x 6 58 ≠ 0 then .ok () (s1.putX gid l d 2)
        else if !held then .ok () (s1.putX gid l d 3)
        else match psetOf (us.getD 0 0 + 2 ^ 128 * us.getD 1 0) with
          | none => .ok () (s1.putX gid l d 2)
          | some p =>
            let i := bitsAt x 0 6
            let put (u : EvUnit) : EvUnit := { u with psets := (i, p) :: u.psets.filter (fun y => y.1 != i) }
            .ok () (({ s1 with units := updWhere (fun u => u.site == g.site) put s1.units }).putX gid l d 0))

def execEvcfgPset (g : Guard) (d a b : XReg) (s : State) : Out := laneWord g (fun s gid l => s.psetLane gid l d a b) s

/-! EVRD and EVWR (16 R386). -/

/-- The address check that comes before every status: a scratchpad, 16-byte aligned, with n bytes within it. -/
def accAddress (s : State) (g : Group) (l : Nat) (addr : Word) (n : Nat) : Option TrapInfo :=
  if addr.toNat / 2 ^ 56 = 0 then some ⟨4, 1, addr, false⟩
  else match resolve s g l addr n 16 with
    | .error t => some t
    | .ok _ => none

/-- Reads or writes accumulators after the checks: `f` gets the bank, the first index, the count and the address. -/
def State.accLane (s : State) (gid l : Nat) (d a b : XReg) (count : Lane → Nat) (idx : Bool)
    (f : Bank → Nat → Nat → Word → LRes Nat) : LRes Unit :=
  match s.group? gid with
  | none => .hold
  | some g =>
    let x := g.lane l
    let n := count x
    let w := x.rx a
    match accAddress s g l (x.rx b) (16 * n) with
    | some t => .trap t
    | none =>
      if bitsAt w 14 50 ≠ 0 || (idx && decide (4096 < bitsAt w 0 12 + n)) then .ok () (s.putX gid l d 2)
      else match s.ownBank g (bitsAt w 12 2) with
        | none => .ok () (s.putX gid l d 3)
        | some bk => (f bk (bitsAt w 0 12) n (x.rx b)).bind (fun v s1 => .ok () (s1.putX gid l d v))

/-- A read of accumulators i to i + n - 1 at a timestamp: later accesses to them follow it. -/
def Bank.seenAt (b : Bank) (ts i n : Nat) : Bank :=
  (List.range n).foldl (fun b k => b.setAcc (i + k) { b.acc (i + k) with ts := max (b.acc (i + k)).ts ts }) b

def execEvrd (g : Guard) (d a b c : XReg) (s : State) : Out :=
  laneWord g (fun s gid l => s.accLane gid l d a b (fun x => (x.rx c).toNat) true (fun bk i n addr =>
    -- the lane's later accesses follow the deliveries that it has read
    let seen := ((List.range n).map (fun k => (bk.acc (i + k)).ts)).foldl max 0
    let s0 := s.modLane gid l (fun y => { y with pts := max y.pts seen })
    (s0.store16s gid l addr ((List.range n).map (fun k => (bk.acc (i + k)).image))).bind (fun _ s1 =>
      .ok 0 (s1.modBank bk (fun b => b.seenAt (s1.lane gid l).pts i n))))) s

def execEvrdStat (g : Guard) (d a b : XReg) (s : State) : Out :=
  laneWord g (fun s gid l => s.accLane gid l d a b (fun _ => 4) false (fun bk _ _ addr =>
    (s.store16s gid l addr (units16 (s.bankStatus bk))).bind (fun _ s1 => .ok 0 s1))) s

/-- Writes images into accumulators at a timestamp; the status is BAD when one of them is refused. -/
def writeAccs (bk : Bank) (i ts : Nat) (us : List Nat) : Bank × Bool :=
  (us.zipIdx i).foldl (fun x u => match accOf u.1 with
    | some a => (x.1.setAcc u.2 { a with ts := ts }, x.2)
    | none => (x.1, true)) (bk, false)

def execEvwr (g : Guard) (d a b c : XReg) (s : State) : Out :=
  laneWord g (fun s gid l => s.accLane gid l d a b (fun x => (x.rx c).toNat) true (fun bk i n addr =>
    (s.load16s gid l addr 1 n).bind (fun us s1 =>
      -- the write takes its place after every earlier access to the accumulators
      let ts := (((List.range n).map (fun k => (bk.acc (i + k)).ts)).foldl max 0) + 1
      let s2 := s1.modLane gid l (fun y => { y with pts := max y.pts ts })
      let r := writeAccs bk i (s2.lane gid l).pts us
      .ok (if r.2 then 2 else 0) (s2.modBank bk (fun x => { x with accs := r.1.accs }))))) s

/-! EVSEND and EVADV (16 R387, R388). -/

def State.evsendLane (s : State) (gid l : Nat) (d : XReg) (a : VReg) : State :=
  match s.group? gid with
  | none => s
  | some g =>
    let x := g.lane l
    let e : QEvent := { bits := x.rv a, ctx := g.ctx, arr := 0, passed := false, pts := x.pts, issuer := some (gid, l), src := some g.site }
    if eventReserved e.bits.toNat || !s.jobOpen g.ctx e.job || !s.inDomain e.pkg then s.putX gid l d 2
    else (s.sendEvent g.site e).putX gid l d 0

def execEvsend (g : Guard) (d : XReg) (a : VReg) (s : State) : Out := laneWord g (fun s gid l => .ok () (s.evsendLane gid l d a)) s

/-- Sets the frontier of a bank: each queued or spilled event that it passes counts as one further message (16 R382). -/
def State.advance (s : State) (b : Bank) (t : Nat) : State :=
  let f := max b.frontier t
  let pass (e : QEvent) : QEvent := if e.tick < f then { e with passed := true } else e
  let newly (e : QEvent) : Bool := !e.passed && decide (e.tick < f)
  let spilled := (s.spilledOf b).filter (fun x => match x.item with | .ev e => newly e | .rec_ _ => false)
  let n := (b.queue.filter newly).length + spilled.length
  let mark (x : Spill) : Spill := match x.item with
    | .ev e => { x with item := .ev (pass e) }
    | .rec_ _ => x
  let sp := updWhere (fun x => spilled.contains x) mark s.eng.spill
  let s1 := { s with eng := { s.eng with spill := sp } }
  let s2 := s1.modBank b (fun b => { b with frontier := f, queue := b.queue.map pass })
  if n = 0 then s2 else s2.count b.ctx b.job (cniOf b.site) n 0

/-- A bank's home lies within a scope of a cluster. -/
def Bank.within (b : Bank) (scope : Scope) (site : Site) : Bool :=
  match scope with
  | .cl => b.die == site.die && b.cluster == site.cluster
  | .die => b.die == site.die
  | _ => true

/-- Another package of the domain may hold a bank of the job: whether one does is not in the state. -/
def State.banksAway (s : State) (ctx : Nat) (scope : Scope) : Bool :=
  scope == .sys && s.mclUp && !s.link.routes.isEmpty && (s.ctx? ctx).any (fun c => c.domain.isSome)

/-- One lane of EVADV: whether it waits for banks to set their frontiers, its status, and the state (16 R388). NOT_BOUND at .sys, with
no bank here, is free while other packages may hold one (log 61). -/
def State.evadvLane (s : State) (gid l : Nat) (a b : XReg) (scope : Scope) : Bool × Nat × State :=
  match s.group? gid with
  | none => (false, 0, s)
  | some g =>
    let x := (g.lane l).rx a
    let y := (g.lane l).rx b
    if bitsAt x 6 58 ≠ 0 || bitsAt y 32 32 ≠ 0 then (false, 2, s)
    else
      let hit := s.banks.filter (fun b => b.ctx == g.ctx && b.job == bitsAt x 0 6 && b.within scope g.site)
      let (n, s1) := s.free
      if hit.isEmpty then
        if s.banksAway g.ctx scope && Config.freeValue n % 2 = 1 then (true, 0, s1)
        else (false, 3, if s.banksAway g.ctx scope then s1 else s)
      else (true, 0, hit.foldl (fun s b => s.advance b (bitsAt y 0 32)) s)

/-- An EVADV.sys of another package of the domain, for a context and job of this one (16 R388). -/
def State.outsideAdvance (s : State) (ctx job t : Nat) : State :=
  if (s.ctx? ctx).any (fun c => c.domain.isSome) && s.ctxTakes ctx then
    (s.banks.filter (fun b => b.ctx == ctx && b.job == job)).foldl (fun s b => s.advance b (t % 2 ^ 32)) s
  else s

/-- EVADV: at .die or wider the path parks until every bank has set its frontier, and x[d] is written then (13 R327). -/
def execEvadv (g : Guard) (d a b : XReg) (scope : Scope) (s : State) : Out :=
  if scope.wide then
    let (n, s1) := s.free
    let at_ := s.clk + 1 + Config.freeValue n % 4096
    parkWord g (fun s gid l =>
      let r := s.evadvLane gid l a b scope
      .ok () (if r.1 then r.2.2.modLane gid l (fun x => x.startWait ⟨.ack r.2.1, d, some at_, s.clk, false⟩) else r.2.2.putX gid l d r.2.1)) s1
  else laneWord g (fun s gid l => let r := s.evadvLane gid l a b scope; .ok () (r.2.2.putX gid l d r.2.1)) s

end Sys2Proof.Machine
end

