-- ==== Sys2Proof/Machine/Host.lean ====
section
/-!
DEFINITION. The host interface: command rings and their status (19 R446, R447), the commands that create and configure contexts
and functions (10 R247, R248, 19 R448), doorbells, BAR2 writes and attestation.

A command is a step with operands: function, ring, STATADDR, the first word of its record (CMD, CTXNUM, reserved bytes), and from the
fifth on its parameters.
-/

namespace Sys2Proof.Machine

open Sys2Proof

/-! Commands and their status. -/

/-- What a command came to: its status and result at once, or later; or nothing, when its operands name no outcome. -/
inductive CmdOut where
  | now (status result : Nat) (s : State)
  | later (kind ctx obj : Nat) (s : State)
  | idle

def Func.ring? (f : Func) (r : Nat) : Option CmdRing := f.rings.find? (fun x => x.num == r)

def State.func? (s : State) (n : Nat) : Option Func := s.link.funcs.find? (fun f => f.num == n)

/-- The status words that may be written: each ring's commands complete in ring order (19 R447). -/
def flushPend (blocked : List (Nat × Nat)) : List PendCmd → List (Nat × Nat × Nat) × List PendCmd
  | [] => ([], [])
  | c :: r =>
    match c.done with
    | some v =>
      if blocked.contains (c.fn, c.ring) then
        let x := flushPend blocked r
        (x.1, c :: x.2)
      else
        let x := flushPend blocked r
        ((c.fn, c.stat, v) :: x.1, x.2)
    | none =>
      let x := flushPend ((c.fn, c.ring) :: blocked) r
      (x.1, c :: x.2)

/-- A waiting command whose end has come: its status word. A command that ended otherwise than asked has a free status. -/
def State.pendDone (s : State) (p : PendCmd) (free : Nat) : Option Nat :=
  match p.kind, s.ctx? p.ctx with
  | 0, some c => if c.st == .preempting then none else if c.st == .saved then some 0 else some (free % 256)
  | 1, some c => if c.st == .resident || c.st == .running then (if c.saved.isNone then some 0 else none) else some (free % 256)
  | 2, none => some 0
  | 2, some _ => none
  | 3, some c => if c.objs.any (fun o => o.num == p.obj && o.st == 0) then none else some 0
  | _, none => some (free % 256)
  | _, some _ => none

/-- Writes by DMA the status of every command that may complete. -/
def State.flushCmds (s : State) : State :=
  let pend := s.link.pend.map (fun p => if p.done.isSome then p else { p with done := s.pendDone p (Config.freeValue s.freeN) })
  let x := flushPend [] pend
  { s with link := { s.link with pend := x.2, dma := s.link.dma ++ x.1 }, freeN := s.freeN + 1 }

/-- CMD and CTXNUM of the record of a command (19 R447). -/
def State.cmdCode (s : State) : Nat := fieldAt (s.arg 3) 0 16
def State.cmdCtx (s : State) : Nat := fieldAt (s.arg 3) 16 16

/-- Runs the command at the head of ring arg 1 of function arg 0, where its CMD is `cmd`; a record for another command waits for its
own step. A CMD that names no command and reserved bytes that are not zero return BAD_PARAM (log 108). -/
def State.command (s : State) (cmd : Nat) (only0 : Bool) (f : State → Func → CmdOut) : Out :=
  match s.func? (s.arg 0) with
  | none => .next s
  | some fn =>
    match fn.ring? (s.arg 1) with
    | none => .next s
    | some q =>
      let known := s.cmdCode != 0 && decide (s.cmdCode ≤ 0x16)
      if !s.plat.ready || q.head = q.tail || (known && s.cmdCode != cmd) then .next s
      else
        let r := q.num
        let step (x : CmdRing) : CmdRing := if x.num = r then { x with head := (x.head + 1) % 2 ^ 32 } else x
        let take (t : State) : State :=
          { t with link := { t.link with funcs := updWhere (fun y => y.num == fn.num) (fun y => { y with rings := y.rings.map step }) t.link.funcs } }
        let owe (t : State) (p : PendCmd) : Out := .next ({ t with link := { t.link with pend := t.link.pend ++ [p] } }).flushCmds
        match (if !known || fieldAt (s.arg 3) 32 32 ≠ 0 then CmdOut.now 6 0 s
            else if only0 && fn.num != 0 then CmdOut.now 5 0 s else f s fn) with
        | .now st res t => owe (take t) ⟨fn.num, r, s.arg 2, some (st % 256 + 256 * (res % 2 ^ 56)), 0, 0, 0⟩
        | .later k c o t => owe (take t) ⟨fn.num, r, s.arg 2, none, k, c, o⟩
        | .idle => .next s

/-- A command that names a context (19 R447): NO_CONTEXT, or DENIED for a virtual function that did not create it. -/
def State.ctxCommand (s : State) (cmd : Nat) (f : State → Func → Ctx → CmdOut) : Out :=
  s.command cmd false (fun s fn =>
    match s.ctx? s.cmdCtx with
    | none => .now (if fn.num = 0 then 7 else 5) 0 s
    | some c => if fn.num ≠ 0 && c.fn ≠ fn.num then .now 5 0 s else f s fn c)

/-- A range lies within a function's window (19 R446). -/
def Func.holds (f : Func) (pa n : Nat) : Bool := decide (f.base ≤ pa) && decide (pa + n ≤ f.base + f.size)

def isPow2 (n : Nat) : Bool := n != 0 && 2 ^ Nat.log2 n == n

/-! Contexts (10 R247, R248). -/

/-- A descriptor's fields from its sixteen words. -/
def descOf (w : List Word) : Desc :=
  let f (i : Nat) : Word := w.getD i 0
  { exTimeout := bitsAt (f 0) 32 16, saveDl := bitsAt (f 0) 48 16, ptRoot := (f 1).toNat, shell := (f 3).toNat,
    shellSize := (f 4).toNat, husk := (f 5).toNat, huskSize := (f 6).toNat, efRing := (f 7).toNat, efCount := bitsAt (f 8) 0 32,
    efEntry := (f 9).toNat, sdata := f 10 }

/-- Reserved bytes zero and every field within its limits (10 R247, 12 R302, 18 R409, 19 R446). CTXNUM, which the device assigns, is not
looked at (log 118). -/
def descOk (fn : Func) (w : List Word) : Bool :=
  let d := descOf w
  let tvec := (w.getD 2 0).toNat
  bitsAt (w.getD 0 0) 16 16 == 0 && bitsAt (w.getD 8 0) 32 32 == 0 && (w.drop 11).all (fun x => x == 0) &&
  decide (100 ≤ d.saveDl) && d.ptRoot / 2 ^ 40 == 0 && d.ptRoot % 2 ^ 17 == 0 && tvec % 256 == 0 &&
  d.shell % 4096 == 0 && fn.holds d.shell d.shellSize && d.husk % 4096 == 0 && fn.holds d.husk d.huskSize &&
  d.huskSize != 0 && d.huskSize % 2 ^ 19 == 0 && d.efRing % 32 == 0 && isPow2 d.efCount && decide (16 ≤ d.efCount) &&
  decide (d.efCount ≤ 65536) && fn.holds d.efRing (32 * d.efCount) && d.efEntry % 8 == 0

def Ctx.new (num fn addr : Nat) (w : List Word) : Ctx :=
  { num := num, st := .created, fn := fn, descAddr := addr, desc := descOf w, tvec := w.getD 2 0, clflags := [], efNext := 0, efs := [],
    objs := [], queues := [], launches := [], ttBase := 0, ttCount := 0, tt := [], stopAt := none, boundary := false, saveWait := 0,
    stallEnd := 0, viol := false,
    faultCause := 0, faultSub := 0, faultMaster := 0, faultAddr := 0, faultSite := 0, saved := none, domain := none }

/-- The husk header of each partition at creation (12 R302). -/
def State.clearHusk (s : State) (c : Ctx) : State :=
  (List.range 128).foldl (fun s n =>
    let p := c.desc.husk + n * (c.desc.huskSize / 128)
    s.physWriteWords p [0, 0, BitVec.ofNat 64 (c.nslot % 2 ^ 32), 0]) s

/-- CREATE: P0 is the descriptor, P1 the number that the firmware takes. -/
def execCreate (s : State) : Out :=
  s.command 0x01 false (fun s fn =>
    let addr := s.arg 4
    let num := s.arg 5
    let mine := (s.ctxs.filter (fun c => c.fn == fn.num)).length
    if addr % 128 ≠ 0 || !fn.holds addr 128 then .now 6 0 s
    else
      let (w, s1) := s.physReadWords addr 16
      if !descOk fn w then .now 2 0 s1
      else if fn.quota ≤ mine || 4095 ≤ s.ctxs.length then .now 7 0 s1
      else if num = 0 || 4095 < num || (s.ctx? num).isSome then .idle
      else
        let c := Ctx.new num fn.num addr w
        let s2 := s1.physWrite addr (toBytes 2 num)
        .now 0 num (({ s2 with ctxs := s2.ctxs ++ [c] }).clearHusk c))

def execReside (s : State) : Out :=
  s.ctxCommand 0x02 (fun s _ c =>
    if c.st != .created then .now 1 0 s
    else
      let (w, s1) := s.physReadWords c.descAddr 16
      match s.func? c.fn with
      | none => .now 2 0 s1
      | some owner =>
        if !descOk owner w then .now 2 0 s1
        else .now 0 0 (s1.modCtx c.num (fun x => { x with st := .resident, desc := descOf w, tvec := w.getD 2 0 })))

def execPreempt (s : State) : Out :=
  s.ctxCommand 0x03 (fun s _ c =>
    if (c.st == .running || c.st == .resident) && !c.viol then .later 0 c.num 0 (s.requestPreempt c.num) else .now 1 0 s)

def execRestore (s : State) : Out :=
  s.ctxCommand 0x04 (fun s _ c =>
    match c.st, c.saved with
    | .saved, some sv =>
      let (ok, s1) := s.shellValid c sv
      if ok then .later 1 c.num 0 (s1.beginRestore c sv) else .now 3 0 s1
    | _, _ => .now 1 0 s)

def execKill (s : State) : Out := s.ctxCommand 0x05 (fun s _ c => .later 2 c.num 0 (s.killCtx c.num))

/-- What keeps a context from DESTROY: a group placed or a message being sent; of a context that is not saved or faulted, any work
in flight (of those, the held work goes with the context). -/
def State.busyCtx (s : State) (c : Ctx) : Bool :=
  s.groups.any (fun g => g.ctx == c.num) || s.link.tx.any (fun m => m.ctx == c.num) ||
  ((c.st == .created || c.st == .resident) && (s.workLeft c.num || s.eng.flights.any (fun r => r.ctx == c.num) ||
    s.eng.front.any (fun r => r.ctx == c.num)))

/-- DESTROY frees the number of a context with no group placed and no work in flight. -/
def execDestroy (s : State) : Out :=
  s.ctxCommand 0x06 (fun s _ c =>
    let st := c.st == .created || c.st == .resident || c.st == .saved || c.st == .faulted
    if !st || s.busyCtx c then .now 1 0 s
    else
      let s1 := ((s.dropWork c.num).freePlaces c.num).dropTables c.num
      .now 0 0 { s1 with
        ctxs := s1.ctxs.filter (fun y => y.num != c.num),
        plat := { s1.plat with displaced := s1.plat.displaced.filter (· != c.num) },
        link := { s1.link with
          xcfg := s1.link.xcfg.filter (fun y => y.ctx != c.num), rx := s1.link.rx.filter (fun y => y.ctx != c.num),
          peers := s1.link.peers.filter (fun y => y.ctx != c.num) } })

/-! Launch queues and timetables (12 R289, R296). -/

/-- LQCFG: queue, priority, base, entries. -/
def execLqcfg (s : State) : Out :=
  s.ctxCommand 0x09 (fun s _ c =>
    let q := s.arg 4
    let n := s.arg 7
    let own := s.func? c.fn
    if 16 ≤ q || 4 ≤ s.arg 5 || !isPow2 n || n < 16 || 4096 < n || s.arg 6 % 16 ≠ 0 || !own.any (fun f => f.holds (s.arg 6) (16 * n)) then
      .now 6 0 s
    else if c.queues.any (fun x => x.num == q && x.taken != x.written) then .now 4 0 s
    else
      let one : LQueue := { num := q, prio := s.arg 5, base := s.arg 6, entries := n, taken := 0, written := 0 }
      .now 0 0 (s.modCtx c.num (fun x => { x with queues := one :: x.queues.filter (fun y => y.num != q) })))

/-- TTCFG: base, count. -/
def execTtcfg (s : State) : Out :=
  s.ctxCommand 0x0A (fun s _ c =>
    let own := s.func? c.fn
    if 256 < s.arg 5 || s.arg 4 % 32 ≠ 0 || !own.any (fun f => f.holds (s.arg 4) (32 * s.arg 5)) then .now 6 0 s
    else .now 0 0 (s.modCtx c.num (fun x => { x with ttBase := s.arg 4, ttCount := s.arg 5, tt := [] })))

/-! Transport configuration (19 R437 to R439, R444). -/

def State.xcfg? (s : State) (ctx : Nat) : Option XCfg := s.link.xcfg.find? (fun x => x.ctx == ctx)

def State.xcfgOf (s : State) (ctx : Nat) : XCfg := (s.xcfg? ctx).getD ⟨ctx, [], 0, 0, 0, 0, 0, []⟩

def State.setXcfg (s : State) (x : XCfg) : State :=
  { s with link := { s.link with xcfg := x :: s.link.xcfg.filter (fun y => y.ctx != x.ctx) } }

/-- The four configurations of a context that return BUSY while it runs. -/
def State.xCommand (s : State) (cmd : Nat) (bad : State → Func → Bool) (f : State → XCfg → XCfg) : Out :=
  s.ctxCommand cmd (fun s fn c =>
    if c.st == .running then .now 4 0 s
    else if bad s fn then .now 6 0 s
    else .now 0 0 (s.setXcfg (f s (s.xcfgOf c.num))))

/-- XQCFG: die, base, slots. -/
def execXqcfg (s : State) : Out :=
  s.xCommand 0x0B (fun s _ => 8 ≤ s.arg 4 || s.arg 5 % 64 ≠ 0 || 2 ^ 56 ≤ s.arg 5 || !isPow2 (s.arg 6) || s.arg 6 < 64 || 65536 < s.arg 6)
    (fun s x => { x with rings := (s.arg 4, s.arg 5, s.arg 6, 0) :: x.rings.filter (fun r => r.1 != s.arg 4) })

/-- PEERCFG: base, count. -/
def execPeercfg (s : State) : Out :=
  s.xCommand 0x0C (fun s _ => 65536 < s.arg 5 || 2 ^ 56 ≤ s.arg 4) (fun s x => { x with peerBase := s.arg 4, peerCount := s.arg 5 })

/-- LANDCFG: base, count, landing key. -/
def execLandcfg (s : State) : Out :=
  s.xCommand 0x0D (fun s _ => 4096 < s.arg 5 || 2 ^ 56 ≤ s.arg 4 || 2 ^ 32 ≤ s.arg 6)
    (fun s x => { x with landBase := s.arg 4, landCount := s.arg 5, landKey := s.arg 6 })

/-- CPAGECFG: die, base. The page's reserved bytes from 192 on read as 0 (20 R453). -/
def execCpagecfg (s : State) : Out :=
  let zero (o : Out) : Out := match o with
    | .next t =>
      let was := s.link.xcfg.flatMap (fun x => x.pages.map (fun p => (x.ctx, p.2.1)))
      let new := (t.link.xcfg.flatMap (fun x => x.pages.map (fun p => (x.ctx, p.2.1)))).filter (fun p => !was.contains p)
      .next (new.foldl (fun t p => t.physWriteWords (p.2 + 192) (List.replicate 488 0)) t)
    | o => o
  zero (s.xCommand 0x0E (fun s fn => 8 ≤ s.arg 4 || s.arg 5 % 2 ^ 21 ≠ 0 || !fn.holds (s.arg 5) (2 ^ 21))
    (fun s x => { x with pages := (s.arg 4, s.arg 5, 0) :: x.pages.filter (fun r => r.1 != s.arg 4) }))

/-! Domain, periods and functions (17 R400, 18 R423, 19 R428, R432, R434, R446). -/

/-- DBIND: the pairs of domain index and context number; the pair of this package names the context it joins, under the
domain context whose number is that of the first pair. -/
def execDbind (s : State) : Out :=
  s.command 0x0F true (fun s _ =>
    let ps := pairsOf (s.pick.drop 4)
    match ps.find? (fun p => p.1 == s.link.domIndex) with
    | none => .now 6 0 s
    | some p =>
      if ps.any (fun p => 256 ≤ p.1 || p.2 = 0 || 4095 < p.2) || (ps.map (·.1)).dedup.length ≠ ps.length then .now 6 0 s
      else if (s.ctx? p.2).isNone then .now 7 0 s
      else .now 0 0 (s.modCtx p.2 (fun c => { c with domain := (ps.head?).map (·.2) })))

/-- Routes of a flat list: a domain index and four ports, 48 or more for none. -/
def routesOf : List Nat → List (Nat × List Nat)
  | i :: a :: b :: c :: d :: r => (i, [a, b, c, d].filter (· < 48)) :: routesOf r
  | _ => []

/-- DOMAIN: the domain index and the route table. -/
def execDomain (s : State) : Out :=
  s.command 0x12 true (fun s _ =>
    let rs := routesOf (s.pick.drop 5)
    if 256 ≤ s.arg 4 || rs.any (fun r => 256 ≤ r.1 || r.1 = s.arg 4 || r.2.isEmpty) || (rs.map (·.1)).dedup.length ≠ rs.length then .now 6 0 s
    else
      let s1 := { s with link := { s.link with domIndex := s.arg 4, routes := rs, via := [] } }
      let via := rs.filterMap (fun r => (s1.routePort? r.1).map (fun p => (r.1, p)))
      .now 0 0 { s1 with link := { s1.link with via := via } })

/-- RCPERIOD: steps of 0.5 us. -/
def execRcperiod (s : State) : Out :=
  s.command 0x13 true (fun s _ =>
    if s.arg 4 = 0 || 2000 < s.arg 4 then .now 6 0 s else .now 0 0 { s with roll := { s.roll with period := s.arg 4 } })

/-- SCRUBPERIOD: hours. -/
def execScrubperiod (s : State) : Out :=
  s.command 0x14 true (fun s _ =>
    if s.arg 4 = 0 || 168 < s.arg 4 then .now 6 0 s else .now 0 0 { s with plat := { s.plat with scrubHours := s.arg 4 } })

/-- PTPSRC: an Ethernet port. -/
def execPtpsrc (s : State) : Out :=
  s.command 0x15 true (fun s _ =>
    if !s.link.ports.any (fun p => p.num == s.arg 4 && !p.mcl) then .now 6 0 s
    else .now 0 0 { s with link := { s.link with ptpPort := some (s.arg 4), ptpLocked := false } })

/-- FUNCCFG: function, window base, window size, context quota. -/
def execFunccfg (s : State) : Out :=
  s.command 0x16 true (fun s _ =>
    if 65 ≤ s.arg 4 || 2 ^ 36 < s.arg 6 || memLimit < s.arg 5 + s.arg 6 || 4095 < s.arg 7 then .now 6 0 s
    else
      let was := (s.func? (s.arg 4)).getD ⟨s.arg 4, 0, 0, 0, (List.range 8).map CmdRing.initial⟩
      let f : Func := { was with base := s.arg 5, size := s.arg 6, quota := s.arg 7 }
      .now 0 0 { s with link := { s.link with funcs := f :: s.link.funcs.filter (fun x => x.num != f.num) } })

/-! Doorbells, BAR2 and attestation (19 R446, R449, 20 R457). -/

/-- COMMAND_DOORBELL: function, ring, the new tail; one more than the ring's entries ahead of its head is ignored (log 109). -/
def execCommandDoorbell (s : State) : Out :=
  if !s.plat.ready then .next s
  else
    let ahead (x : CmdRing) : Nat := (s.arg 2 + 2 ^ 32 - x.head) % 2 ^ 32
    let ring (x : CmdRing) : CmdRing :=
      if x.num = s.arg 1 && decide (ahead x ≤ x.entries) then { x with tail := s.arg 2 % 2 ^ 32 } else x
    .next { s with link := { s.link with
      funcs := updWhere (fun f => f.num == s.arg 0) (fun f => { f with rings := f.rings.map ring }) s.link.funcs } }

/-- An entry of the platform log (20 R455): a code of the event and its subject. -/
def State.logPlat (s : State) (code subject : Nat) : State := { s with plat := { s.plat with log := (code, subject) :: s.plat.log } }

/-- LAUNCH_DOORBELL: function, the 8 bytes written (12 R289, 19 R446). -/
def execLaunchDoorbell (s : State) : Out :=
  let w := BitVec.ofNat 64 (s.arg 1)
  let written := bitsAt w 16 32
  match s.ctx? (bitsAt w 0 12) with
  | none => .next (s.logPlat 1 w.toNat)
  | some c =>
    if c.fn ≠ s.arg 0 || bitsAt w 48 16 ≠ 0 then .next (s.logPlat 1 w.toNat)
    else
      let ring (q : LQueue) : LQueue :=
        let ahead := (written + 2 ^ 32 - q.taken) % 2 ^ 32
        if q.entries < ahead then q else { q with written := written }
      .next (s.modCtx c.num (fun x => { x with queues := updWhere (fun q => q.num == bitsAt w 12 4) ring x.queues }))

/-- Writes bytes at a physical address, one after the other. -/
def State.physBytes (s : State) (pa : Nat) (bs : List Byte) : State := (bs.zipIdx pa).foldl (fun s x => s.physWrite x.2 [x.1]) s

/-- HOST_BAR2_WRITE: function, offset in its window, the bytes. -/
def execHostBar2Write (s : State) : Out :=
  match s.func? (s.arg 0) with
  | none => .next s
  | some f =>
    let bs : List Byte := (s.pick.drop 2).map (BitVec.ofNat 8)
    if f.size < s.arg 1 + bs.length then .next s
    else if memLimit < f.base + s.arg 1 + bs.length then .fault (.noSuchMemory (f.base + s.arg 1))
    else .next (s.physBytes (f.base + s.arg 1) bs)

/-- The spare map in use, as numbers. -/
def unitCode : PUnit_ → Nat
  | .quad d c q => 1 + 8 * (d + 8 * (c + 16 * q))
  | .cluster d c => 2 + 8 * (d + 8 * c)
  | .bank d sl b => 3 + 8 * (d + 8 * (sl + 16 * b))
  | .channel st ch => 4 + 8 * (st + 16 * ch)
  | .lane p l => 5 + 8 * (p + 64 * l)

/-- The spares in use: those mapped in for units, and the spare lane of each port that has lost one data lane (19 R430, 20 R457). -/
def State.sparesInUse (s : State) : List Nat :=
  s.plat.spared.map unitCode ++ (s.link.ports.filter (fun p => p.dataBad != 0 && !p.spareBad)).map (fun p => unitCode (.lane p.num 4))

/-- SPDM_REQUEST: with arg 0 = 0 the measurements of 20 R457 in order, and two signatures over them by the device key (free values);
with arg 0 = 1 the host reads the platform log, by the same interface (20 R455). -/
def execSpdmRequest (s : State) : Out :=
  if !s.plat.ready then .next s
  else if s.arg 0 = 1 then
    .next { s with link := { s.link with spdm := s.link.spdm ++ [s.plat.log.flatMap (fun e => [e.1, e.2])] } }
  else
    let m := [s.plat.fwDigest, s.plat.fwVersion, s.plat.dtVersion, s.plat.dtDigest] ++ s.sparesInUse
    let (a, s1) := s.free
    let (b, s2) := s1.free
    .next { s2 with link := { s2.link with spdm := s2.link.spdm ++ [m ++ [Config.freeValue a, Config.freeValue b]] } }

end Sys2Proof.Machine
end

