-- ==== Sys2Proof/Machine/Loader.lean ====
section
/-!
DEFINITION. Kernel objects and the loader: LOAD, its checks, placement and relocation, and UNLOAD (04 R104 to R109, 11 R274 to
R280).
-/

namespace Sys2Proof.Machine

open Sys2Proof

/-! Reads of the loader. -/

/-- The latest value of a byte at a virtual address of a context, as the loader reads it. The loader translates after every write so far:
no table entry that a write has replaced serves it (11 R275, 18 R416). -/
def State.peekByte (s : State) (root ctx va : Nat) : Option Nat :=
  match (s.mem.translate root 0 ctx true va needR s.latest).1 with
  | .ok (pa, _) => if s.mem.poisoned pa 1 then none else some (s.mem.byteAt pa).toNat
  | _ => none

def State.peekOk (s : State) (root ctx va n : Nat) : Bool :=
  decide (va + n ≤ 2 ^ 56) && (List.range n).all (fun i => (s.peekByte root ctx (va + i)).isSome)

def State.peek (s : State) (root ctx va n : Nat) : Nat := ofBytes ((List.range n).map (fun i => (s.peekByte root ctx (va + i)).getD 0))

/-- An object's bytes by offset; beyond its end they read zero. -/
structure ObjView where
  size : Nat
  get : Nat → Nat → Nat

def State.objView (s : State) (root ctx base size : Nat) : ObjView :=
  ⟨size, fun off n => if off + n ≤ size then s.peek root ctx (base + off) n else 0⟩

/-- The pages a range lies on. -/
def pagesOf (va size : Nat) : List Nat :=
  if size = 0 then [] else (List.range ((va + size - 1) / 2 ^ 21 - va / 2 ^ 21 + 1)).map (fun i => (va / 2 ^ 21 + i) * 2 ^ 21)

/-! The load request (11 R275). -/

structure LoadReq where
  obj : Nat
  size : Nat
  cap : Nat
  res : Nat
  hint : Nat
deriving DecidableEq, Repr

/-- The request at an address, none for BAD_REQUEST. -/
def State.loadReq (s : State) (c : Ctx) (va : Nat) : Option LoadReq :=
  let root := c.desc.ptRoot
  let f (off n : Nat) : Nat := s.peek root c.num (va + off) n
  let r : LoadReq := ⟨f 0 8, f 8 8, f 20 4, f 24 8, f 32 8⟩
  if !s.peekOk root c.num va 64 || r.obj % 8 ≠ 0 || r.size < 64 || 2 ^ 32 < r.size || f 16 2 ≠ c.num || f 18 2 ≠ 0 ||
      65535 < r.cap || r.res % 8 ≠ 0 || r.hint % 65536 ≠ 0 || f 40 8 ≠ 0 || f 48 8 ≠ 0 || f 56 8 ≠ 0 || 2 ^ 56 ≤ r.res ||
      2 ^ 56 ≤ r.hint || !s.peekOk root c.num r.obj r.size then none
  else if 2 ^ 56 < r.res + 64 + 16 * r.cap then none
  else
    -- the record is writable with all the entries it may hold
    let ok (page : Nat) : Bool := match (s.engTranslate ⟨c.num, true, s.latest, ⟨0, 0⟩⟩ (max r.res page) needW).1 with
      | .ok _ => true
      | _ => false
    if (pagesOf r.res (64 + 16 * r.cap)).all ok then some r else none

/-! Tables of an object (04 R105, R106). -/

structure Sect where
  ty : Nat
  alog : Nat
  off : Nat
  size : Nat
deriving DecidableEq, Repr

structure Reloc where
  place : Nat
  sect : Nat
  ty : Nat
  sym : Nat
  addend : Int
deriving DecidableEq, Repr

structure Symb where
  value : Nat
  sect : Nat
  kind : Nat
  name : Nat
deriving DecidableEq, Repr

def ObjView.nsect (o : ObjView) : Nat := o.get 24 2
def ObjView.nentry (o : ObjView) : Nat := o.get 26 2
def ObjView.ntray (o : ObjView) : Nat := o.get 28 2
def ObjView.sectAt (o : ObjView) (i : Nat) : Nat := o.get 32 8 + 24 * i
def ObjView.entAt (o : ObjView) (i : Nat) : Nat := o.get 40 8 + 16 * i
def ObjView.trayAt (o : ObjView) (i : Nat) : Nat := o.get 48 8 + 8 * i

def ObjView.sect (o : ObjView) (i : Nat) : Sect :=
  let p := o.sectAt i
  ⟨o.get p 1, o.get (p + 1) 1, o.get (p + 8) 8, o.get (p + 16) 8⟩

def ObjView.sects (o : ObjView) : List Sect := (List.range o.nsect).map o.sect

/-- The section of a type. -/
def ObjView.only (o : ObjView) (ty : Nat) : Option Sect := o.sects.find? (fun x => x.ty == ty)

/-- The offsets of the entries of a table section; bytes after its last whole entry are no entry (log 90; a regions
section with such bytes is refused by `checkRegions`). -/
def ObjView.rowsOf (o : ObjView) (ty width : Nat) : List Nat :=
  match o.only ty with
  | none => []
  | some x => (List.range (x.size / width)).map (fun i => x.off + width * i)

def ObjView.symb (o : ObjView) (p : Nat) : Symb := ⟨o.get p 8, o.get (p + 8) 1, o.get (p + 9) 1, o.get (p + 12) 4⟩
def ObjView.symbs (o : ObjView) : List Symb := (o.rowsOf 5 16).map o.symb
def ObjView.reloc (o : ObjView) (p : Nat) : Reloc :=
  ⟨o.get p 6, o.get (p + 6) 1, o.get (p + 7) 1, o.get (p + 8) 4, sextInt 32 (o.get (p + 12) 4)⟩
def ObjView.relocs (o : ObjView) : List Reloc := (o.rowsOf 4 16).map o.reloc

/-! The checks (11 R276). A check is a list of places with whether each is right; the first wrong one is its detail. -/

abbrev Checks := List (Nat × Bool)

def firstBad (l : Checks) : Option Nat := (l.find? (fun x => !x.2)).map (·.1)

def ObjView.checkHeader (o : ObjView) : Checks := [(0, o.get 0 4 == 0x4F4B4D5A), (4, o.get 4 2 == 1)]

def ObjView.checkReserved (o : ObjView) : Checks :=
  [(6, decide (o.get 6 2 < 2)), (8, decide (o.get 8 8 < 128)), (30, o.get 30 2 == 0), (56, o.get 56 8 == 0)] ++
  (List.range o.nsect).map (fun i => (o.sectAt i + 2, o.get (o.sectAt i + 2) 6 == 0)) ++
  (List.range o.nentry).map (fun i => (o.entAt i + 13, o.get (o.entAt i + 13) 3 == 0)) ++
  (List.range o.ntray).map (fun i => (o.trayAt i + 6, o.get (o.trayAt i + 6) 2 == 0)) ++
  (o.rowsOf 5 16).map (fun p => (p + 10, o.get (p + 10) 2 == 0))

/-- A table or a section lies in the object; the field named is its offset. A relocation names a section and a place in it. -/
def ObjView.checkBounds (o : ObjView) : Checks :=
  [(32, decide (o.sectAt o.nsect ≤ o.size)), (40, decide (o.entAt o.nentry ≤ o.size)), (48, decide (o.trayAt o.ntray ≤ o.size))] ++
  (List.range o.nsect).map (fun i => (o.sectAt i + 8, decide ((o.sect i).off + (o.sect i).size ≤ o.size))) ++
  (o.rowsOf 4 16).flatMap (fun p =>
    let r := o.reloc p
    [(p + 6, decide (r.sect < o.nsect)), (p, decide (r.place + 8 ≤ (o.sect r.sect).size))])

def ObjView.codeSize (o : ObjView) : Nat := ((o.only 1).map (·.size)).getD 0

/-- A group size of R104. -/
def sizeOk (n : Nat) : Bool := n == 1 || n == 4 || n == 8 || n == 16 || n == 32

/-- A name that begins in the strings section ends there with a zero byte. -/
def ObjView.nameEnds (o : ObjView) (name : Nat) : Bool :=
  (o.only 6).any (fun x => (List.range (x.size - name)).any (fun i => o.get (x.off + name + i) 1 == 0))

/-- Section i: a type at most once, the alignment and the size of code (04 R106). -/
def ObjView.sectLimits (o : ObjView) (i : Nat) : Checks :=
  let x := o.sect i
  let p := o.sectAt i
  [(p, decide (1 ≤ x.ty) && decide (x.ty ≤ 7) && (List.range i).all (fun j => (o.sect j).ty != x.ty)),
    (p + 1, x.ty != 1 || decide (3 ≤ x.alog)), (p + 16, x.ty != 1 || x.size % 8 == 0)]

/-- An entry: its code offset lies in the code, at a multiple of 8. An offset equal to the size of the code, where no word stands, is
refused as LIMIT (log 110). -/
def ObjView.entryLimits (o : ObjView) (i : Nat) : Checks :=
  let p := o.entAt i
  [(p, o.get p 8 % 8 == 0 && decide (o.get p 8 < o.codeSize) && (o.get (p + 12) 1 != 0 || o.get p 8 == 0)),
    (p + 8, decide (o.get (p + 8) 4 < o.symbs.length)), (p + 12, decide (o.get (p + 12) 1 ≤ 2))]

def ObjView.trayLimits (o : ObjView) (i : Nat) : Checks :=
  let p := o.trayAt i
  let n := o.get (p + 1) 1
  [(p, decide (o.get p 1 ≤ 15)), (p + 1, sizeOk n && n != 1), (p + 2, o.get (p + 2) 2 != 0), (p + 4, decide (o.get (p + 4) 2 < o.nentry))]

/-- A symbol: its value within its section, whose end it may be (log 90), or within the argument block, which section 0xFF and kind 2
name together. -/
def ObjView.symbLimits (o : ObjView) (p : Nat) : Checks :=
  let y := o.symb p
  [(p, if y.sect = 0xFF then decide (y.value < o.get 20 4) else decide (y.value ≤ (o.sect y.sect).size)),
    (p + 8, if y.kind = 2 then y.sect == 0xFF else decide (y.sect < o.nsect) && y.sect != 0xFF), (p + 9, decide (y.kind ≤ 2)),
    (p + 12, o.nameEnds y.name)]

def ObjView.checkLimits (o : ObjView) : Checks :=
  let launches := ((List.range o.nentry).filter (fun i => o.get (o.entAt i + 12) 1 == 0))
  [(16, sizeOk (o.get 16 1)), (17, decide (1 ≤ o.get 17 1) && decide (o.get 17 1 ≤ 64)),
    (18, o.get 18 2 % 8 == 0 && decide (o.get 18 2 ≤ 304)), (24, (o.only 1).isSome), (26, launches.length == 1),
    (28, decide (o.ntray ≤ 16))] ++
  (List.range o.nsect).flatMap o.sectLimits ++ (List.range o.nentry).flatMap o.entryLimits ++
  (List.range o.ntray).flatMap o.trayLimits ++ (o.rowsOf 5 16).flatMap o.symbLimits ++
  (o.rowsOf 4 16).map (fun p => (p + 8, decide ((o.reloc p).sym < o.symbs.length)))

/-- A word of format I (03 R90). -/
def isFormatI (w : Nat) : Bool := decide (0x100 ≤ fieldAt w 54 10) && decide (fieldAt w 54 10 < 0x180)

def ObjView.checkRelocs (o : ObjView) : Checks :=
  (o.rowsOf 4 16).flatMap (fun p =>
    let r := o.reloc p
    [(p + 7, r.ty == 1 || r.ty == 2 || r.ty == 3), (p, r.ty == 1 || isFormatI (o.get ((o.sect r.sect).off + r.place) 8))])

/-- A record of the regions section, after the one at `prev`: a region of LENGTH 0 is allowed wherever its START is (log 111). -/
def ObjView.regionLimits (o : ObjView) (prev : Option Nat) (p : Nat) : Checks :=
  let ends (p : Nat) : Nat := o.get p 8 + 8 * o.get (p + 8) 4
  let low := o.get (p + 12) 1
  let fac := o.get (p + 13) 1
  [(p, o.get p 8 % 8 == 0 && decide (o.get p 8 ≤ o.codeSize) && prev.all (fun q => decide (ends q ≤ o.get p 8))),
    (p + 8, decide (ends p ≤ o.codeSize)), (p + 12, decide (low ≤ 2) && (low != 0 || decide (4 ≤ o.get 16 1))),
    (p + 13, if low = 0 then fac == 1 else if low = 1 then decide (2 ≤ fac) && decide (fac ≤ 64) else fac == 0)]

/-- The regions section (04 R109): an object carries it exactly when STOLLIOK is set. A size that is no multiple of 16 is refused here
(log 90). -/
def ObjView.checkRegions (o : ObjView) : Checks :=
  let rows := o.rowsOf 7 16
  (6, (o.only 7).isSome == (o.get 6 2 % 2 == 1)) ::
  ((List.range o.nsect).filter (fun i => (o.sect i).ty == 7)).map (fun i => (o.sectAt i + 16, (o.sect i).size % 16 == 0)) ++
  (rows.zipIdx).flatMap (fun q => o.regionLimits (if q.2 = 0 then none else rows[q.2 - 1]?) q.1)

/-! The code scan (11 R276, R278). -/

/-- The profile of an assigned or zw.wide opcode, as a bit number of PROFILES (03 R89 to R93, R105). -/
def opProfile (op : Nat) : Option Nat :=
  let within (l : List (Nat × Nat)) : Bool := l.any (fun r => decide (r.1 ≤ op) && decide (op ≤ r.2))
  if within [(0, 0xA), (0x10, 0x1E), (0x20, 0x2D), (0x90, 0x9B), (0x100, 0x111), (0x180, 0x188), (0x190, 0x198), (0x1C0, 0x1C7),
      (0x1E0, 0x1E9), (0x1F2, 0x1FA)] then some 0
  else if within [(0x40, 0x59), (0x60, 0x6B), (0x70, 0x76)] then some 1
  else if within [(0x80, 0x88)] then some 2
  else if within [(0x9F, 0xA1), (0x1F0, 0x1F1)] then some 3
  else if within [(0x9C, 0x9E), (0x1ED, 0x1EF)] then some 4
  else if within [(0xA2, 0xA3), (0x1EA, 0x1EC)] then some 5
  else if within [(0xC0, 0xDF)] then some 6
  else none

/-- The profile of a short opcode (03 R94). -/
def shortProfile (op : Nat) : Option Nat :=
  if 0x70 ≤ op then some 6 else if 0x28 ≤ op && op ≤ 0x2B then some 1 else (SOp.ofCode op).map (fun _ => 0)

/-- An offending slot: offset, OPCODE field, profile. -/
structure Offence where
  off : Nat
  opcode : Nat
  profile : Nat
deriving DecidableEq, Repr

/-- SUGGEST (11 R278). -/
def Offence.suggest (x : Offence) : Nat :=
  if x.profile ≠ 6 then x.profile else if x.opcode / 2 ^ 15 = 1 then 0 else if x.opcode % 512 < 0xD0 then 1 else 2

def Offence.words (x : Offence) : List Word :=
  [BitVec.ofNat 64 x.off,
    BitVec.ofNat 64 (x.opcode + 2 ^ 16 * x.profile + 2 ^ 24 * x.suggest + 2 ^ 32 * (if x.profile = 6 then 1 else 2))]

/-- The slots of a word whose profile is absent or not listed. -/
def scanWord (profiles off w : Nat) : List Offence :=
  let bad (p : Nat) : Bool := p == 6 || profiles / 2 ^ p % 2 == 0
  let one (code : Nat) (p : Option Nat) : List Offence := match p with
    | some p => if bad p then [⟨off, code, p⟩] else []
    | none => []
  match fieldAt w 62 2 with
  | 3 => []
  | 2 =>
    let a := fieldAt w 55 7
    let b := fieldAt w 24 7
    one (a + 2 ^ 15) (shortProfile a) ++ one (b + 2 ^ 15 + 2 ^ 14) (shortProfile b)
  | _ => one (fieldAt w 54 9) (opProfile (fieldAt w 54 9))

def ObjView.scan (o : ObjView) : List Offence :=
  match o.only 1 with
  | none => []
  | some x => (List.range (x.size / 8)).flatMap (fun i => scanWord (o.get 8 8) (8 * i) (o.get (x.off + 8 * i) 8))

/-- What the checks 1 to 8 decide: a status with its detail and its entries, none when all pass. -/
def ObjView.verdict (o : ObjView) : Option (Nat × Nat × List Offence) :=
  match firstBad o.checkHeader with
  | some d => some (1, d, [])
  | none => match firstBad o.checkReserved with
  | some d => some (2, d, [])
  | none => match firstBad o.checkBounds with
  | some d => some (3, d, [])
  | none => match firstBad o.checkLimits with
  | some d => some (4, d, [])
  | none => match firstBad o.checkRelocs with
  | some d => some (5, d, [])
  | none => match firstBad o.checkRegions with
  | some d => some (8, d, [])
  | none =>
    let l := o.scan
    if o.get 8 8 / 64 % 2 = 1 || l.any (fun x => x.profile == 6) then some (6, 0, l)
    else if !l.isEmpty then some (7, 0, l)
    else none

/-! The load result record (11 R277). -/

/-- Writes words at a virtual address of a context, as the loader. -/
def State.loaderWrite (s : State) (c va : Nat) (ws : List Word) : State :=
  (ws.zipIdx).foldl (fun s x => (s.engWrite ⟨c, true, s.latest, ⟨0, 0⟩⟩ (.glob (va + 8 * x.2)) (toBytes 8 x.1.toNat)).2) s

def resultHeader (status objnum nent nfound detail code ro data : Nat) : List Word :=
  [BitVec.ofNat 64 (0x4C524B5A + 2 ^ 32 * status + 2 ^ 48 * objnum), BitVec.ofNat 64 (nent + 2 ^ 32 * nfound), BitVec.ofNat 64 detail,
    BitVec.ofNat 64 code, BitVec.ofNat 64 ro, BitVec.ofNat 64 data, 0, 0]

/-- The record of a refused load; a refused object has no number. -/
def State.refuseLoad (s : State) (c : Nat) (o : KObj) (r : LoadReq) (status detail : Nat) (l : List Offence) : State :=
  let n := min l.length r.cap
  let ws := resultHeader status 0 n l.length detail 0 0 0 ++ (l.take n).flatMap Offence.words
  (s.loaderWrite c r.res ws).modCtx c (fun x => { x with objs := x.objs.filter (fun y => y.num != o.num) })

/-! Free space (04 R107, 11 R276). -/

/-- The entries of a table with V set: index and value. V lies in the first byte of an entry, so that byte is not zero. -/
def MemSys.entriesAt (m : MemSys) (pa bytes : Nat) : List (Nat × Nat) :=
  (m.hbm.filter (fun c => decide (pa ≤ c.1) && decide (c.1 < pa + bytes) && (c.1 - pa) % 8 == 0 && c.2.toNat % 2 == 1)).map
    (fun c => ((c.1 - pa) / 8, m.read c.1 8))

/-- The level-1 tables, span tables and pages of a root table: the first virtual address each serves and its physical address. -/
def MemSys.level1s (m : MemSys) (root : Nat) : List (Nat × Nat) :=
  (m.entriesAt root (2 ^ 17)).map (fun e => (e.1 * 2 ^ 42, e.2 / 2 ^ 17 * 2 ^ 17 % 2 ^ 40))
def MemSys.spans (m : MemSys) (root : Nat) : List (Nat × Nat) :=
  (m.level1s root).flatMap (fun l => (m.entriesAt l.2 (2 ^ 17)).map (fun e => (l.1 + e.1 * 2 ^ 28, e.2 / 2 ^ 10 * 2 ^ 10 % 2 ^ 40)))
def MemSys.pages (m : MemSys) (root : Nat) : List (Nat × Nat) :=
  (m.spans root).flatMap (fun l => (m.entriesAt l.2 1024).map (fun e => (l.1 + e.1 * 2 ^ 21, e.2 / 2 ^ 21 * 2 ^ 21 % 2 ^ 40)))

/-- The physical ranges that contexts use: descriptors, shells, husks, rings, tables, pages and congestion pages (19 R444). -/
def State.heldRanges (s : State) : List (Nat × Nat) :=
  (s.ctxs.flatMap (fun (c : Ctx) =>
    [(c.descAddr, 128), (c.desc.shell, c.desc.shellSize), (c.desc.husk, c.desc.huskSize), (c.desc.efRing, 32 * c.desc.efCount),
      (c.ttBase, 32 * c.ttCount), (c.desc.ptRoot, 2 ^ 17)] ++ c.queues.map (fun q => (q.base, 16 * q.entries)) ++
    (s.mem.level1s c.desc.ptRoot).map (fun l => (l.2, 2 ^ 17)) ++ (s.mem.spans c.desc.ptRoot).map (fun l => (l.2, 1024)) ++
    (s.mem.pages c.desc.ptRoot).map (fun l => (l.2, 2 ^ 21))) ++
    s.link.xcfg.flatMap (fun x => x.pages.map (fun p => (p.2.1, 2 ^ 21))) : List (Nat × Nat)).filter (fun r => r.2 != 0)

/-- A 2 MiB block of memory that no context uses. -/
def State.blockFree (s : State) (p : Nat) : Bool :=
  p % 2 ^ 21 == 0 && decide (p + 2 ^ 21 ≤ memLimit) && !s.heldRanges.any (fun r => overlaps r.1 r.2 p (2 ^ 21))

/-- A range of virtual addresses is free: its pages are unmapped. -/
def rangeFree (used : List Nat) (va size : Nat) : Bool :=
  decide (va + size ≤ 2 ^ 56) && (pagesOf va size).all (fun p => !used.contains p)

/-- The lowest free address from `lo` on at an alignment. -/
def firstFit (used : List Nat) (lo align size : Nat) : Option Nat :=
  let up (a : Nat) : Nat := (a + align - 1) / align * align
  (sortNat ((lo :: (used.map (· + 2 ^ 21)).filter (fun a => decide (lo ≤ a))).map up)).find? (fun a => rangeFree used a size)

/-- Sections, as alignment and size, fit one after another from `lo` on. -/
def packsFrom (used : List Nat) : Nat → List (Nat × Nat) → Bool
  | _, [] => true
  | lo, x :: r => match firstFit used lo x.1 x.2 with
    | none => false
    | some a => packsFrom used (if x.2 = 0 then lo else ((a + x.2 - 1) / 2 ^ 21 + 1) * 2 ^ 21) r

def insertAll {α : Type} (x : α) : List α → List (List α)
  | [] => [[x]]
  | y :: r => (x :: y :: r) :: (insertAll x r).map (fun l => y :: l)

def orders {α : Type} : List α → List (List α)
  | [] => [[]]
  | x :: r => (orders r).flatMap (insertAll x)

/-- Check 9 of 11 R276: the sections fit in the free virtual space, the code at CODEHINT when it is given. -/
def fitsSpace (used : List Nat) (hint : Nat) (sects : List (Nat × Nat)) : Bool :=
  if hint = 0 then (orders sects).any (packsFrom used 0)
  else match sects with
    | [] => true
    | x :: r => hint % x.1 == 0 && rangeFree used hint x.2 && (orders r).any (packsFrom (used ++ pagesOf hint x.2) 0)

/-! Placement (04 R107, 11 R279). -/

/-- A page's mapping, written into the tables; missing tables and the page take the next free blocks of `supply`. -/
structure MapState where
  st : State
  supply : List Nat

/-- Memory that the loader takes for a table starts as zeros. -/
def State.zeroRange (s : State) (pa n : Nat) : State :=
  s.setMem { s.mem with hbm := s.mem.hbm.filter (fun c => !(decide (pa ≤ c.1) && decide (c.1 < pa + n))) }

/-- The table an entry points to, made from the supply when it is absent. -/
def MapState.table (m : MapState) (entry lo bytes : Nat) : Option (Nat × MapState) :=
  let (e, s1) := m.st.physRead entry 8
  if e % 2 = 1 then some (e / 2 ^ lo * 2 ^ lo % 2 ^ 40, { m with st := s1 })
  else match m.supply with
    | [] => none
    | p :: r => if m.st.blockFree p then some (p, ⟨(s1.zeroRange p bytes).physWrite entry (toBytes 8 (p + 1)), r⟩) else none

/-- The address of the PTE of a page, with the tables above it. -/
def MapState.pte (m : MapState) (root va : Nat) : Option (Nat × MapState) :=
  match m.table (root + 8 * (va / 2 ^ 42 % 2 ^ 14)) 17 (2 ^ 17) with
  | none => none
  | some (l1, m1) =>
    match m1.table (l1 + 8 * (va / 2 ^ 28 % 2 ^ 14)) 10 1024 with
    | none => none
    | some (sp, m2) => some (sp + 8 * (va / 2 ^ 21 % 2 ^ 7), m2)

/-- Maps the page of an address, which is not mapped yet, with permissions; what its block held stays there (log 91). -/
def MapState.page (m : MapState) (root va perm : Nat) : Option MapState :=
  match m.pte root va with
  | none => none
  | some (at_, m1) =>
    let (e, s1) := m1.st.physRead at_ 8
    match m1.supply with
    | [] => none
    | p :: r => if e % 2 = 0 && m1.st.blockFree p then some ⟨s1.physWrite at_ (toBytes 8 (p + 2 * perm + 1)), r⟩ else none

/-- A section's range and permissions. -/
structure Place where
  va : Nat
  size : Nat
  perm : Nat
  sect : Nat
deriving DecidableEq, Repr

def mapPages (root perm : Nat) : List Nat → MapState → Option MapState
  | [], m => some m
  | p :: r, m => match m.page root p perm with
    | none => none
    | some m1 => mapPages root perm r m1

/-- Maps the sections one after another. -/
def mapPlaces (root : Nat) : List Place → MapState → Option MapState
  | [], m => some m
  | x :: r, m =>
    if 2 ^ 56 < x.va + x.size then none
    else match mapPages root x.perm (pagesOf x.va x.size) m with
      | none => none
      | some m1 => mapPlaces root r m1

/-- Writes bytes at mapped virtual addresses, whatever their permissions. -/
def State.placeBytes (s : State) (root ctx va : Nat) (bs : List Byte) : State :=
  (bs.zipIdx va).foldl (fun s x => match (s.mem.walk root 0 ctx x.2 s.latest).1 with
    | some pg => s.physWrite (pg.base + x.2 % 2 ^ 21) [x.1]
    | none => s) s

/-- The bytes of a section with one relocation applied. -/
def applyReloc (bs : List Byte) (r : Reloc) (value : Nat) : List Byte :=
  let old := fromBytes ((bs.drop r.place).take 8)
  let half := if r.ty = 2 then value % 2 ^ 32 else value / 2 ^ 32 % 2 ^ 32
  let new := if r.ty = 1 then value else old - 2 ^ 6 * fieldAt old 6 32 + 2 ^ 6 * half
  bs.take r.place ++ toBytes 8 new ++ bs.drop (r.place + 8)

/-- The value of a symbol plus an addend. An argument, and a symbol of a section that is not placed, has no address to add (log 91). -/
def symbValue (y : Symb) (places : List Place) (addend : Int) : Nat :=
  let base := ((places.find? (fun p => p.sect == y.sect)).map (·.va)).getD 0
  (((y.value + base : Nat) : Int) + addend).emod (2 ^ 64) |>.toNat

def ObjView.placed (o : ObjView) (places : List Place) (x : Place) : List Byte :=
  let sc := o.sect x.sect
  let raw := (List.range sc.size).map (fun i => BitVec.ofNat 8 (o.get (sc.off + i) 1))
  (o.relocs.filter (fun r => r.sect == x.sect)).foldl (fun bs r =>
    applyReloc bs r (symbValue (o.symbs.getD r.sym ⟨0, 0xFF, 0, 0⟩) places r.addend)) raw

/-- The sections to place, at the addresses chosen: code execute-only, rodata read-only, data read-write. -/
def ObjView.places (o : ObjView) (vas : List Nat) : List Place :=
  ([(1, 12, 0), (2, 9, 1), (3, 11, 2)].filterMap (fun k =>
    (o.sects.findIdx? (fun x => x.ty == k.1)).map (fun i => ⟨vas.getD k.2.2 0, (o.sect i).size, k.2.1, i⟩)))

/-- The loaded object. -/
def ObjView.toObj (o : ObjView) (num : Nat) (places : List Place) : KObj :=
  let code := ((places.find? (fun p => p.perm == 12)).map (·.va)).getD 0
  let entry (i : Nat) : Nat := code + o.get (o.entAt i) 8
  { num := num, st := 1, image := 0, codeBase := code, codeSize := o.codeSize, gsize := o.get 16 1, stages := o.get 17 1,
    scratch := o.get 18 2,
    trays := (List.range o.ntray).map (fun i =>
      let p := o.trayAt i
      (o.get p 1, o.get (p + 1) 1, o.get (p + 2) 2, entry (o.get (p + 4) 2))),
    entryVas := (List.range o.nentry).map entry, sections := places.map (fun p => (p.va, p.size)), pts := 0 }

/-- The caches forget a context's lines of virtual addresses: dirty lines go home, and the stations read the tables again
(11 R279, R280, log 92). -/
def MemSys.forget (m : MemSys) (ctx : Nat) (lines : Nat → Bool) : MemSys :=
  let gone (c : Copy) : Bool := c.ctx == ctx && c.level == 0 && lines c.key
  let m1 := (m.copies.filter gone).foldl (fun m c => m.evict c) m
  m1.dropCopies (fun c => c.ctx == ctx && c.level != 0)

def inRanges (l : List (Nat × Nat)) (line : Nat) : Bool := l.any (fun x => inLines x.1 x.2 line)

/-- The largest timestamp of the lines of the pages on which ranges of a context lie. -/
def State.writesOn (s : State) (root ctx : Nat) (l : List (Nat × Nat)) : Nat :=
  let bases := (l.flatMap (fun x => pagesOf x.1 x.2)).filterMap (fun p => ((s.mem.walk root 0 ctx p s.latest).1).map (fun pg => pg.base / 2 ^ 21))
  ((s.mem.homes.filter (fun h => bases.contains (h.pline / 2 ^ 14))).map (·.wts)).foldl max 0

/-- Places an object whose checks have passed, and writes the record. -/
def State.placeObj (s : State) (c : Ctx) (num : Nat) (r : LoadReq) (o : ObjView) (places : List Place) : State :=
  let root := c.desc.ptRoot
  let k := o.toObj num places
  let s0 := s.setMem (s.mem.forget c.num (inRanges k.sections))
  let s1 := places.foldl (fun s p => s.placeBytes root c.num p.va (o.placed places p)) s0
  let s2 := s1.setMem (s1.mem.iinv c.num (inLines k.codeBase k.codeSize) (fun _ _ _ => true))
  let at_ (perm : Nat) : Nat := ((places.find? (fun p => p.perm == perm)).map (·.va)).getD 0
  let n := min k.entryVas.length r.cap
  let ws := resultHeader 0 num n k.entryVas.length 0 k.codeBase (at_ 9) (at_ 11) ++ (k.entryVas.take n).map (BitVec.ofNat 64)
  let done := { k with pts := s2.writesOn root c.num k.sections }
  (s2.loaderWrite c.num r.res ws).modCtx c.num (fun x => { x with objs := updWhere (fun y => y.num == num) (fun _ => done) x.objs })

/-- LOAD_CHECKS_DONE: context arg 0, object arg 1; the addresses the loader chooses for code, rodata and data, then free
2 MiB blocks of physical memory that it takes for pages and tables; operands that name no free place choose nothing (log 91). -/
def execLoadChecksDone (s : State) : Out :=
  match s.ctx? (s.arg 0) with
  | none => .next s
  | some c =>
    match c.objs.find? (fun o => o.num == s.arg 1 && o.st == 0) with
    | none => .next s
    | some ob =>
      match s.loadReq c ob.image with
      | none => .next (s.modCtx c.num (fun x => { x with objs := x.objs.filter (fun y => y.num != ob.num) })).flushCmds
      | some r =>
        let o := s.objView c.desc.ptRoot c.num r.obj r.size
        match o.verdict with
        | some (st, d, l) => .next (s.refuseLoad c.num ob r st d l).flushCmds
        | none =>
          let places := o.places ((s.pick.drop 2).take 3)
          let aligned := places.all (fun p => p.va % 2 ^ (o.sect p.sect).alog == 0)
          let hinted := r.hint == 0 || s.arg 2 == r.hint
          let used := (s.mem.pages c.desc.ptRoot).map (·.1)
          if !fitsSpace used r.hint (places.map (fun p => (2 ^ (o.sect p.sect).alog, p.size))) then
            .next (s.refuseLoad c.num ob r 9 0 []).flushCmds
          else match mapPlaces c.desc.ptRoot places ⟨s, s.pick.drop 5⟩ with
            | some m => if aligned && hinted then .next (m.st.placeObj c ob.num r o places).flushCmds else .next s
            | none => .next s

/-- LOAD: P0 is the load request. -/
def execLoad (s : State) : Out :=
  s.ctxCommand 0x07 (fun s _ c =>
    let num := (List.range 1024).find? (fun n => n != 0 && !c.objs.any (fun o => o.num == n))
    if !(c.st == .created || c.st == .resident || c.st == .running) || c.stopAt.isSome then .now 1 0 s
    else match num with
      | none => .now 1 0 s
      | some n =>
        match s.loadReq c (s.arg 4) with
        | none => let (k, s1) := s.free; .now (Config.freeValue k % 256) 0 s1
        | some _ =>
          let o : KObj :=
            { num := n, st := 0, image := s.arg 4, codeBase := 0, codeSize := 0, gsize := 0, stages := 0, scratch := 0, trays := [],
              entryVas := [], sections := [], pts := 0 }
          .later 3 c.num n (s.modCtx c.num (fun x => { x with objs := x.objs ++ [o] })))

end Sys2Proof.Machine
end

