-- ==== Sys2Proof/Machine/Launch.lean ====
section
/-!
DEFINITION. Launches: the entries of launch queues, the checks and the acceptance of a packet, timetables (12 R289 to R297, 17
R396), and UNLOAD (11 R280).
-/

namespace Sys2Proof.Machine

open Sys2Proof

/-! The packet (12 R290). -/

/-- A packet as one number, and the timestamp at which it is read: a thread of its launch starts with it, after every write that was
performed before the read (08 R205, 09 R239). -/
def State.readPacket (s : State) (pa : Nat) : Nat × Nat × State :=
  let (ws, s1) := s.physReadWords pa 16
  (ofBytes (ws.flatMap (fun w => bytesOf 8 w.toNat)), s1.latest, s1)

/-- Bytes of a packet. -/
def packetField (v off n : Nat) : Nat := fieldAt v (8 * off) (8 * n)

/-- Check 1 of 12 R291. -/
def packetOk (v : Nat) : Bool :=
  let f := packetField v
  let size := f 2 1
  let tiled := f 72 4 != 0
  f 68 4 == 0 && f 84 4 == 0 && f 104 8 == 0 && f 112 8 == 0 && f 120 8 == 0 &&
  decide (1 ≤ f 0 2) && decide (f 0 2 ≤ 1023) && (size == 0 || size == 1 || size == 4 || size == 8 || size == 16 || size == 32) &&
  decide (f 3 1 ≤ 64) && (f 4 2 % 8 == 0 || f 4 2 == 0xFFFF) && decide (1 ≤ f 6 1) && decide (f 6 1 ≤ 96) && decide (f 7 1 ≤ 63) &&
  f 8 2 != 0 && f 10 2 != 0 && f 12 2 != 0 && f 14 2 % 8 == 0 && (tiled == (f 76 4 != 0)) &&
  (!tiled || (f 80 2 != 0 && f 82 2 != 0))

/-- The launch that a packet asks for, with the object's defaults; its threads follow the loader's writes (11 R279). -/
def packetLaunch (v : Nat) (o : KObj) (ctx lid queue pts : Nat) (tt : Option Nat) : Launch :=
  let f := packetField v
  let stages := if f 3 1 = 0 then o.stages else f 3 1
  { lid := lid, ctx := ctx, queue := queue, entry := o.codeBase, gsize := if f 2 1 = 0 then o.gsize else f 2 1, stages := stages,
    scratch := if f 4 2 = 0xFFFF then o.scratch else f 4 2, gpc := f 6 1, job := f 7 1, cx := f 8 2, cy := f 10 2, cz := f 12 2,
    tscratch := f 14 2, arg := f 16 8, seed := BitVec.ofNat 64 (f 24 8), part := (List.range 9).map (fun i => f (32 + 4 * i) 4),
    trows := f 72 4, tcols := f 76 4, tiler := f 80 2, tilec := f 82 2, routes := [], doneAddr := f 96 8, pts := max pts o.pts, endPts := 0,
    waiting := false, unplaced := List.range (f 8 2 * f 10 2 * f 12 2 * stages), left := f 8 2 * f 10 2 * f 12 2 * stages, tt := tt }

/-- The partition rule (12 R292). -/
def Launch.partOk (l : Launch) : Bool :=
  l.part.getD 0 0 == 0 && l.part.getD 8 0 == l.count && (List.range 8).all (fun d => decide (l.part.getD d 0 ≤ l.part.getD (d + 1) 0))

/-- The dies that receive classes. -/
def Launch.dies (l : Launch) : List Nat := (List.range 8).filter (fun d => decide (l.part.getD d 0 < l.part.getD (d + 1) 0))

/-- The clusters whose trays a launch claims. -/
def Launch.sites (l : Launch) : List Site := l.dies.flatMap (fun d => (List.range 16).map (fun c => ⟨d, c⟩))

/-- Check 7: every tray the object names is free for the launch. -/
def State.traysFree (s : State) (ctx : Nat) (o : KObj) (l : Launch) : Bool :=
  !s.eng.trays.any (fun t => l.sites.contains t.site && o.trays.any (fun x => x.1 == t.num) && !(t.ctx == ctx && t.recs.isEmpty))

/-- Claims and configures them. -/
def State.claimTrays (s : State) (ctx : Nat) (o : KObj) (l : Launch) : State :=
  let news := l.sites.flatMap (fun site => o.trays.map (fun x =>
    ({ site := site, num := x.1, ctx := ctx, key := x.2.2.2, size := x.2.1, timer := x.2.2.1, recs := [], deadline := 0, full := false } : Tray)))
  let keep := s.eng.trays.filter (fun t => !news.any (fun u => u.site == t.site && u.num == t.num))
  { s with eng := { s.eng with trays := keep ++ news } }

/-! Routes (12 R294). -/

/-- An entry of the routing table, none when it is not well formed for S stages. -/
def routeOf (v stages : Nat) : Option Route :=
  let nv := fieldAt v 6 1 == 1
  let pv := fieldAt v 14 1 == 1
  let n := fieldAt v 0 6
  let p := fieldAt v 8 6
  if fieldAt v 7 1 ≠ 0 || fieldAt v 15 1 ≠ 0 || (nv && decide (stages ≤ n)) || (pv && decide (stages ≤ p)) || (!nv && n != 0) ||
      (!pv && p != 0) then none
  else some ⟨if nv then some n else none, if pv then some p else none⟩

def defaultRoute (stages i : Nat) : Route :=
  ⟨if i + 1 < stages then some (i + 1) else none, if i = 0 then none else some (i - 1)⟩

/-- Reads n entries as loads of the context at U, at the launch's timestamp. -/
def State.readRoutes (s : State) (ctx va stages pts : Nat) : Nat → Option (List Route) × State
  | 0 => (some [], s)
  | n + 1 =>
    let a : Actor := ⟨ctx, false, pts, ⟨0, 0⟩⟩
    match s.engRead a (.glob va) 1 with
    | (.ok lo, s1) =>
      match s1.engRead a (.glob (va + 1)) 1 with
      | (.ok hi, s2) =>
        match routeOf (fromBytes lo + 256 * fromBytes hi) stages with
        | none => (none, s2)
        | some r =>
          let x := State.readRoutes s2 ctx (va + 2) stages pts n
          (x.1.map (fun l => r :: l), x.2)
      | (_, s2) => (none, s2)
    | (_, s1) => (none, s1)

def State.routesFor (s : State) (l : Launch) (addr : Nat) : Option (List Route) × State :=
  if addr = 0 then (some ((List.range l.stages).map (defaultRoute l.stages)), s)
  else if addr / 2 ^ 56 ≠ 0 then (none, s)
  else s.readRoutes l.ctx addr l.stages l.pts l.stages

/-! Acceptance (12 R291, 17 R396, R397). -/

/-- Launch classes are injected at the CNI of cluster 0 of their die. -/
def State.countClasses (s : State) (l : Launch) : State :=
  l.dies.foldl (fun s d => s.count l.ctx l.job (.cni d 0) (l.part.getD (d + 1) 0 - l.part.getD d 0) 0) s

/-- The launch names its job: opens it when it is closed and one of the 64 of the package is left, and counts its classes;
otherwise it waits. -/
def State.enterJob (s : State) (l : Launch) : State :=
  if s.jobOpen l.ctx l.job then (s.modLaunch l.ctx l.lid (fun x => { x with waiting := false })).countClasses l
  else if 64 ≤ s.jobs.length then s.modLaunch l.ctx l.lid (fun x => { x with waiting := true })
  else
    let j : Job :=
      { ctx := l.ctx, num := l.job, opener := l.lid, counts := [], loss := [], overflow := 0, repairs := 0, calls := 0, quietPkg := false, stirred := false }
    (({ s with jobs := s.jobs ++ [j] }).modLaunch l.ctx l.lid (fun x => { x with waiting := false })).countClasses l

/-- Held launches whose job can be opened now. -/
def State.openWaiting (s : State) : State :=
  let ls := sortBy (fun l => l.lid) (s.ctxs.flatMap (fun c => c.launches.filter (·.waiting)))
  ls.foldl (fun s l => s.enterJob l) s

/-- Launches of a context that the front end holds: accepted, with classes not placed. -/
def Ctx.held (c : Ctx) : Nat := (c.launches.filter (fun l => l.waiting || !l.unplaced.isEmpty)).length

/-- Checks a packet and accepts or refuses the launch: its status, and its number when it is accepted. -/
def State.tryLaunch (s : State) (c : Ctx) (pa queue : Nat) (tt : Option Nat) : Nat × Option Nat × State :=
  if pa % 64 ≠ 0 || !(s.func? c.fn).any (fun f => f.holds pa 128) then (1, none, s)
  else
    let (v, pts, s1) := s.readPacket pa
    if !packetOk v then (1, none, s1)
    else match c.objs.find? (fun o => o.num == packetField v 0 2 && o.st == 1) with
      | none => (2, none, s1)
      | some o =>
        let (lid, s2) := s1.fresh
        let l := packetLaunch v o c.num lid queue pts tt
        let threads := l.gpc * l.gsize
        if 304 < l.scratch || 304 < l.tscratch then (3, none, s1)
        else if 96 < threads then (4, none, s1)
        else if 2 ^ 32 < 96 * l.count then (5, none, s1)
        else if !l.partOk then (6, none, s1)
        else if !s2.traysFree c.num o l then (7, none, s1)
        else match s2.routesFor l (packetField v 88 8) with
          | (none, s3) => (8, none, s3)
          | (some rs, s3) =>
            if c.desc.shellSize < aloneNeed threads l.gpc (threads * unitsOf l.scratch) then (9, none, s3)
            else
              let l1 := { l with routes := rs }
              let s4 := (s3.claimTrays c.num o l1).modCtx c.num (fun x => { x with launches := x.launches ++ [l1] })
              (0, some lid, s4.enterJob l1)

/-- The front end takes entries for a context (11 R274). -/
def State.takesLaunches (s : State) (c : Ctx) : Bool :=
  (c.st == .running || c.st == .resident) && !c.viol && c.stopAt.isNone && s.plat.ready && decide (c.held < 32)

/-! Timetables: what an entry says and what is due (12 R296, R297). -/

/-- A timetable entry as memory holds it. -/
structure TtSlot where
  start : Nat
  period : Nat
  packet : Nat
  rule : Nat
  queue : Nat
  on : Bool
deriving DecidableEq, Repr

/-- Reads its four words; RULE 3 to 255, EN clear, a reserved bit and a queue above 15 disable the entry (00 R6). -/
def ttSlot (w : Nat → Nat) : TtSlot :=
  let x := w 3
  { start := w 0, period := w 1, packet := w 2, rule := fieldAt x 0 8, queue := fieldAt x 8 8,
    on := fieldAt x 16 8 == 1 && fieldAt x 24 8 == 0 && decide (fieldAt x 0 8 ≤ 2) && decide (fieldAt x 8 8 ≤ 15) }

/-- Entry i of a context's timetable. -/
def State.ttAt (s : State) (c : Ctx) (i : Nat) : TtSlot := ttSlot (fun k => s.mem.read (c.ttBase + 32 * i + 8 * k) 8)

def Ctx.ttEntry (c : Ctx) (i : Nat) : TtEntry := (c.tt.find? (fun e => e.idx == i)).getD ⟨i, 0, none, false⟩

/-- The previous instance of an entry is running. -/
def Ctx.ttRunning (c : Ctx) (e : TtEntry) : Bool :=
  e.running.any (fun lid => c.launches.any (fun l => l.lid == lid && l.left != 0))

/-- A start of an entry falls by now. -/
def State.ttDue (s : State) (x : TtSlot) (e : TtEntry) : Bool :=
  decide (x.start + e.nextK * x.period ≤ s.ptp) && (e.nextK == 0 || x.period != 0)

/-- An instance waits to be taken: held or due, while the previous one of its entry is not running; a pre-emption that the entry asked
for does not wait for it. -/
def State.ttReady (s : State) (c : Ctx) (i : Nat) : Bool :=
  let x := s.ttAt c i
  let e := c.ttEntry i
  x.on && ((e.held && (!c.ttRunning e || x.rule == 2)) || (s.ttDue x e && !c.ttRunning e))

/-! Service (12 R289). -/

/-- Priority of a queue; one that is not configured has the lowest (log 93). -/
def Ctx.prioOf (c : Ctx) (q : Nat) : Nat := ((c.queues.find? (fun x => x.num == q)).map (·.prio)).getD 3

/-- The queues of a context with an entry to take, as priority, context and queue: of the ring or of the timetable. -/
def State.offers (s : State) (c : Ctx) : List (Nat × Nat × Nat) :=
  if s.takesLaunches c then
    ((c.queues.filter (fun q => q.taken != q.written)).map (·.num) ++
      ((List.range c.ttCount).filter (s.ttReady c)).map (fun i => (s.ttAt c i).queue)).map (fun q => (c.prioOf q, c.num, q))
  else []

/-- The queue served next: of the highest priority, the first after the one of that priority served last, in the order of contexts and
queues, which begins again at its end. -/
def State.nextQueue (s : State) : Option (Nat × Nat × Nat) :=
  let all := s.ctxs.flatMap s.offers
  match sortNat (all.map (·.1)) with
  | [] => none
  | p :: _ =>
    let key (x : Nat × Nat × Nat) : Nat := 16 * x.2.1 + x.2.2
    let last := match s.eng.served.find? (fun x => x.1 == p) with | some x => key x + 1 | none => 0
    let ring := sortBy key (all.filter (fun x => x.1 == p))
    ((ring.filter (fun x => decide (last ≤ key x))) ++ ring).head?

/-- A queue of a priority has been served. -/
def State.serve (s : State) (x : Nat × Nat × Nat) : State :=
  { s with eng := { s.eng with served := x :: s.eng.served.filter (fun y => y.1 != x.1) } }

/-- LAUNCH_TAKE: the next entry of queue arg 1 of context arg 0, when that queue is to be served and no instance of the timetable is
ahead of its ring. -/
def execLaunchTake (s : State) : Out :=
  match s.ctx? (s.arg 0) with
  | none => .next s
  | some c =>
    match c.queues.find? (fun q => q.num == s.arg 1) with
    | none => .next s
    | some q =>
      let me := (q.prio, c.num, q.num)
      let ahead := (List.range c.ttCount).any (fun i => s.ttReady c i && (s.ttAt c i).queue == q.num)
      if s.nextQueue != some me || ahead then .next s
      else
        let (ws, s1) := (s.serve me).physReadWords (q.base + 16 * (q.taken % q.entries)) 2
        let packet := (ws.getD 0 0).toNat
        let stat := (ws.getD 1 0).toNat
        let take (t : State) : State := t.modCtx c.num (fun x => { x with
          queues := updWhere (fun y => y.num == q.num) (fun y => { y with taken := (y.taken + 1) % 2 ^ 32 }) x.queues })
        if stat % 8 ≠ 0 || !(s.func? c.fn).any (fun f => f.holds stat 8) then .next ((take s1).logPlat 2 stat)
        else
          let (v, _, s2) := (take s1).tryLaunch c packet q.num none
          .next (s2.physWrite stat (toBytes 8 v))

/-! Timetables: the step (12 R297). -/

/-- Adds to a 2-byte counter of a timetable entry, saturating. -/
def State.ttAdd (s : State) (pa n : Nat) : State :=
  if n = 0 then s
  else
    let (v, s1) := s.physRead pa 2
    s1.physWrite pa (toBytes 2 (min 65535 (v + n)))

def State.setTt (s : State) (ctx : Nat) (e : TtEntry) : State :=
  s.modCtx ctx (fun x => { x with tt := e :: x.tt.filter (fun y => y.idx != e.idx) })

/-- Launches an instance as an entry taken from its queue, ahead of the ring. -/
def State.ttLaunch (s : State) (c : Ctx) (e : TtEntry) (x : TtSlot) : State :=
  let (_, lid, s1) := (s.serve (c.prioOf x.queue, c.num, x.queue)).tryLaunch c x.packet x.queue (some e.idx)
  s1.setTt c.num { e with running := lid, held := false }

/-- TIMETABLE_START: entry arg 1 of context arg 0. An instance is launched when its queue is to be served. -/
def execTimetableStart (s : State) : Out :=
  match s.ctx? (s.arg 0) with
  | none => .next s
  | some c =>
    let i := s.arg 1
    let pa := c.ttBase + 32 * i
    let known := c.st == .running || c.st == .resident || c.st == .preempting || c.st == .saved
    if c.ttCount ≤ i || !known || !s.plat.ready then .next s
    else
      let s1 := (s.physReadWords pa 4).2
      let x := s.ttAt c i
      let e := c.ttEntry i
      let may := s.nextQueue == some (c.prioOf x.queue, c.num, x.queue)
      let away := c.st == .preempting || c.st == .saved || c.stopAt.isSome
      let running := c.ttRunning e || away
      if !x.on then .next s
      else if e.held && may && (!running || (x.rule == 2 && !away)) then .next (s1.ttLaunch c e x)
      else if !s.ttDue x e then .next s
      else
        let j := if x.period = 0 then 1 else (s.ptp - x.start) / x.period - e.nextK + 1
        let e1 := { e with nextK := e.nextK + j }
        if !running then
          if may then .next ((s1.ttAdd (pa + 28) (j - 1)).ttLaunch c e1 x) else .next s
        else
          let missed := if x.rule = 0 || e.held then 1 else 0
          let s2 := (s1.ttAdd (pa + 28) (j - 1 + missed)).setTt c.num { e1 with held := e.held || decide (x.rule ≠ 0) }
          .next (if x.rule = 2 then (s2.ttAdd (pa + 30) 1).requestPreempt c.num else s2)

/-! Unloading (11 R274, R280). -/

/-- A launch of an object is in force or queued: accepted with classes left, in a ring, or an instance held or due; or a group that
was started in it is placed or saved. -/
def State.objInUse (s : State) (c : Ctx) (o : KObj) : Bool :=
  let names (pa : Nat) : Bool := decide (pa + 2 ≤ memLimit) && packetField (s.mem.read pa 2) 0 2 == o.num
  let slots (q : LQueue) : List Nat :=
    (List.range ((q.written + 2 ^ 32 - q.taken) % 2 ^ 32)).map (fun i => q.base + 16 * ((q.taken + i) % q.entries))
  let inObj (g : Group) : Bool := decide (o.codeBase ≤ g.entry.toNat) && decide (g.entry.toNat < o.codeBase + o.codeSize)
  s.groups.any (fun g => g.ctx == c.num && inObj g) || c.saved.any (fun sv => sv.groups.any inObj) ||
  c.launches.any (fun l => decide (o.codeBase ≤ l.entry) && decide (l.entry < o.codeBase + o.codeSize) && l.left != 0) ||
  c.queues.any (fun q => (slots q).any (fun pa => names (s.mem.read pa 8))) ||
  (List.range c.ttCount).any (fun i => ((c.ttEntry i).held || s.ttReady c i) && names (s.ttAt c i).packet)

/-- Unmaps the pages of an object, after its lines have left every cache. -/
def State.unmapObj (s : State) (c : Ctx) (o : KObj) : State :=
  let s0 := s.setMem (s.mem.iinv c.num (inRanges o.sections) (fun _ _ _ => true))
  let s1 := s0.setMem (s0.mem.forget c.num (inRanges o.sections))
  ((o.sections.flatMap (fun x => pagesOf x.1 x.2)).dedup).foldl (fun s p => match (MapState.mk s []).pte c.desc.ptRoot p with
    | some (at_, m) => m.st.physWrite at_ (toBytes 8 0)
    | none => s) s1

/-- UNLOAD: P0 is the object number. -/
def execUnload (s : State) : Out :=
  s.ctxCommand 0x08 (fun s _ c =>
    match c.objs.find? (fun o => o.num == s.arg 4 && o.st == 1) with
    | none => .now 1 0 s
    | some o =>
      if s.objInUse c o then .now 4 0 s
      else .now 0 0 ((s.unmapObj c o).modCtx c.num (fun x => { x with objs := x.objs.filter (fun y => y.num != o.num) })))

end Sys2Proof.Machine
end

