-- ==== Sys2Proof/Machine/Link.lean ====
section
/-!
DEFINITION. Ports, the coherent link, the time base and the Ultra Ethernet transport engine (19 R427 to R445, R450, R451).
-/

namespace Sys2Proof.Machine

open Sys2Proof

/-! Ports (19 R429 to R431). -/

def State.port? (s : State) (n : Nat) : Option Port := s.link.ports.find? (fun p => p.num == n)

/-- Changes a port. The time base loses its lock when the PTPSRC port is down, failed or in MCL mode (19 R428). -/
def State.modPort (s : State) (n : Nat) (f : Port → Port) : State :=
  let ports := updWhere (fun p => p.num == n) f s.link.ports
  let lost := ports.any (fun p => s.link.ptpPort == some p.num && (p.st == .down || p.st == .failed || p.mcl))
  { s with link := { s.link with ports := ports, ptpLocked := s.link.ptpLocked && !lost } }

/-- The spare lane is good and unused. -/
def Port.spare (p : Port) : Bool := !p.spareBad && p.dataBad == 0

/-- Good lanes, data and spare together. -/
def Port.good (p : Port) : Nat := (4 - p.dataBad) + (if p.spareBad then 0 else 1)

/-- The status word (19 R429). -/
def Port.word (p : Port) : Nat :=
  p.st.code + 2 ^ 4 * p.mcl.toNat + 2 ^ 5 * p.rate + 2 ^ 7 * p.lanes + 2 ^ 10 * p.spare.toNat + 2 ^ 11 * p.pending.toNat +
  2 ^ 32 * (p.retrains % 2 ^ 32)

/-- A save of some context writes to a stack of a die (19 R431). -/
def State.savesOn (s : State) (die : Nat) : Bool :=
  s.ctxs.any (fun c => c.stopAt.isSome && c.boundary && c.savesOn die)

/-- The HBM controllers of a die stall while its link clock relocks: 20 us. -/
def State.stallDie (s : State) (die : Nat) : State :=
  { s with link := { s.link with stalls := (die, s.clk + 72000) :: s.link.stalls.filter (fun x => x.1 != die) } }

/-- Requests a retraining of a port: held while a save writes to its die. -/
def State.requestRetrain (s : State) (n : Nat) : State :=
  let die := n / 6
  if s.savesOn die then s.modPort n (fun p => { p with pending := true })
  else (s.stallDie die).modPort n (fun p => { p with
    st := .retraining, pending := false, attempts := 0, retrains := min (p.retrains + 1) (2 ^ 32 - 1), outSince := s.clk })

/-- A training attempt ends (19 R430). -/
def Port.trained (p : Port) : Port :=
  if 4 ≤ p.good then { p with lanes := 4, st := if p.dataBad = 0 then .up else .degraded }
  else if 2 ≤ p.good then { p with lanes := 2, st := .degraded }
  else if p.attempts + 1 < 3 then { p with attempts := p.attempts + 1 }
  else { p with st := .failed }

/-- TRAINING_END: port arg 0. -/
def execTrainingEnd (s : State) : Out :=
  .next (s.modPort (s.arg 0) (fun p => if p.st == .training || p.st == .retraining then p.trained else p)).loseCut

/-- A port fails; what its link has not seen acknowledged is lost (17 R403). -/
def State.failPort (s : State) (n : Nat) : State :=
  (s.modPort n (fun p => { p with st := .failed, outSince := s.clk })).loseCut

/-- A lane of a port is retired: a data lane, or the spare lane (19 R430, log 76). The spare takes the place of the first data lane; in
a degraded port any further lane counts. -/
def State.retireLane (s : State) (n : Nat) (spare : Bool) : State :=
  match s.port? n with
  | none => s
  | some p =>
    if spare && p.spareBad then s
    else
      let q := if spare then { p with spareBad := true } else { p with dataBad := min 4 (p.dataBad + 1) }
      let s1 := s.modPort n (fun _ => q)
      match p.st with
      | .up =>
        if spare then s1 else if p.spare then s1.modPort n (fun x => { x with st := .degraded }) else s1.requestRetrain n
      | .degraded => if p.lanes = 4 then s1.requestRetrain n else s1.failPort n
      | _ => s1

/-- LANE_RETIRE: port arg 0; arg 1 = 0 a data lane, else the spare lane. -/
def execLaneRetire (s : State) : Out :=
  let lane : Nat := if s.arg 1 = 0 then ((s.port? (s.arg 0)).map (·.dataBad)).getD 0 else 4
  .next ((s.retireLane (s.arg 0) (s.arg 1 != 0)).logPlat 5 (unitCode (.lane (s.arg 0) lane)))

/-- RETRAIN_REQUEST: port arg 0, for its error rate or because a held one may start; 48 and above name the UCIe links of die
(arg 0 - 48) / 2. -/
def execRetrainRequest (s : State) : Out :=
  if 48 ≤ s.arg 0 then
    let die := (s.arg 0 - 48) / 2 % 8
    .next (if s.savesOn die then s else s.stallDie die)
  else match s.port? (s.arg 0) with
    | none => .next s
    | some p => .next (if p.carries then s.requestRetrain p.num else s)

/-- LINK_CLOCK_RELOCK: the stall of the controllers of die arg 0 ends. -/
def execLinkClockRelock (s : State) : Out :=
  .next { s with link := { s.link with stalls := s.link.stalls.filter (fun x => x.1 != s.arg 0) } }

/-- MCL_PORT_TIMEOUT: port arg 0 has been out of service for 10 ms. -/
def execMclPortTimeout (s : State) : Out :=
  .next (s.modPort (s.arg 0) (fun p =>
    if p.mcl && (p.st == .training || p.st == .retraining) && decide (p.outSince + 36000000 ≤ s.clk) then { p with st := .failed } else p)).loseCut

/-- What an atomic of another package leaves in memory: kind 2 a CAS, 3 to 11 the AMO operations. -/
def inNew (kind n cmp data old : Nat) : Option Nat :=
  let signed (x : Nat) : Int := sextInt (8 * n) x
  match kind with
  | 2 => if old = cmp % 2 ^ (8 * n) then some data else none
  | 3 => some (old + data)
  | 4 => some (Nat.land old data)
  | 5 => some (Nat.lor old data)
  | 6 => some (Nat.xor old data)
  | 7 => some (if signed (data % 2 ^ (8 * n)) < signed old then data else old)
  | 8 => some (if signed old < signed (data % 2 ^ (8 * n)) then data else old)
  | 9 => some (min old (data % 2 ^ (8 * n)))
  | 10 => some (max old (data % 2 ^ (8 * n)))
  | 11 => some data
  | _ => none

def State.answer (s : State) (l : List Nat) : State := { s with link := { s.link with answers := s.link.answers ++ [l] } }

/-- An access by another package, that arrives at a port: number, context, address, timestamp, kind (0 a load, 1 a store, else an
atomic), bytes, data, value compared, and 1 for privilege S. The stations of this package translate it, under the context's tables
here, and it is performed at the line's home (19 R434). Its answer holds its number, 0 or the fault (1 an unusable entry, 2 a missing
permission, 3 poison), the value read and its timestamp. -/
def State.inAccess (s : State) (port : Nat) (l : List Nat) : State :=
  match l with
  | [key, ctx, va, pts, kind, n, data, cmp, priv] =>
    if !(s.ctx? ctx).any (fun c => c.domain.isSome) || !s.ctxTakes ctx || va / 2 ^ 48 ≠ s.link.domIndex || 128 < va % 128 + n then s
    else
      let need := if kind = 0 then needR else if kind = 1 then needW else needRW
      match s.engPage ⟨ctx, priv == 1, pts, ⟨port / 6, 0⟩⟩ va need with
      | (.ok pa, p, s1) =>
        if kind = 1 then
          let (w, s2) := s1.physWriteAt p pa (toBytes n data)
          s2.answer [key, 0, 0, w]
        else if s1.mem.poisoned pa n then s1.answer [key, 3, 0, p]
        else
          let (v, m) := s1.mem.homeRead pa n p
          let t := max p (m.home (pa / 128)).wts
          match inNew kind n cmp data v with
          | none => (s1.setMem m).answer [key, 0, v, t]
          | some x =>
            let (w, s2) := (s1.setMem m).physWriteAt t pa (toBytes n x)
            s2.answer [key, 0, v, w]
      | (.pageFault, p, s1) => s1.answer [key, 1, 0, p]
      | (.protect, p, s1) => s1.answer [key, 2, 0, p]
      | (.poisoned, p, s1) => s1.answer [key, 3, 0, p]
  | _ => s

/-- MCL_FLIT_REPLAY: at port arg 0, arg 1 = 0 a flit is replayed, and none is lost (19 R433). Flits that pass (log 31): 1 the other package
acknowledges message arg 2, the oldest that goes to it (19 R432); 2 an access of another package (`inAccess`); 3 an EVADV.sys of
another package, of context arg 2 and job arg 3 to timestamp arg 4 (16 R388). -/
def execMclFlitReplay (s : State) : Out :=
  if !s.carries (s.arg 0) then .next s
  else match s.arg 1 with
    | 0 => .next (s.modPort (s.arg 0) (fun p => { p with retried := p.retried + 1 }))
    | 1 => match s.link.mcl.find? (fun m => m.key == s.arg 2) with
      | some m => .next (if m.port = s.arg 0 && (s.link.mcl.find? (fun x => x.pkg == m.pkg)) == some m then s.ackMcl m else s)
      | none => .next s
    | 2 => .next (s.inAccess (s.arg 0) (s.pick.drop 2))
    | _ => .next (s.outsideAdvance (s.arg 2) (s.arg 3) (s.arg 4))

/-- ROUTE_SWITCH: traffic for domain index arg 0 goes to the first port of its list that is up or degraded, once nothing sent on another
port towards it waits for its acknowledgement (19 R432). -/
def execRouteSwitch (s : State) : Out :=
  let rest := s.link.via.filter (fun u => u.1 != s.arg 0)
  let new := s.routePort? (s.arg 0)
  if s.link.mcl.any (fun m => m.pkg == s.arg 0 && some m.port != new) then .next s
  else .next { s with link := { s.link with via := match new with
    | some p => (s.arg 0, p) :: rest
    | none => rest } }

/-! The time base (19 R428). -/

/-- The PTPSRC port receives. -/
def State.ptpUp (s : State) : Bool :=
  s.link.ptpPort.any (fun n => s.link.ports.any (fun p => p.num == n && !p.mcl && p.carries))

/-- PTP_MESSAGE: the received time arg 0. A time base that is not locked, that has heard nothing for 2 s or that is off by more than
1 us steps to it; a smaller difference slews it towards it, by arg 1 and at most 100 ppm. -/
def execPtpMessage (s : State) : Out :=
  if !s.ptpUp then .next s
  else
    let t := s.arg 0
    let off := if t < s.ptp then s.ptp - t else t - s.ptp
    let seen : Link := { s.link with ptpSeen := s.clk, ptpLocked := true }
    let stale := !s.link.ptpLocked || decide (s.link.ptpSeen + 7200000000 ≤ s.clk)
    if stale || 1000 < off then .next { s with ptp := t, link := { seen with ptpFrac := 0 } }
    else
      let r : Int := min (s.arg 1) 3600
      .next { s with link := { seen with ptpRate := if t < s.ptp then -r else if t = s.ptp then 0 else r } }

/-- PTP_HOLDOVER: the source is lost or has been silent for 2 s; the time base keeps its rate and steps when it locks again. -/
def execPtpHoldover (s : State) : Out :=
  if s.link.ptpLocked && (!s.ptpUp || s.link.ptpSeen + 7200000000 ≤ s.clk) then
    .next { s with link := { s.link with ptpLocked := false } }
  else .next s

/-! Sending (19 R439, R440, R443). -/

/-- Ethernet ports of a die that carry traffic. -/
def State.ethPorts (s : State) (die : Nat) : List Nat :=
  (s.link.ports.filter (fun p => p.num / 6 == die && !p.mcl && p.carries)).map (·.num)

/-- The transport engine of a die, in a context's name. -/
def xActor (ctx die : Nat) (privS : Bool) (pts : Nat) : Actor := ⟨ctx, privS, pts, ⟨die, 0⟩⟩

/-- Its own accesses, at U, after every write so far (18 R412). -/
def State.xOwn (s : State) (ctx die : Nat) : Actor := xActor ctx die false s.latest

/-- Its accesses for a message's transport command, at the lane's privilege and timestamp (18 R412, R416). -/
def TxMsg.actor (m : TxMsg) : Actor := xActor m.ctx m.die m.privS m.pts

/-- An engine fault of KIND 6, or a violation. The engine stands at no cluster: cluster 0 of its die is its site and takes the record
(log 112). -/
def State.xErr (s : State) (ctx die : Nat) (e : EngErr) (ref : EfRef) : State × Nat :=
  match e with
  | .fault cause sub a => s.engFault ctx 6 cause sub a (siteWord ⟨die, 0⟩ 0x7F) ref
  | .viol a => (s.engViolate ctx 6 a (siteWord ⟨die, 0⟩ 0x7F), 0)

/-- The fault under which the engine holds an access is not resumed yet. -/
def State.xHeld (s : State) (ctx : Nat) (ref : EfRef) : Bool := (s.ctx? ctx).any (fun c => c.efs.any (fun e => e.ref == ref))

/-- Numbers of held accesses: a slot, a source, and a message being received. -/
def slotRef (va : Nat) : EfRef := .transport (2 ^ 64 + va)
def srcRef (mid : Nat) : EfRef := .transport (2 ^ 66 + mid)
def rxRef (key : Nat) : EfRef := .transport (key % 2 ^ 64)

/-- The transport command of a slot is complete. -/
def State.endSend (s : State) (ctx va : Nat) : State :=
  let rest := match s.link.sends.findIdx? (fun x => x.ctx == ctx && x.va == va) with
    | some i => s.link.sends.eraseIdx i
    | none => s.link.sends
  { s with link := { s.link with sends := rest } }

/-- Keeps a slot's write that has still to be made. -/
def State.holdSlot (s : State) (w : SlotWrite) : State := { s with link := { s.link with slotWrites := s.link.slotWrites ++ [w] } }

/-- A slot's write met an error: it is held by the engine fault (10 R256, R258). -/
def State.slotErr (s : State) (w : SlotWrite) (r : MRes Nat) (va : Nat) : State :=
  match engErr r 2 va with
  | some e =>
    let (s1, tag) := s.xErr w.ctx w.die e (slotRef w.va)
    s1.holdSlot { w with held := tag }
  | none => s

/-- Writes the last STATE of a slot, a release at .sys; the command is complete then (19 R440). -/
def State.slotLast (s : State) (w : SlotWrite) : State :=
  match s.engWrite (xActor w.ctx w.die w.privS w.pts) (.glob (w.va + 27)) [BitVec.ofNat 8 w.st] with
  | (.ok _, s1) => s1.endSend w.ctx w.va
  | (r, s1) => s1.slotErr w r (w.va + 27)

/-- Writes RETX, unless that has been made, and STATE of a slot. -/
def State.slotState (s : State) (w : SlotWrite) : State :=
  if s.cutOff w.ctx w.va then s.holdSlot w
  else match w.retx with
  | none => s.slotLast w
  | some n =>
    match s.engWrite (xActor w.ctx w.die w.privS w.pts) (.glob (w.va + 32)) (toBytes 4 (n % 2 ^ 32)) with
    | (.ok _, s1) => s1.slotLast { w with retx := none }
    | (r, s1) => s1.slotErr w r (w.va + 32)

/-- The slots' writes that no engine fault holds any more are made (10 R258, 19 R450). -/
def State.retrySlots (s : State) : State :=
  let runs (w : SlotWrite) : Bool := w.held == 0 && (s.ctx? w.ctx).any (fun c => !c.viol && c.st != .faulted && c.st != .killed)
  (s.link.slotWrites.filter runs).foldl (fun s w =>
    ({ s with link := { s.link with slotWrites := s.link.slotWrites.erase w } }).slotState w) s

/-- A send record as one number; its limits (19 R439). -/
def sendOk (v : Nat) : Bool :=
  let f (off n : Nat) : Nat := fieldAt v (8 * off) (8 * n)
  f 0 8 % 16 == 0 && f 0 8 / 2 ^ 56 == 0 && f 8 8 % 16 == 0 && f 16 4 % 16 == 0 && decide (16 ≤ f 16 4) && decide (f 16 4 ≤ 2 ^ 30) &&
  decide (f 22 2 ≤ 4095) && decide (f 28 1 < 2) && f 29 3 == 0 && f 36 8 == 0 && f 44 8 == 0 && f 52 8 == 0 && f 60 4 == 0

def State.modTx (s : State) (mid : Nat) (f : TxMsg → TxMsg) : State :=
  { s with link := { s.link with tx := updWhere (fun m => m.mid == mid) f s.link.tx } }

/-- A message leaves the engine with a STATE, and with RETX when its packets have been sent. -/
def State.endTx (s : State) (m : TxMsg) (st : Nat) (retx : Option Nat) : State :=
  let s1 := { s with link := { s.link with tx := s.link.tx.filter (fun x => x.mid != m.mid) } }
  s1.slotState ⟨m.ctx, m.die, m.slotVa, st, retx, m.privS, max m.pts s.latest, 0⟩

/-- A context's transport goes on with what it has accepted, and takes packets (19 R450, R451). -/
def State.receives (s : State) (ctx : Nat) : Bool :=
  (s.ctx? ctx).any (fun c => (c.st == .resident || c.st == .running || c.st == .preempting || c.st == .saved) && !c.viol)

/-- The peer of an accepted message is read: without a VALID entry STATE becomes 5, else the message is counted at the port of its
first packet and its packets go (19 R437, R440). -/
def State.checkPeer (s : State) (x : XCfg) (m : TxMsg) : State :=
  let at_ := x.peerBase + 32 * m.peer
  if x.peerCount ≤ m.peer then s.endTx m 5 none
  else if !s.receives m.ctx || s.cutOff m.ctx at_ || s.xHeld m.ctx (srcRef m.mid) then s
  else match s.engGather m.actor (.glob at_) 16 2 with
    | (.error e, s1) => (s1.xErr m.ctx m.die e (srcRef m.mid)).1
    | (.ok bs, s1) =>
      let v := fromBytes bs
      if fieldAt v 192 64 ≠ 1 then s1.endTx m 5 none
      else
        let found (y : TxMsg) : TxMsg :=
          { y with ready := true, addr := fieldAt v 0 128, fep := fieldAt v 128 32, rkey := fieldAt v 160 32, progress := s.clk }
        (s1.modTx m.mid found).count m.ctx m.job (.port m.port) 1 0

/-- The message of a send record. -/
def txMsg (v mid : Nat) (ctx die va port seq clk : Nat) (by_ : Option SendCmd) (latest : Nat) : TxMsg :=
  let f (off n : Nat) : Nat := fieldAt v (8 * off) (8 * n)
  { mid := mid, ctx := ctx, die := die, slotVa := va, src := f 0 8, off := f 8 8, len := f 16 4, peer := f 20 2, landing := f 22 2,
    ctag := f 24 2, job := f 26 1, port := port, seq := seq, privS := by_.any (·.privS), pts := (by_.map (·.pts)).getD latest,
    site := (by_.map (·.site)).getD ⟨die, 0⟩, acq := f 28 1 == 1, ready := false, addr := 0, fep := 0, rkey := 0, acked := [], tries := [],
    retx := 0, progress := clk, refused := false }

/-- SEND_SLOT_TAKE: the slot at the head of the send ring of context arg 0 on die arg 1; its first packet goes by port arg 2. A
message accepted whose peer entry has not been read comes first. -/
def execSendSlotTake (s : State) : Out :=
  let die := s.arg 1
  match s.ctx? (s.arg 0), s.xcfg? (s.arg 0) with
  | some c, some x =>
    match s.link.tx.find? (fun m => m.ctx == c.num && m.die == die && !m.ready), x.rings.find? (fun r => r.1 == die) with
    | some m, _ => .next (s.checkPeer x m)
    | none, none => .next s
    | none, some (_, base, slots, head) =>
      let va := base + 64 * (head % slots)
      let ports := s.ethPorts die
      let busy := 256 ≤ (s.link.tx.filter (fun m => m.die == die)).length
      let runs := (c.st == .running || c.st == .resident) && !c.viol && c.stopAt.isNone
      if !runs || busy || s.xHeld c.num (slotRef va) || (!ports.isEmpty && !ports.contains (s.arg 2)) || s.arg 2 / 6 ≠ die ||
          s.cutOff c.num va then .next s
      else
        let by_ := s.link.sends.find? (fun y => y.ctx == c.num && y.va == va)
        let a := xActor c.num die (by_.any (·.privS)) ((by_.map (·.pts)).getD s.latest)
        match s.engGather a (.glob va) 16 4 with
        | (.error e, s1) => .next (s1.xErr c.num die e (slotRef va)).1
        | (.ok bs, s1) =>
          let v := fromBytes bs
          if fieldAt v 216 8 ≠ 1 then .next s1
          else match s1.engWrite a (.glob (va + 27)) [2] with
            | (.ok _, s2) =>
              let adv (r : Nat × Nat × Nat × Nat) : Nat × Nat × Nat × Nat := if r.1 = die then (r.1, r.2.1, r.2.2.1, head + 1) else r
              let x1 := { x with rings := x.rings.map adv }
              let (n, s3) := (s2.setXcfg x1).fresh
              let m := txMsg v n c.num die va (s.arg 2) s.link.msgSeq s.clk by_ s.latest
              if !sendOk v || !s3.jobOpen c.num m.job then .next (s3.endTx m 5 none)
              else .next ({ s3 with link := { s3.link with tx := s3.link.tx ++ [m], msgSeq := s3.link.msgSeq + 1 } }.checkPeer x1 m)
            | (r, s2) => match engErr r 2 (va + 27) with
              | some e => .next (s2.xErr c.num die e (slotRef va)).1
              | none => .next s2
  | _, _ => .next s

def State.tx? (s : State) (mid : Nat) : Option TxMsg := s.link.tx.find? (fun m => m.mid == mid)

def TxMsg.packets (m : TxMsg) : Nat := (m.len + 4095) / 4096

/-- PACKET_ACK: packet arg 1 of message arg 0 is read from its source, sent and acknowledged; with arg 2 not 0 the message is refused.
With arg 3 = 1 and without ACQ its source reads fall behind another agent's last writes (09 R236). -/
def execPacketAck (s : State) : Out :=
  match s.tx? (s.arg 0) with
  | none => .next s
  | some m =>
    let i := s.arg 1
    let at_ := m.src + 4096 * i
    if !m.ready || m.packets ≤ i || m.acked.contains i || s.xHeld m.ctx (srcRef m.mid) || (s.ethPorts m.die).isEmpty ||
        !s.receives m.ctx || s.cutOff m.ctx at_ then .next s
    else
      let n := min 4096 (m.len - 4096 * i)
      match s.engGather m.actor (.glob at_) 16 (n / 16) with
      | (.error e, s1) => .next (s1.xErr m.ctx m.die e (srcRef m.mid)).1
      | (.ok now, s1) =>
        let bs := if s.arg 3 = 1 && !m.acq then s.gatherBehind m.actor m.site (.glob at_) (n / 16) else now
        let m1 := { m with acked := i :: m.acked, progress := s.clk, refused := m.refused || s.arg 2 != 0 }
        let s2 := s1.modTx m.mid (fun _ => m1)
        let s3 := { s2 with link := { s2.link with
          sent := s2.link.sent ++ [⟨m.mid, i, m.addr, m.fep, m.rkey, m.landing, m.off, m.len, m.ctag, bs⟩] } }
        if m1.acked.length < m.packets then .next s3
        else .next ((s3.endTx m1 (if m1.refused then 5 else 3) (some m1.retx)).count m.ctx m.job (.port m.port) 0 1)

/-- A message is permanently lost (19 R443, 17 R403). Where its peer would have put it is not in the state: free (log 31). -/
def State.loseTx (s : State) (m : TxMsg) : State :=
  let (a, s1) := s.free
  let (b, s2) := s1.free
  let e := lossEntry (Config.freeValue a) (Config.freeValue b) m.seq m.port s.pkgIndex 1 m.job m.len
  ((if m.ready then s2.repair m.ctx m.job (.port m.port) e else s2)).endTx m 4 (some m.retx)

/-- RETRANSMIT_TIMEOUT: packet arg 1 of message arg 0 is sent again, or the message is lost after 16 times or 10 ms. -/
def execRetransmitTimeout (s : State) : Out :=
  match s.tx? (s.arg 0) with
  | none => .next s
  | some m =>
    let i := s.arg 1
    let had := ((m.tries.find? (fun t => t.1 == i)).map (·.2)).getD 0
    if !m.ready || m.packets ≤ i || m.acked.contains i then .next s
    else if 16 ≤ had || m.progress + 36000000 ≤ s.clk then .next (s.loseTx m)
    else .next (s.modTx m.mid (fun m => { m with retx := m.retx + 1, tries := (i, had + 1) :: m.tries.filter (fun t => t.1 != i) }))

/-! Receiving (19 R438, R441 to R443). -/

/-- A landing entry. -/
structure Landing where
  base : Nat
  size : Nat
  ckind : Nat
  job : Nat
  cdesc : Word
  coff : Nat
  bad : Bool
deriving DecidableEq, Repr

def landingOf (v : Nat) : Landing :=
  let f (off n : Nat) : Nat := fieldAt v (8 * off) (8 * n)
  let k := f 16 1
  let d := BitVec.ofNat 64 (f 24 8)
  { base := f 0 8, size := f 8 8, ckind := k, job := f 17 1, cdesc := d, coff := f 32 8,
    bad := f 18 6 != 0 || f 40 8 != 0 || f 48 8 != 0 || f 56 8 != 0 || decide (4 ≤ k) || f 0 8 % 16 != 0 || f 0 8 / 2 ^ 56 != 0 ||
      decide (64 ≤ f 17 1) || ((k == 1 || k == 2) && bitsAt d 61 3 != 0) ||
      (k == 3 && (bitsAt d 7 57 != 0 || f 32 8 % 64 != 0 || f 32 8 / 2 ^ 56 != 0)) }

/-- Reads a landing entry of a context. -/
def State.landing (s : State) (x : XCfg) (die i : Nat) : Except EngErr Landing × State :=
  match s.engGather (s.xOwn x.ctx die) (.glob (x.landBase + 64 * i)) 16 4 with
  | (.ok bs, s1) => (.ok (landingOf (fromBytes bs)), s1)
  | (.error e, s1) => (.error e, s1)

def RxMsg.is (r : RxMsg) (key ctx die : Nat) : Bool := r.key == key && r.ctx == ctx && r.die == die

def State.modRx (s : State) (key ctx die : Nat) (f : RxMsg → RxMsg) : State :=
  { s with link := { s.link with rx := updWhere (fun r => r.is key ctx die) f s.link.rx } }

/-- A message ends at the receiver: parts of it that still come are discarded (17 R403, 19 R436). -/
def State.dropRx (s : State) (key ctx die : Nat) : State :=
  { s with link := { s.link with rx := s.link.rx.filter (fun r => !r.is key ctx die), ended := (key, ctx, die) :: s.link.ended } }

def RxMsg.packets (r : RxMsg) : Nat := (r.len + 4095) / 4096

/-- A last acknowledgement is returned to a sender: with `refused` its STATE becomes 5 (19 R441, R442). -/
def State.reply (s : State) (key ctx die : Nat) (refused : Bool) : State :=
  { s with link := { s.link with replies := s.link.replies ++ [(key, ctx, die, refused)] } }

/-- Deposits units of 16 bytes of packet i of a message; a unit that meets an engine fault is held with those after it (18 R414, 10
R256). -/
def State.depositUnits (s : State) (r : RxMsg) (a : Actor) (i va : Nat) : List (List Byte) → State
  | [] => s.modRx r.key r.ctx r.die (fun x => { x with got := i :: x.got, seen := s.clk })
  | u :: us => match s.engWrite a (.glob va) u with
    | (.ok ts, s1) => State.depositUnits (s1.modRx r.key r.ctx r.die (fun x => { x with pts := max x.pts ts })) r a i (va + 16) us
    | (res, s1) => match engErr res 2 va with
      | some e =>
        let (s2, tag) := s1.xErr r.ctx r.die e (rxRef r.key)
        s2.modRx r.key r.ctx r.die (fun x => { x with held := tag, rest := x.rest ++ [(i, va, (u :: us).flatten)] })
      | none => s1

/-- Deposits one packet, as engine writes of 16 bytes (09 R234). -/
def State.deposit (s : State) (r : RxMsg) (i va : Nat) (bs : List Byte) : State :=
  s.depositUnits r (s.xOwn r.ctx r.die) i va (chunksOf 16 bs)

/-- The deposits that no engine fault holds any more go on (10 R258). -/
def State.retryRest (s : State) : State :=
  (s.link.rx.filter (fun r => r.held == 0 && !r.refused && s.receives r.ctx)).foldl (fun s r => match r.rest with
    | [] => s
    | (i, va, bs) :: more =>
      if s.cutOff r.ctx va then s else (s.modRx r.key r.ctx r.die (fun x => { x with rest := more })).deposit r i va bs) s

/-- PACKET_ARRIVAL: die, port, sender's message key, context, RKEY, LANDING, OFFSET, LENGTH, CTAG, the packet's number, and its
bytes. -/
def execPacketArrival (s : State) : Out :=
  let die := s.arg 0
  let key := s.arg 2
  let ctx := s.arg 3
  let off := s.arg 6
  let len := s.arg 7
  let i := s.arg 9
  let bs : List Byte := (s.pick.drop 10).map (BitVec.ofNat 8)
  let shaped := bs.length == min 4096 (len - 4096 * i) && 4096 * i < len && len % 16 == 0 && off % 16 == 0
  if !(s.ethPorts die).contains (s.arg 1) || !shaped then .next s
  else if !s.receives ctx then .next (s.reply key ctx die true)
  else if s.link.ended.contains (key, ctx, die) then .next s
  else match s.link.rx.find? (fun r => r.is key ctx die) with
    | some r =>
      let va := r.base + r.off + 4096 * i
      if r.refused || !r.rest.isEmpty || r.got.contains i || r.packets ≤ i || r.len ≠ len || s.cutOff ctx va then .next s
      else .next (s.deposit r i va bs)
    | none =>
      let x := s.xcfgOf ctx
      let one : RxMsg :=
        { key := key, ctx := ctx, die := die, port := s.arg 1, landing := s.arg 5, off := off, len := len, ctag := s.arg 8 % 65536,
          job := 0, base := 0, got := [], refused := true, seen := s.clk, pts := 0, held := 0,
          rest := [] }
      let refuse (t : State) : Out := .next ({ t with link := { t.link with rx := t.link.rx ++ [one] } }.reply key ctx die true)
      if s.arg 4 ≠ x.landKey || x.landCount ≤ s.arg 5 then refuse s
      else if s.xHeld ctx (rxRef key) || s.cutOff ctx (x.landBase + 64 * s.arg 5) then .next s
      else match s.landing x die (s.arg 5) with
        | (.error e, s1) => .next (s1.xErr ctx die e (rxRef key)).1
        | (.ok la, s1) =>
          let va := la.base + off + 4096 * i
          if la.bad || !s1.jobOpen ctx la.job || la.size < off + len then refuse s1
          else if s1.cutOff ctx va then .next s1
          else
            let r := { one with job := la.job, base := la.base, refused := false }
            let s2 := { s1 with link := { s1.link with rx := s1.link.rx ++ [r] } }
            .next ((s2.count ctx la.job (.port r.port) 1 0).deposit r i va bs)

/-- The scratchpad place that a completion names: its class in the grid of the job's opening launch. -/
def State.completionPad (s : State) (ctx : Nat) (la : Landing) : Option (Klass × Nat) :=
  match s.opener? ctx la.job with
  | none => none
  | some l => (l.linear? (bitsAt la.cdesc 0 48) (bitsAt la.cdesc 48 6)).bind (fun n =>
      (s.classAt? ctx l.lid n).map (fun k => (k, bitsAt la.cdesc 54 7)))

/-- The message is consumed and its last acknowledgement returned. -/
def State.endRx (s : State) (r : RxMsg) (refused : Bool) : State :=
  ((s.dropRx r.key r.ctx r.die).count r.ctx r.job (.port r.port) 0 1).reply r.key r.ctx r.die refused

/-- TRANSPORT_COMPLETION: every byte of message arg 0 for context arg 1 on die arg 2 has been deposited. A
bitmap word outside the pipeline's scratchpad is an engine access outside it: a violation (10 R259). -/
def execTransportCompletion (s : State) : Out :=
  match s.link.rx.find? (fun r => r.is (s.arg 0) (s.arg 1) (s.arg 2)) with
  | none => .next s
  | some r =>
    let runs := (s.ctx? r.ctx).any (fun c => (c.st == .running || c.st == .resident) && !c.viol && c.stopAt.isNone && c.saved.isNone)
    if r.refused || !r.rest.isEmpty || r.got.length < r.packets || !s.receives r.ctx || s.xHeld r.ctx (rxRef r.key) ||
        s.cutOff r.ctx ((s.xcfgOf r.ctx).landBase + 64 * r.landing) then .next s
    else match s.landing (s.xcfgOf r.ctx) r.die r.landing with
      | (.error e, s1) => .next (s1.xErr r.ctx r.die e (rxRef r.key)).1
      | (.ok la, s1) =>
        -- a completion other than none is held from a pre-emption to the restore (19 R450)
        if (la.ckind ≠ 0 && !runs) || (la.ckind = 3 && s.cutOff r.ctx la.coff) then .next s
        else match la.ckind with
        | 1 => match s1.completionPad r.ctx la with
          | none => .next (s1.endRx r true)
          | some (k, m) =>
            let (st, s2) := s1.barSignal k.kid m la.coff r.pts
            .next (s2.endRx r (st != 0))
        | 2 => match s1.completionPad r.ctx la with
          | none => .next (s1.endRx r true)
          | some (k, m) =>
            let o := la.coff + 8 * (r.ctag / 64)
            if (s1.pad? k.kid m).any (fun pd => o + 8 ≤ pd.size) then
              .next ((s1.engOr (xActor r.ctx r.die false r.pts) (.pad k.kid m o) (r.ctag % 64)).2.endRx r false)
            else .next (s1.xErr r.ctx r.die (.viol o) (rxRef r.key)).1
        | 3 => match s1.engGather (xActor r.ctx r.die false r.pts) (.glob la.coff) 16 4 with
          | (.error e, s2) => .next (s2.xErr r.ctx r.die e (rxRef r.key)).1
          | (.ok bs, s2) =>
            let v := fromBytes bs
            let ws : List Word := (List.range 8).map (fun i => BitVec.ofNat 64 (fieldAt v (64 * i) 64))
            let ws1 := setWord (setWord ws 6 (BitVec.ofNat 64 r.off)) 7 (BitVec.ofNat 64 r.ctag)
            let site : Site := ⟨bitsAt la.cdesc 0 3, bitsAt la.cdesc 3 4⟩
            let t : TaskRec :=
              { words := ws1, ctx := r.ctx, pts := r.pts, idStage := 0, idLogical := 0xFFFFFFFF, mail := none, fault := false, tag := 0,
                site := site, seq := 0, issuer := none, src := none }
            .next (((s2.count r.ctx (recFields ws1).theJob (cniOf site) 1 0).sendRecord t).endRx r false)
        | _ => .next (s1.endRx r false)

/-- RECEIVE_ABANDON: message arg 0 for context arg 1 on die arg 2 has had no new packet for 20 ms. -/
def execReceiveAbandon (s : State) : Out :=
  match s.link.rx.find? (fun r => r.is (s.arg 0) (s.arg 1) (s.arg 2)) with
  | none => .next s
  | some r =>
    if s.clk < r.seen + 72000000 || (!r.refused && r.packets ≤ r.got.length) then .next s
    else if r.refused then .next (s.dropRx r.key r.ctx r.die)
    else
      let (a, s1) := s.free
      let (b, s2) := s1.free
      let e := lossEntry (r.base + r.off) (Config.freeValue a) (Config.freeValue b) r.port s.link.domIndex 1 r.job r.len
      .next ((s2.repair r.ctx r.job (.port r.port) e).dropRx r.key r.ctx r.die)

/-! The congestion page (19 R444, 20 R453). -/

/-- Rewrites a word of physical memory that has changed. -/
def State.refresh (s : State) (pa n v : Nat) : State :=
  let (was, s1) := s.physRead pa n
  if was = v then s else s1.physWrite pa (toBytes n v)

/-- The throttle word of a cluster (20 R453). -/
def Throttle.word (t : Throttle) : Nat :=
  t.cause % 4 + 2 ^ 4 * (t.step % 16) + 2 ^ 8 * (t.temp % 256) + 2 ^ 32 * min t.events (2 ^ 32 - 1)

def State.throttleOf (s : State) (site : Site) : Throttle :=
  (s.plat.throttle.find? (fun t => t.site == site)).getD ⟨site, 0, 0, 0, 0, 0⟩

/-- The step in force: 0 while a context that is being pre-empted has a group there before its boundary, for at most 7,200 clk. -/
def State.throttleNow (s : State) (site : Site) : Throttle :=
  let t := s.throttleOf site
  let lifts (c : Ctx) : Bool := c.st == .preempting && !c.viol && !c.boundary && c.stopAt.any (fun t => decide (s.clk < t + 7200)) &&
    s.groups.any (fun g => g.ctx == c.num && g.site == site)
  if s.ctxs.any lifts then { t with step := 0 } else t

/-- Every congestion page shows the throttle word of each cluster of its die as soon as it changes (20 R453). -/
def State.showThrottle (s : State) : State :=
  (s.link.xcfg.flatMap (·.pages)).foldl (fun s p =>
    (List.range 16).foldl (fun s n => s.refresh (p.2.1 + 64 + 8 * n) 8 (s.throttleNow ⟨p.1, n⟩).word) s) s

/-- Unacknowledged bytes towards a peer. -/
def State.outstanding (s : State) (ctx die peer : Nat) : Nat :=
  let rest (m : TxMsg) : Nat := ((List.range m.packets).filter (fun i => !m.acked.contains i)).foldl (fun n i => n + min 4096 (m.len - 4096 * i)) 0
  (s.link.tx.filter (fun m => m.ctx == ctx && m.die == die && m.peer == peer)).foldl (fun n m => n + rest m) 0

/-- What the engine has measured of its peers: number, MARKED, RTT, CWND. -/
def statsOf (ctx die : Nat) : List Nat → List PeerStat
  | p :: m :: r :: w :: t => ⟨ctx, die, p, min m 65535, r % 2 ^ 32, w % 2 ^ 32⟩ :: statsOf ctx die t
  | _ => []

/-- CONGESTION_UPDATE: context arg 0, die arg 1, then the new measurements of peers. -/
def execCongestionUpdate (s : State) : Out :=
  let ctx := s.arg 0
  let die := s.arg 1
  match (s.xcfg? ctx).bind (fun x => (x.pages.find? (fun p => p.1 == die)).map (fun p => (x, p))) with
  | none => .next s
  | some (x, (_, base, updates)) =>
    -- one rewrite in 3,600 clk
    if s.clk < 3600 * (updates + 1) then .next s else
    let news := statsOf ctx die (s.pick.drop 2)
    let keep := s.link.peers.filter (fun p => !news.any (fun q => q.ctx == p.ctx && q.die == p.die && q.peer == p.peer))
    let s1 := { s with link := { s.link with peers := keep ++ news } }
    let s2 := (List.range 6).foldl (fun s k => s.refresh (base + 8 * k) 8 (((s.port? (6 * die + k)).map Port.word).getD 0)) s1
    let entry (s : State) (p : Nat) : Nat :=
      let st := s.link.peers.find? (fun q => q.ctx == ctx && q.die == die && q.peer == p)
      min (s.outstanding ctx die p) (2 ^ 32 - 1) + 2 ^ 32 * ((st.map (·.marked)).getD 0) + 2 ^ 64 * ((st.map (·.rtt)).getD 0) +
        2 ^ 96 * ((st.map (·.cwnd)).getD 0)
    let s4 := (List.range x.peerCount).foldl (fun s p => s.refresh (base + 4096 + 16 * p) 16 (entry s p)) s2
    let s5 := (s4.physWrite (base + 56) (toBytes 8 s.ptp)).physWrite (base + 48) (toBytes 8 (updates + 1))
    .next (s5.setXcfg { x with pages := x.pages.map (fun p => if p.1 = die then (p.1, p.2.1, p.2.2 + 1) else p) })

/-! Port commands (19 R427, R430, R448, R451). -/

/-- Messages that no port of their die can carry any more, after a port has been disabled. -/
def State.loseUnsent (s : State) (die : Nat) : State :=
  if !(s.ethPorts die).isEmpty then s
  else (s.link.tx.filter (fun m => m.die == die)).foldl (fun s m => s.loseTx m) s

/-- PORTCFG: port, mode, rate, enable. -/
def execPortcfg (s : State) : Out :=
  s.command 0x10 true (fun s _ =>
    let mcl := s.arg 5 == 1
    let rate := s.arg 6
    match s.port? (s.arg 4) with
    | none => .now 6 0 s
    | some p =>
      if 2 ≤ s.arg 5 || 3 ≤ rate || 2 ≤ s.arg 7 then .now 6 0 s
      else if s.arg 7 = 0 then
        if p.st == .down then .now 0 0 (s.modPort p.num (fun p => { p with mcl := mcl, rate := rate }))
        else
          let s1 := s.modPort p.num (fun p => { p with st := .down, lanes := 0, pending := false })
          .now 0 0 (if p.mcl then s1.loseCut else s1.loseUnsent (p.num / 6))
      else match p.st with
        | .down => .now 0 0 (s.modPort p.num (fun p => { p with mcl := mcl, rate := rate, st := .training, attempts := 0, outSince := s.clk }))
        | .up | .degraded =>
          if mcl != p.mcl then .now 1 0 s
          else if rate = p.rate then .now 0 0 s
          else .now 0 0 ((s.modPort p.num (fun p => { p with rate := rate })).requestRetrain p.num)
        | _ => .now 1 0 s)

/-- PORTSTAT: port; the result is its status word. -/
def execPortstat (s : State) : Out :=
  s.command 0x11 false (fun s _ => match s.port? (s.arg 4) with
    | none => .now 6 0 s
    | some p => .now 0 p.word s)

end Sys2Proof.Machine
end

