-- ==== Sys2Proof/Machine/Platform.lean ====
section
/-!
DEFINITION. The platform: start-up, throttling, self-test and sparing, firmware and decode tables (20 R452 to R457, 11 R281), timestamps
(08 R204, 09 R235), and poison, scrub and keys (18 R421 to R424).
-/

namespace Sys2Proof.Machine

open Sys2Proof

/-! Timestamps (08 R204, 09 R235). -/

/-- PTS_TICK: every lane's PTS advances by one, once in 128 clk. -/
def execPtsTick (s : State) : Out :=
  if s.clk < 128 * (s.ticks + 1) then .next s
  else .next { s with
    ticks := s.ticks + 1,
    groups := s.groups.map (fun g => { g with lanes := g.lanes.map (fun l => { l with pts := l.pts + 1 }) }) }

def TaskRec.lower (n : Nat) (r : TaskRec) : TaskRec := { r with pts := r.pts - n }
def QEvent.lower (n : Nat) (e : QEvent) : QEvent := { e with pts := e.pts - n }
def Lane.lower (n : Nat) (l : Lane) : Lane := { l with pts := l.pts - n, cmdPts := l.cmdPts - n }
def Group.lower (n : Nat) (g : Group) : Group := { g with lanes := g.lanes.map (Lane.lower n), acqPts := g.acqPts - n }
def Pad.lower (n : Nat) (p : Pad) : Pad := { p with ts := p.ts.map (fun t => { t with wts := t.wts - n, rts := t.rts - n }) }
def Klass.lower (n : Nat) (k : Klass) : Klass := { k with pads := k.pads.map (Pad.lower n), recs := k.recs.map (TaskRec.lower n) }
def Bank.lower (n : Nat) (b : Bank) : Bank :=
  { b with
    queue := b.queue.map (QEvent.lower n), emit := b.emit.map (fun e => { e with pts := e.pts - n }),
    accs := b.accs.map (fun a => (a.1, { a.2 with ts := a.2.ts - n })) }
def Ring.lower (n : Nat) (r : Ring) : Ring := { r with tiles := r.tiles.map (fun t => { t with pts := t.pts - n }) }
def Notice.lower (n : Nat) (x : Notice) : Notice := { x with pts := x.pts - n }
def BarxInst.lower (n : Nat) (x : BarxInst) : BarxInst := { x with pts := x.pts - n }
def Barriers.lower (n : Nat) (b : Barriers) : Barriers :=
  { b with insts := b.insts.map (BarxInst.lower n), flying := b.flying.map (Notice.lower n), held := b.held.map (Notice.lower n) }

def Spill.lower (n : Nat) (x : Spill) : Spill := { x with item := match x.item with
  | .rec_ r => .rec_ (r.lower n)
  | .ev e => .ev (e.lower n) }

def MemSys.lower (n : Nat) (m : MemSys) : MemSys := { m with
  copies := m.copies.map (fun c => { c with wts := c.wts - n, rts := c.rts - n }),
  homes := m.homes.map (fun h => { h with wts := h.wts - n, rts := h.rts - n }) }

def Engines.lower (n : Nat) (e : Engines) : Engines :=
  { e with
    copies := e.copies.map (fun c => { c with pts := c.pts - n }), drains := e.drains.map (fun d => { d with pts := d.pts - n }),
    decrements := e.decrements.map (fun d => { d with pts := d.pts - n }), flights := e.flights.map (TaskRec.lower n),
    front := e.front.map (TaskRec.lower n), inbox := e.inbox.map (TaskRec.lower n), spill := e.spill.map (Spill.lower n),
    trays := e.trays.map (fun t => { t with recs := t.recs.map (TaskRec.lower n) }), events := e.events.map (QEvent.lower n),
    observed := e.observed.map (fun o => { o with pts := o.pts - n }) }

def Link.lower (n : Nat) (k : Link) : Link := { k with
  rx := k.rx.map (fun r => { r with pts := r.pts - n }), tx := k.tx.map (fun m => { m with pts := m.pts - n }),
  sends := k.sends.map (fun c => { c with pts := c.pts - n }), slotWrites := k.slotWrites.map (fun w => { w with pts := w.pts - n }) }

def Saved.lower (n : Nat) (v : Saved) : Saved := { v with
  groups := v.groups.map (Group.lower n), classes := v.classes.map (Klass.lower n), recs := v.recs.map (TaskRec.lower n), front := v.front.map (TaskRec.lower n),
  banks := v.banks.map (Bank.lower n), insts := v.insts.map (BarxInst.lower n), notices := v.notices.map (Notice.lower n) }

def Ctx.lower (n : Nat) (c : Ctx) : Ctx := { c with
  launches := c.launches.map (fun l => { l with pts := l.pts - n, endPts := l.endPts - n }),
  objs := c.objs.map (fun o => { o with pts := o.pts - n }), saved := c.saved.map (Saved.lower n) }

/-- REBASE (08 R204): every timestamp falls by arg 0, and one below it becomes 0. A leased copy whose lease lies below it leaves
its cache, since the lease would seem to cover a PTS that has passed it (log 78). Every watch fires (08 R216). -/
def execRebase (s : State) : Out :=
  let n := s.arg 0
  let lose (l : Lane) : Lane := { l with watch := l.watch.map (fun w => { w with fired := some (w.fired.getD .lost) }) }
  let m := s.mem.dropCopies (fun c => !c.owned && decide (c.rts < n))
  .next { s with
    groups := s.groups.map (fun g => let h := g.lower n; { h with lanes := h.lanes.map lose }),
    classes := s.classes.map (Klass.lower n), mem := m.lower n, eng := s.eng.lower n,
    ctxs := s.ctxs.map (Ctx.lower n), banks := s.banks.map (Bank.lower n), rings := s.rings.map (Ring.lower n), bars := s.bars.lower n,
    link := s.link.lower n }

/-- A timestamp comes near 2^48: the device rebases before any reaches it (08 R204). -/
def State.tsHigh (s : State) : Bool :=
  let high (n : Nat) : Bool := decide (2 ^ 47 ≤ n)
  s.groups.any (fun g => g.lanes.any (fun l => high l.pts)) || s.mem.homes.any (fun h => high h.rts) ||
  s.mem.copies.any (fun c => high c.rts) || s.classes.any (fun k => k.pads.any (fun p => p.ts.any (fun t => high t.rts)))

/-- The amount of a rebase that the device makes by itself. -/
def rebaseStep : Nat := 2 ^ 46

/-! Poison, scrub and keys (18 R421 to R424). -/

/-- Poisons a granule, in memory and in every cached copy of its line: from now on each of its bytes is owed a write. -/
def State.poisonGranule (s : State) (n : Nat) : State :=
  s.setMem { s.mem with
    poison := ⟨n, []⟩ :: s.mem.poison.filter (fun p => p.granule != n),
    icache := updWhere (fun i => i.pline == n / 2) (fun i => { i with bad := n :: i.bad.filter (· != n) }) s.mem.icache }

/-- Granules of a stack (18 R408, 08 R200), and the granule at a place of its ascending order. -/
def stackGranules : Nat := memLimit / 1024

def granuleOf (stack i : Nat) : Nat := (i / 64 * 16 + stack) * 64 + i % 64

/-- A granule's stack, and its place in the stack's order. -/
def granuleStack (g : Nat) : Nat := g / 64 % 16

def granuleIndex (g : Nat) : Nat := g / 1024 * 64 + g % 64

/-- The key version stored with a granule (18 R420, R423): during a pass, the old one until the pass or a write-back has reached it. -/
def State.keyVersion (s : State) (g : Nat) : Nat :=
  match s.plat.keyOld with
  | none => s.plat.keyCur
  | some o =>
    let done := s.plat.scrubNext.any (fun x => x.1 == granuleStack g && decide (granuleIndex g < x.2))
    if done || s.mem.fresh.contains g then s.plat.keyCur else o

/-- The integrity tag stored with a granule (18 R420). -/
def State.granuleTag (s : State) (g : Nat) : Nat :=
  Config.granuleTag (s.keyVersion g) g ((List.range 64).map (fun i => (s.mem.homeByte (64 * g + i)).toNat))

/-- SCRUB_PASS_START: a period after the last pass began, the next version becomes current. -/
def execScrubPassStart (s : State) : Out :=
  let early := s.plat.scrubStart != 0 && decide (s.clk < s.plat.scrubStart + 12960000000000 * s.plat.scrubHours)
  if s.plat.keyOld.isSome || !s.plat.ready || early then .next s
  else .next { s with
    mem := { s.mem with fresh := [] },
    plat := { s.plat with
      keyOld := some s.plat.keyCur, keyCur := (s.plat.keyCur + 1) % 16, scrubNext := (List.range 16).map (fun k => (k, 0)),
      scrubStart := s.clk } }

/-- KEY_ERASE: every controller has finished the pass. -/
def execKeyErase (s : State) : Out :=
  if s.plat.scrubNext.length = 16 && s.plat.scrubNext.all (fun x => decide (stackGranules ≤ x.2)) then
    .next { s with plat := { s.plat with keyOld := none, scrubNext := [] } }
  else .next s

/-! Self-test and sparing (20 R454, R455, 01 R25). -/

/-- A unit from operands: kind, then its numbers. -/
def unitOf : List Nat → Option PUnit_
  | 0 :: d :: c :: q :: _ => some (.quad d c q)
  | 1 :: d :: c :: _ => some (.cluster d c)
  | 2 :: d :: sl :: b :: _ => some (.bank d sl b)
  | 3 :: st :: ch :: _ => some (.channel st ch)
  | 4 :: p :: l :: _ => some (.lane (p % 48) (l % 5))
  | _ => none

def State.vacant (s : State) (u : PUnit_) : Bool := !s.groups.any (unitHolds u) && !s.classes.any (unitHoldsClass u)

/-- The unit has failed: it is out of use until a spare takes its number. -/
def State.retire (s : State) (u : PUnit_) : State :=
  { (s.logPlat 5 (unitCode u)) with plat := { (s.logPlat 5 (unitCode u)).plat with
      tests := s.plat.tests.filter (fun t => t.unit_ != u),
      retired := if s.plat.retired.contains u then s.plat.retired else s.plat.retired ++ [u] } }

/-- 24 hours in clk. -/
def dayClk : Nat := 311040000000000

/-- A unit is an HBM channel with an uncorrectable error less than 24 hours ago. -/
def State.ueRecent (s : State) (u : PUnit_) : Bool :=
  match u with
  | .channel .. => s.plat.ueAt.any (fun x => x.1 == u && decide (s.clk < x.2 + dayClk))
  | _ => false

/-- A failed unit is retired; a lane as 19 R430 gives. -/
def State.failUnit (s : State) (u : PUnit_) : State :=
  match u with
  | .lane p l => (s.retire u).retireLane p (l == 4)
  | _ => s.retire u

/-- An error in a unit: it starts the unit's test, or fails the unit when it recurs after a pass. -/
def State.unitError (s : State) (u : PUnit_) : State :=
  if s.plat.tests.any (fun t => t.unit_ == u) || s.plat.retired.contains u then s
  else if s.plat.suspects.contains u then s.failUnit u
  else
    let s1 := s.logPlat 4 (unitCode u)
    { s1 with plat := { s1.plat with tests := s1.plat.tests ++ [⟨u, s.clk⟩] } }

/-- An uncorrectable error in a unit: the second of a channel within 24 hours is a failure. -/
def State.unitUe (s : State) (u : PUnit_) : State :=
  if s.ueRecent u && !s.plat.retired.contains u then s.retire u
  else
    let s1 := s.unitError u
    { s1 with plat := { s1.plat with ueAt := (u, s.clk) :: s1.plat.ueAt.filter (fun x => x.1 != u) } }

/-- A granule's tag does not match: it is poisoned, and its channel is tested. -/
def State.badGranule (s : State) (g channel : Nat) : State :=
  ((s.poisonGranule g).logPlat 3 g).unitUe (.channel (granuleStack g) channel)

/-- POISON: granule arg 0, in channel arg 1 of its stack (log 80). -/
def execPoison (s : State) : Out :=
  if memLimit ≤ 64 * s.arg 0 then .next s else .next (s.badGranule (s.arg 0) (s.arg 1))

/-- SCRUB_GRANULE: the controller of stack arg 0 scrubs its next granule, in channel arg 2; arg 1 = 1 when its tag does not match, 2 when
an error in it is corrected. It is written back under the target version, which it carries from then on, unless it carries that already. -/
def execScrubGranule (s : State) : Out :=
  match s.plat.scrubNext.find? (fun x => x.1 == s.arg 0) with
  | none => .next s
  | some (k, i) =>
    if stackGranules ≤ i || s.plat.keyOld.isNone then .next s
    else
      let step (x : Nat × Nat) : Nat × Nat := if x.1 = k then (k, i + 1) else x
      let s1 := { s with plat := { s.plat with scrubNext := s.plat.scrubNext.map step } }
      .next (match s.arg 1 with
        | 1 => s1.badGranule (granuleOf k i) (s.arg 2)
        | 2 => s1.unitError (.channel k (s.arg 2))
        | _ => s1)

/-- SELF_TEST: arg 0 = 0 a corrected error arises in a unit; 1 its test passes; 2 it fails; 3 an uncorrectable error arises in it,
the second of a channel within 24 hours being a failure. The unit follows. A quad is tested when no slot of it holds a group. -/
def execSelfTest (s : State) : Out :=
  match unitOf (s.pick.drop 1) with
  | none => .next s
  | some u =>
    let under := s.plat.tests.any (fun t => t.unit_ == u)
    match s.arg 0 with
    | 0 => .next (s.unitError u)
    | 1 =>
      if !under || s.groups.any (unitHolds u) then .next s
      else
        let s1 := s.logPlat 11 (unitCode u)
        .next { s1 with plat := { s1.plat with tests := s.plat.tests.filter (fun t => t.unit_ != u), suspects := u :: s.plat.suspects } }
    | 2 => if !under || s.groups.any (unitHolds u) then .next s else .next (s.failUnit u)
    | _ => .next (s.unitUe u)

/-- A spare is left for a unit. -/
def State.spareFor (s : State) (u : PUnit_) : Bool :=
  match u with
  | .quad d c _ => !s.plat.spared.any (fun x => match x with | .quad e f _ => e == d && f == c | _ => false)
  | .cluster d _ => !s.plat.spared.any (fun x => match x with | .cluster e _ => e == d | _ => false)
  | .channel st _ => decide ((s.plat.spared.filter (fun x => match x with | .channel t _ => t == st | _ => false)).length < 2)
  | .lane p _ => (s.port? p).any Port.spare
  | .bank .. => false

/-- The caches of the replaced unit leave with it. -/
def State.emptyUnit (s : State) (u : PUnit_) : State :=
  let on (d c p : Nat) : Bool := match u with
    | .quad e f q => d == e && c == f && p / 4 == q
    | .cluster e f => d == e && c == f
    | _ => false
  let mine (c : Copy) : Bool := match c.holder with
    | .l1 d k p => on d k p
    | .station .. => false
  let m1 := (s.mem.copies.filter mine).foldl (fun m c => m.evict c) s.mem
  s.setMem { m1 with icache := m1.icache.filter (fun i => !on i.die i.cluster i.pipe), arrays := m1.arrays.filter (fun a => !on a.die a.cluster a.pipe) }

/-- A unit is another, or a quad of it, which leaves with it. -/
def unitPartOf (v u : PUnit_) : Bool :=
  v == u || (match u, v with
    | .cluster d c, .quad e f _ => d == e && c == f
    | _, _ => false)

/-- SPARE_MAP_IN: the spare takes the number of a retired unit on which no class is placed. -/
def execSpareMapIn (s : State) : Out :=
  match unitOf s.pick with
  | none => .next s
  | some u =>
    if !s.plat.retired.contains u || !s.spareFor u || !s.vacant u then .next s
    else
      let s1 := (s.emptyUnit u).logPlat 6 (unitCode u)
      let keep (v : PUnit_) : Bool := !unitPartOf v u
      -- a spare that has failed stays mapped in; the quads of a replaced cluster bring their own
      let inUse (v : PUnit_) : Bool := v == u || keep v
      .next { s1 with plat := { s1.plat with
        retired := s1.plat.retired.filter keep, suspects := s1.plat.suspects.filter keep,
        ueAt := s1.plat.ueAt.filter (fun x => keep x.1),
        tests := s1.plat.tests.filter (fun t => keep t.unit_), spared := s1.plat.spared.filter inUse ++ [u] } }

/-- UNIT_FAILURE: a retired unit for which no spare is left. A quad retires its cluster, a cluster's site leaves use, a
channel's 4 KiB units, which follow the unit's operands, are poisoned, and the port of a lane fails when fewer than two good lanes are
left (19 R430). -/
def execUnitFailure (s : State) : Out :=
  match unitOf s.pick with
  | none => .next s
  | some u =>
    if !s.plat.retired.contains u || s.spareFor u then .next s
    else
      let s1 := s.logPlat 7 (unitCode u)
      match u with
      | .quad d c _ => .next (s1.retire (.cluster d c))
      | .cluster d c => .next { s1 with plat := { s1.plat with clusters := s1.plat.clusters.filter (fun x => x != ⟨d, c⟩) } }
      | .channel st _ =>
        let units := (s.pick.drop 3).filter (fun n => n % 16 == st && decide (4096 * n < memLimit))
        .next (units.foldl (fun s n => (List.range 64).foldl (fun s i => s.poisonGranule (64 * n + i)) s) s1)
      | .lane p _ => .next (if (s.port? p).any (fun x => decide (x.good < 2) && x.st != .down) then s1.failPort p else s1)
      | .bank .. => .next s1

/-! Throttling (20 R453). -/

/-- THROTTLE_MEASURE: cluster arg 1 of die arg 0; its new STEP, TEMP and CAUSE. A step is lowered by one and no faster than one
per 100 us. -/
def execThrottleMeasure (s : State) : Out :=
  let site : Site := ⟨s.arg 0, s.arg 1⟩
  let t := s.throttleOf site
  let want := min (s.arg 2) 8
  let up := decide (t.step < want)
  let down := decide (want < t.step) && decide (t.since + 360000 ≤ s.clk)
  let t1 : Throttle :=
    { t with
      step := if up then want else if down then t.step - 1 else t.step,
      events := if up then min (t.events + 1) (2 ^ 32 - 1) else t.events, temp := s.arg 3 % 256, cause := s.arg 4 % 4,
      since := if up || down then s.clk else t.since }
  if 8 ≤ site.die || 16 ≤ site.cluster then .next s
  else .next { s with plat := { s.plat with throttle := t1 :: s.plat.throttle.filter (fun x => x.site != site) } }.showThrottle

/-! Start-up (20 R452). -/

/-- A cluster has been brought up, or has failed its start-up self-test. -/
def State.clusterDone (s : State) (d n : Nat) : Bool := s.plat.clusters.contains ⟨d, n⟩ || s.plat.retired.contains (.cluster d n)

/-- MODULE_RESET: arg 0 = 0 reset is released, and what is fused stays (R456); 1 die arg 1 powers its mesh, stations and controllers; 2 the host link trains; 3 the
firmware of version arg 1 and digest arg 2 verifies its image, with arg 3 = 1 when both signatures verify, and installs the decode table
of version arg 4 and digest arg 5, of security version arg 7 and with arg 6 = 1 when its signatures verify: the command rings accept
commands. Units come up one at a time, in order. -/
def execModuleReset (s : State) : Out :=
  let die0Up := (List.range 16).all (fun n => s.clusterDone 0 n)
  let allUp := (List.range 8).all (fun d => (List.range 16).all (fun n => s.clusterDone d n))
  match s.arg 0 with
  | 0 => .next { State.reset with
      agenda := s.agenda, freeN := s.freeN, nextId := s.nextId, plat := { State.reset.plat with fusedMin := s.plat.fusedMin } }
  | 1 =>
    let d := s.arg 1
    if 8 ≤ d || s.plat.dies.length ≠ d || s.clk < 180000 * d then .next s
    else .next { s with plat := { s.plat with dies := s.plat.dies ++ [d] } }
  | 2 => if s.plat.dies.contains 0 && decide (1548000 ≤ s.clk) && die0Up then .next { s with plat := { s.plat with hostUp := true } } else .next s
  | _ =>
    if !s.plat.hostUp || s.plat.ready || !allUp || s.arg 3 ≠ 1 || s.arg 6 ≠ 1 || s.arg 1 < s.plat.fusedMin || s.arg 7 < s.plat.fusedMin then
      .next s
    else .next { s with plat := { s.plat with
      ready := true, fwVersion := s.arg 1, fwDigest := s.arg 2, fusedMin := max s.plat.fusedMin (s.arg 1), dtVersion := s.arg 4,
      dtDigest := s.arg 5 } }

/-- CLUSTER_POWER_UP: cluster arg 1 of die arg 0 at its offset; arg 2 = 1 when quad arg 3 fails its start-up self-test, 2 when the
cluster does: the spare takes its place at once. -/
def execClusterPowerUp (s : State) : Out :=
  let d := s.arg 0
  let n := s.arg 1
  let site : Site := ⟨d, n⟩
  let before := (List.range 8).all (fun e => (List.range 16).all (fun k => decide (16 * d + n ≤ 16 * e + k) || s.clusterDone e k))
  if 8 ≤ d || 16 ≤ n || s.plat.dies.length < 8 || s.clusterDone d n || !before || s.clk < 3600 * (50 * d + 400 + 2 * n) then .next s
  else
    let u : PUnit_ := if s.arg 2 = 1 then .quad d n (s.arg 3) else .cluster d n
    let on : State := { s with plat := { s.plat with clusters := s.plat.clusters ++ [site] } }
    if s.arg 2 = 0 then .next on
    else if s.spareFor u then
      let t := (on.logPlat 5 (unitCode u)).logPlat 6 (unitCode u)
      .next { t with plat := { t.plat with spared := t.plat.spared ++ [u] } }
    else .next ((if s.arg 2 = 1 then on else s).retire u)

/-! Firmware and decode tables (20 R456, 11 R281). -/

/-- A status word that the firmware returns to the host for a request of function 0, at the request's status address (19 R447, log 104). -/
def State.returnStatus (s : State) (at_ st : Nat) : State := { s with link := { s.link with dma := s.link.dma ++ [(0, at_, st)] } }

/-- FIRMWARE_UPDATE: security version, digest, whether each of the two signatures verifies, and where the host reads the status. A
refused image leaves the firmware in force, and DENIED is returned. -/
def execFirmwareUpdate (s : State) : Out :=
  if !s.plat.ready then .next s
  else if s.arg 2 ≠ 1 || s.arg 3 ≠ 1 || s.arg 0 < s.plat.fusedMin then
    .next ((s.logPlat 8 (s.arg 0)).returnStatus (s.arg 4) 5)
  else
    let s1 := s.logPlat 9 (s.arg 0)
    .next ({ s1 with plat := { s1.plat with
      fwVersion := s.arg 0, fwDigest := s.arg 1, fusedMin := max s.plat.fusedMin (s.arg 0) } }.returnStatus (s.arg 4) 0)

/-- DECODE_TABLE_INSTALL: arg 0 = 0 a table of version arg 1, digest arg 2 and security version arg 3 is verified: each of the operands
from the fifth is 1 when a signature verifies (two), when it is built for this generation, changes no fate, and converts the shells of
earlier tables, and arg 9 is where the host reads the status; every resident context is then pre-empted. 1: the contexts are saved, the table is installed on every die and
they are restored. -/
def execDecodeTableInstall (s : State) : Out :=
  match s.arg 0, s.plat.installing with
  | 0, none =>
    if !s.plat.ready then .next s
    else if !((s.pick.drop 4).take 5 == [1, 1, 1, 1, 1]) || !sameGeneration (s.arg 1) s.plat.dtVersion || s.arg 3 < s.plat.fusedMin then
      .next ((s.logPlat 10 (s.arg 1)).returnStatus (s.arg 9) 5)
    else
      let cs := (s.ctxs.filter (fun c => c.st == .running || c.st == .resident)).map (·.num)
      let s1 := cs.foldl (fun s n => s.requestPreempt n) s
      .next { s1 with plat := { s1.plat with installing := some (s.arg 1, s.arg 2, cs) } }
  | 1, some (v, d, cs) =>
    if s.ctxs.any (fun c => c.st == .preempting || c.st == .running) then .next s
    else
      let s1 := { s with plat := { s.plat with installing := none, dtVersion := v, dtDigest := d } }
      .next (s1.restoreAll cs)
  | _, _ => .next s

end Sys2Proof.Machine
end

