-- ==== Sys2Proof/Machine/Release.lean ====
section
/-!
DEFINITION. CONVERGENT_RELEASE: a path that stands halted at a convergent word executes it once everything the word waits for
has come (06 R154, 07 R168, 05 R127, 13 R325).
-/

namespace Sys2Proof.Machine

open Sys2Proof

/-- Tries again the convergent word at which path `pid` stands halted; other words do not halt a path. -/
def State.releaseAt (s : State) (gid pid : Nat) (i : Instr) : State :=
  match i with
  | .shfl g d a b c t mode id v => s.crossTry gid pid i g c (shflFn d a b t mode id v)
  | .voteAny g d a c => s.crossTry gid pid i g c (anyFn d a)
  | .voteAll g d a c => s.crossTry gid pid i g c (allFn d a)
  | .voteUni g d a c => s.crossTry gid pid i g c (uniFn d a)
  | .ballot g d a c => s.crossTry gid pid i g c (ballotFn d a)
  | .elect g d c => s.crossTry gid pid i g c (electFn d)
  | .matchLanes g d a c t => s.crossTry gid pid i g c (matchFn d a t)
  | .red g d a b c t rm sat op id => s.crossTry gid pid i g c (redFn d a b t rm sat op id)
  | .scan g d a b c t rm sat op id excl => s.crossTry gid pid i g c (scanFn d a b t rm sat op id excl)
  | .exch g d a b p st v => s.exchTry gid pid i g d a b p st v
  | .mma d a b c kq _ _ => s.formTry gid pid i (mmaEff d a b c kq)
  | .mzero d => s.formTry gid pid i (mzeroEff d)
  | .mclr mask => s.formTry gid pid i (mclrEff mask)
  | .mmov d a => s.formTry gid pid i (mmovEff d a)
  | .mdrain a b t rm _ clr => s.formTry gid pid i (mdrainEff a b t rm clr)
  | .mdrainr d a b c t rm clr => s.formTry gid pid i (mdrainrEff d a b c t rm clr)
  | .mpass => s.formTry gid pid i mpassEff
  | .mwait => s.formTry gid pid i (mwaitEff false)
  | .mwaitAll => s.formTry gid pid i (mwaitEff true)
  | .fuse => s.formTry gid pid i fuseEff
  | .split => s.formTry gid pid i splitEff
  | .refuse _ => s.refuseTry gid
  | .join => s.tryJoin gid pid
  | .barx d a b scope => s.formTry gid pid i (barxEff d a b scope)
  | .rrel d a => s.formTry gid pid i (rrelEff d a)
  | .quiet d a b scope => s.formTry gid pid i (quietEff d a b scope)
  | _ => s

/-- CONVERGENT_RELEASE of path arg 1 of group arg 0. -/
def execConvergentRelease (s : State) : Out :=
  let gid := s.arg 0
  let pid := s.arg 1
  match s.group? gid with
  | none => .next s
  | some g =>
    match (g.path? pid).bind (·.halted) with
    | none => .next s
    | some i => if g.frozen then .next s else .next (s.releaseAt gid pid i)

end Sys2Proof.Machine
end

