-- ==== Sys2Proof/Machine/Fetch.lean ====
section
/-!
DEFINITION. Instruction fetch (03 R71, R72, 11 R283), what goes on by itself after each move (waits that end, watches that are
lost, commands that complete), and the passing of clk.
-/

namespace Sys2Proof.Machine

open Sys2Proof

/-! Instruction fetch. -/

/-- The lines an instruction cache of 32 KiB holds (11 R283). -/
def icacheLines : Nat := 256

/-- A line of the pipeline `pipe` of a cluster. -/
def ILine.on (i : ILine) (site : Site) (pipe : Nat) : Bool := i.die == site.die && i.cluster == site.cluster && i.pipe == pipe

def MemSys.iline? (m : MemSys) (site : Site) (pipe ctx vline : Nat) : Option ILine :=
  m.icache.find? (fun i => i.on site pipe && i.ctx == ctx && i.vline == vline)

/-- Puts a line at the head of its cache; the oldest line of a full cache goes (log 10). -/
def MemSys.icacheFill (m : MemSys) (site : Site) (i : ILine) : MemSys :=
  let mine := m.icache.filter (fun j => j.on site i.pipe)
  let rest := if mine.length < icacheLines then m.icache
    else match mine.getLast? with
      | some old => m.icache.filter (fun j => j != old)
      | none => m.icache
  { m with icache := i :: rest }

/-- The sixteen words of a line as its home holds them. -/
def MemSys.lineWords (m : MemSys) (pline : Nat) : List Word :=
  (List.range 16).map (fun k => BitVec.ofNat 64 (fromBytes ((List.range 8).map (fun i => m.homeByte (128 * pline + 8 * k + i)))))

/-- What a fetch came to: the word, the lanes that trap, or nothing yet. -/
inductive FetchRes where
  | word (w : Word) (s : State)
  | stop (ts : List (Nat × TrapInfo)) (s : State)
  | hold

/-- Every lane of the path takes one trap. -/
def allLanes (p : Path) (t : TrapInfo) : List (Nat × TrapInfo) := p.lanes.map (fun l => (l, t))

/-- A fetch from another package of the domain (19 R434): it waits while that package is unreachable (R435); what it answers is free
(log 31). -/
def State.farFetch (s : State) (p : Path) (pts : Nat) (va : Word) : FetchRes :=
  if (s.routePort? (va.toNat / 2 ^ 48)).isNone then .hold
  else match s.farAnswer pts with
  | (.ok v, _, s1) => .word (BitVec.ofNat 64 v) s1
  | (.pageFault, _, s1) => .stop (allLanes p ⟨3, 3, va, false⟩) s1
  | (.protect, _, s1) => .stop (allLanes p ⟨4, 3, va, false⟩) s1
  | (.poisoned, _, s1) => .stop (allLanes p ⟨6, 3, va, false⟩) s1

/-- Reads the word at an address of a path through the instruction cache of its fetch stage: a miss is translated and reads
the line from its home (11 R283, 18 R411 to R413); a poisoned granule traps, in the cache too (18 R421, R422). -/
def State.fetchWord (s : State) (g : Group) (p : Path) (va : Word) : FetchRes :=
  let a := va.toNat
  if a / 2 ^ 56 ≠ 0 then .stop (allLanes p ⟨4, 1, va, false⟩) s
  else
    let pipe := g.fetchPipe p
    if s.far g.ctx a then s.farFetch p (g.lane (p.lanes.headD 0)).pts va
    else match s.mem.iline? g.site pipe g.ctx (a / 128) with
    | some i =>
      if i.bad.contains (2 * i.pline + a % 128 / 64) then .stop (allLanes p ⟨6, 3, va, false⟩) s
      else .word (i.words.getD (a % 128 / 8) 0) s
    | none =>
      let root := match s.ctx? g.ctx with | some c => c.desc.ptRoot | none => 0
      let (r, _, m) := s.mem.walk root g.site.die g.ctx a (g.lane (p.lanes.headD 0)).pts
      match r with
      | none => .stop (allLanes p ⟨3, 3, va, false⟩) (s.setMem m)
      | some pg =>
        match p.lanes.filter (fun l => !permits pg.perm needX (g.lane l).privS) with
        | l :: ls => .stop ((l :: ls).map (fun l => (l, ⟨4, 3, va, false⟩))) (s.setMem m)
        | [] =>
          let pa := pg.base + a % 2 ^ 21
          if m.poisoned pa 8 then .stop (allLanes p ⟨6, 3, va, false⟩) (s.setMem m)
          else
            let i : ILine :=
              { die := g.site.die, cluster := g.site.cluster, pipe := pipe, ctx := g.ctx, vline := a / 128, pline := pa / 128,
                words := m.lineWords (pa / 128),
                bad := [2 * (pa / 128), 2 * (pa / 128) + 1].filter (fun n => m.poisoned (64 * n) 64) }
            .word (i.words.getD (a % 128 / 8) 0) (s.setMem (m.icacheFill g.site i))

/-- The word a path issues: from its fetch buffer, or fetched. -/
def State.nextWord (s : State) (g : Group) (p : Path) : FetchRes :=
  match p.fbuf.find? (fun e => e.1 == p.pc.toNat) with
  | some e => .word e.2 s
  | none => s.fetchWord g p p.pc

/-- The two words after the one being issued may stand in the fetch buffer (11 R283). -/
def Path.keepAhead (p : Path) : Path :=
  { p with fbuf := p.fbuf.filter (fun e => e.1 == (p.pc + 8).toNat || e.1 == (p.pc + 16).toNat) }

/-- A path issues a word: its fetch buffer moves on, and a path that was held back until it has issued one goes on (22 R461). -/
def State.issued (s : State) (gid pid : Nat) : State :=
  s.modGroup gid (fun g => { g with paths := g.paths.map (fun p =>
    let q := if p.pid == pid then p.keepAhead else p
    if q.after == some pid then { q with after := none } else q) })

/-- The pipelines of a path's lanes. -/
def Group.pathPipes (g : Group) (p : Path) : List Nat := (p.lanes.map g.pipeOf).dedup

/-- The turn that a path takes when it issues. -/
def Group.turnOf (g : Group) (p : Path) (clk : Nat) : Turn :=
  { site := g.site, gid := g.gid, pid := p.pid, qset := p.qset, alone := p.alone, pipes := g.pathPipes p,
    quads := ((g.pathPipes p).map (· / 4)).dedup, clk := clk }

/-- Records a turn. Of the turns of earlier clk, those are kept whose group is there and which no later turn of it covers. -/
def State.noteTurn (s : State) (t : Turn) : State :=
  let covered (u : Turn) : Bool := u.gid == t.gid && u.pipes.all t.pipes.contains
  { s with turns := t :: s.turns.filter (fun u => u.clk == s.clk || (s.groups.any (fun g => g.gid == u.gid) && !covered u)) }

/-- A pipeline that a path needs has issued in this clk, or its quad set has (12 R306, 13 R312). -/
def State.pipeBusy (s : State) (g : Group) (p : Path) : Bool :=
  s.turns.any (fun t => t.clk == s.clk && t.site == g.site && ((t.gid == g.gid && !p.alone && !t.alone && p.qset == t.qset) ||
    (g.pathPipes p).any t.pipes.contains))

/-- The FENCE that an acquire access stands for lets the path go on (08 R209). -/
def State.fencesReady (s : State) (g : Group) (p : Path) : Bool :=
  p.lanes.all (fun l => (g.lane l).fenceOwed.isNone || s.fenceReady g.gid l)

/-- The fences of a path's acquire accesses take effect. -/
def State.takeFences (s : State) (g : Group) (p : Path) : State :=
  p.lanes.foldl (fun s l => match (g.lane l).fenceOwed with
    | some sc => s.fenced g.gid l sc
    | none => s) s

/-- Threads of a context issue while it runs, and on until its boundary when it is being stopped (10 R248, R265). -/
def State.issues (s : State) (ctx : Nat) : Bool :=
  match s.ctx? ctx with
  | some c => !c.boundary && (c.st == .running || c.stopAt.isSome)
  | none => false

/-- Fetches ahead, into the fetch buffer of a live path, the next of the two words it may hold. -/
def State.prefetch (s : State) (gid pid : Nat) : State :=
  match s.group? gid with
  | none => s
  | some g =>
    match g.path? pid with
    | none => s
    | some p =>
      if !s.issues g.ctx || !g.canIssue p then s
      else
        match [p.pc, p.pc + 8].find? (fun a => !p.fbuf.any (fun e => e.1 == a.toNat)) with
        | none => s
        | some a =>
          match s.fetchWord g p a with
          | .word w s1 => s1.modPath gid pid (fun p => { p with
              fbuf := (a.toNat, w) :: p.fbuf.filter (fun e => e.1 == p.pc.toNat || e.1 == (p.pc + 8).toNat) })
          | _ => s

/-- The paths that may issue, in the order of the groups: the results that they need have come (00 R15, log 14). -/
def State.ready (s : State) : List (Nat × Nat) :=
  (s.groups.filter (fun g => s.issues g.ctx)).flatMap (fun g => (g.paths.filter (fun p => g.canIssue p && decide (p.readyAt ≤ s.clk))).map (fun p => (g.gid, p.pid)))

/-! What follows every move. -/

/-- A lane whose WAITM or WFI was interrupted (08 R217, 10 R264). -/
def Lane.interrupted (l : Lane) : Bool :=
  match l.wait with
  | some w => w.intr
  | none => false

/-- The paths with an interrupted lane return from their WAITM or WFI. -/
def State.returnInterrupted (s : State) : State :=
  let ps := s.groups.flatMap (fun g =>
    if s.issues g.ctx then
      (g.paths.filter (fun p => p.waiting && p.lanes.any (fun l => (g.lane l).interrupted))).map (fun p => (g.gid, p.pid))
    else [])
  ps.foldl (fun s x => (s.wfiReturn x.1 x.2).waitmReturn x.1 x.2) s

/-- The lanes parked in CWAIT, with what they wait for. -/
def State.cwaiters (s : State) : List (Nat × Nat × Word × Word × Bool) :=
  (s.groups.filter (fun g => s.issues g.ctx)).flatMap (fun g => (g.lanes.zipIdx).filterMap (fun x =>
    match x.1.wait with
    | some w => match w.kind with
      | .cwait a m z => some (g.gid, x.2, a, m, z)
      | _ => none
    | none => none))

def State.pollCwaits (s : State) : State :=
  s.cwaiters.foldl (fun s x => s.cwaitPoll x.1 x.2.1 x.2.2.1 x.2.2.2.1 x.2.2.2.2) s

/-- BARX instances of running contexts go on as far as the notices held for them carry (14 R343). -/
def State.runBarx (s : State) : State :=
  (s.bars.insts.filter (fun i => s.atHome i && s.ctxRuns i.ctx)).foldl (fun s i =>
    if !s.bars.insts.contains i then s else if s.bars.held.any i.brokenBy then s.barxBreak i true else s.barxRun i 17) s

/-- A path held for a lane that has exited goes on (14 R336). -/
def State.endAwaits (s : State) : State :=
  { s with groups := s.groups.map (fun g =>
      { g with paths := g.paths.map (fun p =>
          match p.awaits with
          | some l => if (g.lane l).exited then { p with awaits := none, halted := none } else p
          | none => p) }) }

/-- Waiting paths whose lanes have all ended their waits go on (13 R327). -/
def State.wakePaths (s : State) : State :=
  (s.groups.flatMap (fun g => (g.paths.filter (·.waiting)).map (fun p => (g.gid, p.pid)))).foldl
    (fun s x => s.wakePath x.1 x.2) s

/-- Pops that had to wait fill the free slots (13 R317). -/
def State.popWaiting (s : State) : State :=
  (s.groups.filter (fun g => s.issues g.ctx && g.paths.any (·.stacked.isSome))).foldl (fun s g => s.popFree g.gid 32) s

/-- Engines go on with the accesses that no engine fault holds any more (10 R258). -/
def State.retryHeld (s : State) : State := s.retryRejects.retrySlots.retryRest

/-- Everything that goes on by itself once a move is made. -/
def State.wakeAll (s : State) : State :=
  let s1 := (s.markLost.returnInterrupted.returnAcks.pollCwaits.wakeRwait.runBarx.endAwaits.wakePaths).popWaiting.retryHeld.openWaiting
  (if s1.link.pend.isEmpty then s1 else s1.flushCmds).showThrottle.markLost

/-! Clk. -/

/-- n clk pass: CYCLE counts them, and PTPTIME runs at 3,600 clk to the microsecond, as disciplined (01 R31, 19 R428). -/
def State.pass (s : State) (n : Nat) : State :=
  let f := s.link.ptpFrac + n * (36000000 + s.link.ptpRate).toNat
  { s with
    clk := s.clk + n,
    ptp := s.ptp + f / 129600000,
    mem := { s.mem with now := s.clk + n },
    link := { s.link with ptpFrac := f % 129600000 } }

end Sys2Proof.Machine
end

