-- ==== Sys2Proof/Machine/Float.lean ====
section
/-!
DEFINITION. The meanings of the packed words (06 R138 to R150).
-/

namespace Sys2Proof.Machine

open Sys2Proof

/-- What a lane brings to a rounding. -/
def Lane.env (l : Lane) : FpEnv := ⟨l.fpctl, l.srstate, l.jobSeed⟩

/-- Writes the result of a packed floating instruction. -/
def Lane.putV (l : Lane) (d : VReg) (r : VRes) : Lane × Fl := ({ l.wv d r.v with srstate := r.sr }, r.fl)

def execFadd (g : Guard) (d a b : VReg) (t : Ty) (rm : Rm) (s : State) : Out :=
  fpWord g (fun l => l.putV d (fbin faddElt l.env t rm (l.rv a) (l.rv b))) s

def execFsub (g : Guard) (d a b : VReg) (t : Ty) (rm : Rm) (s : State) : Out :=
  fpWord g (fun l => l.putV d (fbin fsubElt l.env t rm (l.rv a) (l.rv b))) s

def execFmul (g : Guard) (d a b : VReg) (t : Ty) (rm : Rm) (s : State) : Out :=
  fpWord g (fun l => l.putV d (fbin fmulElt l.env t rm (l.rv a) (l.rv b))) s

def execFfma (g : Guard) (d a b c : VReg) (t : Ty) (rm : Rm) (s : State) : Out :=
  fpWord g (fun l => l.putV d (ftern ffmaElt l.env t rm (l.rv a) (l.rv b) (l.rv c))) s

def execFfms (g : Guard) (d a b c : VReg) (t : Ty) (rm : Rm) (s : State) : Out :=
  fpWord g (fun l => l.putV d (ftern ffmsElt l.env t rm (l.rv a) (l.rv b) (l.rv c))) s

def execFmin (g : Guard) (d a b : VReg) (t : Ty) (s : State) : Out :=
  fpWord g (fun l => l.putV d (mapPure l.env t.bits
    (fun i => fminmaxElt false t (elt (l.rv a) i t.bits) (elt (l.rv b) i t.bits)))) s

def execFmax (g : Guard) (d a b : VReg) (t : Ty) (s : State) : Out :=
  fpWord g (fun l => l.putV d (mapPure l.env t.bits
    (fun i => fminmaxElt true t (elt (l.rv a) i t.bits) (elt (l.rv b) i t.bits)))) s

def execFabs (g : Guard) (d a : VReg) (t : Ty) (s : State) : Out :=
  fpWord g (fun l => l.putV d (mapPure l.env t.bits (fun i => fabsElt t (elt (l.rv a) i t.bits)))) s

def execFneg (g : Guard) (d a : VReg) (t : Ty) (s : State) : Out :=
  fpWord g (fun l => l.putV d (mapPure l.env t.bits (fun i => fnegElt t (elt (l.rv a) i t.bits)))) s

/-- Writes a comparison to the destination KD names (06 R140). -/
def Lane.putCmp (l : Lane) (d : Fin 64) (w : Nat) (kd : CmpDest) (r : List Bool) : Lane :=
  match kd with
  | .vec => l.wv (vOf d) (maskElts w r)
  | .any => l.wk (kOf d) (r.any id)
  | .all => l.wk (kOf d) (r.all id)

def execFcmp (g : Guard) (d : Fin 64) (a b : VReg) (t : Ty) (kd : CmpDest) (c : FCond) (s : State) : Out :=
  fpWord g (fun l => let r := fcmpAll c t (l.rv a) (l.rv b); (l.putCmp d t.bits kd r.1, r.2)) s

def execFsel (g : Guard) (d a b c : VReg) (t : Ty) (s : State) : Out :=
  regWord g (fun l => l.wv d (fselReg t (l.rv a) (l.rv b) (l.rv c))) s

def execFrcp (g : Guard) (d a : VReg) (t : Ty) (s : State) : Out :=
  fpWord g (fun l => l.putV d (vapprox frcp l.env t (l.rv a))) s

def execFrsq (g : Guard) (d a : VReg) (t : Ty) (s : State) : Out :=
  fpWord g (fun l => l.putV d (vapprox frsq l.env t (l.rv a))) s

def execFsqrt (g : Guard) (d a : VReg) (t : Ty) (rm : Rm) (s : State) : Out :=
  fpWord g (fun l => l.putV d (mapElts l.env (l.env.mode rm t) t.bits (eltCount t.bits)
    (fun i dr => fsqrt t (l.env.mode rm t) dr (elt (l.rv a) i t.bits)))) s

def execFexp2 (g : Guard) (d a : VReg) (t : Ty) (s : State) : Out :=
  fpWord g (fun l => l.putV d (vapprox fexp2 l.env t (l.rv a))) s

def execFlog2 (g : Guard) (d a : VReg) (t : Ty) (s : State) : Out :=
  fpWord g (fun l => l.putV d (vapprox flog2 l.env t (l.rv a))) s

def execFcvt (g : Guard) (d a : VReg) (t st : Ty) (rm : Rm) (p : Fin 8) (s : State) : Out :=
  fpWord g (fun l => l.putV d (fcvtReg l.env t st rm p.val (l.rv d) (l.rv a))) s

def execFpack (g : Guard) (d a b : VReg) (c : XReg) (t : Ty) (rm : Rm) (p : Fin 8) (s : State) : Out :=
  fpWord g (fun l => l.putV d (fpackReg l.env t rm p.val (scaleCode (c.val = 0) (l.rx c)) (l.rv d) (l.rv a) (l.rv b))) s

def execFunpack (g : Guard) (d a : VReg) (c : XReg) (st : Ty) (p : Fin 8) (s : State) : Out :=
  fpWord g (fun l => l.putV d (funpackReg l.env st p.val (scaleCode (c.val = 0) (l.rx c)) (l.rv a))) s

def execFdot (g : Guard) (d a b : VReg) (t st : Ty) (rm : Rm) (sat : Bool) (s : State) : Out :=
  fpWord g (fun l => l.putV d (fdotReg l.env t st rm sat (l.rv d) (l.rv a) (l.rv b))) s

def execFsum (g : Guard) (d a : VReg) (st : Ty) (rm : Rm) (s : State) : Out :=
  fpWord g (fun l => l.putV d (fsumReg l.env st rm (l.rv a))) s

def execFclass (g : Guard) (d a : VReg) (t : Ty) (s : State) : Out :=
  regWord g (fun l => l.wv d (fclassReg t (l.rv a))) s

def execVmov (g : Guard) (d a : VReg) (s : State) : Out := regWord g (fun l => l.wv d (l.rv a)) s

def execVbcast (g : Guard) (d : VReg) (a : XReg) (t : Ty) (s : State) : Out :=
  regWord g (fun l => l.wv d (vbcastReg t (l.rx a))) s

def execVextr (g : Guard) (d : XReg) (a : VReg) (t : Ty) (i : Fin 16) (s : State) : Out :=
  regWord g (fun l => l.wx d (vextrVal t (l.rv a) i.val)) s

def execVins (g : Guard) (d : VReg) (a : XReg) (t : Ty) (i : Fin 16) (s : State) : Out :=
  regWord g (fun l => l.wv d (vinsReg t (l.rv d) (l.rx a) i.val)) s

def execVadd (g : Guard) (d a b : VReg) (t : Ty) (sat : Bool) (s : State) : Out :=
  regWord g (fun l => l.wv d (vintReg t (· + ·) sat (l.rv a) (l.rv b))) s

def execVsub (g : Guard) (d a b : VReg) (t : Ty) (sat : Bool) (s : State) : Out :=
  regWord g (fun l => l.wv d (vintReg t (· - ·) sat (l.rv a) (l.rv b))) s

def execVmul (g : Guard) (d a b : VReg) (t : Ty) (sat : Bool) (s : State) : Out :=
  regWord g (fun l => l.wv d (vintReg t (· * ·) sat (l.rv a) (l.rv b))) s

def execVmin (g : Guard) (d a b : VReg) (t : Ty) (s : State) : Out :=
  regWord g (fun l => l.wv d (vintReg t min false (l.rv a) (l.rv b))) s

def execVmax (g : Guard) (d a b : VReg) (t : Ty) (s : State) : Out :=
  regWord g (fun l => l.wv d (vintReg t max false (l.rv a) (l.rv b))) s

def execVand (g : Guard) (d a b : VReg) (s : State) : Out := regWord g (fun l => l.wv d (l.rv a &&& l.rv b)) s
def execVor (g : Guard) (d a b : VReg) (s : State) : Out := regWord g (fun l => l.wv d (l.rv a ||| l.rv b)) s
def execVxor (g : Guard) (d a b : VReg) (s : State) : Out := regWord g (fun l => l.wv d (l.rv a ^^^ l.rv b)) s

def execVshl (g : Guard) (d a b : VReg) (t : Ty) (s : State) : Out :=
  regWord g (fun l => l.wv d (vshiftReg t true (l.rv a) (l.rv b))) s

def execVshr (g : Guard) (d a b : VReg) (t : Ty) (s : State) : Out :=
  regWord g (fun l => l.wv d (vshiftReg t false (l.rv a) (l.rv b))) s

def execVpopc (g : Guard) (d a : VReg) (t : Ty) (s : State) : Out :=
  regWord g (fun l => l.wv d (vpopcReg t (l.rv a))) s

def execVcmp (g : Guard) (d : Fin 64) (a b : VReg) (t : Ty) (kd : CmpDest) (c : Cond) (s : State) : Out :=
  regWord g (fun l => l.putCmp d t.bits kd (vcmpAll c t (l.rv a) (l.rv b))) s

end Sys2Proof.Machine
end

