-- ==== Sys2Proof/Machine/Scalar.lean ====
section
/-!
DEFINITION. The meanings of the integer, move, compare and predicate words (05 R112 to R119, R128).
-/

namespace Sys2Proof.Machine

open Sys2Proof

/-- NOP (05 R128). -/
def execNop (g : Guard) (s : State) : Out := regWord g id s

def execAdd (g : Guard) (d a b : XReg) (w : IntW) (u sat : Bool) (s : State) : Out :=
  regWord g (fun l => l.wx d (aluAdd (l.rx a) (l.rx b) w.bits u sat)) s

def execSub (g : Guard) (d a b : XReg) (w : IntW) (u sat : Bool) (s : State) : Out :=
  regWord g (fun l => l.wx d (aluSub (l.rx a) (l.rx b) w.bits u sat)) s

def execMull (g : Guard) (d a b : XReg) (w : IntW) (u sat : Bool) (s : State) : Out :=
  regWord g (fun l => l.wx d (aluMull (l.rx a) (l.rx b) w.bits u sat)) s

def execMulh (g : Guard) (d a b : XReg) (w : IntW) (s : State) : Out :=
  regWord g (fun l => l.wx d (aluMulh (l.rx a) (l.rx b) w.bits true)) s

def execMulhn (g : Guard) (d a b : XReg) (w : IntW) (s : State) : Out :=
  regWord g (fun l => l.wx d (aluMulh (l.rx a) (l.rx b) w.bits false)) s

def execDiv (g : Guard) (d a b : XReg) (w : IntW) (s : State) : Out :=
  regWord g (fun l => l.wx d (aluDiv (l.rx a) (l.rx b) w.bits true)) s

def execDivn (g : Guard) (d a b : XReg) (w : IntW) (s : State) : Out :=
  regWord g (fun l => l.wx d (aluDiv (l.rx a) (l.rx b) w.bits false)) s

def execRem (g : Guard) (d a b : XReg) (w : IntW) (s : State) : Out :=
  regWord g (fun l => l.wx d (aluRem (l.rx a) (l.rx b) w.bits true)) s

def execRemn (g : Guard) (d a b : XReg) (w : IntW) (s : State) : Out :=
  regWord g (fun l => l.wx d (aluRem (l.rx a) (l.rx b) w.bits false)) s

def execShladd (g : Guard) (d a b : XReg) (w : IntW) (u : Bool) (sh : Fin 8) (s : State) : Out :=
  regWord g (fun l => l.wx d (aluShladd (l.rx a) (l.rx b) w.bits u sh.val)) s

def execAnd (g : Guard) (d a b : XReg) (w : IntW) (u : Bool) (s : State) : Out :=
  regWord g (fun l => l.wx d (aluBits (fun x y => x &&& y) (l.rx a) (l.rx b) w.bits u)) s

def execOr (g : Guard) (d a b : XReg) (w : IntW) (u : Bool) (s : State) : Out :=
  regWord g (fun l => l.wx d (aluBits (fun x y => x ||| y) (l.rx a) (l.rx b) w.bits u)) s

def execXor (g : Guard) (d a b : XReg) (w : IntW) (u : Bool) (s : State) : Out :=
  regWord g (fun l => l.wx d (aluBits (fun x y => x ^^^ y) (l.rx a) (l.rx b) w.bits u)) s

def execAndn (g : Guard) (d a b : XReg) (w : IntW) (u : Bool) (s : State) : Out :=
  regWord g (fun l => l.wx d (aluBits (fun x y => x &&& ~~~y) (l.rx a) (l.rx b) w.bits u)) s

def execOrn (g : Guard) (d a b : XReg) (w : IntW) (u : Bool) (s : State) : Out :=
  regWord g (fun l => l.wx d (aluBits (fun x y => x ||| ~~~y) (l.rx a) (l.rx b) w.bits u)) s

def execXnor (g : Guard) (d a b : XReg) (w : IntW) (u : Bool) (s : State) : Out :=
  regWord g (fun l => l.wx d (aluBits (fun x y => ~~~(x ^^^ y)) (l.rx a) (l.rx b) w.bits u)) s

def execShl (g : Guard) (d a b : XReg) (w : IntW) (u : Bool) (s : State) : Out :=
  regWord g (fun l => l.wx d (aluShl (l.rx a) (shiftCount (l.rx b) w.bits) w.bits u)) s

def execShr (g : Guard) (d a b : XReg) (w : IntW) (s : State) : Out :=
  regWord g (fun l => l.wx d (aluShr (l.rx a) (shiftCount (l.rx b) w.bits) w.bits false)) s

def execSar (g : Guard) (d a b : XReg) (w : IntW) (s : State) : Out :=
  regWord g (fun l => l.wx d (aluShr (l.rx a) (shiftCount (l.rx b) w.bits) w.bits true)) s

def execRol (g : Guard) (d a b : XReg) (w : IntW) (u : Bool) (s : State) : Out :=
  regWord g (fun l => l.wx d (aluRol (l.rx a) (shiftCount (l.rx b) w.bits) w.bits u)) s

def execRor (g : Guard) (d a b : XReg) (w : IntW) (u : Bool) (s : State) : Out :=
  regWord g (fun l => l.wx d (aluRor (l.rx a) (shiftCount (l.rx b) w.bits) w.bits u)) s

def execMin (g : Guard) (d a b : XReg) (w : IntW) (s : State) : Out :=
  regWord g (fun l => l.wx d (aluMin (l.rx a) (l.rx b) w.bits true)) s

def execMax (g : Guard) (d a b : XReg) (w : IntW) (s : State) : Out :=
  regWord g (fun l => l.wx d (aluMax (l.rx a) (l.rx b) w.bits true)) s

def execMinn (g : Guard) (d a b : XReg) (w : IntW) (s : State) : Out :=
  regWord g (fun l => l.wx d (aluMin (l.rx a) (l.rx b) w.bits false)) s

def execMaxn (g : Guard) (d a b : XReg) (w : IntW) (s : State) : Out :=
  regWord g (fun l => l.wx d (aluMax (l.rx a) (l.rx b) w.bits false)) s

/-- CMP (05 R116). -/
def execCmp (g : Guard) (d : KReg) (a b : XReg) (w : IntW) (u : Bool) (c : Cond) (s : State) : Out :=
  regWord g (fun l => l.wk d (aluCmp c (l.rx a) (l.rx b) w.bits u)) s

def execSel (g : Guard) (d a b : XReg) (c : KReg) (s : State) : Out :=
  regWord g (fun l => l.wx d (if l.rk c then l.rx a else l.rx b)) s

def execClz (g : Guard) (d a : XReg) (w : IntW) (s : State) : Out :=
  regWord g (fun l => l.wx d (BitVec.ofNat 64 (leadZeros w.bits (lowBits (l.rx a) w.bits)))) s

def execCtz (g : Guard) (d a : XReg) (w : IntW) (s : State) : Out :=
  regWord g (fun l => l.wx d (BitVec.ofNat 64 (trailZeros w.bits (lowBits (l.rx a) w.bits)))) s

def execPopc (g : Guard) (d a : XReg) (w : IntW) (s : State) : Out :=
  regWord g (fun l => l.wx d (BitVec.ofNat 64 (popCount w.bits (lowBits (l.rx a) w.bits)))) s

def execBrev (g : Guard) (d a : XReg) (w : IntW) (u : Bool) (s : State) : Out :=
  regWord g (fun l => l.wx d (aluBrev (l.rx a) w.bits u)) s

def execBswap (g : Guard) (d a : XReg) (w : IntW) (u : Bool) (s : State) : Out :=
  regWord g (fun l => l.wx d (aluBswap (l.rx a) w.bits u)) s

/-- BFX; the field LEN of the word holds the length less one (05 R119). -/
def execBfx (g : Guard) (d a : XReg) (u : Bool) (pos len : Fin 64) (s : State) : Out :=
  regWord g (fun l => l.wx d (aluBfx (l.rx a) pos.val (len.val + 1) u)) s

def execBfi (g : Guard) (d a b : XReg) (pos len : Fin 64) (s : State) : Out :=
  regWord g (fun l => l.wx d (aluBfi (l.rx a) (l.rx b) pos.val (len.val + 1))) s

def execExt (g : Guard) (d a : XReg) (w : IntW) (u : Bool) (s : State) : Out :=
  regWord g (fun l => l.wx d (aluExt (l.rx a) w.bits u)) s

def execMov (g : Guard) (d a : XReg) (s : State) : Out := regWord g (fun l => l.wx d (l.rx a)) s

def execKop (g : Guard) (d a b : KReg) (op : KopOp) (s : State) : Out :=
  regWord g (fun l => l.wk d (op.eval (l.rk a) (l.rk b))) s

def execKmovToX (g : Guard) (d : XReg) (a : KReg) (s : State) : Out :=
  regWord g (fun l => l.wx d (if l.rk a then 1 else 0)) s

def execKmovToK (g : Guard) (d : KReg) (a : XReg) (s : State) : Out :=
  regWord g (fun l => l.wk d (l.rx a != 0)) s

/-- A sign-extended and a zero-extended immediate (03 R77). -/
def simm (imm : BitVec 32) : Word := imm.signExtend 64
def zimm (imm : BitVec 32) : Word := imm.zeroExtend 64

def execAddi (g : Guard) (d a : XReg) (imm : BitVec 32) (s : State) : Out :=
  regWord g (fun l => l.wx d (aluAdd (l.rx a) (simm imm) 64 false false)) s

def execCmpi (g : Guard) (d : KReg) (a : XReg) (imm : BitVec 32) (u : Bool) (c : Cond) (s : State) : Out :=
  regWord g (fun l => l.wk d (aluCmp c (l.rx a) (if u then zimm imm else simm imm) 64 u)) s

def execMovi (g : Guard) (d : XReg) (imm : BitVec 32) (s : State) : Out :=
  regWord g (fun l => l.wx d (simm imm)) s

def execMovhi (g : Guard) (d : XReg) (imm : BitVec 32) (s : State) : Out :=
  regWord g (fun l => l.wx d (aluMovhi (l.rx d) imm)) s

def execMullImm (g : Guard) (d a : XReg) (imm : BitVec 32) (s : State) : Out :=
  regWord g (fun l => l.wx d (aluMull (l.rx a) (simm imm) 64 false false)) s

def execAndImm (g : Guard) (d a : XReg) (imm : BitVec 32) (s : State) : Out :=
  regWord g (fun l => l.wx d (aluBits (fun x y => x &&& y) (l.rx a) (simm imm) 64 false)) s

def execOrImm (g : Guard) (d a : XReg) (imm : BitVec 32) (s : State) : Out :=
  regWord g (fun l => l.wx d (aluBits (fun x y => x ||| y) (l.rx a) (simm imm) 64 false)) s

def execXorImm (g : Guard) (d a : XReg) (imm : BitVec 32) (s : State) : Out :=
  regWord g (fun l => l.wx d (aluBits (fun x y => x ^^^ y) (l.rx a) (simm imm) 64 false)) s

def execAndnImm (g : Guard) (d a : XReg) (imm : BitVec 32) (s : State) : Out :=
  regWord g (fun l => l.wx d (aluBits (fun x y => x &&& ~~~y) (l.rx a) (simm imm) 64 false)) s

def execShlImm (g : Guard) (d a : XReg) (n : Fin 64) (s : State) : Out :=
  regWord g (fun l => l.wx d (aluShl (l.rx a) n.val 64 false)) s

def execShrImm (g : Guard) (d a : XReg) (n : Fin 64) (s : State) : Out :=
  regWord g (fun l => l.wx d (aluShr (l.rx a) n.val 64 false)) s

def execSarImm (g : Guard) (d a : XReg) (n : Fin 64) (s : State) : Out :=
  regWord g (fun l => l.wx d (aluShr (l.rx a) n.val 64 true)) s

def execRolImm (g : Guard) (d a : XReg) (n : Fin 64) (s : State) : Out :=
  regWord g (fun l => l.wx d (aluRol (l.rx a) n.val 64 false)) s

def execRorImm (g : Guard) (d a : XReg) (n : Fin 64) (s : State) : Out :=
  regWord g (fun l => l.wx d (aluRor (l.rx a) n.val 64 false)) s

def execMinImm (g : Guard) (d a : XReg) (imm : BitVec 32) (s : State) : Out :=
  regWord g (fun l => l.wx d (aluMin (l.rx a) (simm imm) 64 true)) s

def execMaxImm (g : Guard) (d a : XReg) (imm : BitVec 32) (s : State) : Out :=
  regWord g (fun l => l.wx d (aluMax (l.rx a) (simm imm) 64 true)) s

def execMinnImm (g : Guard) (d a : XReg) (imm : BitVec 32) (s : State) : Out :=
  regWord g (fun l => l.wx d (aluMin (l.rx a) (zimm imm) 64 false)) s

def execMaxnImm (g : Guard) (d a : XReg) (imm : BitVec 32) (s : State) : Out :=
  regWord g (fun l => l.wx d (aluMax (l.rx a) (zimm imm) 64 false)) s

end Sys2Proof.Machine
end

