-- ==== Sys2Proof/Machine/Dispatch.lean ====
section
/-!
DEFINITION. The dispatch: one arm per constructor of Instr, each one direct call of its meaning.
-/

namespace Sys2Proof.Machine

def exec (i : Instr) (s : State) : Host.Outcome State Fault Refusal :=
  match i with
  | .nop g => Sys2Proof.Machine.execNop g s
  | .add g d a b w u sat => Sys2Proof.Machine.execAdd g d a b w u sat s
  | .sub g d a b w u sat => Sys2Proof.Machine.execSub g d a b w u sat s
  | .mull g d a b w u sat => Sys2Proof.Machine.execMull g d a b w u sat s
  | .mulh g d a b w => Sys2Proof.Machine.execMulh g d a b w s
  | .mulhn g d a b w => Sys2Proof.Machine.execMulhn g d a b w s
  | .div g d a b w => Sys2Proof.Machine.execDiv g d a b w s
  | .divn g d a b w => Sys2Proof.Machine.execDivn g d a b w s
  | .rem g d a b w => Sys2Proof.Machine.execRem g d a b w s
  | .remn g d a b w => Sys2Proof.Machine.execRemn g d a b w s
  | .shladd g d a b w u sh => Sys2Proof.Machine.execShladd g d a b w u sh s
  | .and g d a b w u => Sys2Proof.Machine.execAnd g d a b w u s
  | .or g d a b w u => Sys2Proof.Machine.execOr g d a b w u s
  | .xor g d a b w u => Sys2Proof.Machine.execXor g d a b w u s
  | .andn g d a b w u => Sys2Proof.Machine.execAndn g d a b w u s
  | .orn g d a b w u => Sys2Proof.Machine.execOrn g d a b w u s
  | .xnor g d a b w u => Sys2Proof.Machine.execXnor g d a b w u s
  | .shl g d a b w u => Sys2Proof.Machine.execShl g d a b w u s
  | .shr g d a b w => Sys2Proof.Machine.execShr g d a b w s
  | .sar g d a b w => Sys2Proof.Machine.execSar g d a b w s
  | .rol g d a b w u => Sys2Proof.Machine.execRol g d a b w u s
  | .ror g d a b w u => Sys2Proof.Machine.execRor g d a b w u s
  | .min g d a b w => Sys2Proof.Machine.execMin g d a b w s
  | .max g d a b w => Sys2Proof.Machine.execMax g d a b w s
  | .minn g d a b w => Sys2Proof.Machine.execMinn g d a b w s
  | .maxn g d a b w => Sys2Proof.Machine.execMaxn g d a b w s
  | .cmp g d a b w u c => Sys2Proof.Machine.execCmp g d a b w u c s
  | .sel g d a b c => Sys2Proof.Machine.execSel g d a b c s
  | .clz g d a w => Sys2Proof.Machine.execClz g d a w s
  | .ctz g d a w => Sys2Proof.Machine.execCtz g d a w s
  | .popc g d a w => Sys2Proof.Machine.execPopc g d a w s
  | .brev g d a w u => Sys2Proof.Machine.execBrev g d a w u s
  | .bswap g d a w u => Sys2Proof.Machine.execBswap g d a w u s
  | .bfx g d a u pos len => Sys2Proof.Machine.execBfx g d a u pos len s
  | .bfi g d a b pos len => Sys2Proof.Machine.execBfi g d a b pos len s
  | .ext g d a w u => Sys2Proof.Machine.execExt g d a w u s
  | .mov g d a => Sys2Proof.Machine.execMov g d a s
  | .kop g d a b op => Sys2Proof.Machine.execKop g d a b op s
  | .kmovToX g d a => Sys2Proof.Machine.execKmovToX g d a s
  | .kmovToK g d a => Sys2Proof.Machine.execKmovToK g d a s
  | .yield g => Sys2Proof.Machine.execYield g s
  | .addi g d a imm => Sys2Proof.Machine.execAddi g d a imm s
  | .cmpi g d a imm u c => Sys2Proof.Machine.execCmpi g d a imm u c s
  | .movi g d imm => Sys2Proof.Machine.execMovi g d imm s
  | .movhi g d imm => Sys2Proof.Machine.execMovhi g d imm s
  | .mullImm g d a imm => Sys2Proof.Machine.execMullImm g d a imm s
  | .andImm g d a imm => Sys2Proof.Machine.execAndImm g d a imm s
  | .orImm g d a imm => Sys2Proof.Machine.execOrImm g d a imm s
  | .xorImm g d a imm => Sys2Proof.Machine.execXorImm g d a imm s
  | .andnImm g d a imm => Sys2Proof.Machine.execAndnImm g d a imm s
  | .shlImm g d a n => Sys2Proof.Machine.execShlImm g d a n s
  | .shrImm g d a n => Sys2Proof.Machine.execShrImm g d a n s
  | .sarImm g d a n => Sys2Proof.Machine.execSarImm g d a n s
  | .rolImm g d a n => Sys2Proof.Machine.execRolImm g d a n s
  | .rorImm g d a n => Sys2Proof.Machine.execRorImm g d a n s
  | .minImm g d a imm => Sys2Proof.Machine.execMinImm g d a imm s
  | .maxImm g d a imm => Sys2Proof.Machine.execMaxImm g d a imm s
  | .minnImm g d a imm => Sys2Proof.Machine.execMinnImm g d a imm s
  | .maxnImm g d a imm => Sys2Proof.Machine.execMaxnImm g d a imm s
  | .fadd g d a b t rm => Sys2Proof.Machine.execFadd g d a b t rm s
  | .fsub g d a b t rm => Sys2Proof.Machine.execFsub g d a b t rm s
  | .fmul g d a b t rm => Sys2Proof.Machine.execFmul g d a b t rm s
  | .ffma g d a b c t rm => Sys2Proof.Machine.execFfma g d a b c t rm s
  | .ffms g d a b c t rm => Sys2Proof.Machine.execFfms g d a b c t rm s
  | .fmin g d a b t => Sys2Proof.Machine.execFmin g d a b t s
  | .fmax g d a b t => Sys2Proof.Machine.execFmax g d a b t s
  | .fabs g d a t => Sys2Proof.Machine.execFabs g d a t s
  | .fneg g d a t => Sys2Proof.Machine.execFneg g d a t s
  | .fcmp g d a b t kd c => Sys2Proof.Machine.execFcmp g d a b t kd c s
  | .fsel g d a b c t => Sys2Proof.Machine.execFsel g d a b c t s
  | .frcp g d a t => Sys2Proof.Machine.execFrcp g d a t s
  | .frsq g d a t => Sys2Proof.Machine.execFrsq g d a t s
  | .fsqrt g d a t rm => Sys2Proof.Machine.execFsqrt g d a t rm s
  | .fexp2 g d a t => Sys2Proof.Machine.execFexp2 g d a t s
  | .flog2 g d a t => Sys2Proof.Machine.execFlog2 g d a t s
  | .fcvt g d a t st rm p => Sys2Proof.Machine.execFcvt g d a t st rm p s
  | .fpack g d a b c t rm p => Sys2Proof.Machine.execFpack g d a b c t rm p s
  | .funpack g d a c st p => Sys2Proof.Machine.execFunpack g d a c st p s
  | .fdot g d a b t st rm sat => Sys2Proof.Machine.execFdot g d a b t st rm sat s
  | .fsum g d a st rm => Sys2Proof.Machine.execFsum g d a st rm s
  | .fclass g d a t => Sys2Proof.Machine.execFclass g d a t s
  | .vmov g d a => Sys2Proof.Machine.execVmov g d a s
  | .vbcast g d a t => Sys2Proof.Machine.execVbcast g d a t s
  | .vextr g d a t idx => Sys2Proof.Machine.execVextr g d a t idx s
  | .vins g d a t idx => Sys2Proof.Machine.execVins g d a t idx s
  | .vadd g d a b t sat => Sys2Proof.Machine.execVadd g d a b t sat s
  | .vsub g d a b t sat => Sys2Proof.Machine.execVsub g d a b t sat s
  | .vmul g d a b t sat => Sys2Proof.Machine.execVmul g d a b t sat s
  | .vmin g d a b t => Sys2Proof.Machine.execVmin g d a b t s
  | .vmax g d a b t => Sys2Proof.Machine.execVmax g d a b t s
  | .vand g d a b => Sys2Proof.Machine.execVand g d a b s
  | .vor g d a b => Sys2Proof.Machine.execVor g d a b s
  | .vxor g d a b => Sys2Proof.Machine.execVxor g d a b s
  | .vshl g d a b t => Sys2Proof.Machine.execVshl g d a b t s
  | .vshr g d a b t => Sys2Proof.Machine.execVshr g d a b t s
  | .vpopc g d a t => Sys2Proof.Machine.execVpopc g d a t s
  | .vcmp g d a b t kd c => Sys2Proof.Machine.execVcmp g d a b t kd c s
  | .shfl g d a b c t mode id v => Sys2Proof.Machine.execShfl g d a b c t mode id v s
  | .voteAny g d a c => Sys2Proof.Machine.execVoteAny g d a c s
  | .voteAll g d a c => Sys2Proof.Machine.execVoteAll g d a c s
  | .voteUni g d a c => Sys2Proof.Machine.execVoteUni g d a c s
  | .ballot g d a c => Sys2Proof.Machine.execBallot g d a c s
  | .red g d a b c t rm sat op id => Sys2Proof.Machine.execRed g d a b c t rm sat op id s
  | .scan g d a b c t rm sat op id excl => Sys2Proof.Machine.execScan g d a b c t rm sat op id excl s
  | .elect g d c => Sys2Proof.Machine.execElect g d c s
  | .matchLanes g d a c t => Sys2Proof.Machine.execMatchLanes g d a c t s
  | .exch g d a b p st v => Sys2Proof.Machine.execExch g d a b p st v s
  | .mma d a b c kq hint seg => Sys2Proof.Machine.execMma d a b c kq hint seg s
  | .mzero d => Sys2Proof.Machine.execMzero d s
  | .mclr mask => Sys2Proof.Machine.execMclr mask s
  | .mmov d a => Sys2Proof.Machine.execMmov d a s
  | .mmovTov g d a r h => Sys2Proof.Machine.execMmovTov g d a r h s
  | .mmovTom g d a r h => Sys2Proof.Machine.execMmovTom g d a r h s
  | .mres g d => Sys2Proof.Machine.execMres g d s
  | .mdrain a b t rm scope clr => Sys2Proof.Machine.execMdrain a b t rm scope clr s
  | .mdrainr d a b c t rm clr => Sys2Proof.Machine.execMdrainr d a b c t rm clr s
  | .mpass => Sys2Proof.Machine.execMpass s
  | .mwait => Sys2Proof.Machine.execMwait s
  | .mwaitAll => Sys2Proof.Machine.execMwaitAll s
  | .trayCfg g d a b => Sys2Proof.Machine.execTrayCfg g d a b s
  | .inboxqTake g d a b => Sys2Proof.Machine.execInboxqTake g d a b s
  | .inboxqCount g d => Sys2Proof.Machine.execInboxqCount g d s
  | .fuse => Sys2Proof.Machine.execFuse s
  | .split => Sys2Proof.Machine.execSplit s
  | .refuse d => Sys2Proof.Machine.execRefuse d s
  | .divqState g d => Sys2Proof.Machine.execDivqState g d s
  | .divqJoin g d => Sys2Proof.Machine.execDivqJoin g d s
  | .divqLimit g d a => Sys2Proof.Machine.execDivqLimit g d a s
  | .binit g a b scope => Sys2Proof.Machine.execBinit g a b scope s
  | .barr g d a grp => Sys2Proof.Machine.execBarr g d a grp s
  | .bwait g d a b => Sys2Proof.Machine.execBwait g d a b s
  | .bsync g d a grp => Sys2Proof.Machine.execBsync g d a grp s
  | .bbreak g a => Sys2Proof.Machine.execBbreak g a s
  | .waitm g d a => Sys2Proof.Machine.execWaitm g d a s
  | .rrel d a => Sys2Proof.Machine.execRrel d a s
  | .rwait g d a b => Sys2Proof.Machine.execRwait g d a b s
  | .rqryState g d a => Sys2Proof.Machine.execRqryState g d a s
  | .rqryInj g d a => Sys2Proof.Machine.execRqryInj g d a s
  | .rqryRet g d a => Sys2Proof.Machine.execRqryRet g d a s
  | .rqryEnc g d a => Sys2Proof.Machine.execRqryEnc g d a s
  | .rqryMiss g d a => Sys2Proof.Machine.execRqryMiss g d a s
  | .rqryLost g d a => Sys2Proof.Machine.execRqryLost g d a s
  | .evcfgBind g d a b => Sys2Proof.Machine.execEvcfgBind g d a b s
  | .evcfgFree g d a => Sys2Proof.Machine.execEvcfgFree g d a s
  | .evcfgPset g d a b => Sys2Proof.Machine.execEvcfgPset g d a b s
  | .evrd g d a b c => Sys2Proof.Machine.execEvrd g d a b c s
  | .evrdStat g d a b => Sys2Proof.Machine.execEvrdStat g d a b s
  | .evwr g d a b c => Sys2Proof.Machine.execEvwr g d a b c s
  | .jcntInj g d a => Sys2Proof.Machine.execJcntInj g d a s
  | .jcntCons g d a => Sys2Proof.Machine.execJcntCons g d a s
  | .jcntRep g d a => Sys2Proof.Machine.execJcntRep g d a s
  | .jcntCalls g d a => Sys2Proof.Machine.execJcntCalls g d a s
  | .jrepTake g d a b => Sys2Proof.Machine.execJrepTake g d a b s
  | .jrepCount g d a => Sys2Proof.Machine.execJrepCount g d a s
  | .jrepClose g d a => Sys2Proof.Machine.execJrepClose g d a s
  | .ld g d a b off sx m sz => Sys2Proof.Machine.execLd g d a b off sx m sz s
  | .st g a b off m sz => Sys2Proof.Machine.execSt g a b off m sz s
  | .ldv g d a b off m sz => Sys2Proof.Machine.execLdv g d a b off m sz s
  | .stv g a b off m sz => Sys2Proof.Machine.execStv g a b off m sz s
  | .cas g d a b off m sz => Sys2Proof.Machine.execCas g d a b off m sz s
  | .pref g a b off seg hint scope => Sys2Proof.Machine.execPref g a b off seg hint scope s
  | .clean g a b off seg hint scope => Sys2Proof.Machine.execClean g a b off seg hint scope s
  | .inval g a b off seg hint scope => Sys2Proof.Machine.execInval g a b off seg hint scope s
  | .mon g a b off seg hint scope => Sys2Proof.Machine.execMon g a b off seg hint scope s
  | .amoAdd g d a b off m sz => Sys2Proof.Machine.execAmoAdd g d a b off m sz s
  | .amoAnd g d a b off m sz => Sys2Proof.Machine.execAmoAnd g d a b off m sz s
  | .amoOr g d a b off m sz => Sys2Proof.Machine.execAmoOr g d a b off m sz s
  | .amoXor g d a b off m sz => Sys2Proof.Machine.execAmoXor g d a b off m sz s
  | .amoMin g d a b off m sz => Sys2Proof.Machine.execAmoMin g d a b off m sz s
  | .amoMax g d a b off m sz => Sys2Proof.Machine.execAmoMax g d a b off m sz s
  | .amoMinn g d a b off m sz => Sys2Proof.Machine.execAmoMinn g d a b off m sz s
  | .amoMaxn g d a b off m sz => Sys2Proof.Machine.execAmoMaxn g d a b off m sz s
  | .amoSwap g d a b off m sz => Sys2Proof.Machine.execAmoSwap g d a b off m sz s
  | .br g disp => Sys2Proof.Machine.execBr g disp s
  | .brd g disp join => Sys2Proof.Machine.execBrd g disp join s
  | .jmp g a disp => Sys2Proof.Machine.execJmp g a disp s
  | .call g l disp => Sys2Proof.Machine.execCall g l disp s
  | .ret g a => Sys2Proof.Machine.execRet g a s
  | .jind g a join => Sys2Proof.Machine.execJind g a join s
  | .callind g l a join => Sys2Proof.Machine.execCallind g l a join s
  | .join => Sys2Proof.Machine.execJoin s
  | .get g d a b c m => Sys2Proof.Machine.execGet g d a b c m s
  | .put g d a b c m => Sys2Proof.Machine.execPut g d a b c m s
  | .send g d a b c m => Sys2Proof.Machine.execSend g d a b c m s
  | .senda g d a b c op et ordered m => Sys2Proof.Machine.execSenda g d a b c op et ordered m s
  | .sendv g d a b c m => Sys2Proof.Machine.execSendv g d a b c m s
  | .cwait g a b => Sys2Proof.Machine.execCwait g a b s
  | .cwaitZero g a => Sys2Proof.Machine.execCwaitZero g a s
  | .ctest g d a => Sys2Proof.Machine.execCtest g d a s
  | .fence g scope => Sys2Proof.Machine.execFence g scope s
  | .exit g a n grp => Sys2Proof.Machine.execExit g a n grp s
  | .post g d a b => Sys2Proof.Machine.execPost g d a b s
  | .barx d a b scope => Sys2Proof.Machine.execBarx d a b scope s
  | .quiet d a b scope => Sys2Proof.Machine.execQuiet d a b scope s
  | .ratt g d a => Sys2Proof.Machine.execRatt g d a s
  | .rattDet g d a => Sys2Proof.Machine.execRattDet g d a s
  | .rinj g d a b c => Sys2Proof.Machine.execRinj g d a b c s
  | .rmap g d a b => Sys2Proof.Machine.execRmap g d a b s
  | .evsend g d a => Sys2Proof.Machine.execEvsend g d a s
  | .evadv g d a b scope => Sys2Proof.Machine.execEvadv g d a b scope s
  | .iinv g a b scope => Sys2Proof.Machine.execIinv g a b scope s
  | .isync => Sys2Proof.Machine.execIsync s
  | .trap g code => Sys2Proof.Machine.execTrap g code s
  | .scall g code => Sys2Proof.Machine.execScall g code s
  | .eret => Sys2Proof.Machine.execEret s
  | .wfi g d a => Sys2Proof.Machine.execWfi g d a s
  | .mfc g d sel => Sys2Proof.Machine.execMfc g d sel s
  | .mtc g a sel => Sys2Proof.Machine.execMtc g a sel s
  | .rid g d sel => Sys2Proof.Machine.execRid g d sel s
  | .dualWord s0 s1 => Sys2Proof.Machine.execDualWord s0 s1 s
  | .exchComplete => Sys2Proof.Machine.execExchComplete s
  | .exchBreak => Sys2Proof.Machine.execExchBreak s
  | .mmaRowStep => Sys2Proof.Machine.execMmaRowStep s
  | .mmaComplete => Sys2Proof.Machine.execMmaComplete s
  | .mmaPreemptStop => Sys2Proof.Machine.execMmaPreemptStop s
  | .drainWrite => Sys2Proof.Machine.execDrainWrite s
  | .mdrainrWake => Sys2Proof.Machine.execMdrainrWake s
  | .passArrival => Sys2Proof.Machine.execPassArrival s
  | .watchFire => Sys2Proof.Machine.execWatchFire s
  | .waitmTimeout => Sys2Proof.Machine.execWaitmTimeout s
  | .joinComplete => Sys2Proof.Machine.execJoinComplete s
  | .stackRotation => Sys2Proof.Machine.execStackRotation s
  | .convergentRelease => Sys2Proof.Machine.execConvergentRelease s
  | .copyChunk => Sys2Proof.Machine.execCopyChunk s
  | .sendaApply => Sys2Proof.Machine.execSendaApply s
  | .sendvCommit => Sys2Proof.Machine.execSendvCommit s
  | .destRangeAck => Sys2Proof.Machine.execDestRangeAck s
  | .sourceRangeRelease => Sys2Proof.Machine.execSourceRangeRelease s
  | .successorDecrement => Sys2Proof.Machine.execSuccessorDecrement s
  | .barxNotice => Sys2Proof.Machine.execBarxNotice s
  | .barxBreak => Sys2Proof.Machine.execBarxBreak s
  | .quietTimeout => Sys2Proof.Machine.execQuietTimeout s
  | .tileTransfer => Sys2Proof.Machine.execTileTransfer s
  | .tileArrival => Sys2Proof.Machine.execTileArrival s
  | .encounterImageCopy => Sys2Proof.Machine.execEncounterImageCopy s
  | .dwellExpiry => Sys2Proof.Machine.execDwellExpiry s
  | .tileRetire => Sys2Proof.Machine.execTileRetire s
  | .ringAbandon => Sys2Proof.Machine.execRingAbandon s
  | .eventArrival => Sys2Proof.Machine.execEventArrival s
  | .eventDelivery => Sys2Proof.Machine.execEventDelivery s
  | .fireAction => Sys2Proof.Machine.execFireAction s
  | .engineResume => Sys2Proof.Machine.execEngineResume s
  | .engineAbort => Sys2Proof.Machine.execEngineAbort s
  | .ctxFault => Sys2Proof.Machine.execCtxFault s
  | .ctxKill => Sys2Proof.Machine.execCtxKill s
  | .violation => Sys2Proof.Machine.execViolation s
  | .create => Sys2Proof.Machine.execCreate s
  | .reside => Sys2Proof.Machine.execReside s
  | .preempt => Sys2Proof.Machine.execPreempt s
  | .restore => Sys2Proof.Machine.execRestore s
  | .kill => Sys2Proof.Machine.execKill s
  | .destroy => Sys2Proof.Machine.execDestroy s
  | .load => Sys2Proof.Machine.execLoad s
  | .loadChecksDone => Sys2Proof.Machine.execLoadChecksDone s
  | .unload => Sys2Proof.Machine.execUnload s
  | .lqcfg => Sys2Proof.Machine.execLqcfg s
  | .ttcfg => Sys2Proof.Machine.execTtcfg s
  | .xqcfg => Sys2Proof.Machine.execXqcfg s
  | .peercfg => Sys2Proof.Machine.execPeercfg s
  | .landcfg => Sys2Proof.Machine.execLandcfg s
  | .cpagecfg => Sys2Proof.Machine.execCpagecfg s
  | .dbind => Sys2Proof.Machine.execDbind s
  | .portcfg => Sys2Proof.Machine.execPortcfg s
  | .portstat => Sys2Proof.Machine.execPortstat s
  | .domain => Sys2Proof.Machine.execDomain s
  | .rcperiod => Sys2Proof.Machine.execRcperiod s
  | .scrubperiod => Sys2Proof.Machine.execScrubperiod s
  | .ptpsrc => Sys2Proof.Machine.execPtpsrc s
  | .funccfg => Sys2Proof.Machine.execFunccfg s
  | .commandDoorbell => Sys2Proof.Machine.execCommandDoorbell s
  | .launchDoorbell => Sys2Proof.Machine.execLaunchDoorbell s
  | .hostBar2Write => Sys2Proof.Machine.execHostBar2Write s
  | .spdmRequest => Sys2Proof.Machine.execSpdmRequest s
  | .launchTake => Sys2Proof.Machine.execLaunchTake s
  | .timetableStart => Sys2Proof.Machine.execTimetableStart s
  | .placement => Sys2Proof.Machine.execPlacement s
  | .boundaryChangeComplete => Sys2Proof.Machine.execBoundaryChangeComplete s
  | .recordArrival => Sys2Proof.Machine.execRecordArrival s
  | .spillReturn => Sys2Proof.Machine.execSpillReturn s
  | .mailboxAccept => Sys2Proof.Machine.execMailboxAccept s
  | .dispatch => Sys2Proof.Machine.execDispatch s
  | .trayTimer => Sys2Proof.Machine.execTrayTimer s
  | .launchCounterDecrement => Sys2Proof.Machine.execLaunchCounterDecrement s
  | .contextIdle => Sys2Proof.Machine.execContextIdle s
  | .preemptBoundary => Sys2Proof.Machine.execPreemptBoundary s
  | .shellComplete => Sys2Proof.Machine.execShellComplete s
  | .saveDeadline => Sys2Proof.Machine.execSaveDeadline s
  | .rollCall => Sys2Proof.Machine.execRollCall s
  | .rollCallPass2 => Sys2Proof.Machine.execRollCallPass2 s
  | .sendSlotTake => Sys2Proof.Machine.execSendSlotTake s
  | .packetAck => Sys2Proof.Machine.execPacketAck s
  | .retransmitTimeout => Sys2Proof.Machine.execRetransmitTimeout s
  | .packetArrival => Sys2Proof.Machine.execPacketArrival s
  | .transportCompletion => Sys2Proof.Machine.execTransportCompletion s
  | .receiveAbandon => Sys2Proof.Machine.execReceiveAbandon s
  | .congestionUpdate => Sys2Proof.Machine.execCongestionUpdate s
  | .trainingEnd => Sys2Proof.Machine.execTrainingEnd s
  | .laneRetire => Sys2Proof.Machine.execLaneRetire s
  | .retrainRequest => Sys2Proof.Machine.execRetrainRequest s
  | .mclPortTimeout => Sys2Proof.Machine.execMclPortTimeout s
  | .mclFlitReplay => Sys2Proof.Machine.execMclFlitReplay s
  | .routeSwitch => Sys2Proof.Machine.execRouteSwitch s
  | .ptpMessage => Sys2Proof.Machine.execPtpMessage s
  | .ptpHoldover => Sys2Proof.Machine.execPtpHoldover s
  | .ptsTick => Sys2Proof.Machine.execPtsTick s
  | .rebase => Sys2Proof.Machine.execRebase s
  | .scrubGranule => Sys2Proof.Machine.execScrubGranule s
  | .scrubPassStart => Sys2Proof.Machine.execScrubPassStart s
  | .keyErase => Sys2Proof.Machine.execKeyErase s
  | .poison => Sys2Proof.Machine.execPoison s
  | .selfTest => Sys2Proof.Machine.execSelfTest s
  | .spareMapIn => Sys2Proof.Machine.execSpareMapIn s
  | .unitFailure => Sys2Proof.Machine.execUnitFailure s
  | .throttleMeasure => Sys2Proof.Machine.execThrottleMeasure s
  | .moduleReset => Sys2Proof.Machine.execModuleReset s
  | .clusterPowerUp => Sys2Proof.Machine.execClusterPowerUp s
  | .firmwareUpdate => Sys2Proof.Machine.execFirmwareUpdate s
  | .decodeTableInstall => Sys2Proof.Machine.execDecodeTableInstall s
  | .wfiTimeout => Sys2Proof.Machine.execWfiTimeout s
  | .spuriousReturn => Sys2Proof.Machine.execSpuriousReturn s
  | .killDiscardComplete => Sys2Proof.Machine.execKillDiscardComplete s
  | .quadEmptyTimeout => Sys2Proof.Machine.execQuadEmptyTimeout s
  | .linkClockRelock => Sys2Proof.Machine.execLinkClockRelock s

end Sys2Proof.Machine
end

