-- ==== Sys2Proof/Machine/Issue.lean ====
section
/-!
DEFINITION. A move of the machine: the issue of a word by a path (03 R85, R86, 12 R306), a fetch ahead, a step that is not a
word; and where a word is put to be issued next.
-/

namespace Sys2Proof.Machine

open Sys2Proof

/-- The instruction is a step that is not a word: it has no fields and no encoding. -/
def isStep (i : Instr) : Bool := i.wf && (encode i).isNone

/-- The ILLEGAL_INSTRUCTION of a word that a check of the decoder refuses (03 R85, R86). -/
def decodeTrap (e : DecodeError) (w : Word) : TrapInfo := ⟨1, e.code, w, false⟩

/-- Runs one word in a path: its traps where the decoder refuses it, else its meaning. -/
def State.runWord (s : State) (gid pid : Nat) (p : Path) (w : Word) : Out :=
  match decode w with
  | .error e => .next ((s.takeTraps gid p.pc (allLanes p (decodeTrap e w))).settle gid)
  | .ok i => exec i { s with curG := gid, curP := pid }

/-! The order of issue (12 R306, 05 R128, 13 R312). -/

/-- A control transfer leaves the pc where it was only when it goes there. -/
def jumps (w : Word) : Bool :=
  match decode w with
  | .ok (.br ..) | .ok (.brd ..) | .ok (.jmp ..) | .ok (.call ..) | .ok (.ret ..) | .ok (.jind ..) | .ok (.callind ..) | .ok .eret => true
  | .ok (.dualWord a b) => a.op == .br || b.op == .br
  | _ => false

/-- Path p of group g holds the issue of word w: after it the path stands as it stood before. -/
def State.holds (t : State) (g : Group) (p : Path) (w : Word) : Bool :=
  !jumps w && match t.group? g.gid with
    | none => false
    | some h => match h.path? p.pid with
      | none => false
      | some q => q.pc == p.pc && q.lanes == p.lanes && !q.waiting && q.halted.isNone && q.stacked == p.stacked && !q.frozen &&
          q.awaits == p.awaits && p.lanes.all (fun l => (h.lane l).privS == (g.lane l).privS)

/-- A path whose word would issue now: none of its accesses holds it. -/
def State.canGo (s : State) (g : Group) (p : Path) : Bool :=
  s.issues g.ctx && g.canIssue p && decide (p.readyAt ≤ s.clk) && s.fencesReady g p &&
  match (s.takeFences g p).nextWord g p with
  | .hold => false
  | .stop _ _ => true
  | .word w s1 => match s1.runWord g.gid p.pid p w with
    | .next t => !t.holds g p w
    | _ => true

/-- It is another's turn: on a pipeline of the path its context slot issued last and the other slot is ready; or in a quad of the path
it was the last of its group to issue and another live path there can go. -/
def State.waits (s : State) (g : Group) (p : Path) : Bool :=
  (g.pathPipes p).any (fun k =>
    (s.turns.find? (fun t => t.site == g.site && t.pipes.contains k)).any (fun t => t.gid == g.gid) &&
      s.groups.any (fun h => h.gid != g.gid && h.site == g.site &&
        h.paths.any (fun q => (h.pathPipes q).contains k && s.canGo h q))) ||
  ((g.pathPipes p).map (· / 4)).dedup.any (fun k =>
    (s.turns.find? (fun t => t.gid == g.gid && t.quads.contains k)).any (fun t => t.pid == p.pid) &&
      g.paths.any (fun q => q.pid != p.pid && ((g.pathPipes q).map (· / 4)).contains k && s.canGo g q))

/-- It is the path's turn, or every path of its cluster that can go waits for another. -/
def State.turnOk (s : State) (g : Group) (p : Path) : Bool :=
  !s.waits g p || s.groups.all (fun h => h.site != g.site || h.paths.all (fun q => !s.canGo h q || s.waits h q))

/-- The path may issue in this clk. -/
def State.mayIssue (s : State) (g : Group) (p : Path) : Bool :=
  s.issues g.ctx && g.canIssue p && decide (p.readyAt ≤ s.clk) && !s.pipeBusy g p && s.fencesReady g p && s.turnOk g p

/-- A held word stays at the issue of its path: the path issues it again, and those held back until it has issued one stay so. -/
def State.keepWord (s : State) (g : Group) (p : Path) (w : Word) : State :=
  s.modGroup g.gid (fun h => { h with paths := h.paths.map (fun q =>
    if q.pid == p.pid then { q with fbuf := (p.pc.toNat, w) :: p.fbuf.filter (fun e => e.1 != p.pc.toNat) }
    else if (g.path? q.pid).any (fun x => x.after == some p.pid) then { q with after := some p.pid } else q) })

/-- What the issue of a word comes to: the path has taken its turn, unless the word is held. -/
def conclude (g : Group) (p : Path) (w : Word) (o : Out) : Out :=
  match o with
  | .next t => .next (if t.holds g p w then t.keepWord g p w else t.noteTurn (g.turnOf p t.clk))
  | .fault f => .fault f
  | .refused r => .refused r

/-- A path issues its next word. -/
def State.issue (s : State) (gid pid : Nat) : Out :=
  match s.group? gid with
  | none => .next s
  | some g =>
    match g.path? pid with
    | none => .next s
    | some p =>
      if !s.mayIssue g p then .next s
      else
        match (s.takeFences g p).nextWord g p with
        | .hold => .next s
        | .stop ts s1 => .next (((s1.issued gid pid).takeTraps gid p.pc ts).settle gid |>.noteTurn (g.turnOf p s.clk))
        | .word w s1 => conclude g p w ((s1.issued gid pid).runWord gid pid p w)

/-- The move to make: the first of the agenda; without one, a path whose turn it is, else the clk passes (log 1). -/
def State.choose (s : State) : Option (Sched × List Sched) :=
  match s.agenda with
  | m :: r => some (m, r)
  | [] =>
    let t := s.pass 1
    match t.ready.filter (fun x => match t.group? x.1 with
        | some g => (g.path? x.2).any (t.mayIssue g)
        | none => false) with
    | [] => none
    | x :: r =>
      let y := (x :: r).getD (s.clk % (r.length + 1)) x
      some (⟨1, .issue y.1 y.2⟩, [])

/-- The results that a path needs come n clk from now (00 R15). -/
def State.delay (s : State) (gid pid n : Nat) : State := s.modPath gid pid (fun p => { p with readyAt := max p.readyAt (s.clk + n) })

/-- One move. A word is run by its issue alone. -/
def State.makeMove (s : State) (m : Move) : Out :=
  match m with
  | .issue gid pid => s.issue gid pid
  | .prefetch gid pid => .next (s.prefetch gid pid)
  | .latency gid pid n => .next (s.delay gid pid n)
  | .event i pick => if isStep i then exec i { s with pick := pick } else .next s

/-- What follows a move that was made. -/
def wake (o : Out) : Out :=
  match o with
  | .next s => .next s.wakeAll
  | .fault f => .fault f
  | .refused r => .refused r

/-- A tick of every PTS falls within the next dt clk (09 R235). -/
def State.tickWithin (s : State) (dt : Nat) : Bool := decide (128 * (s.ticks + 1) ≤ s.clk + dt)

/-- The clk passes to the next tick; the move on top of the agenda waits for the rest of its clk. -/
def State.toTick (s : State) : State :=
  let k := 128 * (s.ticks + 1) - s.clk
  { s with agenda := match s.agenda with
      | x :: r => ⟨x.dt - k, x.move⟩ :: r
      | [] => [] }.pass k

/-- One step of the machine: a move after the clk that stand before it, or one clk when there is none. A tick of every PTS, and a
rebase of timestamps that have grown large (08 R204), come first. -/
def State.tick (s : State) : Out :=
  if s.tsHigh then wake (exec .rebase { s with pick := [rebaseStep] })
  else
    match s.choose with
    | none => if s.tickWithin 1 then wake (exec .ptsTick s.toTick) else .next ((s.pass 1).wakeAll)
    | some (x, rest) =>
      if s.tickWithin x.dt then wake (exec .ptsTick s.toTick)
      else wake (({ s with agenda := rest }.pass x.dt).makeMove x.move)

/-! A word put where the next fetch reads it (log 9). -/

/-- Tables at 1 MiB that map the 2 MiB page at address 0 to physical 2 MiB with R, W, X and U (18 R409, R410). -/
def bootCells : List Host.Cell :=
  [(0x100000, 0x01), (0x100002, 0x12), (0x120000, 0x01), (0x120002, 0x14), (0x140000, 0x1F), (0x140002, 0x20)]

/-- A running context without rings, queues or kernel objects, whose tables are those. -/
def bootCtx (num : Nat) : Ctx :=
  { num := num, st := .running, fn := 0, descAddr := 0,
    desc := { exTimeout := 0, saveDl := 100, ptRoot := 0x100000, shell := 0, shellSize := 0, husk := 0, huskSize := 0, efRing := 0,
              efCount := 16, efEntry := 0, sdata := 0 },
    tvec := 0x100, clflags := [], efNext := 0, efs := [], objs := [], queues := [], launches := [], ttBase := 0, ttCount := 0,
    tt := [], stopAt := none, boundary := false, saveWait := 0, stallEnd := 0, viol := false, faultCause := 0, faultSub := 0, faultMaster := 0, faultAddr := 0,
    faultSite := 0, saved := none, domain := none }

/-- A class of one unfused thread without a scratchpad. -/
def bootKlass (num kid : Nat) : Klass :=
  { kid := kid, ctx := num, launch := 0, idClass := 2 ^ 48 - 1, stage := 0, linear := 0, site := ⟨0, 0⟩, pads := [⟨0, 40, 0, [], [], [], [], []⟩],
    live := true, groupsLeft := 1, moves := [], recs := [], fromSaved := false }

/-- Its group: one thread at U with its path at address 0. -/
def bootGroup (num kid gid : Nat) (clk : Nat) : Group :=
  { newGroup gid gid num kid ⟨0, 0⟩ ⟨[0], 0, [], []⟩ 0 0 [Lane.zero] 0 false .held clk with started := true }

/-- The machine with such a thread, for a state in which no path may issue. -/
def State.boot (s : State) : State :=
  let n := s.nextId
  { s with
    nextId := n + 3,
    ctxs := s.ctxs ++ [bootCtx n],
    classes := s.classes ++ [bootKlass n (n + 1)],
    groups := s.groups ++ [bootGroup n (n + 1) (n + 2) s.clk],
    mem := { s.mem with hbm := bootCells.foldl (fun m c => cellPut m c.1 c.2) s.mem.hbm } }

/-- The physical address the next word of a path is fetched from. -/
def State.fetchAddr? (s : State) (g : Group) (p : Path) : Option Nat :=
  let a := p.pc.toNat
  let root := match s.ctx? g.ctx with | some c => c.desc.ptRoot | none => 0
  match (s.mem.walk root g.site.die g.ctx a (g.lane (p.lanes.headD 0)).pts).1 with
  | some pg => if p.lanes.all (fun l => permits pg.perm needX (g.lane l).privS) then some (pg.base + a % 2 ^ 21) else none
  | none => none

/-- The path that `choose` would issue, when its next fetch reaches memory. -/
def State.nextPath? (s : State) : Option (Nat × Nat × Path × Nat) :=
  match s.ready with
  | [] => none
  | x :: r =>
    let y := (x :: r).getD (s.clk % (r.length + 1)) x
    match s.group? y.1 with
    | none => none
    | some g => (g.path? y.2).bind (fun p =>
        if s.fencesReady g p then (s.fetchAddr? g p).map (fun pa => (y.1, y.2, p, pa)) else none)

/-- No pipeline has issued in this clk, and no tick is due. -/
def State.freshClk (s : State) : State :=
  { s with
    ticks := max s.ticks (s.clk / 128), turns := [] }

/-- Puts a word at the physical address a path fetches from, where no buffer, cache or owner hides it, and makes its issue the
next move. -/
def State.placeAt (s : State) (gid pid : Nat) (p : Path) (pa w : Nat) : State :=
  let m := s.mem.recall (pa / 128)
  let line := p.pc.toNat / 128
  { (s.freshClk.modPath gid pid (fun p => { p with fbuf := [] })) with
    agenda := ⟨0, .issue gid pid⟩ :: s.agenda,
    mem := { m with hbm := cellsWrite m.hbm pa (toBytes 8 w), icache := m.icache.filter (fun i => i.vline != line),
                    poison := m.poison.filter (fun x => x.granule != pa / 64) } }

def State.placeWord (s : State) (w : Nat) : State :=
  match s.nextPath? with
  | some (gid, pid, p, pa) => s.placeAt gid pid p pa w
  | none =>
    match s.boot.nextPath? with
    | some (gid, pid, p, pa) => s.boot.placeAt gid pid p pa w
    | none => s

end Sys2Proof.Machine
end

