-- ==== Sys2Proof/Safety.lean ====
section
/-!
DEFINITION. The terms that statements are made in: what a safe run is, the canonical form of memory, and what it is for an
instruction to act on its active lanes and on nothing else.
-/

namespace Sys2Proof

/-- The access releases: it waits for the lane's engine commands (08 R208). -/
def Order.releases (o : Order) : Bool := o == .rel || o == .ar

end Sys2Proof

namespace Sys2Proof.Machine

open Sys2Proof

/-! Runs and memory. -/

/-- The step from s completes: it is neither a fault nor a refusal. -/
def Completes (s : State) : Prop := ∃ t, step s = .next t

/-- Memory in its canonical form: HBM and every scratchpad (a zero byte is not listed, addresses rise). -/
def Memory.wf (s : State) : Bool :=
  cellsWf s.mem.hbm && s.classes.all (fun k => k.pads.all (fun p => cellsWf p.bytes))

/-- A lane's watch that has not fired stands on a line still held under its lease (08 R216). -/
def State.watchesHeld (s : State) : Prop :=
  ∀ g ∈ s.groups, ∀ x ∈ g.lanes.zipIdx, ∀ w, x.1.watch = some w → w.fired = none → s.watchLost g x.2 x.1 w = false

/-- The bytes of every scratchpad are as they were. -/
def SamePads (s t : State) : Prop := ∀ k m, (t.pad? k m).map (·.bytes) = (s.pad? k m).map (·.bytes)

/-! One word of one path. -/

/-- No path of the group stands on its divergence stack: settling such a group makes no store (13 R316). -/
def Group.noStack (g : Group) : Prop := ∀ p ∈ g.paths, p.stacked = none

/-- Path p of group g is the one whose word is executed, and the group has no path on its stack. -/
def State.runs (s : State) (g : Group) (p : Path) : Prop := s.current = some (g, p) ∧ g.noStack

/-- The group is undivided: p is its only path. -/
def Group.whole (g : Group) (p : Path) : Prop := g.paths = [p] ∧ p.lanes ≠ []

/-- Of a group nothing changes but its lanes and paths; where it is undivided its path goes on at the next word. -/
def Group.stepsTo (g : Group) (p : Path) (h : Group) : Prop :=
  h = { g with lanes := h.lanes, paths := h.paths } ∧
  (g.whole p → ∃ q, h.paths = [q] ∧ q.lanes = p.lanes ∧ q.pc = p.pc + 8)

/-- Each active lane of the path becomes `f` of itself; every other lane stays. -/
def LanesBecome (gd : Guard) (g : Group) (p : Path) (f : Lane → Lane) (h : Group) : Prop :=
  h.lanes.length = g.lanes.length ∧
  ∀ l, l < g.size → h.lane l = if p.lanes.contains l && guardHolds gd (g.lane l) then f (g.lane l) else g.lane l

/-- The instruction completes in every state, changes its active lanes by `f`, and changes nothing else: no other lane, group,
byte of memory or unit. -/
def ActsBy (o : State → Out) (gd : Guard) (f : Lane → Lane) : Prop :=
  ∀ s g p, s.runs g p → ∃ t h, o s = .next t ∧ t.group? g.gid = some h ∧ g.stepsTo p h ∧ LanesBecome gd g p f h ∧
    (∀ n, n ≠ g.gid → t.group? n = s.group? n) ∧ t = { s with groups := t.groups }

/-- The same for an instruction that raises flags: each active lane's FPFLAGS take in its own flags, and CLFLAGS of the
context on the cluster those of all (01 R33, R34). -/
def ActsByFl (o : State → Out) (gd : Guard) (f : Lane → Lane × Fl) : Prop :=
  ∀ s g p, s.runs g p → ∃ t h, o s = .next t ∧ t.group? g.gid = some h ∧ g.stepsTo p h ∧
    LanesBecome gd g p (fun x => (f x).1.setFlags (f x).2) h ∧ (∀ n, n ≠ g.gid → t.group? n = s.group? n) ∧
    t.ctxs = (s.orCl g.ctx g.site (Fl.orAll ((g.active p gd).map (fun l => (f (g.lane l)).2)))).ctxs ∧
    t = { s with groups := t.groups, ctxs := t.ctxs }

/-- The path has one active lane, l. -/
def State.runsOne (s : State) (g : Group) (p : Path) (gd : Guard) (l : Nat) : Prop :=
  s.runs g p ∧ g.active p gd = [l] ∧ l < g.size

/-- Nothing but the groups, contexts, classes and memory has changed. -/
def SameUnits (s t : State) : Prop :=
  t = { s with groups := t.groups, ctxs := t.ctxs, classes := t.classes, mem := t.mem }

/-- Every lane but lane l of group gid is as it was. -/
def OtherLanes (s t : State) (gid l : Nat) : Prop := ∀ n i, ¬(n = gid ∧ i = l) → t.lane n i = s.lane n i

/-- The instruction completes in every state and writes x[d] of each active lane from the state before it; nothing else changes. -/
def ReadsBy (o : State → Out) (gd : Guard) (d : XReg) (val : State → Group → Nat → Word) : Prop :=
  ∀ s g p, s.runs g p → ∃ t h, o s = .next t ∧ t.group? g.gid = some h ∧ g.stepsTo p h ∧ h.lanes.length = g.lanes.length ∧
    (∀ l, l < g.size → h.lane l = if l ∈ g.active p gd then (g.lane l).wx d (val s g l) else g.lane l) ∧
    (∀ n, n ≠ g.gid → t.group? n = s.group? n) ∧ t = { s with groups := t.groups }

/-- Two states of a lane agree in its registers and control registers, PTS and what it waits for apart. -/
def SameRegs (a b : Lane) : Prop :=
  a.x = b.x ∧ a.sx = b.sx ∧ a.v = b.v ∧ a.k = b.k ∧ a.m = b.m ∧ a.fpctl = b.fpctl ∧ a.fpflags = b.fpflags ∧
  a.tcause = b.tcause ∧ a.tval = b.tval ∧ a.tepc = b.tepc ∧ a.tlanes = b.tlanes ∧ a.srstate = b.srstate ∧
  a.kstack = b.kstack ∧ a.privS = b.privS ∧ a.exited = b.exited

/-- The state in which an access of a lane is made: after the FENCE that a releasing access acts as if it followed (08 R209). -/
def State.opened (s : State) (gid l : Nat) (m : MMod) : State := if m.ord.releases then s.fenced gid l m.scope else s

/-- A word of a query of the ring that a register names, all ones where it names none, 0 where the ring is detached (15 R369). -/
def State.ringWord (s : State) (h : Group) (w : Word) (f : Ring → Word) : Word :=
  match ringNum w with
  | none => -1
  | some n => ((s.ring? h.ctx n).map f).getD 0

/-- A count of the job that a register names, all ones where it names none (17 R405). -/
def State.jobWord (s : State) (h : Group) (w : Word) (f : Job → Nat) : Word :=
  match s.jobOf h.ctx w with
  | none => -1
  | some j => BitVec.ofNat 64 (f j)

/-- The group stands together: its one path holds every lane that has not exited, at a word that none of them has begun. -/
def State.undivided (s : State) (g : Group) (p : Path) : Prop :=
  s.runs g p ∧ g.paths = [p] ∧ p.lanes = g.liveLanes ∧ p.lanes ≠ [] ∧ p.pid ≠ s.nextId ∧ p.election = [] ∧ p.halted = none ∧
  p.waiting = false ∧ g.owedEntries = []

/-- The group has one lane left, l, and stands at a word whose part in that lane is still to be done. -/
def State.single (s : State) (g : Group) (p : Path) (l : Nat) : Prop := s.undivided g p ∧ p.lanes = [l] ∧ p.part = []

/-- Every group's paths are off their stacks: no path that wakes makes a store. -/
def State.noStacks (s : State) : Prop := ∀ g ∈ s.groups, g.noStack

/-- The undivided group's path goes on at an address. -/
def GoesTo (t : State) (g : Group) (p : Path) (pc : Word) : Prop :=
  ∃ q, (t.group? g.gid).map (·.paths) = some [q] ∧ q.lanes = p.lanes ∧ q.pc = pc ∧ q.halted = none ∧ q.waiting = false

/-- The group can go on without a store: no stack entry's VALID is owed, and no quad can come to hold a third live path, even where
split pipelines rejoin. -/
def Group.calm (g : Group) : Prop :=
  g.owedEntries = [] ∧ ∀ n, (g.paths.filter (fun p => !p.alone &&
    (p.lanes.any (fun l => quadOf l == n) || g.paths.any (·.alone)))).length ≤ 2

/-- Every lane of every group is as it was. -/
def SameLanes (s t : State) : Prop := ∀ n i, t.lane n i = s.lane n i

/-- Lane l of the group has taken a trap of its word at `pc` (10 R252 to R254): TCAUSE, TVAL and TEPC are written, it is at S, on
a path of its own at TVEC, and its other registers are as they were. -/
def TrapTaken (s t : State) (g : Group) (l : Nat) (pc : Word) (ti : TrapInfo) : Prop :=
  ∃ h q, t.group? g.gid = some h ∧ h.pathOf? l = some q ∧ q.lanes = [l] ∧ q.pc = tvecOf s g.ctx ∧
    (h.lane l).tcause = BitVec.ofNat 16 (ti.cause + 256 * ti.sub) ∧ (h.lane l).tval = ti.tval ∧
    (h.lane l).tepc = (if ti.next then pc + 8 else pc) &&& ~~~(7#64) ∧ (h.lane l).privS = true ∧ (h.lane l).wait = none ∧
    (h.lane l).x = (g.lane l).x ∧ (h.lane l).sx = (g.lane l).sx ∧ (h.lane l).v = (g.lane l).v ∧ (h.lane l).k = (g.lane l).k ∧
    (h.lane l).m = (g.lane l).m ∧ (h.lane l).fpctl = (g.lane l).fpctl ∧ (h.lane l).fpflags = (g.lane l).fpflags ∧
    (h.lane l).pts = (g.lane l).pts ∧ (h.lane l).tlanes = (g.lane l).tlanes

/-- A cross-lane word of an undivided group whose active lanes name one mask M that holds them (06 R152 to R154): each active lane
becomes `val` of itself, with k7 set where a named lane is absent or `k7` says so; a lane that this execution counts has been waited
for; nothing else changes but flags. -/
def CrossActs (i : Instr) (gd : Guard) (c : XReg) (k7 : Group → List Nat → Nat → Bool)
    (val : Group → List Nat → Nat → Nat → Lane → Lane) : Prop :=
  ∀ s h p M, s.undivided h p → h.active p gd ≠ [] → M < 2 ^ h.size →
    (∀ l ∈ h.active p gd, (h.lane l).memberMask h.size c = M ∧ inMask M l = true) →
    let act := h.active p gd
    let set7 := k7 h act M || (List.range h.size).any (fun n => inMask M n && !act.contains n)
    ∃ t h', exec i s = .next t ∧ t.group? h.gid = some h' ∧ h.stepsTo p h' ∧ GoesTo t h p (p.pc + 8) ∧
      (∀ n, n ≠ h.gid → t.group? n = s.group? n) ∧ t = { s with groups := t.groups, ctxs := t.ctxs } ∧
      ∀ l, l < h.size → h'.lane l = if l ∈ act then
        { val h act M l (if set7 then (h.lane l).wk 7 true else h.lane l) with crossAt := none, crossOwed := none }
        else if !h.solo p && (h.lane l).counted p.pc [p.pid] (inMask M l) then { h.lane l with crossAt := none } else h.lane l

/-- A form-wide word of an undivided group goes on at once, changes the lanes by `f` and the group by `f'`, and nothing else. -/
def FormActs (i : Instr) (s : State) (h : Group) (p : Path) (f : Lane → Lane) (f' : Group → Group) : Prop :=
  ∃ t h', exec i s = .next t ∧ t.group? h.gid = some h' ∧ GoesTo t h p (p.pc + 8) ∧ h'.lanes = h.lanes.map f ∧
    h' = { f' h with lanes := h'.lanes, paths := h'.paths } ∧ t = { s with groups := t.groups } ∧
    ∀ n, n ≠ h.gid → t.group? n = s.group? n

/-- The scratchpad of its class, and the offset in it, that an address of lane l names: the lane's own at 0xFC, a member's at 0xFD
(08 R191). -/
def Group.padAt (h : Group) (l : Nat) (A : Word) : Option (Nat × Nat) :=
  if A.toNat / 2 ^ 56 = 0xFC then some (h.member l, A.toNat % 2 ^ 56)
  else if A.toNat / 2 ^ 56 = 0xFD then some (A.toNat / 2 ^ 48 % 256, A.toNat % 2 ^ 48)
  else none

/-- An aligned address of n bytes in scratchpad m, at offset o, that no engine command or drain holds. -/
def State.placed (s : State) (h : Group) (l : Nat) (A : Word) (n m o : Nat) (pd : Pad) : Prop :=
  h.padAt l A = some (m, o) ∧ A.toNat % n = 0 ∧ s.pad? h.cls m = some pd ∧ o + n ≤ pd.size ∧
  s.loadHeld (.pad h.cls m o) n = false ∧ s.storeHeld h l (.pad h.cls m o) n = false ∧ s.drainHeld h (.pad h.cls m o) n = false

/-- The atomics of 08 R211 and R212 on n bytes and what each writes over the old value, with operand y and, for CAS, the value c it
compares with; a CAS that compares unequal writes nothing. -/
def atomicWords (g : Guard) (d a b : XReg) (off : BitVec 20) (m : MMod) (sz : MSize) (y c old : Nat) : List (Instr × Option Nat) :=
  let w := 8 * sz.bytes
  [(.amoAdd g d a b off m sz, some ((old + y) % 2 ^ w)), (.amoAnd g d a b off m sz, some (Nat.land old y % 2 ^ w)),
   (.amoOr g d a b off m sz, some (Nat.lor old y % 2 ^ w)), (.amoXor g d a b off m sz, some (Nat.xor old y % 2 ^ w)),
   (.amoMin g d a b off m sz, some ((if sextInt w y < sextInt w old then y else old) % 2 ^ w)),
   (.amoMax g d a b off m sz, some ((if sextInt w old < sextInt w y then y else old) % 2 ^ w)),
   (.amoMinn g d a b off m sz, some (min old y % 2 ^ w)), (.amoMaxn g d a b off m sz, some (max old y % 2 ^ w)),
   (.amoSwap g d a b off m sz, some (y % 2 ^ w)), (.cas g d a b off m sz, if old = c then some y else none)]

/-- The completion write of chunk i of a command, at a timestamp: the chunk's bit, or the counter of a PUT (08 R220, R222). -/
def State.chunkEnd (s : State) (c : CopyCmd) (i pts : Nat) : State :=
  let a : Actor := { c.actor with pts := pts }
  match c.kind, c.obj with
  | _, none => s
  | .put, some o => (s.engUpdate a o (fun v => (v + 2 ^ 64 - c.chunkLen i) % 2 ^ 64)).2
  | _, some o => (s.engOr a (o.plus (8 * (i / 64))) (i % 64)).2

/-- No lane waits. -/
def State.noWaits (s : State) : Prop := ∀ g ∈ s.groups, ∀ x ∈ g.lanes, x.wait = none

/-- The group's one path waits at its word. -/
def Parked (t : State) (g : Group) (p : Path) : Prop :=
  ∃ q, (t.group? g.gid).map (·.paths) = some [q] ∧ q.lanes = p.lanes ∧ q.pc = p.pc ∧ q.waiting = true

end Sys2Proof.Machine
end

