-- ==== Sys2Proof/Certificates/Slice0/Obligations.lean ====
section
/-!
DEFINITION. The statements of this row. Each docstring names the rules it rests on.
-/

open Sys2Proof Sys2Proof.Machine

/-- ADD, SUB, MULL and SHLADD at every width, signedness and saturation, and the immediate forms ADDI and MULL (R112, R114): the
result of R111 from the exact sum, difference or product, in the active lanes; nothing else changes. -/
def Obligations.SumsAndProducts : Prop :=
  ∀ (g : Guard) (d a b : XReg) (w : IntW) (u sat : Bool) (sh : Fin 8) (imm : BitVec 32),
    ActsBy (exec (.add g d a b w u sat)) g (fun x => x.wx d
      (storeRes (opnd (x.rx a) w.bits (!u) + opnd (x.rx b) w.bits (!u)) w.bits (!u) sat)) ∧
    ActsBy (exec (.sub g d a b w u sat)) g (fun x => x.wx d
      (storeRes (opnd (x.rx a) w.bits (!u) - opnd (x.rx b) w.bits (!u)) w.bits (!u) sat)) ∧
    ActsBy (exec (.mull g d a b w u sat)) g (fun x => x.wx d
      (storeRes (opnd (x.rx a) w.bits (!u) * opnd (x.rx b) w.bits (!u)) w.bits (!u) sat)) ∧
    ActsBy (exec (.shladd g d a b w u sh)) g (fun x => x.wx d
      (storeRes (opnd (x.rx a) w.bits (!u) * 2 ^ sh.val + opnd (x.rx b) w.bits (!u)) w.bits (!u) false)) ∧
    ActsBy (exec (.addi g d a imm)) g (fun x => x.wx d
      (storeRes (opnd (x.rx a) 64 true + opnd (imm.signExtend 64) 64 true) 64 true false)) ∧
    ActsBy (exec (.mullImm g d a imm)) g (fun x => x.wx d
      (storeRes (opnd (x.rx a) 64 true * opnd (imm.signExtend 64) 64 true) 64 true false))

/-- The high products, and quotients and remainders with a zero divisor and with signed overflow as R113 gives them, without a
trap or a flag. -/
def Obligations.HighProductsAndDivision : Prop :=
  ∀ (g : Guard) (d a b : XReg) (w : IntW),
    let val (sgn : Bool) (f : Int → Int → Int) (x : Lane) : Lane :=
      x.wx d (storeRes (f (opnd (x.rx a) w.bits sgn) (opnd (x.rx b) w.bits sgn)) w.bits sgn false)
    let quo (sgn : Bool) (A B : Int) : Int :=
      if B = 0 then 2 ^ w.bits - 1
      else if sgn = true ∧ A = -(2 ^ (w.bits - 1)) ∧ B = -1 then -(2 ^ (w.bits - 1)) else Int.tdiv A B
    let rem (sgn : Bool) (A B : Int) : Int :=
      if B = 0 then A else if sgn = true ∧ A = -(2 ^ (w.bits - 1)) ∧ B = -1 then 0 else A - Int.tdiv A B * B
    ActsBy (exec (.mulh g d a b w)) g (val true (fun A B => A * B / 2 ^ w.bits)) ∧
    ActsBy (exec (.mulhn g d a b w)) g (val false (fun A B => A * B / 2 ^ w.bits)) ∧
    ActsBy (exec (.div g d a b w)) g (val true (quo true)) ∧ ActsBy (exec (.divn g d a b w)) g (val false (quo false)) ∧
    ActsBy (exec (.rem g d a b w)) g (val true (rem true)) ∧ ActsBy (exec (.remn g d a b w)) g (val false (rem false))

/-- The logical words on w-bit patterns, extended by U, MIN and MAX signed and unsigned, and the 64-bit immediate forms of
both (R112, R114). -/
def Obligations.LogicalWordsAndExtrema : Prop :=
  (∀ (g : Guard) (d a b : XReg) (w : IntW) (u : Bool) (imm : BitVec 32),
    let val (f : Word → Word → Word) (x : Lane) : Lane :=
      x.wx d (storeRes ((f (x.rx a) (x.rx b)).toNat : Int) w.bits (!u) false)
    let wide (f : Word → Word → Word) (x : Lane) : Lane := x.wx d (f (x.rx a) (imm.signExtend 64))
    ActsBy (exec (.and g d a b w u)) g (val (· &&& ·)) ∧ ActsBy (exec (.or g d a b w u)) g (val (· ||| ·)) ∧
    ActsBy (exec (.xor g d a b w u)) g (val (· ^^^ ·)) ∧ ActsBy (exec (.andn g d a b w u)) g (val (fun p q => p &&& ~~~q)) ∧
    ActsBy (exec (.orn g d a b w u)) g (val (fun p q => p ||| ~~~q)) ∧
    ActsBy (exec (.xnor g d a b w u)) g (val (fun p q => ~~~(p ^^^ q))) ∧
    ActsBy (exec (.andImm g d a imm)) g (wide (· &&& ·)) ∧ ActsBy (exec (.orImm g d a imm)) g (wide (· ||| ·)) ∧
    ActsBy (exec (.xorImm g d a imm)) g (wide (· ^^^ ·)) ∧ ActsBy (exec (.andnImm g d a imm)) g (wide (fun p q => p &&& ~~~q))) ∧
  (∀ (g : Guard) (d a b : XReg) (w : IntW) (imm : BitVec 32),
    let val (sgn : Bool) (f : Int → Int → Int) (x : Lane) : Lane :=
      x.wx d (storeRes (f (opnd (x.rx a) w.bits sgn) (opnd (x.rx b) w.bits sgn)) w.bits sgn false)
    let wide (sgn : Bool) (c : Word) (f : Int → Int → Int) (x : Lane) : Lane :=
      x.wx d (storeRes (f (opnd (x.rx a) 64 sgn) (opnd c 64 sgn)) 64 sgn false)
    ActsBy (exec (.min g d a b w)) g (val true min) ∧ ActsBy (exec (.max g d a b w)) g (val true max) ∧
    ActsBy (exec (.minn g d a b w)) g (val false min) ∧ ActsBy (exec (.maxn g d a b w)) g (val false max) ∧
    ActsBy (exec (.minImm g d a imm)) g (wide true (imm.signExtend 64) min) ∧
    ActsBy (exec (.maxImm g d a imm)) g (wide true (imm.signExtend 64) max) ∧
    ActsBy (exec (.minnImm g d a imm)) g (wide false (imm.zeroExtend 64) min) ∧
    ActsBy (exec (.maxnImm g d a imm)) g (wide false (imm.zeroExtend 64) max))

/-- Shifts and rotations: the count is x[b] modulo the width, and a shift is a product or a floored quotient (R112, R114). -/
def Obligations.ShiftsAndRotations : Prop :=
  ∀ (g : Guard) (d a b : XReg) (w : IntW) (u : Bool) (k : Fin 64),
    let n (x : Lane) : Nat := (x.rx b).toNat % w.bits
    let rot (v m bits : Nat) : Int := ((v * 2 ^ m % 2 ^ bits + v / 2 ^ (bits - m) : Nat) : Int)
    let low (x : Lane) (bits : Nat) : Nat := (x.rx a).toNat % 2 ^ bits
    ActsBy (exec (.shl g d a b w u)) g (fun x => x.wx d (storeRes (opnd (x.rx a) w.bits (!u) * 2 ^ n x) w.bits (!u) false)) ∧
    ActsBy (exec (.shr g d a b w)) g (fun x => x.wx d (storeRes (opnd (x.rx a) w.bits false / 2 ^ n x) w.bits false false)) ∧
    ActsBy (exec (.sar g d a b w)) g (fun x => x.wx d (storeRes (opnd (x.rx a) w.bits true / 2 ^ n x) w.bits true false)) ∧
    ActsBy (exec (.rol g d a b w u)) g (fun x => x.wx d (storeRes (rot (low x w.bits) (n x) w.bits) w.bits (!u) false)) ∧
    ActsBy (exec (.ror g d a b w u)) g
      (fun x => x.wx d (storeRes (rot (low x w.bits) ((w.bits - n x) % w.bits) w.bits) w.bits (!u) false)) ∧
    ActsBy (exec (.shlImm g d a k)) g (fun x => x.wx d (storeRes (opnd (x.rx a) 64 true * 2 ^ k.val) 64 true false)) ∧
    ActsBy (exec (.shrImm g d a k)) g (fun x => x.wx d (storeRes (opnd (x.rx a) 64 false / 2 ^ k.val) 64 false false)) ∧
    ActsBy (exec (.sarImm g d a k)) g (fun x => x.wx d (storeRes (opnd (x.rx a) 64 true / 2 ^ k.val) 64 true false)) ∧
    ActsBy (exec (.rolImm g d a k)) g (fun x => x.wx d (storeRes (rot (low x 64) k.val 64) 64 true false)) ∧
    ActsBy (exec (.rorImm g d a k)) g (fun x => x.wx d (storeRes (rot (low x 64) ((64 - k.val) % 64) 64) 64 true false))

/-- Comparisons and predicate words write the register named and nothing else (R115 to R117); x0 reads as zero and k0
as one, and a write of either is discarded (R28, R30). -/
def Obligations.ComparesPredicatesAndConstants : Prop :=
  (∀ (g : Guard) (d k1 k2 : KReg) (x0 a b : XReg) (w : IntW) (u : Bool) (c : Cond) (op : KopOp) (imm : BitVec 32),
    ActsBy (exec (.cmp g d a b w u c)) g (fun x => x.wk d (condEval c (opnd (x.rx a) w.bits (!u)) (opnd (x.rx b) w.bits (!u)))) ∧
    ActsBy (exec (.cmpi g d a imm u c)) g (fun x => x.wk d (condEval c (opnd (x.rx a) 64 (!u))
      (opnd (if u then imm.zeroExtend 64 else imm.signExtend 64) 64 (!u)))) ∧
    ActsBy (exec (.kop g d k1 k2 op)) g (fun x => x.wk d (op.eval (x.rk k1) (x.rk k2))) ∧
    ActsBy (exec (.kmovToX g x0 k1)) g (fun x => x.wx x0 (if x.rk k1 then 1 else 0)) ∧
    ActsBy (exec (.kmovToK g d a)) g (fun x => x.wk d (x.rx a != 0)) ∧
    ActsBy (exec (.sel g x0 a b k1)) g (fun x => x.wx x0 (if x.rk k1 then x.rx a else x.rx b))) ∧
  (∀ (x : Lane) (d r : XReg) (e q : KReg) (w : Word) (b : Bool),
    x.rx 0 = 0 ∧ x.rk 0 = true ∧ x.wx 0 w = x ∧ x.wk 0 b = x ∧ (d ≠ 0 → (x.wx d w).rx d = w) ∧
    (r ≠ d → (x.wx d w).rx r = x.rx r) ∧ (e ≠ 0 → (x.wk e b).rk e = b) ∧ (q ≠ e → (x.wk e b).rk q = x.rk q))

/-- Moves, extensions, counts, reversals and bit fields (R114, R115, R118, R119), and NOP (R128). -/
def Obligations.MovesCountsAndFields : Prop :=
  ∀ (g : Guard) (d a b : XReg) (w : IntW) (u : Bool) (pos len : Fin 64) (imm : BitVec 32),
    let low (x : Lane) : Nat := (x.rx a).toNat % 2 ^ w.bits
    ActsBy (exec (.nop g)) g id ∧ ActsBy (exec (.mov g d a)) g (fun x => x.wx d (x.rx a)) ∧
    ActsBy (exec (.movi g d imm)) g (fun x => x.wx d (imm.signExtend 64)) ∧
    ActsBy (exec (.movhi g d imm)) g (fun x => x.wx d (imm ++ (x.rx d).extractLsb' 0 32)) ∧
    ActsBy (exec (.ext g d a w u)) g (fun x => x.wx d (storeRes (opnd (x.rx a) w.bits (!u)) w.bits (!u) false)) ∧
    ActsBy (exec (.clz g d a w)) g (fun x => x.wx d (BitVec.ofNat 64 (leadZeros w.bits (low x)))) ∧
    ActsBy (exec (.ctz g d a w)) g (fun x => x.wx d (BitVec.ofNat 64 (trailZeros w.bits (low x)))) ∧
    ActsBy (exec (.popc g d a w)) g (fun x => x.wx d (BitVec.ofNat 64 (popCount w.bits (low x)))) ∧
    ActsBy (exec (.brev g d a w u)) g (fun x => x.wx d (storeRes (bitReverse w.bits (low x) : Int) w.bits (!u) false)) ∧
    ActsBy (exec (.bswap g d a w u)) g (fun x => x.wx d (storeRes (byteReverse w.bits (low x) : Int) w.bits (!u) false)) ∧
    ActsBy (exec (.bfx g d a u pos len)) g (fun x => x.wx d
      (storeRes (((x.rx a).toNat / 2 ^ pos.val % 2 ^ (len.val + 1) : Nat) : Int) (len.val + 1) (!u) false)) ∧
    ActsBy (exec (.bfi g d a b pos len)) g (fun x =>
      let mask : Word := BitVec.ofNat 64 ((2 ^ (len.val + 1) - 1) * 2 ^ pos.val)
      x.wx d ((x.rx a &&& ~~~mask) ||| ((x.rx b <<< pos.val) &&& mask)))

/-- Packed words without flags: selections (R139), integer compares (R140) and classes (R148), moves between banks (R149, R176) and integer
lanes (R150). The .lg6 forms of VINS and VEXTR write and return bits 7 and 6 as zeros (log 99). -/
def Obligations.PackedWordsWithoutFlags : Prop :=
  ∀ (g : Guard) (d a b c : VReg) (xd xa : XReg) (m : MReg) (t : Ty) (sat : Bool) (i : Fin 16) (r : Fin 8) (hi : Bool)
    (dk : Fin 64) (kd : CmpDest) (cc : Cond),
    ActsBy (exec (.vadd g d a b t sat)) g (fun x => x.wv d (vintReg t (· + ·) sat (x.rv a) (x.rv b))) ∧
    ActsBy (exec (.vsub g d a b t sat)) g (fun x => x.wv d (vintReg t (· - ·) sat (x.rv a) (x.rv b))) ∧
    ActsBy (exec (.vmul g d a b t sat)) g (fun x => x.wv d (vintReg t (· * ·) sat (x.rv a) (x.rv b))) ∧
    ActsBy (exec (.vmin g d a b t)) g (fun x => x.wv d (vintReg t min false (x.rv a) (x.rv b))) ∧
    ActsBy (exec (.vmax g d a b t)) g (fun x => x.wv d (vintReg t max false (x.rv a) (x.rv b))) ∧
    ActsBy (exec (.vand g d a b)) g (fun x => x.wv d (x.rv a &&& x.rv b)) ∧
    ActsBy (exec (.vor g d a b)) g (fun x => x.wv d (x.rv a ||| x.rv b)) ∧
    ActsBy (exec (.vxor g d a b)) g (fun x => x.wv d (x.rv a ^^^ x.rv b)) ∧
    ActsBy (exec (.vshl g d a b t)) g (fun x => x.wv d (vshiftReg t true (x.rv a) (x.rv b))) ∧
    ActsBy (exec (.vshr g d a b t)) g (fun x => x.wv d (vshiftReg t false (x.rv a) (x.rv b))) ∧
    ActsBy (exec (.vpopc g d a t)) g (fun x => x.wv d (vpopcReg t (x.rv a))) ∧
    ActsBy (exec (.vcmp g dk a b t kd cc)) g (fun x => x.putCmp dk t.bits kd (vcmpAll cc t (x.rv a) (x.rv b))) ∧
    ActsBy (exec (.vmov g d a)) g (fun x => x.wv d (x.rv a)) ∧
    ActsBy (exec (.vbcast g d xa t)) g (fun x => x.wv d (vbcastReg t (x.rx xa))) ∧
    ActsBy (exec (.vextr g xd a t i)) g (fun x => x.wx xd (vextrVal t (x.rv a) i.val)) ∧
    ActsBy (exec (.vins g d xa t i)) g (fun x => x.wv d (vinsReg t (x.rv d) (x.rx xa) i.val)) ∧
    ActsBy (exec (.fsel g d a b c t)) g (fun x => x.wv d (fselReg t (x.rv a) (x.rv b) (x.rv c))) ∧
    ActsBy (exec (.fclass g d a t)) g (fun x => x.wv d (fclassReg t (x.rv a))) ∧
    ActsBy (exec (.mmovTov g d m r hi)) g (fun x => x.wv d (ofElts 32 ((List.range 4).map (fun k =>
      (x.rm m.val (8 * r.val + 4 * hi.toNat + k)).toNat)))) ∧
    ActsBy (exec (.mmovTom g m a r hi)) g (fun x => (List.range 4).foldl (fun y k =>
      y.wm m.val (8 * r.val + 4 * hi.toNat + k) (BitVec.ofNat 32 (elt (x.rv a) k 32))) x)

/-- Packed floating words: each active lane takes the elementwise result, its generator the draws made, and the flags are
sticky in FPFLAGS and CLFLAGS; FCMP writes a mask vector or a predicate (R33, R34, R138 to R147). The approximations are free within
their bounds (log 5), FSUM.sr takes four draws (log 85), and UF of LOG6 is decided before rounding (log 22). -/
def Obligations.PackedFloatWordsAndCompares : Prop :=
  (∀ (g : Guard) (d a b c : VReg) (xc : XReg) (t st : Ty) (rm : Rm) (sat : Bool) (p : Fin 8),
    let put (f : Lane → VRes) (x : Lane) : Lane × Fl := ({ x.wv d (f x).v with srstate := (f x).sr }, (f x).fl)
    ActsByFl (exec (.fadd g d a b t rm)) g (put (fun x => fbin faddElt x.env t rm (x.rv a) (x.rv b))) ∧
    ActsByFl (exec (.fsub g d a b t rm)) g (put (fun x => fbin fsubElt x.env t rm (x.rv a) (x.rv b))) ∧
    ActsByFl (exec (.fmul g d a b t rm)) g (put (fun x => fbin fmulElt x.env t rm (x.rv a) (x.rv b))) ∧
    ActsByFl (exec (.ffma g d a b c t rm)) g (put (fun x => ftern ffmaElt x.env t rm (x.rv a) (x.rv b) (x.rv c))) ∧
    ActsByFl (exec (.ffms g d a b c t rm)) g (put (fun x => ftern ffmsElt x.env t rm (x.rv a) (x.rv b) (x.rv c))) ∧
    ActsByFl (exec (.fmin g d a b t)) g (put (fun x => mapPure x.env t.bits
      (fun i => fminmaxElt false t (elt (x.rv a) i t.bits) (elt (x.rv b) i t.bits)))) ∧
    ActsByFl (exec (.fmax g d a b t)) g (put (fun x => mapPure x.env t.bits
      (fun i => fminmaxElt true t (elt (x.rv a) i t.bits) (elt (x.rv b) i t.bits)))) ∧
    ActsByFl (exec (.fabs g d a t)) g (put (fun x => mapPure x.env t.bits (fun i => fabsElt t (elt (x.rv a) i t.bits)))) ∧
    ActsByFl (exec (.fneg g d a t)) g (put (fun x => mapPure x.env t.bits (fun i => fnegElt t (elt (x.rv a) i t.bits)))) ∧
    ActsByFl (exec (.frcp g d a t)) g (put (fun x => vapprox frcp x.env t (x.rv a))) ∧
    ActsByFl (exec (.frsq g d a t)) g (put (fun x => vapprox frsq x.env t (x.rv a))) ∧
    ActsByFl (exec (.fsqrt g d a t rm)) g (put (fun x => mapElts x.env (x.env.mode rm t) t.bits (eltCount t.bits)
      (fun i dr => fsqrt t (x.env.mode rm t) dr (elt (x.rv a) i t.bits)))) ∧
    ActsByFl (exec (.fexp2 g d a t)) g (put (fun x => vapprox fexp2 x.env t (x.rv a))) ∧
    ActsByFl (exec (.flog2 g d a t)) g (put (fun x => vapprox flog2 x.env t (x.rv a))) ∧
    ActsByFl (exec (.fcvt g d a t st rm p)) g (put (fun x => fcvtReg x.env t st rm p.val (x.rv d) (x.rv a))) ∧
    ActsByFl (exec (.fpack g d a b xc t rm p)) g
      (put (fun x => fpackReg x.env t rm p.val (scaleCode (xc.val = 0) (x.rx xc)) (x.rv d) (x.rv a) (x.rv b))) ∧
    ActsByFl (exec (.funpack g d a xc st p)) g
      (put (fun x => funpackReg x.env st p.val (scaleCode (xc.val = 0) (x.rx xc)) (x.rv a))) ∧
    ActsByFl (exec (.fdot g d a b t st rm sat)) g (put (fun x => fdotReg x.env t st rm sat (x.rv d) (x.rv a) (x.rv b))) ∧
    ActsByFl (exec (.fsum g d a st rm)) g (put (fun x => fsumReg x.env st rm (x.rv a)))) ∧
  (∀ (g : Guard) (d : Fin 64) (a b : VReg) (t : Ty) (kd : CmpDest) (c : FCond),
    ActsByFl (exec (.fcmp g d a b t kd c)) g (fun x =>
      (match kd with
        | .vec => x.wv (vOf d) (maskElts t.bits (fcmpAll c t (x.rv a) (x.rv b)).1)
        | .any => x.wk (kOf d) ((fcmpAll c t (x.rv a) (x.rv b)).1.any id)
        | .all => x.wk (kOf d) ((fcmpAll c t (x.rv a) (x.rv b)).1.all id),
       (fcmpAll c t (x.rv a) (x.rv b)).2)))

/-- The words that write one register of each active lane from the state of its group and units: identity registers (R36), MRES
(R177), DIVQ (R320, R326), RQRY (R369), JCNT (R405) and INBOXQ.count (R309). Nothing else changes. The free slots that RQRY
counts are those of the tiles' own use (log 53). -/
def Obligations.WordsThatReadUnits : Prop :=
  ∀ (g : Guard) (d a : XReg) (sel : Fin 64),
    ReadsBy (exec (.rid g d sel)) g d (fun _ h l => h.ident l sel.val) ∧
    ReadsBy (exec (.mres g d)) g d (fun s h _ => s.mresWord h) ∧
    ReadsBy (exec (.divqState g d)) g d (fun _ h l => h.splitWord l) ∧
    ReadsBy (exec (.divqJoin g d)) g d (fun _ h l => ((h.pathOf? l).bind h.joinAddr).getD 0) ∧
    ReadsBy (exec (.inboxqCount g d)) g d (fun s h _ => s.mailCounts h) ∧
    ReadsBy (exec (.rqryState g d a)) g d (fun s h l => s.ringWord h ((h.lane l).rx a) Ring.stateWord) ∧
    ReadsBy (exec (.rqryInj g d a)) g d (fun s h l => s.ringWord h ((h.lane l).rx a) (fun r => BitVec.ofNat 64 r.injected)) ∧
    ReadsBy (exec (.rqryRet g d a)) g d (fun s h l => s.ringWord h ((h.lane l).rx a) (fun r => BitVec.ofNat 64 r.retired)) ∧
    ReadsBy (exec (.rqryEnc g d a)) g d (fun s h l => s.ringWord h ((h.lane l).rx a) (fun r => BitVec.ofNat 64 r.encounters)) ∧
    ReadsBy (exec (.rqryMiss g d a)) g d (fun s h l => s.ringWord h ((h.lane l).rx a) (fun r => BitVec.ofNat 64 r.missed)) ∧
    ReadsBy (exec (.rqryLost g d a)) g d (fun s h l => s.ringWord h ((h.lane l).rx a) (fun r => BitVec.ofNat 64 r.lost)) ∧
    ReadsBy (exec (.jcntInj g d a)) g d
      (fun s h l => s.jobWord h ((h.lane l).rx a) (fun j => (j.countAt (cniOf h.site)).inj)) ∧
    ReadsBy (exec (.jcntCons g d a)) g d
      (fun s h l => s.jobWord h ((h.lane l).rx a) (fun j => (j.countAt (cniOf h.site)).cons)) ∧
    ReadsBy (exec (.jcntRep g d a)) g d (fun s h l => s.jobWord h ((h.lane l).rx a) (·.repairs)) ∧
    ReadsBy (exec (.jcntCalls g d a)) g d (fun s h l => s.jobWord h ((h.lane l).rx a) (·.calls))

/-- MFC of every control register (R31, R263): the lane reads its register, or the context's or the device's; CLFLAGS needs S,
FPFLAGS an MMA datapath that is not computing (R61). -/
def Obligations.ControlRegisterReads : Prop :=
  ∀ (g : Guard) (d : XReg) (sel : Fin 64) (s : State) (h : Group) (p : Path) (l : Nat),
    s.runsOne h p g l → (sel.val = 0x0D → ∀ i ∈ p.lanes, (h.lane i).privS = true) →
    (sel.val = 1 → h.mmas.all (·.reading) = true) →
    ∃ t, exec (.mfc g d sel) s = .next t ∧ t.lane h.gid l = (h.lane l).wx d (s.mfcValue h l sel.val) ∧
      OtherLanes s t h.gid l ∧ t = { s with groups := t.groups }

/-- MTC at U and at S (R31, R32, R34, R263): FPCTL keeps its rounding mode on codes 5 to 7, FPFLAGS its six bits, KSTACK its
alignment; the trap registers, MRP and TVEC are written at S alone, where CLFLAGS bits are cleared, and the others as at U; FPFLAGS is
written at once, also while an MMA is in progress (log 88). -/
def Obligations.ControlRegisterWrites : Prop :=
  (∀ (g : Guard) (a : XReg) (sel : Fin 64) (s : State) (h : Group) (p : Path) (l : Nat),
    s.runsOne h p g l → (h.lane l).privS = false → sel.val ≠ 0x0D →
    let w := (h.lane l).rx a
    ∃ t, exec (.mtc g a sel) s = .next t ∧ OtherLanes s t h.gid l ∧ t = { s with groups := t.groups } ∧
      t.lane h.gid l =
        (if sel.val = 0 then { h.lane l with fpctl := fpctlWrite (h.lane l).fpctl w }
        else if sel.val = 1 then { h.lane l with fpflags := w &&& 0x3F }
        else if sel.val = 9 then { h.lane l with srstate := w }
        else if sel.val = 0x0A then { h.lane l with kstack := w &&& ~~~(15#64) }
        else h.lane l)) ∧
  (∀ (g : Guard) (a : XReg) (sel : Fin 64) (s : State) (h : Group) (p : Path) (l : Nat) (c : Ctx),
    s.runsOne h p g l → (∀ i ∈ p.lanes, (h.lane i).privS = true) → l ∈ p.lanes → s.ctx? h.ctx = some c →
    let w := (h.lane l).rx a
    ∃ t c', exec (.mtc g a sel) s = .next t ∧ OtherLanes s t h.gid l ∧ t = { s with groups := t.groups, ctxs := t.ctxs } ∧
      t.lane h.gid l =
        (if sel.val = 0 then { h.lane l with fpctl := fpctlWrite (h.lane l).fpctl w }
        else if sel.val = 1 then { h.lane l with fpflags := w &&& 0x3F }
        else if sel.val = 4 then { h.lane l with tcause := w.truncate 16 }
        else if sel.val = 5 then { h.lane l with tval := w }
        else if sel.val = 6 then { h.lane l with tepc := w }
        else if sel.val = 7 then { h.lane l with tlanes := w.truncate 32 }
        else if sel.val = 9 then { h.lane l with srstate := w }
        else if sel.val = 0x0A then { h.lane l with kstack := w &&& ~~~(15#64) }
        else h.lane l) ∧
      (t.group? h.gid).map (·.mrp) = some (if sel.val = 8 then w.truncate 32 &&& 0x1FFFF else h.mrp) ∧
      t.ctx? h.ctx = some c' ∧
      c' = { c with tvec := if sel.val = 3 then w &&& ~~~(7#64) else c.tvec, clflags := c'.clflags } ∧
      c'.clOf h.site =
        if sel.val = 0x0D then (BitVec.ofNat 6 (c.clOf h.site) &&& ~~~(w.truncate 6)).toNat else c.clOf h.site)

/-- Loads and stores of a scratchpad of the lane's class, its own or a member's (R191, R192, R203, R207, R208): a load reads its bytes
little-endian and raises PTS; a store writes exactly its bytes, above every load of the line, and leaves every other byte. -/
def Obligations.ScratchLoadsAndStores : Prop :=
  (∀ (g : Guard) (d : XReg) (dv : VReg) (a b : XReg) (off : BitVec 20) (sx : Bool) (m : MMod) (sz : MSize) (s : State) (h : Group)
    (p : Path) (l i o : Nat) (pd : Pad),
    let A := (h.lane l).addrIndexed a b off
    let loc := Loc.pad h.cls i o
    s.runsOne h p g l → h.padAt l A = some (i, o) → A.toNat % sz.bytes = 0 → s.pad? h.cls i = some pd →
    o + sz.bytes ≤ pd.size → (m.ord.releases = true → s.fenceReady h.gid l = true) → s.loadHeld loc sz.bytes = false →
    s.drainHeld h loc sz.bytes = false →
    let x := (s.opened h.gid l m).lane h.gid l
    let after : Lane := { x with pts := max x.pts (pd.tsOf (o / 128)).wts }
    (∃ t, exec (.ld g d a b off sx m sz) s = .next t ∧ OtherLanes s t h.gid l ∧ SamePads s t ∧ t.mem = s.mem ∧
      t = { s with groups := t.groups, classes := t.classes } ∧
      t.lane h.gid l = (after.wx d (loadValue sx sz.bytes (fromBytes (cellsRead pd.bytes o sz.bytes)))).acquired m) ∧
    (∃ t, exec (.ldv g dv a b off m sz) s = .next t ∧ OtherLanes s t h.gid l ∧ SamePads s t ∧ t.mem = s.mem ∧
      t = { s with groups := t.groups, classes := t.classes } ∧
      t.lane h.gid l = (after.wv dv (BitVec.ofNat 128 (fromBytes (cellsRead pd.bytes o sz.bytes)))).acquired m)) ∧
  (∀ (g : Guard) (a b : XReg) (bv : VReg) (off : BitVec 20) (m : MMod) (sz : MSize) (s : State) (h : Group)
    (p : Path) (l i o : Nat) (pd : Pad),
    let A := (h.lane l).addrData a off
    let loc := Loc.pad h.cls i o
    s.runsOne h p g l → h.padAt l A = some (i, o) → A.toNat % sz.bytes = 0 → s.pad? h.cls i = some pd →
    o + sz.bytes ≤ pd.size → (m.ord.releases = true → s.fenceReady h.gid l = true) → s.storeHeld h l loc sz.bytes = false →
    s.drainHeld h loc sz.bytes = false → cellsWf pd.bytes = true →
    let Done (w : Instr) (v : Nat) : Prop := ∃ t pd', exec w s = .next t ∧ t.mem = s.mem ∧
      t.pad? h.cls i = some pd' ∧ cellsWf pd'.bytes = true ∧
      (∀ k, k < sz.bytes → cellAt pd'.bytes (o + k) = BitVec.ofNat 8 (v / 256 ^ k)) ∧
      (∀ k, k < o ∨ o + sz.bytes ≤ k → cellAt pd'.bytes k = cellAt pd.bytes k) ∧
      (∀ k n, ¬(k = h.cls ∧ n = i) → (t.pad? k n).map (·.bytes) = (s.pad? k n).map (·.bytes)) ∧
      (t.lane h.gid l).pts = max ((s.opened h.gid l m).lane h.gid l).pts ((pd.tsOf (o / 128)).rts + 1) ∧
      ((t.lane h.gid l).fenceOwed = if m.ord == .acq || m.ord == .ar then some m.scope else
        ((s.opened h.gid l m).lane h.gid l).fenceOwed) ∧
      (∀ n j, (s.lane n j).wait = none → SameRegs (s.lane n j) (t.lane n j))
    Done (.st g a b off m sz) ((h.lane l).rx b).toNat ∧ Done (.stv g a bv off m sz) ((h.lane l).rv bv).toNat)

/-- An atomic on the lane's own scratchpad or on a member's of its class returns the old value in x[d] and writes the new one; CAS that
compares unequal writes nothing (R191, R211, R212). -/
def Obligations.ScratchAtomics : Prop :=
  ∀ (g : Guard) (d a b : XReg) (off : BitVec 20) (m : MMod) (sz : MSize) (s : State) (h : Group) (p : Path) (l i o : Nat)
    (pd : Pad),
    let A := (h.lane l).addrData a off
    let n := sz.bytes
    let old := fromBytes (cellsRead pd.bytes o n)
    s.runsOne h p g l → s.placed h l A n i o pd → (m.ord.releases = true → s.fenceReady h.gid l = true) →
    (h.lane l).wait = none →
    ∀ x ∈ atomicWords g d a b off m sz (((h.lane l).rx b).toNat % 2 ^ (8 * n)) (((h.lane l).rx d).toNat % 2 ^ (8 * n)) old,
      ∃ t pd', exec x.1 s = .next t ∧ t.mem = s.mem ∧ t.pad? h.cls i = some pd' ∧
        pd'.bytes = (match x.2 with | some v => cellsWrite pd.bytes o (toBytes n v) | none => pd.bytes) ∧
        (∀ k j, ¬(k = h.cls ∧ j = i) → (t.pad? k j).map (·.bytes) = (s.pad? k j).map (·.bytes)) ∧
        (t.lane h.gid l).rx d = (if d = 0 then 0 else BitVec.ofNat 64 old) ∧
        (∀ r, r ≠ d → (t.lane h.gid l).rx r = (h.lane l).rx r) ∧
        (∀ k j, ¬(k = h.gid ∧ j = l) → (s.lane k j).wait = none → SameRegs (s.lane k j) (t.lane k j))

/-- Accesses of global memory that this package performs (one for another package of a domain, R434, leaves it): a load answers what
its pipeline's L1 gives it, its PTS is not below the completions its SCOPE has it see (R237, log 105), and it changes no byte; a store writes
its bytes at the physical address its ownership was gained for and leaves every other; an atomic returns the old value in x[d] and
writes the new one, or nothing where a CAS compares unequal, in the L1 at scopes .pl and .form, at the home at others (R202, R207,
R211 to R213, R418). -/
def Obligations.GlobalAccesses : Prop :=
  (∀ (g : Guard) (d a b : XReg) (dv bv : VReg) (off : BitVec 20) (sx : Bool) (m : MMod) (sz : MSize) (s : State) (h h0 : Group)
    (p : Path) (l : Nat),
    let s0 := s.opened h.gid l m
    s.runsOne h p g l → (m.ord.releases = true → s.fenceReady h.gid l = true) → s0.group? h.gid = some h0 →
    (∀ v pt mem', let A := (h.lane l).addrIndexed a b off
      let Done (w : Instr) (f : Lane → Lane) : Prop := ∃ t, exec w s = .next t ∧ t.mem = mem' ∧ t.mem.hbm = s.mem.hbm ∧
        OtherLanes s t h.gid l ∧ SamePads s t ∧ t = { s with groups := t.groups, classes := t.classes, mem := t.mem } ∧
        t.lane h.gid l = (f { h0.lane l with pts := max pt (s0.observedPts h0 l A.toNat sz.bytes false) }).acquired m
      A.toNat / 2 ^ 56 = 0 → s.far h.ctx A.toNat = false → A.toNat % sz.bytes = 0 →
      s.drainHeld h (.glob A.toNat) sz.bytes = false →
      s.mem.l1Load (s0.req h0 l A.toNat) A.toNat sz.bytes = (.ok v, pt, mem') →
      Done (.ld g d a b off sx m sz) (·.wx d (loadValue sx sz.bytes v)) ∧
      Done (.ldv g dv a b off m sz) (·.wv dv (BitVec.ofNat 128 v))) ∧
    (∀ pa pt mem', let A := (h.lane l).addrData a off
      let Done (w : Instr) (v : Nat) : Prop := ∃ t, exec w s = .next t ∧ cellsWf t.mem.hbm = true ∧ SamePads s t ∧
        (∀ k, k < sz.bytes → cellAt t.mem.hbm (pa + k) = BitVec.ofNat 8 (v / 256 ^ k)) ∧
        (∀ c, c < pa ∨ pa + sz.bytes ≤ c → cellAt t.mem.hbm c = cellAt s.mem.hbm c) ∧
        (∀ n j, (s.lane n j).wait = none → SameRegs (s.lane n j) (t.lane n j))
      A.toNat / 2 ^ 56 = 0 → s.far h.ctx A.toNat = false → A.toNat % sz.bytes = 0 →
      s.storeHeld h l (.glob A.toNat) sz.bytes = false → s.drainHeld h (.glob A.toNat) sz.bytes = false → cellsWf s.mem.hbm = true →
      s.mem.l1Own (s0.req h0 l A.toNat) A.toNat needW = (.ok pa, pt, mem') →
      Done (.st g a b off m sz) ((h.lane l).rx b).toNat ∧ Done (.stv g a bv off m sz) ((h.lane l).rv bv).toNat)) ∧
  (∀ (g : Guard) (d a b : XReg) (off : BitVec 20) (m : MMod) (sz : MSize) (s : State) (h h0 : Group) (p : Path) (l pa pt : Nat)
    (mem' : MemSys),
    let A := (h.lane l).addrData a off
    let n := sz.bytes
    let s0 := s.opened h.gid l m
    let r := s0.req h0 l A.toNat
    let old := s.mem.read pa n
    s.runsOne h p g l → (m.ord.releases = true → s.fenceReady h.gid l = true) → s0.group? h.gid = some h0 →
    A.toNat / 2 ^ 56 = 0 → s.far h.ctx A.toNat = false → A.toNat % n = 0 → s.storeHeld h l (.glob A.toNat) n = false →
    s.drainHeld h (.glob A.toNat) n = false → cellsWf s.mem.hbm = true → (h.lane l).wait = none → mem'.poisoned pa n = false →
    (if scopeNear m.scope then s.mem.l1Own r A.toNat needRW = (.ok pa, pt, mem')
      else ∃ perm, MemSys.translateAt (fun m q => m.translate r.ptRoot r.die r.ctx r.privS A.toNat needRW q) MemSys.atomicPlace 3 s.mem
        r.pts = (.ok (pa, perm), pt, mem')) →
    ∀ x ∈ atomicWords g d a b off m sz (((h.lane l).rx b).toNat % 2 ^ (8 * n)) (((h.lane l).rx d).toNat % 2 ^ (8 * n)) old,
      ∃ t, exec x.1 s = .next t ∧ cellsWf t.mem.hbm = true ∧ SamePads s t ∧
        (∀ k, k < n → cellAt t.mem.hbm (pa + k) =
          match x.2 with | some v => BitVec.ofNat 8 (v / 256 ^ k) | none => cellAt s.mem.hbm (pa + k)) ∧
        (∀ c, c < pa ∨ pa + n ≤ c → cellAt t.mem.hbm c = cellAt s.mem.hbm c) ∧
        (t.lane h.gid l).rx d = (if d = 0 then 0 else BitVec.ofNat 64 old) ∧
        (∀ q, q ≠ d → (t.lane h.gid l).rx q = (h.lane l).rx q) ∧
        (∀ k j, ¬(k = h.gid ∧ j = l) → (s.lane k j).wait = none → SameRegs (s.lane k j) (t.lane k j)))

/-- The checks of an access, in the order of R207: the space, then the bound, then the alignment, whichever of load, store and atomic it
is; an unplaced scratchpad is unreachable. LD and ST of an undivided lane at U take that trap: at TVEC and at S, with the cause in
TCAUSE, the address in TVAL, the word in TEPC and its destination unwritten, and no byte of memory is changed (R191, R207, R252 to
R254). -/
def Obligations.AddressChecks : Prop :=
  (∀ (s : State) (h : Group) (l : Nat) (A : Word) (bs : List Byte) (pd : Pad) (i o : Nat) (rm : Bool) (f : Nat → Option Nat),
    let n := bs.length
    let Checked (ti : TrapInfo) : Prop := s.load h.gid l A n 1 = .trap ti ∧ s.store h.gid l A bs = .trap ti ∧
      s.rmw h.gid l A n rm f = .trap ti
    s.group? h.gid = some h →
    (A.toNat / 2 ^ 56 ≠ 0 → A.toNat / 2 ^ 56 ≠ 0xFC → A.toNat / 2 ^ 56 ≠ 0xFD → Checked ⟨4, 1, A, false⟩) ∧
    (h.padAt l A = some (i, o) → s.pad? h.cls i = some pd →
      (pd.size < o + n → Checked ⟨4, 2, A, false⟩) ∧ (o + n ≤ pd.size → A.toNat % n ≠ 0 → Checked ⟨2, 0, A, false⟩)) ∧
    (A.toNat / 2 ^ 56 = 0 → A.toNat % n ≠ 0 → Checked ⟨2, 0, A, false⟩) ∧
    (h.padAt l A = some (i, o) → s.pad? h.cls i = none → Checked ⟨5, 0, A, false⟩)) ∧
  (∀ (g : Guard) (d a b : XReg) (off : BitVec 20) (sx : Bool) (m : MMod) (sz : MSize) (s : State) (h : Group) (p : Path) (l : Nat)
    (w : Instr) (ti : TrapInfo),
    s.single h p l → guardHolds g (h.lane l) = true → (h.lane l).privS = false → m.ord.releases = false →
    (w = .ld g d a b off sx m sz ∧ s.load h.gid l ((h.lane l).addrIndexed a b off) sz.bytes 1 = .trap ti ∨
     w = .st g a b off m sz ∧ s.store h.gid l ((h.lane l).addrData a off) (toBytes sz.bytes ((h.lane l).rx b).toNat) = .trap ti) →
    ∃ t, exec w s = .next t ∧ TrapTaken s t h l p.pc ti ∧ t.mem = s.mem ∧ SamePads s t ∧ ∀ n i, ¬(n = h.gid ∧ i = l) → SameRegs (s.lane n i) (t.lane n i))

/-- Hints never trap and change no byte of memory and no register but PTS, which the table reads may raise (R416); after INVAL of a readable line the issuing pipeline's L1 holds
no copy of it (R214). -/
def Obligations.CacheHints : Prop :=
  (∀ (g : Guard) (a b : XReg) (off : BitVec 20) (seg : Bool) (hint : Hint) (scope : Scope) (s : State) (h : Group) (p : Path)
    (l : Nat), s.runsOne h p g l →
    let Quiet (i : Instr) : Prop := ∃ t h', exec i s = .next t ∧ t.mem.hbm = s.mem.hbm ∧ t.classes = s.classes ∧
      OtherLanes s t h.gid l ∧ t.lane h.gid l = { h.lane l with pts := (t.lane h.gid l).pts } ∧
      t.group? h.gid = some h' ∧ h.stepsTo p h'
    Quiet (.pref g a b off seg hint scope) ∧ Quiet (.clean g a b off seg hint scope) ∧ Quiet (.inval g a b off seg hint scope)) ∧
  (∀ (g : Guard) (a b : XReg) (off : BitVec 20) (seg : Bool) (hint : Hint) (scope : Scope) (s : State) (h : Group) (p : Path)
    (l pa perm pt : Nat) (mem' : MemSys),
    let A := (h.lane l).addrIndexed a b off
    let r := s.req h l A.toNat
    s.runsOne h p g l → A.toNat / 2 ^ 56 = 0 → s.far h.ctx A.toNat = false →
    s.mem.translate r.ptRoot r.die r.ctx r.privS A.toNat needR r.pts = (.ok (pa, perm), pt, mem') →
    ∃ t, exec (.inval g a b off seg hint scope) s = .next t ∧ t.mem.l1Copy r A.toNat = none)

/-- FENCE holds until the lane's engine commands are done; MON arms a watch and WAITM returns at once on one that has
fired; CTEST and CWAIT read a completion word (R215 to R217, R225). What a release waits for is log 11. -/
def Obligations.FencesWatchesAndCompletionWords : Prop :=
  (∀ (g : Guard) (scope : Scope) (s : State) (h : Group) (p : Path) (l : Nat), s.runsOne h p g l →
    (s.fenceReady h.gid l = true → ∃ t h', exec (.fence g scope) s = .next t ∧ t.group? h.gid = some h' ∧ h.stepsTo p h' ∧
      h'.lane l = { h.lane l with pts := max (h.lane l).pts (max (h.lane l).cmdPts h.acqPts), fenceOwed := none } ∧
      OtherLanes s t h.gid l ∧ SamePads s t ∧ t = { s with groups := t.groups, classes := t.classes }) ∧
    (s.fenceReady h.gid l = false → exec (.fence g scope) s = .next s)) ∧
  (∀ (g : Guard) (d a b : XReg) (off : BitVec 20) (seg : Bool) (hint : Hint) (scope : Scope) (s : State) (h : Group) (p : Path)
    (l : Nat) (pd : Pad),
    let A := (h.lane l).addrIndexed a b off
    let o := A.toNat % 2 ^ 56
    s.runsOne h p g l →
    (A.toNat / 2 ^ 56 = 0xFC → s.pad? h.cls (h.member l) = some pd → o < pd.size →
      ∃ t, exec (.mon g a b off seg hint scope) s = .next t ∧ t.mem = s.mem ∧ t.classes = s.classes ∧ OtherLanes s t h.gid l ∧
        t.lane h.gid l = { h.lane l with watch := some ⟨.pad h.cls (h.member l) (o / 128), none⟩ }) ∧
    (p.lanes = [l] → h.paths = [p] → (∀ x ∈ s.groups, x.noStack) →
      (h.lane l).watch = some ⟨.pad h.cls (h.member l) (o / 128), some .store⟩ →
      ∃ t, exec (.waitm g d a) s = .next t ∧ t.mem = s.mem ∧ (t.lane h.gid l).watch = none ∧ (t.lane h.gid l).wait = none ∧
        (d ≠ 0 → (t.lane h.gid l).rx d = 0))) ∧
  (∀ (g : Guard) (d a b : XReg) (s : State) (h : Group) (p : Path) (l : Nat) (pd : Pad),
    let A := (h.lane l).rx a
    let o := A.toNat % 2 ^ 56
    let v := BitVec.ofNat 64 (fromBytes (cellsRead pd.bytes o 8))
    s.runsOne h p g l → A.toNat / 2 ^ 56 = 0xFC → A.toNat % 8 = 0 → s.pad? h.cls (h.member l) = some pd → o + 8 ≤ pd.size →
    s.loadHeld (.pad h.cls (h.member l) o) 8 = false → s.drainHeld h (.pad h.cls (h.member l) o) 8 = false →
    (∃ t, exec (.ctest g d a) s = .next t ∧ (d ≠ 0 → (t.lane h.gid l).rx d = v) ∧ OtherLanes s t h.gid l ∧ SamePads s t) ∧
    (p.lanes = [l] → h.paths = [p] → p.waiting = false → (h.lane l).wait = none → v &&& (h.lane l).rx b = (h.lane l).rx b →
      ∃ t q, exec (.cwait g a b) s = .next t ∧ (t.group? h.gid).map (·.paths) = some [q] ∧ q.pc = p.pc + 8 ∧ q.waiting = false) ∧
    (p.lanes = [l] → h.paths = [p] → p.waiting = false → (h.lane l).wait = none → v = 0 →
      ∃ t q, exec (.cwaitZero g a) s = .next t ∧ (t.group? h.gid).map (·.paths) = some [q] ∧ q.pc = p.pc + 8 ∧ q.waiting = false) ∧
    (p.lanes = [l] → h.paths = [p] → p.waiting = false → p.part = [] → v ≠ 0 →
      ∃ t q, exec (.cwaitZero g a) s = .next t ∧ (t.group? h.gid).map (·.paths) = some [q] ∧ q.pc = p.pc ∧ q.waiting = true ∧
        (t.lane h.gid l).wait = some ⟨.cwait A 0 true, 0, none, s.clk, false⟩))

/-- The control words of an undivided group whose active lanes name one target take it there together; BRD divides a path of
one quad whose guards differ, with a join pending for both parts (R121, R124 to R126, R314). -/
def Obligations.BranchesAndDivisions : Prop :=
  (∀ (g : Guard) (disp : BitVec 24) (join : BitVec 14) (r a : XReg) (s : State) (h : Group) (p : Path) (w : Word),
    s.undivided h p → (∀ i ∈ p.lanes, guardHolds g (h.lane i) = true) →
    let link (x : Lane) : Lane := x.wx r (p.pc + 8)
    let Goes (i : Instr) (pc : Word) (f : Lane → Lane) : Prop := ∃ t, exec i s = .next t ∧ GoesTo t h p pc ∧
      t = { s with groups := t.groups } ∧
      ∀ n l, t.lane n l = if n = h.gid ∧ l ∈ p.lanes then f (s.lane n l) else s.lane n l
    ((p.pc + 8 * disp.signExtend 64).toNat / 2 ^ 56 = 0 →
      Goes (.br g disp) (p.pc + 8 * disp.signExtend 64) id ∧ Goes (.brd g disp join) (p.pc + 8 * disp.signExtend 64) id ∧
      Goes (.call g r disp) (p.pc + 8 * disp.signExtend 64) link) ∧
    ((∀ i ∈ p.lanes, (h.lane i).rx a = w) → w.toNat / 2 ^ 56 = 0 → w.toNat % 8 = 0 →
      Goes (.ret g a) w id ∧ Goes (.jind g a join) w id ∧ Goes (.callind g r a join) w link) ∧
    ((∀ i ∈ p.lanes, (h.lane i).rx a + 8 * disp.signExtend 64 = w) → w.toNat / 2 ^ 56 = 0 → w.toNat % 8 = 0 →
      Goes (.jmp g a disp) w id)) ∧
  (∀ (g : Guard) (disp : BitVec 24) (join : BitVec 14) (s : State) (h : Group) (p : Path),
    let tgt := p.pc + 8 * disp.signExtend 64
    let yes := p.lanes.filter (fun l => guardHolds g (h.lane l))
    let no := p.lanes.filter (fun l => !guardHolds g (h.lane l))
    s.undivided h p → p.alone = false → p.joins = [] → h.joins = [] → h.qsets = [⟨p.qset, [0], 0⟩] → h.size ≤ 4 →
    yes ≠ [] → no ≠ [] → tgt.toNat / 2 ^ 56 = 0 → disp ≠ 1 → join ≠ 0 →
    ∃ t h' j a b, exec (.brd g disp join) s = .next t ∧ t.group? h.gid = some h' ∧
      h'.joins = [⟨j, p.pc + 8 * join.zeroExtend 64, p.lanes⟩] ∧ h'.paths.length = 2 ∧ a ∈ h'.paths ∧ b ∈ h'.paths ∧
      a.lanes = yes ∧ a.pc = tgt ∧ a.joins = [j] ∧ b.lanes = no ∧ b.pc = p.pc + 8 ∧ b.joins = [j] ∧ h'.lanes = h.lanes)

/-- YIELD, JOIN of an undivided group, and the steps that reunite and rotate paths (R122, R127, R128, R168, R317): a pending join whose
lanes have all arrived goes on as one path at its address, and a path halted at a form-wide word goes on once it may. -/
def Obligations.PathsYieldAndReunite : Prop :=
  ∀ (g : Guard) (s : State) (h : Group) (p : Path),
    (s.undivided h p → ∃ t, exec (.yield g) s = .next t ∧ GoesTo t h p (p.pc + 8) ∧ SameLanes s t ∧ t = { s with groups := t.groups }) ∧
    (s.undivided h p → p.joins = [] →
      ∃ t, exec .join s = .next t ∧ GoesTo t h p (p.pc + 8) ∧ SameLanes s t ∧ t = { s with groups := t.groups }) ∧
    (∀ j : Join, s.group? h.gid = some h → s.arg 0 = h.gid → s.arg 1 = j.jid → h.noStack → h.owedEntries = [] →
      h.join? j.jid = some j → j.mask = h.liveLanes → j.mask ≠ [] → (∀ l ∈ j.mask, ∃ q ∈ h.paths, l ∈ q.lanes) →
      (∀ q ∈ h.paths, q.joins = [j.jid] ∧ q.pc = j.addr ∧ q.lanes ≠ [] ∧ ∀ l ∈ q.lanes, l ∈ j.mask) →
      ∃ t q, exec .joinComplete s = .next t ∧ (t.group? h.gid).map (·.paths) = some [q] ∧ q.lanes = j.mask ∧ q.pc = j.addr ∧
        q.joins = []) ∧
    (∀ (q : Path) (rest : List Path) (x : Path) (more : List Path), s.group? h.gid = some h → s.arg 0 = h.gid →
      h.stackOf (s.arg 1) = q :: rest → q.pushedAt + 3584 ≤ s.clk →
      sortBy (fun y : Path => y.since) (h.paths.filter (fun y => y.qset == s.arg 1 && h.live y &&
        y.quads.any (fun z => q.quads.contains z))) = x :: more →
      exec .stackRotation s = .next (s.exchangeOr s h.gid x.pid)) ∧
    (s.group? h.gid = some h → s.arg 0 = h.gid → s.arg 1 = p.pid → h.paths = [p] → p.lanes = h.liveLanes → p.lanes ≠ [] →
      p.halted = some .mwait → p.stacked = none → p.waiting = false → h.frozen = false → h.mmas = [] → h.owedEntries = [] →
      ∃ t, exec .convergentRelease s = .next t ∧ GoesTo t h p (p.pc + 8) ∧ t = { s with groups := t.groups })

/-- EXIT by one of several lanes injects its n records in its own cluster and ends the lane alone; by the last lane it ends the
group (R130, R131, R132, R239). -/
def Obligations.ExitEndsThreads : Prop :=
  ∀ (g : Guard) (a : XReg) (n : Fin 8) (grp : Bool) (s s1 : State) (us : List Nat) (h : Group) (p : Path) (l : Nat),
    s.runsOne h p g l → h.owedEntries = [] →
    (n.val ≠ 0 → ((h.lane l).rx a).toNat % 64 = 0 ∧ s.load16s h.gid l ((h.lane l).rx a) 1 (4 * n.val) = .ok us s1) →
    s.eng.copies.any (fun c => c.gid == h.gid && c.lane == l && !c.released) = false →
    s.link.sends.any (fun c => c.gid == h.gid && c.lane == l) = false →
    ((∃ i ∈ h.liveLanes, i ≠ l) → ∃ t, exec (.exit g a n grp) s = .next t ∧ (t.lane h.gid l).exited = true ∧
      (t.group? h.gid).isSome = true ∧ t.eng.flights.length = s.eng.flights.length + n.val ∧ OtherLanes s t h.gid l) ∧
    (h.liveLanes = [l] → ∃ t, exec (.exit g a n grp) s = .next t ∧ t.group? h.gid = none)

/-- A dual word: both slots read the lane as it was before the word, then slot 0 writes and slot 1 writes; a short BR in slot 1 takes
the path to its target, whatever slot 0 does to registers. One slot may load from or store to a scratchpad of the lane's class, with
the effect of the full LD or ST at .pl, while the other acts on the registers as they were (R83, R84, R94). -/
def Obligations.DualWordReadsBeforeWrites : Prop :=
  ∀ (s0 s1 : Slot) (s : State) (h : Group) (p : Path),
    s.undivided h p → (slotTarget p.pc s1).toNat / 2 ^ 56 = 0 →
    (slotLd s0.op = none → slotSt s0.op = none → slotLd s1.op = none → slotSt s1.op = none → ∃ t h', exec (.dualWord s0 s1) s = .next t ∧ GoesTo t h p (slotTarget p.pc s1) ∧ t.group? h.gid = some h' ∧
      t = { s with groups := t.groups, ctxs := t.ctxs } ∧ (∀ k, k ≠ h.gid → t.group? k = s.group? k) ∧
      (∀ l, l ∈ p.lanes → h'.lane l = ((slotReg s1 (h.lane l)).1 ((slotReg s0 (h.lane l)).1 (h.lane l))).setFlags
        ((slotReg s0 (h.lane l)).2.or (slotReg s1 (h.lane l)).2))) ∧
    (∀ (l i o : Nat) (pd : Pad) (acc reg : Slot), p.lanes = [l] → (s0 = acc ∧ s1 = reg ∨ s0 = reg ∧ s1 = acc) →
      slotLd reg.op = none → slotSt reg.op = none →
      let x := h.lane l
      let A := x.rx acc.a + SOpnd.x x acc.s
      let ends (y : Lane) : Lane := ((slotReg reg x).1 y).setFlags ((slotReg s0 x).2.or (slotReg s1 x).2)
      (∀ n sx, slotLd acc.op = some (n, sx) → s.placed h l A n i o pd →
        ∃ t, exec (.dualWord s0 s1) s = .next t ∧ GoesTo t h p (slotTarget p.pc s1) ∧ t.mem = s.mem ∧ SamePads s t ∧
          OtherLanes s t h.gid l ∧ t.lane h.gid l =
            ends (({ x with pts := max x.pts (pd.tsOf (o / 128)).wts } : Lane).wx acc.d
              (loadValue sx n (fromBytes (cellsRead pd.bytes o n))))) ∧
      (∀ n, slotSt acc.op = some n → s.placed h l A n i o pd → x.wait = none →
        ∃ t pd', exec (.dualWord s0 s1) s = .next t ∧ GoesTo t h p (slotTarget p.pc s1) ∧ t.mem = s.mem ∧
          t.pad? h.cls i = some pd' ∧ pd'.bytes = cellsWrite pd.bytes o (toBytes n (x.rx acc.d).toNat) ∧
          (∀ k j, ¬(k = h.cls ∧ j = i) → (t.pad? k j).map (·.bytes) = (s.pad? k j).map (·.bytes)) ∧
          SameRegs (ends x) (t.lane h.gid l)))

/-- Taking a trap at U splits the lane onto a path of its own at TVEC, at S, with TCAUSE, TVAL and TEPC written and nothing else
(R252 to R254); a trap at S is a violation: the context's fault fields name it and the lane is frozen (R259). -/
def Obligations.TrapEntryAndViolations : Prop :=
  (∀ (s : State) (h : Group) (p : Path) (l : Nat) (pc : Word) (ti : TrapInfo),
    s.group? h.gid = some h → h.whole p → p.pid ≠ s.nextId → l ∈ p.lanes → l < h.size →
    (p.alone = true ∨ h.size = 1 → p.lanes = [l]) → (h.lane l).privS = false →
    TrapTaken s (s.takeTrap h.gid l pc ti) h l pc ti ∧
    (∀ i, i ≠ l → SameRegs (h.lane i) ((s.takeTrap h.gid l pc ti).lane h.gid i)) ∧
    (∀ n, n ≠ h.gid → (s.takeTrap h.gid l pc ti).group? n = s.group? n) ∧
    (s.takeTrap h.gid l pc ti).mem = s.mem ∧ (s.takeTrap h.gid l pc ti).classes = s.classes ∧
    (p.alone = false → 1 < h.size → p.lanes ≠ [l] → ∃ h' q, (s.takeTrap h.gid l pc ti).group? h.gid = some h' ∧ q ∈ h'.paths ∧
      q.pc = p.pc ∧ q.lanes = p.lanes.filter (· ≠ l) ∧ (h'.lane l).reason = 3)) ∧
  (∀ (s : State) (h : Group) (p : Path) (l : Nat) (pc : Word) (ti : TrapInfo) (c : Ctx),
    s.group? h.gid = some h → h.whole p → p.pid ≠ s.nextId → l ∈ p.lanes → l < h.size →
    (p.alone = true ∨ h.size = 1 → p.lanes = [l]) → (h.lane l).privS = true → s.ctx? h.ctx = some c →
    c.st = .running → c.viol = false →
    ∃ c' h' q, (s.takeTrap h.gid l pc ti).ctx? h.ctx = some c' ∧ c'.viol = true ∧ c'.faultCause = ti.cause ∧
      c'.faultSub = ti.sub ∧ c'.faultMaster = 0 ∧ c'.faultAddr = ti.tval ∧ c'.faultSite = siteWord h.site (h.pipeOf l) ∧
      (s.takeTrap h.gid l pc ti).group? h.gid = some h' ∧ h'.pathOf? l = some q ∧ q.frozen = true ∧ q.lanes = [l] ∧
      SameRegs (h.lane l) (h'.lane l))

/-- TRAP and SCALL at U trap with their immediate and a TEPC of the next word; ERET, WFI and CLFLAGS at U raise PRIVILEGE with
the word; ERET at S goes on at TEPC at the level TEPC[1:0] names (R250, R252, R261, R262). -/
def Obligations.TrapWordsAndEret : Prop :=
  (∀ (g : Guard) (code : BitVec 16) (d a : XReg) (s : State) (h : Group) (p : Path) (l : Nat),
    s.single h p l → (h.lane l).privS = false →
    (guardHolds g (h.lane l) = true →
      (∃ t, exec (.trap g code) s = .next t ∧ TrapTaken s t h l p.pc ⟨9, 0, code.zeroExtend 64, true⟩) ∧
      (∃ t, exec (.scall g code) s = .next t ∧ TrapTaken s t h l p.pc ⟨0x0A, 0, code.zeroExtend 64, true⟩)) ∧
    (∃ t, exec .eret s = .next t ∧ TrapTaken s t h l p.pc ⟨8, 0, (encode .eret).getD 0, false⟩) ∧
    (∃ t, exec (.wfi g d a) s = .next t ∧ TrapTaken s t h l p.pc ⟨8, 0, (encode (.wfi g d a)).getD 0, false⟩) ∧
    (∃ t, exec (.mfc g d 0x0D) s = .next t ∧ TrapTaken s t h l p.pc ⟨8, 0, (encode (.mfc g d 0x0D)).getD 0, false⟩) ∧
    (∃ t, exec (.mtc g a 0x0D) s = .next t ∧ TrapTaken s t h l p.pc ⟨8, 0, (encode (.mtc g a 0x0D)).getD 0, false⟩)) ∧
  (∀ (s : State) (h : Group) (p : Path) (l : Nat), s.single h p l → (h.lane l).privS = true →
    (h.lane l).tepc.toNat % 4 ≤ 1 → ((h.lane l).tepc &&& ~~~(7#64)).toNat / 2 ^ 56 = 0 →
    ∃ t, exec .eret s = .next t ∧ GoesTo t h p ((h.lane l).tepc &&& ~~~(7#64)) ∧
      (t.lane h.gid l).privS = decide ((h.lane l).tepc.toNat % 4 = 1) ∧ (t.lane h.gid l).x = (h.lane l).x ∧
      (t.lane h.gid l).sx = (h.lane l).sx ∧ (t.lane h.gid l).tepc = (h.lane l).tepc ∧ t.mem = s.mem ∧ OtherLanes s t h.gid l)

/-- The system words at S and the instruction cache words (R258, R261, R264, R284, R286): SCALL of a code the firmware does not
know writes all ones in x1, of a known one waits for the firmware's step (log 17); WFI waits; IINV drops the instruction cache lines of its range's mapped pages in
its scope and at .die or wider waits for acknowledgements, whose delay is free (R327, log 61); ISYNC empties the fetch buffer. -/
def Obligations.SystemWords : Prop :=
  ∀ (g : Guard) (code : BitVec 16) (d a b : XReg) (scope : Scope) (s : State) (h : Group) (p : Path) (l : Nat),
    s.single h p l →
    (guardHolds g (h.lane l) = true → (h.lane l).privS = true → (code.toNat = 0 ∨ 4 < code.toNat) → (h.lane l).wait = none →
      ∃ t, exec (.scall g code) s = .next t ∧ GoesTo t h p (p.pc + 8) ∧ (t.lane h.gid l).rx 1 = -1) ∧
    (guardHolds g (h.lane l) = true → (h.lane l).privS = true → 1 ≤ code.toNat → code.toNat ≤ 4 →
      ∃ t, exec (.scall g code) s = .next t ∧
        t.lane h.gid l = { h.lane l with wait := some ⟨.scall code.toNat, 1, none, s.clk, false⟩ } ∧
        ∃ q, (t.group? h.gid).map (·.paths) = some [q] ∧ q.pc = p.pc ∧ q.waiting = true) ∧
    (guardHolds g (h.lane l) = true → (h.lane l).privS = true → ∃ t, exec (.wfi g d a) s = .next t ∧
      t.lane h.gid l = { h.lane l with wait := some ⟨.wfi, d, deadline s.clk ((h.lane l).rx a), s.clk, false⟩ } ∧
      ∃ q, (t.group? h.gid).map (·.paths) = some [q] ∧ q.pc = p.pc ∧ q.waiting = true) ∧
    (guardHolds g (h.lane l) = true → ((h.lane l).rx a).toNat / 2 ^ 56 = 0 → ((h.lane l).rx b).toNat / 2 ^ 32 = 0 →
      let Dropped (t : State) : Prop := t.mem.hbm = s.mem.hbm ∧
        ∀ i ∈ t.mem.icache, i.ctx = h.ctx → inLines ((h.lane l).rx a).toNat ((h.lane l).rx b).toNat i.vline = true →
          (s.ctx? h.ctx).any (fun c =>
            (s.mem.walk c.desc.ptRoot h.site.die h.ctx (128 * i.vline) (h.lane l).pts).1.isSome) = true →
          h.within l scope i.die i.cluster i.pipe = false
      (scope.wide = false → ∃ t, exec (.iinv g a b scope) s = .next t ∧ GoesTo t h p (p.pc + 8) ∧ SameLanes s t ∧ Dropped t) ∧
      (scope.wide = true → ∃ t, exec (.iinv g a b scope) s = .next t ∧ Parked t h p ∧ Dropped t ∧ t.freeN = s.freeN + 1 ∧
        t.lane h.gid l = { h.lane l with
          wait := some ⟨.ack 0, 0, some (s.clk + 1 + Config.freeValue s.freeN % 4096), s.clk, false⟩ })) ∧
    (∃ t q, exec .isync s = .next t ∧ (t.group? h.gid).map (·.paths) = some [q] ∧ q.pc = p.pc + 8 ∧ q.fbuf = [] ∧ SameLanes s t)

/-- The firmware's completions of SCALL at S (R258, R259, R273): a tag that names no fault record gives status 1; ENGINE_RESUME
and ENGINE_ABORT acknowledge the record with status 0, the latter with the record's fault as a violation; CTX_FAULT is a
violation of cause 0 at x1; CTX_KILL kills the context. -/
def Obligations.FirmwareCalls : Prop :=
  ∀ (s : State) (g : Group) (l : Nat) (c : Ctx), g.gid = s.arg 0 → l = s.arg 1 → s.group? g.gid = some g → s.noStacks →
    l < g.size → s.ctx? g.ctx = some c → c.st = .running → c.viol = false →
    (∀ i : Instr, (i = .engineResume ∧ s.calling g.gid l 1 = some g ∨ i = .engineAbort ∧ s.calling g.gid l 2 = some g) →
      s.fault? g.ctx ((g.lane l).rx 1) = none →
      ∃ t, exec i s = .next t ∧ t.lane g.gid l = { (g.lane l).wx 1 1 with wait := none }) ∧
    (∀ e, s.calling g.gid l 1 = some g → s.fault? g.ctx ((g.lane l).rx 1) = some e →
      ∃ t c', exec .engineResume s = .next t ∧ (t.lane g.gid l).rx 1 = 0 ∧ (t.lane g.gid l).wait = none ∧
        t.ctx? g.ctx = some c' ∧ (∀ x ∈ c'.efs, x.tag ≠ e.tag) ∧ c'.viol = false) ∧
    (∀ e, s.calling g.gid l 2 = some g → s.fault? g.ctx ((g.lane l).rx 1) = some e →
      ∃ t c', exec .engineAbort s = .next t ∧ (t.lane g.gid l).rx 1 = 0 ∧ t.ctx? g.ctx = some c' ∧
        (∀ x ∈ c'.efs, x.tag ≠ e.tag) ∧ c'.viol = true ∧ c'.faultCause = e.cause ∧ c'.faultSub = e.sub ∧
        c'.faultMaster = e.kind ∧ c'.faultSite = e.site) ∧
    (s.calling g.gid l 3 = some g → ∃ t c', exec .ctxFault s = .next t ∧ t.lane g.gid l = { (g.lane l).wx 1 0 with wait := none } ∧
      t.ctx? g.ctx = some c' ∧ c'.viol = true ∧ c'.faultCause = 0 ∧ c'.faultAddr = (g.lane l).rx 1) ∧
    (s.calling g.gid l 4 = some g → ∃ t c', exec .ctxKill s = .next t ∧ t.ctx? g.ctx = some c' ∧ c'.st = .killed ∧
      ∀ x ∈ t.groups, x.ctx ≠ g.ctx)

/-- Lanes parked in WFI and WAITM return with their cause (R217, R264): a timeout 2, a fired watch 0 or 1, no cause 4. -/
def Obligations.ParkedLanesReturn : Prop :=
  ∀ (s : State) (h : Group) (p : Path) (l : Nat) (w : Wait) (x : Watch),
    s.group? h.gid = some h → s.noStacks → h.paths = [p] → p.lanes = [l] → p.waiting = true → l < h.size →
    (h.lane l).wait = some w → w.intr = false → w.d ≠ 0 → h.gid = s.arg 0 →
    let Returns (i : Instr) (code : Word) : Prop := ∃ t q, exec i s = .next t ∧ (t.lane h.gid l).rx w.d = code ∧
      (t.lane h.gid l).wait = none ∧ (t.group? h.gid).map (·.paths) = some [q] ∧ q.pc = p.pc + 8 ∧ q.waiting = false ∧
      t.mem = s.mem
    (w.kind = .wfi → l = s.arg 1 → (∃ n, w.until_ = some n ∧ n ≤ s.clk) → Returns .wfiTimeout 2) ∧
    (w.kind = .wfi → p.pid = s.arg 1 → w.until_ = none → Returns .spuriousReturn 4) ∧
    (w.kind = .waitm → l = s.arg 1 → (h.lane l).watch = some x → x.fired = some .store → Returns .watchFire 0) ∧
    (w.kind = .waitm → l = s.arg 1 → (h.lane l).watch = some x → x.fired = some .lost → Returns .watchFire 1) ∧
    (w.kind = .waitm → l = s.arg 1 → (h.lane l).watch = some x → x.fired = none → (∃ n, w.until_ = some n ∧ n ≤ s.clk) →
      Returns .waitmTimeout 2)

/-- VOTE, BALLOT, ELECT, MATCH and SHFL over the named lanes that are present (R155, R156). -/
def Obligations.VotesMatchesAndShuffles : Prop :=
  (∀ (g : Guard) (d a : KReg) (xd xa c : XReg) (t : Ty),
    let pres (act : List Nat) (M : Nat) : List Nat := act.filter (inMask M)
    CrossActs (.voteAny g d a c) g c (fun _ _ _ => false) (fun h act M _ y =>
      y.wk d ((pres act M).any (fun i => (h.lane i).rk a))) ∧
    CrossActs (.voteAll g d a c) g c (fun _ _ _ => false) (fun h act M _ y =>
      y.wk d ((pres act M).all (fun i => (h.lane i).rk a))) ∧
    CrossActs (.voteUni g d a c) g c (fun _ _ _ => false) (fun h act M _ y =>
      y.wk d ((pres act M).all (fun i => (h.lane i).rk a) || (pres act M).all (fun i => !(h.lane i).rk a))) ∧
    CrossActs (.ballot g xd a c) g c (fun _ _ _ => false) (fun h act M _ y =>
      y.wx xd (BitVec.ofNat 64 (((pres act M).filter (fun i => (h.lane i).rk a)).map (fun i => 2 ^ i)).sum)) ∧
    CrossActs (.elect g d c) g c (fun _ _ _ => false) (fun _ act M l y => y.wk d ((pres act M).head? == some l)) ∧
    CrossActs (.matchLanes g xd xa c t) g c (fun _ _ _ => false) (fun h act M l y =>
      y.wx xd (BitVec.ofNat 64 (((pres act M).filter (fun i => ((h.lane i).rx xa).toNat % 2 ^ t.bits ==
        ((h.lane l).rx xa).toNat % 2 ^ t.bits)).map (fun i => 2 ^ i)).sum))) ∧
  (∀ (g : Guard) (d a : Fin 64) (b c : XReg) (t : Ty) (mode : ShflMode) (id v : Bool),
    let from_ (h : Group) (act : List Nat) (M l : Nat) : Option (Option Nat) :=
      let n : Int := ((h.lane l).rx b).toNat % 2 ^ 32
      let z : Int := match mode with
        | .idx => n
        | .up => l - n
        | .down => l + n
        | .xor => (Nat.xor l (((h.lane l).rx b).toNat % 2 ^ 32) : Nat)
      if z < 0 ∨ (h.size : Int) ≤ z then some (some l)
      else if inMask M z.toNat && act.contains z.toNat then some (some z.toNat) else none
    let source (h : Group) (act : List Nat) (M l : Nat) : Option Nat := (from_ h act M l).getD (if id then some l else none)
    CrossActs (.shfl g d a b c t mode id v) g c (fun h act M => act.any (fun l => (from_ h act M l).isNone)) (fun h act M l y =>
      match source h act M l with
      | none => if v then y.wv (vOf d) 0 else y.wx d 0
      | some m => if v then y.wv (vOf d) ((h.lane m).rv (vOf a))
        else y.wx d (storeRes (opnd ((h.lane m).rx a) t.bits t.isSigned) t.bits t.isSigned false)))

/-- RED and SCAN (R157, R158): every executing lane takes the value of the operation over the named lanes in ascending order, in
a SCAN those up to itself or below it, with the identity for absent ones, and the flags of its value. -/
def Obligations.ReductionsAndScans : Prop :=
  ∀ (g : Guard) (d a b c : XReg) (t : Ty) (rm : Rm) (sat : Bool) (op : RedOp) (id excl : Bool),
    CrossActs (.red g d a b c t rm sat op id) g c (fun _ _ _ => false) (fun h act M l y =>
      ((redFn d a b t rm sat op id h act M).upd l y).setFlags ((redFn d a b t rm sat op id h act M).fl l)) ∧
    CrossActs (.scan g d a b c t rm sat op id excl) g c (fun _ _ _ => false) (fun h act M l y =>
      ((scanFn d a b t rm sat op id excl h act M).upd l y).setFlags ((scanFn d a b t rm sat op id excl h act M).fl l)) ∧
    (∀ (h : Group) (act : List Nat) (M l : Nat) (y : Lane), t ≠ .f32 → op = .add → (∀ n, n < h.size → inMask M n = true → n ∈ act) →
      (redFn d a b t rm sat op id h act M).upd l y = y.wx d (redStore t (redInt op t sat
        (((List.range h.size).filter (inMask M)).map (fun n => ((h.lane n).rx a).toNat % 2 ^ t.bits)))))

/-- EXCH (R159 to R162): the group waits for its partner, or has status 2 where the descriptor is bad; two groups that name each
other take each other's registers with status 0 and k[p] set, or keep to their own with k[p] clear where the partner's lane is absent,
and follow each other's accesses; a broken exchange has status 1 and k[p] clear. -/
def Obligations.Exchanges : Prop :=
  ∀ (g : Guard) (d a : Fin 64) (b : XReg) (kp : KReg) (st : XReg) (v : Bool) (s : State) (h k : Group) (p : Path) (l0 : Nat)
    (e f : Exch),
    -- what the present lanes of x hold after an exchange with y: their partner's register, their own where it is absent
    let Took (x y x' : Group) (e f : Exch) : Prop := ∀ l, l < x.size → l ∈ e.present →
      (e.s ≠ 0 → (x'.lane l).rx e.s = 0) ∧
      (e.v = false → e.d ≠ 0 → e.d ≠ e.s →
        (x'.lane l).rx e.d = if l ∈ f.present then (y.lane l).rx f.a else (x.lane l).rx e.a) ∧
      (e.v = true → (x'.lane l).rv (vOf e.d) = if l ∈ f.present then (y.lane l).rv (vOf f.a) else (x.lane l).rv (vOf e.a)) ∧
      (e.p ≠ 0 → (x'.lane l).rk e.p = decide (l ∈ f.present)) ∧ ∀ m ∈ f.present, (y.lane m).pts ≤ (x'.lane l).pts
    (s.undivided h p → h.exch = none → (h.active p g).head? = some l0 → st ≠ 0 →
      (s.badPartner h (partnerOf ((h.lane l0).rx b)) = false → ∃ t h', exec (.exch g d a b kp st v) s = .next t ∧
        t.group? h.gid = some h' ∧ h'.exch = some ⟨(h.lane l0).rx b, h.active p g, d, a, kp, st, v, s.clk⟩ ∧
        h'.lanes = h.lanes ∧ ∃ q, h'.paths = [q] ∧ q.pc = p.pc ∧ q.halted.isSome = true) ∧
      (s.badPartner h (partnerOf ((h.lane l0).rx b)) = true → ∃ t h', exec (.exch g d a b kp st v) s = .next t ∧
        GoesTo t h p (p.pc + 8) ∧ t.group? h.gid = some h' ∧ h'.exch = none ∧
        ∀ l ∈ h.active p g, (h'.lane l).rx st = 2 ∧ (kp ≠ 0 → (h'.lane l).rk kp = false))) ∧
    (s.arg 0 = h.gid → s.noStacks → s.exchPair? h.gid = some (h, e, k, f) → h.gid ≠ k.gid → s.group? k.gid = some k → h.size = k.size → e.v = f.v →
      h.calm → k.calm → (∀ l ∈ e.present, s.fenceReady h.gid l = true) → (∀ l ∈ f.present, s.fenceReady k.gid l = true) →
      ∃ t h' k', exec .exchComplete s = .next t ∧ t.group? h.gid = some h' ∧ t.group? k.gid = some k' ∧ h'.exch = none ∧
        k'.exch = none ∧ Took h k h' e f ∧ Took k h k' f e) ∧
    (s.arg 0 = h.gid → s.group? h.gid = some h → h.noStack → h.calm → h.exch = some e → s.exchBroken h e = true → e.s ≠ 0 →
      ∃ t h', exec .exchBreak s = .next t ∧ t.group? h.gid = some h' ∧ h'.exch = none ∧
        ∀ l ∈ e.present, l < h.size → (h'.lane l).rx e.s = 1 ∧ (e.p ≠ 0 → (h'.lane l).rk e.p = false))

/-- MZERO, MCLR and MMOV act on every slice of the form and clear an owed restart (R175, R176, R187); MPASS and MWAIT of an
undivided form with nothing to wait for (R184, R185, R186). -/
def Obligations.TileWords : Prop :=
  ∀ (d a : MReg) (mask : Fin 256) (s : State) (h k : Group) (p : Path), s.undivided h p →
    let clear (x : Group) : Group := { x with mrp := if x.mrp.toNat / 65536 % 2 = 1 then 0 else x.mrp }
    FormActs (.mzero d) s h p (fun x => { x with m := x.m.set d (Vector.replicate 64 0) }) clear ∧
    FormActs (.mclr mask) s h p (fun x => { x with m := Vector.ofFn (fun r : Fin 8 =>
      if inMask mask.val r.val then Vector.replicate 64 0 else x.m[r]) }) clear ∧
    FormActs (.mmov d a) s h p (fun x => { x with m := x.m.set d x.m[a] }) clear ∧
    (s.pairOf? h = none ∨ h.pass ≠ .held → FormActs .mpass s h p id id) ∧
    (s.pairOf? h = some k → h.pass = .held → FormActs .mpass s h p id (fun x => { x with pass := .inFlight })) ∧
    (h.mmas = [] → FormActs .mwait s h p id id) ∧
    (h.mmas = [] → s.drainsOf h.gid = 0 →
      FormActs .mwaitAll s h p (fun x => if x.exited then x else { x with pts := max x.pts h.acqPts }) id) ∧
    (h.mmas ≠ [] → ∃ t q, exec .mwait s = .next t ∧ (t.group? h.gid).map (·.paths) = some [q] ∧ q.pc = p.pc ∧
      q.halted = some .mwait)

/-- An MMA of an undivided form starts once its format block is read and its operands are legal, and each row step commits and is
counted, the last one clearing MRP; it completes with its flags, or stops for a pre-emption with the steps done in MRP, and the hall
pass moves to the partner (R170 to R174, R184, R187, R188). -/
def Obligations.MmaAndPass : Prop :=
  (∀ (d : MReg) (a b c : XReg) (kq : Fin 1024) (hint : Hint) (seg : Bool) (s s1 : State) (h h1 : Group) (p : Path) (us : List Nat),
    let x := h.lane h.reader
    let fa := x.rx c
    let oa := mmaOperand (x.rx a) (x.rx (XReg.succ a)) (us.getD 0 0)
    let ob := mmaOperand (x.rx b) (x.rx (XReg.succ b)) (us.getD 1 0)
    let s0 := s.modPath h.gid p.pid (fun q => { q with halted := some (.mma d a b c kq hint seg) })
    (s.undivided h p → s.holdsPass h = true → h.mmas.length < 4 → h.mmas.any (·.reading) = false → h.firstStep < 8 →
      fa.toNat % 32 = 0 → (fa.toNat / 2 ^ 56 = 0xFC ∨ fa.toNat / 2 ^ 56 = 0xFD) → s0.load16s h.gid h.reader fa 4 2 = .ok us s1 →
      s1.group? h.gid = some h1 → h1.mmas = h.mmas → h1.noStack →
      oa.bad (us.getD 0 0) = false → ob.bad (us.getD 1 0) = false → pairOk oa.fmt ob.fmt = true →
      mmaMisaligned (x.rx a) (x.rx (XReg.succ a)) (x.rx b) (x.rx (XReg.succ b)) oa ob = none →
      ∃ t h', exec (.mma d a b c kq hint seg) s = .next t ∧ t.group? h.gid = some h' ∧
        h'.mmas = h.mmas ++ [⟨d.val, oa, ob, 4 * (kq.val + 1), h.firstStep, s1.nextId, true, 0⟩]) ∧
    (∀ (m : Mma) (vs : List Nat), s.arg 0 = h.gid → s.group? h.gid = some h → h.reading? = some m → h.frozen = false →
      h.paths.any (·.frozen) = false → s.datapathBusy h m = false → s.drainsRun h.ctx = true →
      let sh := tileShape h.size
      let n := sh.2.1
      let rows := (List.range sh.1).filter (fun i => i % 8 == m.step)
      let la := rows.flatMap (fun i => (List.range m.k).map (fun kk => m.a.at_ i kk))
      let lb := (List.range m.k).flatMap (fun kk => (List.range n).map (fun j => m.b.at_ kk j))
      let lsa := rows.flatMap (fun i => (List.range (m.a.blocks m.k)).map (fun u => m.a.scaleAt i u))
      let lsb := (List.range (m.b.blocks m.k)).flatMap (fun u => (List.range n).map (fun j => m.b.scaleAt u j))
      let r : StepReads := ⟨rows, n, m.k, vs.take la.length, (vs.drop la.length).take lb.length,
        (vs.drop (la.length + lb.length)).take lsa.length, vs.drop (la.length + lb.length + lsa.length)⟩
      s.loadList h.gid h.reader (la ++ lb ++ lsa ++ lsb) = .ok vs s1 →
      s1.group? h.gid = some h1 → h1.size = h.size → h1.mmas = h.mmas → h1.noStack → h1.calm →
      ∃ t h', exec .mmaRowStep s = .next t ∧ t.group? h.gid = some h' ∧
        h'.mmas = h.mmas.map (fun y => if y.ord = m.ord then { y with
          step := y.step + 1, reading := decide (m.step ≠ 7), flags := Nat.lor y.flags (h1.commitStep m r).2.toNat } else y) ∧
        h'.mrp = (if m.step = 7 then 0 else h1.mrp) ∧
        (∀ u j, (hu : u < rows.length) → j < n → m.d < 8 →
          let pl := tilePlace h.size (rows[u]'hu) j
          pl.1 < h.size → (h'.lane pl.1).rm m.d pl.2 = BitVec.ofNat 32 (m.element r u j ((h1.lane pl.1).rm m.d pl.2).toNat).1) ∧
        (∀ l, l < h.size → ∀ q : Fin 8, q.val ≠ m.d → (h'.lane l).m[q] = (h1.lane l).m[q]) ∧
        (∀ q, m.step = 7 → h1.paths = [q] → q.halted.isSome = true → q.waiting = false → q.lanes ≠ [] → GoesTo t h1 q (q.pc + 8)))) ∧
  (∀ (s : State) (h k : Group) (m : Mma) (n : Nat), s.group? h.gid = some h → s.arg 0 = h.gid →
    let Flagged (h' : Group) : Prop := ∀ l ∈ h.liveLanes,
      (h'.lane l).fpflags = (h.lane l).fpflags ||| BitVec.ofNat 64 (Fl.ofNat m.flags).toNat
    (h.pass = .inFlight → h.mmas = [] → s.pairOf? h = some k → s.group? k.gid = some k → k.gid ≠ h.gid →
      ∃ t, exec .passArrival s = .next t ∧ t.group? h.gid = some { h with pass := .away } ∧
        t.group? k.gid = some { k with pass := .held } ∧ t = { s with groups := t.groups }) ∧
    (h.pass = .inFlight → h.mmas = [] → s.pairOf? h = none →
      ∃ t, exec .passArrival s = .next t ∧ t.group? h.gid = some { h with pass := .held } ∧ t = { s with groups := t.groups }) ∧
    (h.mmas.find? (fun x => !x.reading) = some m → ∃ t h', exec .mmaComplete s = .next t ∧ t.group? h.gid = some h' ∧
      h'.mrp = h.mrp ∧ h'.mmas = h.mmas.filter (fun x => x.ord != m.ord) ∧ Flagged h' ∧ t.mem = s.mem) ∧
    (h.reading? = some m → (s.ctx? h.ctx).bind (·.stopAt) = some n → n + 4800 ≤ s.clk →
      ∃ t h', exec .mmaPreemptStop s = .next t ∧ t.group? h.gid = some h' ∧ Flagged h' ∧
        h'.mrp = BitVec.ofNat 32 (m.step % 65536 + 65536) ∧ h'.mmas = h.mmas.filter (fun x => x.ord != m.ord)))

/-- Drains (R178 to R182, R186): MDRAIN and MDRAINR of an undivided form, with no MMA reading for the register and fewer than four
drains, record a drain of the elements of every slice and go on; each element is written in order, and after the last the wake
record of an MDRAINR is posted. -/
def Obligations.DrainsRun : Prop :=
  ∀ (d a : XReg) (b : MReg) (c : XReg) (t : Ty) (rm : Rm) (scope : Scope) (clr : Bool) (s s1 : State) (h h1 : Group) (p : Path)
    (us : List Nat) (dr : Drain) (e : DrainElem) (i : Nat) (pd : Pad),
    let x := h.lane h.reader
    let str := x.rx (XReg.succ a)
    let halt (q : Path) : Path := { q with halted := some (.mdrainr d a b c t rm clr) }
    let Cleared (u : State) : Prop := clr = true → ∀ l, l < h.size → (u.lane h.gid l).block b.val = Vector.replicate 64 0
    (s.undivided h p → s.drainsOf h.gid < 4 → h.mmas.any (fun m => m.reading && m.d == b.val) = false →
      drainMisaligned (x.rx a) str (t.bits / 8) = none →
      ((x.rx a).toNat / 2 ^ 56 = 0 ∨ (x.rx a).toNat / 2 ^ 56 = 0xFC ∨ (x.rx a).toNat / 2 ^ 56 = 0xFD) →
      ∃ u n, exec (.mdrain a b t rm scope clr) s = .next u ∧ GoesTo u h p (p.pc + 8) ∧ u.eng.drains = s.eng.drains ++ [n] ∧
        n.gid = h.gid ∧ n.remote = false ∧ u.mem = s.mem ∧ Cleared u ∧ n.elems = (List.range h.size).flatMap (fun l =>
          (h.drainLane b.val l ⟨t, rm, x.rx a, bitsAt str 0 32, bitsAt str 32 32⟩ (drainLoc h)).1)) ∧
    (s.undivided h p → s.drainsOf h.gid < 4 → h.mmas.any (fun m => m.reading && m.d == b.val) = false →
      drainMisaligned (BitVec.ofNat 64 (bitsAt (x.rx a) 0 48)) str (t.bits / 8) = none →
      (x.rx d).toNat % 64 = 0 → (s.modPath h.gid p.pid halt).load16s h.gid h.reader (x.rx d) 4 4 = .ok us s1 →
      s1.group? h.gid = some h1 → h1.paths = [halt p] → h1.owedEntries = [] → h1.size = h.size →
      ∃ u n, exec (.mdrainr d a b c t rm clr) s = .next u ∧ GoesTo u h p (p.pc + 8) ∧ u.eng.drains = s1.eng.drains ++ [n] ∧
        n.gid = h.gid ∧ n.remote = true ∧ Cleared u) ∧
    (s.arg 0 = dr.did → s.drain? dr.did = some dr → s.drainsRun dr.ctx = true → dr.held = 0 → s.drainCut dr = false →
      dr.elems.findIdx? (fun y => !y.written) = some i → dr.elems[i]? = some e → s.ownedFor 0 e.at_ e.bytes.length = false →
      let next : List DrainElem := dr.elems.set i { e with written := true }
      (∀ ts s2, s.engWrite ⟨dr.ctx, dr.privS, dr.pts, dr.site⟩ e.at_ e.bytes = (.ok ts, s2) →
        ∃ u, exec .drainWrite s = .next u ∧ u.mem.hbm = s2.mem.hbm ∧
          (i + 1 < dr.elems.length ∨ dr.remote = true → (u.drain? dr.did).map (·.elems) = some next) ∧
          (dr.elems.length ≤ i + 1 → dr.remote = false → u.drain? dr.did = none)) ∧
      (∀ k m off, e.at_ = .pad k m off → s.pad? k m = some pd → off + e.bytes.length ≤ pd.size → i + 1 < dr.elems.length →
        ∃ u pd', exec .drainWrite s = .next u ∧ u.pad? k m = some pd' ∧ pd'.bytes = cellsWrite pd.bytes off e.bytes ∧
          (u.drain? dr.did).map (·.elems) = some next)) ∧
    (s.arg 0 = dr.did → s.drain? dr.did = some dr → s.drainsRun dr.ctx = true → dr.remote = true →
      dr.elems.any (fun y => !y.written) = false →
      ∃ u, exec .mdrainrWake s = .next u ∧ u.drain? dr.did = none ∧
        u.eng.flights.length = s.eng.flights.length + 1 ∧ (u.eng.flights.getLast?).map (·.words) = some dr.wake)

/-- FUSE, SPLIT and REFUSE of an undivided form (R323, R324, R325): one path of one quad set; every live lane alone with reason 1
and private banking; the form again with result 0; in a form of one pipeline they go on. DIVQ.limit answers the limits and sets them where x[a] is legal (R326). -/
def Obligations.FormsDivideAndUnite : Prop :=
  ∀ (g : Guard) (d a : XReg) (s : State) (h : Group) (p : Path) (l : Nat),
    (s.undivided h p → h.size = 1 →
      (∃ t, exec .fuse s = .next t ∧ GoesTo t h p (p.pc + 8) ∧ SameLanes s t) ∧
      (∃ t, exec .split s = .next t ∧ GoesTo t h p (p.pc + 8) ∧ SameLanes s t) ∧
      (∃ t, exec (.refuse d) s = .next t ∧ GoesTo t h p (p.pc + 8) ∧ ∀ i ∈ h.liveLanes, d ≠ 0 → (t.lane h.gid i).rx d = 0)) ∧
    (s.undivided h p → 1 < h.size →
      (∃ t h' q, exec .fuse s = .next t ∧ t.group? h.gid = some h' ∧ h'.paths = [q] ∧ q.lanes = h.liveLanes ∧ q.pc = p.pc + 8 ∧
        h'.priv = false ∧ h'.qsets.map (·.quads) = [List.range ((h.size + 3) / 4)] ∧ t.mem.hbm = s.mem.hbm ∧
        ∀ i, i < h.size → (h'.lane i).reason = 0 ∧ SameRegs (h.lane i) (h'.lane i)) ∧
      (∃ t h' q, exec (.refuse d) s = .next t ∧ t.group? h.gid = some h' ∧ h'.paths = [q] ∧ q.lanes = h.liveLanes ∧
        q.pc = p.pc + 8 ∧ h'.priv = false ∧ ∀ i ∈ h.liveLanes, d ≠ 0 → (h'.lane i).rx d = 0)) ∧
    (s.undivided h p → 1 < h.size → p.alone = false → (∃ i ∈ h.liveLanes, (h.lane i).reason ≠ 1) →
      ∃ t h', exec .split s = .next t ∧ t.group? h.gid = some h' ∧ h'.priv = true ∧
        ∀ i ∈ h.liveLanes, (h'.lane i).reason = 1 ∧ ∃ q, h'.pathOf? i = some q ∧ q.lanes = [i] ∧ q.pc = p.pc + 8) ∧
    (s.runsOne h p g l → bitsAt ((h.lane l).rx a) 0 13 ≤ 4096 → bitsAt ((h.lane l).rx a) 13 3 = 0 →
      bitsAt ((h.lane l).rx a) 17 47 = 0 →
      ∃ t h', exec (.divqLimit g d a) s = .next t ∧ t.group? h.gid = some h' ∧ h.stepsTo p { h' with dlim := h.dlim, ovf := h.ovf } ∧
        h'.dlim = bitsAt ((h.lane l).rx a) 0 13 ∧ h'.ovf = decide (bitsAt ((h.lane l).rx a) 16 1 = 1) ∧
        h'.lane l = (h.lane l).wx d (BitVec.ofNat 64 (h.dlim + 65536 * h.ovf.toNat))) ∧
    (s.runsOne h p g l → (4096 < bitsAt ((h.lane l).rx a) 0 13 ∨ bitsAt ((h.lane l).rx a) 13 3 ≠ 0 ∨
        bitsAt ((h.lane l).rx a) 17 47 ≠ 0) →
      ∃ t h', exec (.divqLimit g d a) s = .next t ∧ t.group? h.gid = some h' ∧ h.stepsTo p h' ∧ h'.lane l = (h.lane l).wx d (-1))

/-- The words of a barrier word in a scratchpad of the lane's class (R331, R333, R335 to R338, R339): BINIT sets a new word, an arrival
counts, the last one turns the generation with LAST and wakes every registered lane with DONE, an invalid or broken word answers so,
BWAIT and BSYNC end or wait; BWAIT holds issue while the bank's 64 waiters are in use. -/
def Obligations.BarrierWords : Prop :=
  ∀ (g : Guard) (d a b : XReg) (scope : Scope) (grp : Bool) (s : State) (h : Group) (p : Path) (l i o : Nat) (pd : Pad),
    let A := (h.lane l).rx a
    let n := ((h.lane l).rx b).toNat
    let w := barWord (fromBytes (cellsRead pd.bytes o 8))
    let last := decide (w.arrived + 1 = w.expect)
    let ends := w.invalid || w.broken || last
    let next : Option BarWord := if w.invalid || w.broken then none
      else if last then some { w with arrived := 0, gen := (w.gen + 1) % 2 ^ 16 } else some { w with arrived := w.arrived + 1 }
    let result := if w.invalid then barResult w.gen 2 false else if w.broken then barResult w.gen 1 false
      else if last then barResult ((w.gen + 1) % 2 ^ 16) 0 true else barResult w.gen 0 false
    s.single h p l → guardHolds g (h.lane l) = true → s.noStacks → s.placed h l A 8 i o pd →
    let Leaves (t : State) (new : Option BarWord) : Prop := t.mem = s.mem ∧
      (∃ pd', t.pad? h.cls i = some pd' ∧
        pd'.bytes = (match new with | some v => cellsWrite pd.bytes o (toBytes 8 v.bits) | none => pd.bytes)) ∧
      ∀ k m, ¬(k = h.cls ∧ m = i) → (t.pad? k m).map (·.bytes) = (s.pad? k m).map (·.bytes)
    (s.noWaits →
      (0 < n → n < 2 ^ 16 → ∃ t, exec (.binit g a b scope) s = .next t ∧ GoesTo t h p (p.pc + 8) ∧
        Leaves t (some ⟨n, 0, w.gen, false, scope.code, 0⟩)) ∧
      ((n = 0 ∨ 2 ^ 16 ≤ n) → ∃ t, exec (.binit g a b scope) s = .next t ∧ GoesTo t h p (p.pc + 8) ∧ Leaves t none) ∧
      (∃ t, exec (.bbreak g a) s = .next t ∧ GoesTo t h p (p.pc + 8) ∧
        Leaves t (if w.invalid || w.broken then none else some { w with broken := true })) ∧
      (∃ t, exec (.barr g d a grp) s = .next t ∧ GoesTo t h p (p.pc + 8) ∧ Leaves t next ∧
        (d ≠ 0 → (t.lane h.gid l).rx d = result)) ∧
      (ends = true → ∃ t, exec (.bsync g d a grp) s = .next t ∧ GoesTo t h p (p.pc + 8) ∧ Leaves t next ∧
        (d ≠ 0 → (t.lane h.gid l).rx d = result)) ∧
      (ends = false → ∃ t, exec (.bsync g d a grp) s = .next t ∧ Parked t h p ∧ Leaves t next ∧
        (t.lane h.gid l).wait = some ⟨.bar (.pad h.cls i (o / 128)) o w.gen true, d, none, s.clk, false⟩) ∧
      ((2 ^ 16 ≤ n ∨ w.invalid = true) → ∃ t, exec (.bwait g d a b) s = .next t ∧ GoesTo t h p (p.pc + 8) ∧ Leaves t none ∧
        (d ≠ 0 → (t.lane h.gid l).rx d = barResult w.gen 2 false)) ∧
      (n < 2 ^ 16 → w.invalid = false → (w.broken = true ∨ w.gen ≠ n) → ∃ t, exec (.bwait g d a b) s = .next t ∧
        GoesTo t h p (p.pc + 8) ∧ Leaves t none ∧
        (d ≠ 0 → (t.lane h.gid l).rx d = barResult w.gen (if w.broken then 1 else 0) false)) ∧
      (n < 2 ^ 16 → w.invalid = false → w.broken = false → w.gen = n → ∃ t, exec (.bwait g d a b) s = .next t ∧
        Parked t h p ∧ Leaves t none ∧
        (t.lane h.gid l).wait = some ⟨.bar (.pad h.cls i (o / 128)) o n false, d, none, s.clk, false⟩)) ∧
    (64 ≤ s.barWaiters h.site → n < 2 ^ 16 → w.invalid = false → w.broken = false → w.gen = n → exec (.bwait g d a b) s = .next s) ∧
    (∀ (k : Group) (m : Nat) (x : Wait) (arrived : Bool), s.group? k.gid = some k → k.gid ≠ h.gid → m < k.size →
      (k.lane m).wait = some x → x.kind = .bar (.pad h.cls i (o / 128)) o w.gen arrived → w.invalid = false → w.broken = false →
      last = true → ∃ t, exec (.barr g d a grp) s = .next t ∧ (t.lane k.gid m).wait = none ∧
        (x.d ≠ 0 → (t.lane k.gid m).rx x.d = barResult ((w.gen + 1) % 2 ^ 16) 0 false))

/-- BARX and its steps (R341 to R345): a rank not below its count, or a roster entry that is malformed or outside the scope, answers
BAD_RANK with a free GEN (log 47: the spec names none); a barrier of one ends at once with its epoch; a larger one waits; a notice is
held or taken, the last round wakes with DONE, and a break notice or a timeout breaks with a free GEN. -/
def Obligations.WideBarriers : Prop :=
  (∀ (d a b : XReg) (scope : Scope) (s s1 : State) (h h1 : Group) (p : Path) (vs : List Nat),
    let w := (h.lane h.reader).rx a
    let rank := bitsAt w 0 16
    let count := bitsAt w 16 16
    let bid := bitsAt w 32 16
    let halt (q : Path) : Path := { q with halted := some (.barx d a b scope) }
    s.undivided h p →
    (count ≤ rank ∨ bitsAt w 48 16 ≠ 0 → ∃ t, exec (.barx d a b scope) s = .next t ∧ GoesTo t h p (p.pc + 8) ∧
      ∀ l ∈ h.liveLanes, d ≠ 0 → (t.lane h.gid l).rx d = barResult (Config.freeValue s.freeN) 3 false) ∧
    (rank < count → bitsAt w 48 16 = 0 → ((h.lane h.reader).rx b).toNat / 2 ^ 56 = 0 →
      (s.modPath h.gid p.pid halt).rosterRead h.gid h.reader ((h.lane h.reader).rx b)
        (rank :: (List.range (clog2 count)).map (fun k => (rank + 2 ^ k) % count)) = .ok vs s1 →
      s1.group? h.gid = some h1 → h1.paths = [halt p] → h1.liveLanes = h.liveLanes → h1.size = h.size → h1.owedEntries = [] →
      ((∃ v ∈ vs, (rosterEntry v).rsv ≠ 0 ∨ s1.outsideScope (rosterEntry v) scope h.site.die = true) →
        ∃ t, exec (.barx d a b scope) s = .next t ∧ GoesTo t h p (p.pc + 8) ∧
          ∀ l ∈ h.liveLanes, d ≠ 0 → (t.lane h.gid l).rx d = barResult (Config.freeValue s.freeN) 3 false) ∧
      ((∀ v ∈ vs, (rosterEntry v).rsv = 0 ∧ s1.outsideScope (rosterEntry v) scope h.site.die = false) → s1.bars.insts = [] →
        (rosterEntry (vs.headD 0)).pkg ≠ s1.pkgIndex → ∃ t, exec (.barx d a b scope) s = .next t ∧ Parked t h p ∧
          t.bars.epochs = s1.bars.epochs ∧ t.bars.flying = s1.bars.flying) ∧
      (s1.bars.insts = [] → s1.bars.held = [] → (rosterEntry (vs.headD 0)).pkg = s1.pkgIndex →
      (∀ v ∈ vs, (rosterEntry v).rsv = 0 ∧ s1.outsideScope (rosterEntry v) scope h.site.die = false) →
      (count = 1 → ∃ t, exec (.barx d a b scope) s = .next t ∧ GoesTo t h p (p.pc + 8) ∧
        t.epochOf h.ctx bid rank = (s1.epochOf h.ctx bid rank + 1) % 2 ^ 16 ∧
        ∀ l ∈ h.liveLanes, d ≠ 0 → (t.lane h.gid l).rx d = barResult (s1.epochOf h.ctx bid rank) 0 false) ∧
      (1 < count → ∃ t i, exec (.barx d a b scope) s = .next t ∧ Parked t h p ∧ t.bars.insts = [i] ∧ i.rank = rank ∧
        i.count = count ∧ i.bid = bid ∧ i.round = 0 ∧ i.gid = h.gid ∧ i.epoch = s1.epochOf h.ctx bid rank ∧
        ∀ l ∈ h.liveLanes, (t.lane h.gid l).wait = some ⟨.barx bid, d, none, s.clk, false⟩)))) ∧
  (∀ (s : State) (n : Notice) (i : BarxInst) (h : Group) (p : Path) (l : Nat) (w : Wait) (c : Ctx),
    let Waits : Prop := s.noStacks ∧ s.group? h.gid = some h ∧ h.gid = i.gid ∧ h.paths = [p] ∧ l < h.size ∧
      (h.lane l).wait = some w ∧ w.kind = .barx i.bid ∧ w.d ≠ 0
    let Breaks (t : State) : Prop := (∀ j ∈ t.bars.insts, i.same j = false) ∧
      (t.lane h.gid l).rx w.d = barResult (Config.freeValue s.freeN) 1 false ∧ (t.lane h.gid l).wait = none ∧ t.freeN = s.freeN + 1
    (s.arg 0 = 0 → s.bars.flying[s.arg 1]? = some n → s.stale n = false → (s.noticed n = true ∨ s.heldAt n.die < 256) →
      (n.round.isSome = true → (∀ j ∈ s.bars.insts, s.atHome j = true → j.matches_ n = false) →
        ∃ t, exec .barxNotice s = .next t ∧ t.bars.held = s.bars.held ++ [n] ∧
          t.bars.flying = s.bars.flying.eraseIdx (s.arg 1) ∧ t = { s with bars := t.bars }) ∧
      (s.bars.insts = [i] → s.atHome i = true → s.ctxRuns i.ctx = true → Waits →
        (i.matches_ n = true → i.rounds ≤ i.round + 1 → ∃ t, exec .barxNotice s = .next t ∧ t.bars.insts = [] ∧
          (t.lane h.gid l).rx w.d = barResult i.epoch 0 false ∧ (t.lane h.gid l).wait = none) ∧
        (i.brokenBy n = true → ∃ t, exec .barxNotice s = .next t ∧ Breaks t))) ∧
    (s.bars.insts[s.arg 0]? = some i → s.ctx? i.ctx = some c → c.st = .running → c.desc.exTimeout ≠ 0 →
      i.since + 3600 * c.desc.exTimeout ≤ s.clk → Waits → ∃ t, exec .barxBreak s = .next t ∧ Breaks t))

/-- The copy words of one lane with legal operands (R218, R219, R226, R227): GET and PUT start their command and go on; SEND, SENDA
and SENDV start theirs and hold at the word until its range is recorded; a length of 0 starts none. -/
def Obligations.CopyWordsStart : Prop :=
  ∀ (g : Guard) (d a b c : XReg) (m : CopyMod) (op : SendOp) (et : SendTy) (ord : Bool) (s : State) (h : Group) (p : Path) (l : Nat),
    let x := h.lane l
    s.undivided h p → p.lanes = [l] → guardHolds g x = true →
    let Legal (k : CopyKind) (o : Bool) : Prop :=
      copyTrap s h l k (x.rx b) (x.rx a) (x.rx d) (x.rx c) (x.rx (XReg.succ c)) (c.val != 0) o = none
    let Cmd (t : State) (k : CopyKind) : Prop := t.mem = s.mem ∧ ∃ n, t.eng.copies = [n] ∧ n.kind = k ∧ n.gid = h.gid ∧
      n.lane = l ∧ n.len = bitsAt (x.rx b) 0 32 ∧ n.srcVa = (x.rx a).toNat ∧ n.dstVa = (x.rx d).toNat ∧ n.done = [] ∧
      n.ranged = (k == .get || k == .put)
    let Holds (i : Instr) (k : CopyKind) : Prop := ∃ t q, exec i s = .next t ∧ Cmd t k ∧
      (t.group? h.gid).map (·.paths) = some [q] ∧ q.pc = p.pc ∧ q.part = [l]
    (p.part = [] → s.eng.copies = [] → bitsAt (x.rx b) 0 32 ≠ 0 →
      (Legal .get false → s.rangeRoom (locOf s h l (x.rx d)) = true →
        ∃ t, exec (.get g d a b c m) s = .next t ∧ Cmd t .get ∧ GoesTo t h p (p.pc + 8)) ∧
      (Legal .put false → ∃ t, exec (.put g d a b c m) s = .next t ∧ Cmd t .put ∧ GoesTo t h p (p.pc + 8)) ∧
      (Legal .send false → Holds (.send g d a b c m) .send) ∧
      (Legal .senda ord → Holds (.senda g d a b c op et ord m) .senda) ∧
      (Legal .sendv false → Holds (.sendv g d a b c m) .sendv)) ∧
    (p.part = [l] → (∀ n ∈ s.eng.copies, n.gid = h.gid → n.lane = l → n.ranged = true) →
      (∃ t, exec (.send g d a b c m) s = .next t ∧ GoesTo t h p (p.pc + 8)) ∧
      (∃ t, exec (.senda g d a b c op et ord m) s = .next t ∧ GoesTo t h p (p.pc + 8)) ∧
      (∃ t, exec (.sendv g d a b c m) s = .next t ∧ GoesTo t h p (p.pc + 8))) ∧
    (p.part = [] → bitsAt (x.rx b) 0 32 = 0 → Legal .get false →
      ∃ t, exec (.get g d a b c m) s = .next t ∧ GoesTo t h p (p.pc + 8) ∧ t.eng.copies = s.eng.copies)

/-- The steps of the copy engine (R220 to R227): a chunk of a GET, PUT or SEND is read, written, and completed with its bit or
counter; one of a SENDA or SENDV is read and sent on, applied whole, or committed with its tile and a status; ranges are recorded and
released. A command without ACQ may read bytes older than another agent's last write (R236, log 12), and the counter of a PUT may keep a place
that only agents within its SCOPE follow up to the data (R237, log 105). A SENDV commit may own the version word's line first, which
holds off every other access to it (R203). -/
def Obligations.CopySteps : Prop :=
  ∀ (s s1 s2 : State) (c : CopyCmd) (bs : List Byte), s.arg 0 = c.cid → s.copy? c.cid = some c →
    let i := s.arg 1
    (s.copyReady c = true → i < c.chunks → c.readChunks.contains i = false → s.ownedFor c.cid (c.src.plus (512 * i)) 512 = false →
      s.ownedFor c.cid (c.dst.plus (512 * i)) 512 = false →
      s.engGather c.actor (c.src.plus (512 * i)) 16 (c.chunkLen i / 16) = (.ok bs, s1) →
      let got := if s.arg 2 = 1 && !c.acq then s.gatherBehind c.actor c.site (c.src.plus (512 * i)) (c.chunkLen i / 16) else bs
      let Written (s3 : State) : Prop :=
        let w := s3.engPut c.actor (c.dst.plus (512 * i)) 16 (chunksOf 16 got)
        let u := w.2.chunkEnd c i (if s.arg 3 = 1 ∧ (w.2.looseCounter c).isSome = true then c.pts else max c.pts w.1)
        ∃ t, exec .copyChunk s = .next t ∧ t.mem = u.mem ∧
          (c.done.length + 1 < c.chunks → t.classes = u.classes ∧
            ∃ n, t.copy? c.cid = some n ∧ n.done = i :: c.done ∧ n.readChunks = i :: c.readChunks) ∧
          (c.chunks ≤ c.done.length + 1 → c.released = true → t.copy? c.cid = none)
      (c.kind = .get ∨ c.kind = .put ∨ c.kind = .send → s1.engReach c.actor (c.dst.plus (512 * i)) (c.chunkLen i) needW = (none, s2) →
        (c.kind ≠ .put ∨ c.obj = none → Written s2) ∧
        (∀ o v sa sb, c.kind = .put → c.obj = some o → s2.engRead c.actor o 8 = (.ok v, sa) →
          sa.engReach c.actor o 8 needRW = (none, sb) → Written sb)) ∧
      (c.kind = .senda ∨ c.kind = .sendv → ∃ t, exec .copyChunk s = .next t ∧
        t.copy? c.cid = some { c with
          readChunks := i :: c.readChunks, payload := (i, got) :: c.payload, sent := (i, s1.nextId) :: c.sent })) ∧
    (c.kind = .senda → c.payload.find? (fun x => x.1 == i) = some (i, bs) → s.applies c = true → c.done.contains i = false →
      s.sendaTurn c = true → s.sentBefore c i = false → s.ownedFor c.cid (c.dst.plus (512 * i)) 512 = false →
      let w := s.sendaApply c.actor (c.dst.plus (512 * i)) c.op c.et (chunksOf c.et.bytes bs)
      let u := w.2.chunkEnd c i (max c.pts w.1)
      ∃ t, exec .sendaApply s = .next t ∧ t.mem = u.mem ∧
        (c.done.length + 1 < c.chunks → t.classes = u.classes ∧ ∃ n, t.copy? c.cid = some n ∧
          n.done = i :: c.done ∧ n.payload = c.payload.filter (fun x => x.1 != i)) ∧
        (c.chunks ≤ c.done.length + 1 → c.released = true → t.copy? c.cid = none)) ∧
    (∀ o st v, c.kind = .sendv → c.obj = some o → c.status = some st → s.copyReady c = true → c.chunks ≤ c.readChunks.length →
      c.done = [] → s.ownedFor c.cid o 16 = false →
      (∀ k m off pd, s.arg 1 = 1 → c.cid ≠ 0 → o = .pad k m off → s.pad? k m = some pd → ∃ t, exec .sendvCommit s = .next t ∧
        t.mem = s.mem ∧ SamePads s t ∧ t.loadHeld o 8 = true) ∧
      (s.arg 1 ≠ 1 → s.engRead c.actor o 8 = (.ok v, s1) →
      let w := s1.writeTile c.actor c.dst (sortBy (fun x => x.1) c.payload)
      let a : Actor := { c.actor with pts := max c.pts w.1 }
      let u := w.2.engUpdate a o (fun _ => (fromBytes v + 1) % 2 ^ 64)
      let set := (List.range c.chunks).foldl (fun (x : Nat × State) k =>
        ((max x.1 (x.2.engOr a (o.plus (16 + 8 * (k / 64))) (k % 64)).1), (x.2.engOr a (o.plus (16 + 8 * (k / 64))) (k % 64)).2))
        (max a.pts u.1, u.2)
      let miss := s1.engOr c.actor (o.plus 8) 0
      let Ends (x : Nat × State) (code : Nat) : Prop := ∃ t, exec .sendvCommit s = .next t ∧
        t.mem = (x.2.engWrite { c.actor with pts := max c.pts x.1 } st (toBytes 8 code)).2.mem ∧
        (c.released = false → SamePads (x.2.engWrite { c.actor with pts := max c.pts x.1 } st (toBytes 8 code)).2 t) ∧
        ∀ n, t.copy? c.cid = some n → n.done = List.range c.chunks ∧ n.payload = []
      (BitVec.ofNat 64 (fromBytes v) = c.version → Ends set 1) ∧ (BitVec.ofNat 64 (fromBytes v) ≠ c.version → Ends miss 2))) ∧
    (∀ k m off pd, c.dst = .pad k m off → s.pad? k m = some pd → c.ranged = false → s.ctxRuns c.ctx = true →
      s.rangeRoom c.dst = true → s.askedBefore c = false → ∃ t pd', exec .destRangeAck s = .next t ∧ t.copy? c.cid = some { c with ranged := true } ∧
        t.pad? k m = some pd' ∧ pd'.incoming = pd.incoming ++ [⟨c.cid, off, c.len⟩] ∧ pd'.bytes = pd.bytes) ∧
    (c.released = false → c.chunks ≤ c.readChunks.length →
      (c.done.length < c.chunks →
        ∃ t, exec .sourceRangeRelease s = .next t ∧ t.copy? c.cid = some { c with released := true } ∧ t.mem = s.mem) ∧
      (c.chunks ≤ c.done.length → ∃ t, exec .sourceRangeRelease s = .next t ∧ t.copy? c.cid = none ∧ t.mem = s.mem))

/-- The words of tile rings (R351, R363 to R368): RATT, RATT.det, RMAP and RINJ give the status that the first failing check
names, RINJ before its address checks (log 54), and 0 with the ring attached, detached, charted or a tile injected; RWAIT answers or waits; RREL unpins an encounter. -/
def Obligations.RingWords : Prop :=
  ∀ (g : Guard) (d a b c : XReg) (s : State) (h : Group) (p : Path) (l : Nat),
    let x := h.lane l
    let A := x.rx a
    let W := x.rx b
    let Gives (i : Instr) (v : Nat) (rs : List Ring) : Prop :=
      ∃ t, exec i s = .next t ∧ t.rings = rs ∧ (d ≠ 0 → (t.lane h.gid l).rx d = BitVec.ofNat 64 v)
    (s.runsOne h p g l →
      (∀ s1 us, A.toNat / 2 ^ 56 = 0 → A.toNat % 64 = 0 → s.load16s h.gid l A 1 4 = .ok us s1 →
        let v := ofBytes (us.flatMap (bytesOf 16))
        let r := ringOf h.ctx v
        (r.badHeader v (fieldAt v 8 8) = true → Gives (.ratt g d a) 2 s.rings) ∧
        (r.badHeader v (fieldAt v 8 8) = false → ∀ s2 es, s1.load16s h.gid l (A + 64) 1 (fieldAt v 8 8) = .ok es s2 →
          let ds := es.map stationDesc
          (ds.any (fun e => e.bad r.slotSize) = true → Gives (.ratt g d a) 2 s.rings) ∧
          (ds.any (fun e => e.bad r.slotSize) = false →
            ((s.ring? h.ctx r.num).isSome = true → Gives (.ratt g d a) 1 s.rings) ∧
            (s.ring? h.ctx r.num = none → (s2.stationsOf h l ds = none → Gives (.ratt g d a) 3 s.rings) ∧
              ∀ st, s2.stationsOf h l ds = some st →
                (s2.ringRoom r st = false → Gives (.ratt g d a) 2 s.rings) ∧
                (s2.ringRoom r st = true → Gives (.ratt g d a) 0 (s.rings ++ [{ r with stations := st }])))))) ∧
      ((ringNum A).bind (fun n => s.ring? h.ctx n) = none → Gives (.rattDet g d a) 4 s.rings) ∧
      (∀ r, (ringNum A).bind (fun n => s.ring? h.ctx n) = some r →
        (r.injected ≠ r.retired → r.st ≠ 3 → Gives (.rattDet g d a) 1 s.rings) ∧
        (r.injected = r.retired ∨ r.st = 3 → s.noStacks →
          Gives (.rattDet g d a) 0 (s.rings.filter (fun q => !(q.ctx == h.ctx && q.num == r.num))))) ∧
      (A.toNat / 2 ^ 56 = 0 → A.toNat % 32 = 0 →
        (bitsAt W 4 4 ≠ 0 ∨ bitsAt W 24 40 ≠ 0 → Gives (.rmap g d a b) 2 s.rings) ∧
        (bitsAt W 4 4 = 0 → bitsAt W 24 40 = 0 →
          (s.ring? h.ctx (bitsAt W 0 4) = none → Gives (.rmap g d a b) 4 s.rings) ∧
          ∀ r, s.ring? h.ctx (bitsAt W 0 4) = some r →
            (r.st = 3 → Gives (.rmap g d a b) 4 s.rings) ∧
            (r.st ≠ 3 → r.injected ≠ 0 → Gives (.rmap g d a b) 1 s.rings) ∧
            (r.st ≠ 3 → r.injected = 0 → ∀ us s1, s.load16s h.gid l A 1 (2 * (bitsAt W 8 8 + 1)) = .ok us s1 →
              ∃ t, exec (.rmap g d a b) s = .next t ∧ (d ≠ 0 → (t.lane h.gid l).rx d = 0) ∧
                t.ring? h.ctx (bitsAt W 0 4) = some { r with
                  st := 2, ncw := bitsAt W 8 8 + 1, nccw := bitsAt W 16 8 + 1,
                  chart := (List.range (bitsAt W 8 8 + 1)).map (fun k =>
                    (us.getD (2 * k) 0 + 2 ^ 128 * us.getD (2 * k + 1) 0) % 2 ^ (bitsAt W 16 8 + 1)) }))) ∧
      (p.part = [] → s.ring? h.ctx (bitsAt W 20 4) = none → Gives (.rinj g d a b c) 4 s.rings) ∧
      (∀ v, p.part = [] → s.rinjCheck h W (x.rx c) = .error v → Gives (.rinj g d a b c) v s.rings) ∧
      (∀ r st i loc bs s1, p.part = [] → s.sourcesFull h l = false → s.rinjCheck h W (x.rx c) = .ok (r, st, i) → A.toNat / 2 ^ 56 = 0xFC →
        resolve s h l A (x.rx c).toNat 16 = .ok loc → s.loadHeld loc (x.rx c).toNat = false →
        s.engGather ⟨h.ctx, x.privS, x.pts, h.site⟩ loc 16 ((x.rx c).toNat / 16) = (.ok bs, s1) →
        ∃ t r' n, exec (.rinj g d a b c) s = .next t ∧ t.ring? h.ctx r.num = some r' ∧ r'.injected = r.injected + 1 ∧
          r'.tiles = r.tiles ++ [n] ∧ n.image = bs ∧ n.num = bitsAt W 0 16 ∧ n.ccw = (bitsAt W 16 1 == 1) ∧ n.station = st ∧
          n.homest = st ∧ n.slot = i ∧ n.resident = false ∧ n.pts = x.pts ∧ n.home = x.rx (XReg.succ b) ∧ (d ≠ 0 → (t.lane h.gid l).rx d = 0))) ∧
    (s.single h p l → guardHolds g x = true → x.wait = none →
      (∀ v, (v = 4 ∧ (ringNum A = none ∨ ∃ n, ringNum A = some n ∧ s.ring? h.ctx n = none)) ∨
          (∃ n r, ringNum A = some n ∧ s.ring? h.ctx n = some r ∧ ((r.st = 3 ∧ v = 7) ∨
            (r.st ≠ 3 ∧ W.toNat ≤ r.retired ∧ r.injected = r.retired ∧ v = if r.lost ≠ 0 then 8 else 0))) →
        ∃ t, exec (.rwait g d a b) s = .next t ∧ GoesTo t h p (p.pc + 8) ∧ (d ≠ 0 → (t.lane h.gid l).rx d = BitVec.ofNat 64 v)) ∧
      (∀ n r, ringNum A = some n → s.ring? h.ctx n = some r → r.st ≠ 3 → (r.retired < W.toNat ∨ r.injected ≠ r.retired) →
        ∃ t, exec (.rwait g d a b) s = .next t ∧ Parked t h p ∧
          (t.lane h.gid l).wait = some ⟨.rwait n W.toNat, d, none, s.clk, false⟩)) ∧
    (s.undivided h p →
      let w := ((h.lane h.reader).rx a).toNat
      let pts := (h.liveLanes.map (fun i => (h.lane i).pts)).foldl max 0
      ((∀ r ∈ s.rings, r.ctx = h.ctx → r.num = fieldAt w 44 4 → ∀ e ∈ r.encs, e.tag ≠ w) →
        ∃ t, exec (.rrel d a) s = .next t ∧ GoesTo t h p (p.pc + 8) ∧ t.rings = s.rings ∧
          ∀ i ∈ h.liveLanes, d ≠ 0 → (t.lane h.gid i).rx d = 2) ∧
      (∀ r e ta tb, s.ring? h.ctx (fieldAt w 44 4) = some r → r.encs = [e] → e.tag = w → e.cw ≠ e.ccw →
        r.tile? e.cw = some ta → r.tile? e.ccw = some tb → (∀ u ∈ r.tiles, u.pending = none) →
        ∃ t r', exec (.rrel d a) s = .next t ∧ GoesTo t h p (p.pc + 8) ∧ t.ring? h.ctx r.num = some r' ∧ r'.encs = [] ∧
          r'.tile? e.cw = some { ta with pins := ta.pins - 1, pts := max ta.pts pts } ∧
          r'.tile? e.ccw = some { tb with pins := tb.pins - 1, pts := max tb.pts pts } ∧
          ∀ i ∈ h.liveLanes, d ≠ 0 → (t.lane h.gid i).rx d = 0))

/-- The steps of a ring (R354 to R359): a tile moves to a free slot of the next station, arrives there, meets a named partner and
pins both under a new encounter; the two images are copied to the start of the placed group's scratchpad, dwells end, finished tiles retire, and a ring that lost a station is dropped. -/
def Obligations.RingSteps : Prop :=
  ∀ (s : State) (r : Ring) (t : Tile), s.ring? (s.arg 0) (s.arg 1) = some r → s.noStacks →
    let lap := if t.station = t.homest && t.left then t.lap + 1 else t.lap
    let After (i : Instr) (Q : State → Ring → Prop) : Prop :=
      ∃ u r', exec i s = .next u ∧ u.ring? (s.arg 0) (s.arg 1) = some r' ∧ Q u r'
    (r.tile? (s.arg 2) = some t →
      (∀ i loc bs s1, r.st = 2 → s.ctxRuns (s.arg 0) = true → r.mayLeave t = true → t.arrivedAt < s.clk →
        (∀ v ∈ r.tiles, v.station = t.station → v.ccw = t.ccw → r.mayLeave v = true → t.order ≤ v.order) →
        r.freeSlot (r.nextStation t) t.ccw = some i → r.slotLoc t.station t.slot = some loc →
        s.engGather (r.actor t.station) (loc.plus 64) 16 (t.len / 16) = (.ok bs, s1) →
        After .tileTransfer (fun _ r' => r'.tile? (s.arg 2) = some { t with
          station := r.nextStation t, slot := i, resident := false, image := bs, left := true, dwelling := false,
          pts := max t.pts (s.slotTs r t.station t.slot) })) ∧
      (∀ loc, s.pick.drop 3 = [] → r.st = 2 → s.ringMoves (s.arg 0) true = true → t.held = 0 → t.resident = false →
        r.slotLoc t.station t.slot = some loc → t.ccw = decide (8 ≤ t.slot) → (t.station ≠ t.homest ∨ lap ≠ r.laps) →
        ((∀ v ∈ r.tiles, v.tid ≠ t.tid → v.resident = true → v.station ≠ t.station) →
          After .tileArrival (fun _ r' => r'.tile? (s.arg 2) = some { t with
            resident := true, image := [], issuer := none, lap := lap, dwelling := decide (2 ≤ lap), arrivedAt := s.clk,
            order := r.order, pending := none })) ∧
        (∀ u, s.rings = [r] → r.tiles = [u, t] → r.encs = [] → u.tid ≠ t.tid → u.resident = true → u.station = t.station →
          u.arrivedAt ≠ s.clk → t.ccw = false → u.ccw = true → 8 ≤ u.slot → u.slot < 16 → r.named t.num u.num = true → u.num ∉ t.doneBits →
          t.num ∉ u.doneBits →
          After .tileArrival (fun w r' => (∃ e, r'.encs = [e] ∧ e.cw = t.tid ∧ e.ccw = u.tid ∧ e.station = t.station ∧
              e.copied = false) ∧ r'.encounters = r.encounters + 1 ∧ w.eng.flights.length = s.eng.flights.length + 1 ∧
            (r'.tile? (s.arg 2)).map (fun y => (y.resident, y.pins, y.doneBits)) = some (true, t.pins + 1, u.num :: t.doneBits) ∧
            (r'.tile? u.tid).map (fun y => (y.pins, y.doneBits)) = some (u.pins + 1, t.num :: u.doneBits)))) ∧
      (s.ctxRuns (s.arg 0) = true → t.resident = true → t.dwelling = true → t.arrivedAt + 2048 ≤ s.clk →
        After .dwellExpiry (fun _ r' => r'.tile? (s.arg 2) = some { t with dwelling := false })) ∧
      (s.ctxRuns (s.arg 0) = true → t.resident = true → t.pins = 0 → t.pending = none → t.missing = [] → r.covered t = true →
        t.arrivedAt < s.clk →
        After .tileRetire (fun _ r' => r'.retired = r.retired + 1 ∧ r'.tiles = r.tiles.filter (fun v => v.tid != t.tid)))) ∧
    (∀ e q cw ccw la lb xs ys s1 s2, r.encs.find? (fun y => y.tag == s.arg 2 && !y.copied) = some e →
      s.groups.find? (fun y => y.ctx == s.arg 0 && !y.started && (y.lane 0).origin.tag == e.tag + 1) = some q →
      r.tile? e.cw = some cw → r.tile? e.ccw = some ccw → s.ctxRuns (s.arg 0) = true → r.slotLoc e.station cw.slot = some la →
      r.slotLoc e.station ccw.slot = some lb → s.engGather (r.actor e.station) la 16 (r.slotSize / 16) = (.ok xs, s1) →
      s1.engGather (r.actor e.station) lb 16 (r.slotSize / 16) = (.ok ys, s2) →
      After .encounterImageCopy (fun u r' => r'.tiles = r.tiles ∧ (∀ y ∈ r'.encs, y.tag = e.tag → y.copied = true) ∧
        ∀ pd, 10 ≤ r.lslot → s.pad? q.cls 0 = some pd → 2 * r.slotSize ≤ pd.size → cellsWf pd.bytes = true →
          ∃ pd', u.pad? q.cls 0 = some pd' ∧ ∀ k, k < r.slotSize →
            xs[k]? = some (cellAt pd'.bytes k) ∧ ys[k]? = some (cellAt pd'.bytes (r.slotSize + k)))) ∧
    ((r.st = 3 ∨ ∃ y ∈ r.stations, (s.klass? y.kid).any (·.live) = false ∧ ∀ c, s.ctx? (s.arg 0) = some c → c.saved = none) →
      After .ringAbandon (fun _ r' => r'.st = 3 ∧ r'.tiles = [] ∧ r'.encs = []))

/-- JREP, QUIET and the steps of roll calls (R400, R401, R404, R406): a register that names no open job has its own status, the loss
record is taken, counted and closed, BAD before the address check (log 60), QUIET waits, and the second pass ends a wait by its totals
and the loss record; a pass takes all its snapshots at one instant (log 58). -/
def Obligations.JobsAndQuiescence : Prop :=
  ∀ (g : Guard) (d a b : XReg) (scope : Scope) (s : State) (h : Group) (p : Path) (l : Nat) (j : Job),
    let x := h.lane l
    let Gives (i : Instr) (v : Nat) (js : List Job) : Prop :=
      ∃ t, exec i s = .next t ∧ t.jobs = js ∧ (d ≠ 0 → (t.lane h.gid l).rx d = BitVec.ofNat 64 v)
    let upd (f : Job → Job) : List Job := updWhere (fun y => y.ctx == h.ctx && y.num == j.num) f s.jobs
    (s.runsOne h p g l → s.jobOf h.ctx (x.rx a) = none →
      Gives (.jrepTake g d a b) 2 s.jobs ∧ Gives (.jrepCount g d a) 2 s.jobs ∧ Gives (.jrepClose g d a) 2 s.jobs) ∧
    (s.runsOne h p g l → s.jobOf h.ctx (x.rx a) = some j →
      (padAddress s h l (x.rx b) 32 = none → j.loss = [] → Gives (.jrepTake g d a b) 1 s.jobs) ∧
      (∀ e r s1, padAddress s h l (x.rx b) 32 = none → j.loss = e :: r →
        s.store16s h.gid l (x.rx b) (units16 e) = .ok () s1 →
        Gives (.jrepTake g d a b) 0 (upd (fun y => { y with loss := r }.stir))) ∧
      Gives (.jrepCount g d a) (j.loss.length + 2 ^ 16 * j.overflow) (upd Job.clearOverflow) ∧
      (j.quietPkg = true → s.jobBusy h.ctx j.num = false →
        Gives (.jrepClose g d a) 0 (s.jobs.filter (fun y => !(y.ctx == h.ctx && y.num == j.num)))) ∧
      (j.quietPkg = false ∨ s.jobBusy h.ctx j.num = true → Gives (.jrepClose g d a) 1 s.jobs)) ∧
    (s.undivided h p →
      let n := ((h.lane h.reader).rx b).toNat
      (s.jobOf h.ctx ((h.lane h.reader).rx a) = none →
        ∃ t, exec (.quiet d a b scope) s = .next t ∧ GoesTo t h p (p.pc + 8) ∧ ∀ i ∈ h.liveLanes, d ≠ 0 →
          (t.lane h.gid i).rx d = 3) ∧
      (s.jobOf h.ctx ((h.lane h.reader).rx a) = some j →
        ∃ t, exec (.quiet d a b scope) s = .next t ∧ Parked t h p ∧ ∀ i ∈ h.liveLanes, (t.lane h.gid i).wait =
          some ⟨.quiet j.num scope.code, d, if n = 0 then none else some (s.clk + n), s.clk, false⟩)) ∧
    (∀ w n sc, s.noStacks → s.group? h.gid = some h → l < h.size → x.wait = some w → w.kind = .quiet n sc → w.d ≠ 0 →
      let Ends (i : Instr) (v : Word) : Prop :=
        ∃ t, exec i s = .next t ∧ (t.lane h.gid l).rx w.d = v ∧ (t.lane h.gid l).wait = none
      (s.arg 0 = h.gid → (∃ m, w.until_ = some m ∧ m ≤ s.clk) → Ends .quietTimeout 2) ∧
      (s.roll.pass1 = true → s.groups = [h] → h.quietOn = some (n, sc) → (s.ctx? h.ctx).any (fun c => c.st == .running) = true →
        s.job? h.ctx n = some j →
        (s.quietAt j sc h.site = true →
          Ends .rollCallPass2 (if j.loss = [] ∧ j.overflow = 0 then 0 else 1)) ∧
        (s.quietAt j sc h.site = false → ∃ t, exec .rollCallPass2 s = .next t ∧ t.groups = s.groups ∧ t.roll.pass1 = false))) ∧
    (s.roll.pass1 = false → s.roll.since + 1800 * s.roll.period ≤ s.clk → exec .rollCall s = .next { s with
      roll := { s.roll with pass1 := true, since := s.clk },
      jobs := s.jobs.map (fun y => { y with
        counts := y.counts.map (fun c => { c with snapInj := c.inj, snapCons := c.cons, active := false }), stirred := false }) })

/-- The words of event banks (R377, R385 to R388): EVCFG binds and frees a bank and sets a parameter set, EVRD and EVWR copy
accumulators, EVSEND injects an event and EVADV moves frontiers, each with its status; at .die or wider EVADV waits for the banks, a
time that is free, and its status is written when the wait ends (R327, log 61). -/
def Obligations.EventWords : Prop :=
  ∀ (g : Guard) (d a b c : XReg) (va : VReg) (scope : Scope) (s : State) (h : Group) (p : Path) (l : Nat),
    let x := h.lane l
    let X := x.rx a
    let Y := x.rx b
    let Ends (t : State) (v : Nat) : Prop := d ≠ 0 → (t.lane h.gid l).rx d = BitVec.ofNat 64 v
    let e : QEvent := ⟨x.rv va, h.ctx, 0, false, x.pts, some (h.gid, l), some h.site⟩
    let Gives (i : Instr) (v : Nat) (bs : List Bank) : Prop := ∃ t, exec i s = .next t ∧ t.banks = bs ∧ Ends t v
    let num := bitsAt X 0 2
    let taken := (s.unit? h.site).any (fun u => u.ctx != h.ctx) || (s.bankAt? h.site num).isSome ||
      (s.bankHome? h.ctx h.site num).isSome
    s.runsOne h p g l →
    (bitsAt X 2 62 ≠ 0 ∨ bitsAt Y 6 26 ≠ 0 ∨ s.jobOpen h.ctx (bitsAt Y 0 6) = false → Gives (.evcfgBind g d a b) 2 s.banks) ∧
    (bitsAt X 2 62 = 0 → bitsAt Y 6 26 = 0 → s.jobOpen h.ctx (bitsAt Y 0 6) = true →
      (taken = true → Gives (.evcfgBind g d a b) 1 s.banks) ∧
      (taken = false → Gives (.evcfgBind g d a b) 0 (s.banks ++ [⟨h.site.die, h.site.cluster, num, h.site, h.ctx, bitsAt Y 0 6,
        bitsAt Y 32 32, bitsAt Y 32 32, [], [], 0, 0, 0, 0, 0, none⟩]))) ∧
    (bitsAt X 2 62 ≠ 0 → Gives (.evcfgFree g d a) 2 s.banks) ∧
    (bitsAt X 2 62 = 0 → (s.ownBank h num = none → Gives (.evcfgFree g d a) 3 s.banks) ∧
      ∀ k, s.ownBank h num = some k →
        (k.queue ≠ [] ∨ s.spilledOf k ≠ [] ∨ k.emit.isSome = true → Gives (.evcfgFree g d a) 1 s.banks) ∧
        (k.queue = [] → s.spilledOf k = [] → k.emit = none → Gives (.evcfgFree g d a) 0 (s.banks.filter (fun y => !k.same y)))) ∧
    (∀ loc us s1, resolve s h l Y 32 32 = .ok loc → s.load16s h.gid l Y 1 2 = .ok us s1 →
      let q := psetOf (us.getD 0 0 + 2 ^ 128 * us.getD 1 0)
      (bitsAt X 6 58 ≠ 0 → Gives (.evcfgPset g d a b) 2 s.banks) ∧
      (bitsAt X 6 58 = 0 → (s.unit? h.site).any (fun u => u.ctx == h.ctx) = false → Gives (.evcfgPset g d a b) 3 s.banks) ∧
      (bitsAt X 6 58 = 0 → (s.unit? h.site).any (fun u => u.ctx == h.ctx) = true →
        (q = none → Gives (.evcfgPset g d a b) 2 s.banks) ∧
        (∀ v, q = some v → ∃ t, exec (.evcfgPset g d a b) s = .next t ∧ Ends t 0 ∧
          (t.unit? h.site).map (fun u => u.pset (bitsAt X 0 6)) = some v))) ∧
    (∀ k, bitsAt X 14 50 = 0 → s.ownBank h (bitsAt X 12 2) = some k →
      (∀ s1, accAddress s h l Y 64 = none → s.store16s h.gid l Y (units16 (s.bankStatus k)) = .ok () s1 →
        ∃ t, exec (.evrdStat g d a b) s = .next t ∧ Ends t 0 ∧ t.banks = s.banks ∧ SamePads s1 t) ∧
      (accAddress s h l Y (16 * (x.rx c).toNat) = none → bitsAt X 0 12 + (x.rx c).toNat ≤ 4096 →
        let seen := ((List.range (x.rx c).toNat).map (fun n => (k.acc (bitsAt X 0 12 + n)).ts)).foldl max 0
        (∀ s1, (s.modLane h.gid l (fun y => { y with pts := max y.pts seen })).store16s h.gid l Y
            ((List.range (x.rx c).toNat).map (fun n => (k.acc (bitsAt X 0 12 + n)).image)) = .ok () s1 →
          ∃ t, exec (.evrd g d a b c) s = .next t ∧ Ends t 0 ∧ SamePads s1 t ∧
            t.banks = updWhere k.same (fun y => y.seenAt (s1.lane h.gid l).pts (bitsAt X 0 12) (x.rx c).toNat) s.banks) ∧
        (∀ us s1, s.load16s h.gid l Y 1 (x.rx c).toNat = .ok us s1 →
          let new := writeAccs k (bitsAt X 0 12) (max (s1.lane h.gid l).pts (seen + 1)) us
          ∃ t, exec (.evwr g d a b c) s = .next t ∧ Ends t (if new.2 then 2 else 0) ∧
            t.banks = updWhere k.same (fun y => { y with accs := new.1.accs }) s.banks))) ∧
    ((eventReserved e.bits.toNat = true ∨ s.jobOpen h.ctx e.job = false ∨ s.inDomain e.pkg = false →
        Gives (.evsend g d va) 2 s.banks) ∧
      (eventReserved e.bits.toNat = false → s.jobOpen h.ctx e.job = true → e.pkg ≠ s.pkgIndex → s.inDomain e.pkg = true →
        ∃ t, exec (.evsend g d va) s = .next t ∧ Ends t 0 ∧ t.eng.events = s.eng.events) ∧
      (eventReserved e.bits.toNat = false → s.jobOpen h.ctx e.job = true → e.pkg = s.pkgIndex →
        ∃ t n, exec (.evsend g d va) s = .next t ∧ Ends t 0 ∧ t.eng.events = s.eng.events ++ [{ e with arr := n }])) ∧
    (p.part = [] → (bitsAt X 6 58 ≠ 0 ∨ bitsAt Y 32 32 ≠ 0) → Gives (.evadv g d a b scope) 2 s.banks) ∧
    (p.part = [] → bitsAt X 6 58 = 0 → bitsAt Y 32 32 = 0 →
      let hit := s.banks.filter (fun k => k.ctx == h.ctx && k.job == bitsAt X 0 6 && k.within scope h.site)
      (hit = [] → s.banksAway h.ctx scope = false → Gives (.evadv g d a b scope) 3 s.banks) ∧
      (∀ k, hit = [k] → ∃ t, exec (.evadv g d a b scope) s = .next t ∧
        (t.banks.find? k.same).map (·.frontier) = some (max k.frontier (bitsAt Y 0 32)) ∧
        (scope.wide = false → Ends t 0) ∧
        (scope.wide = true → (t.lane h.gid l).x = x.x ∧ (t.lane h.gid l).wait =
          some ⟨.ack 0, d, some (s.clk + 1 + Config.freeValue s.freeN % 4096), s.clk, false⟩)))

/-- The steps of event banks (R378 to R381): an arriving event is queued at its tick, or below the frontier just under it and counted
late; with the queue full it goes to the next spill slot, and for no bank to the reject ring; a delivery changes its accumulator and may
fire, and a firing posts its task, or reads its fan-out directory and sends or drops each entry of its list. -/
def Obligations.EventSteps : Prop :=
  ∀ (s : State) (b : Bank),
    (∀ e, s.arg 0 ≠ 0 → s.eng.events.find? (fun y => y.arr == s.arg 0) = some e → s.ctxTakes e.ctx = true →
      s.eventWaits e = false → s.bankAwaited e = false →
      let Takes (t : State) : Prop := exec .eventArrival s = .next t ∧ t.eng.events = s.eng.events.filter (fun y => y.arr != e.arr)
      (s.bankHome? e.ctx e.home e.bankNum = some b → b.job = e.job → b.queue.length < 1024 →
      ∃ t b' q, Takes t ∧
        t.bankHome? e.ctx e.home e.bankNum = some b' ∧ b'.queue = b.queue ++ [q] ∧
        (b.frontier ≤ e.tick → q.bits = e.bits ∧ q.passed = false ∧ b'.late = b.late) ∧
        (e.tick < b.frontier → q.bits = eventBits (e.field 0 29) (b.frontier - 1) e.value e.job ∧ q.passed = true ∧
          b'.late = sat64 (b.late + 1))) ∧
      (∀ c, s.ctx? e.ctx = some c →
        let part := c.huskPart b.site
        let slot := (s.physRead part 8).1 % c.nslot
        (s.bankHome? e.ctx e.home e.bankNum = some b → b.job = e.job → 1024 ≤ b.queue.length → b.frontier ≤ e.tick →
          s.mem.poisoned part 8 = false → c.nslot ≠ 0 → s.slotHeld e.ctx b.site slot = false →
          ∃ t q, Takes t ∧ t.banks = s.banks ∧ q.bits = e.bits ∧ q.passed = false ∧
            t.eng.spill = s.eng.spill ++ [⟨.ev q, e.ctx, b.site, slot, s.nextId⟩ ]) ∧
        (s.bankHome? e.ctx e.home e.bankNum = none → s.mem.poisoned (c.rejectsPa e.home) 4 = false →
          let k := s.physRead (c.rejectsPa e.home) 4
          let ring := k.2.physWriteWordsAt 0 (c.huskPart e.home + 64 + 128 * (k.1 % 8)) (e.words ++ [3, 0, 0, 0, 0, 0, 0, 0])
          ∃ t, Takes t ∧ t.banks = s.banks ∧
            t.mem = (ring.2.physWriteAt ring.1 (c.rejectsPa e.home) (toBytes 4 ((k.1 + 1) % 2 ^ 32))).2.mem))) ∧
    (s.argBank = some b → s.ctxRuns b.ctx = true →
      (∀ e, b.emit = none → b.next = some e →
        let acc := b.acc e.index
        let ps := ((s.unit? b.site).map (fun u => u.pset acc.pset)).getD ⟨0, 0, 0, 0, 0, 0, 0, 0⟩
        let r := deliverTo ps acc e.tick e.value
        let left := b.queue.filter (fun q => q.arr != e.arr)
        (acc.en = false → ∃ t b', exec .eventDelivery s = .next t ∧ t.argBank = some b' ∧ b' = { b with queue := left }) ∧
        (acc.en = true → ∃ t b', exec .eventDelivery s = .next t ∧ t.argBank = some b' ∧ b'.queue = left ∧
          b'.acc e.index = { r.acc with ts := max (acc.ts + 1) e.pts } ∧ b'.delivered = sat64 (b.delivered + 1) ∧ b'.fired = sat64 (b.fired + r.fired.isSome.toNat) ∧
          b'.reordered = sat64 (b.reordered + r.reordered.toNat) ∧
          (b'.emit.isSome = true ↔ r.fired.isSome = true ∧ ps.action ≠ 0))) ∧
      (∀ m, b.emit = some m → m.held = 0 → m.action = 2 → ∃ t b' f, exec .fireAction s = .next t ∧ t.argBank = some b' ∧
        b'.emit = none ∧ t.eng.flights = s.eng.flights ++ [f] ∧ f.words = m.words b s.pkgIndex ∧ f.pts = m.pts ∧
        f.site = b.site) ∧
      (∀ m bs s1, b.emit = some m → m.held = 0 → m.action = 1 → m.list = none →
        s.cutOff b.ctx (m.taddr + 8 * (4096 * b.num + m.index)) = false →
        s.engRead ⟨b.ctx, false, m.pts, b.site⟩ (.glob (m.taddr + 8 * (4096 * b.num + m.index))) 8 = (.ok bs, s1) →
        fieldAt (fromBytes bs) 0 48 % 16 = 0 →
        ∃ t b', exec .fireAction s = .next t ∧ t.argBank = some b' ∧ b'.emit = (if fieldAt (fromBytes bs) 48 16 = 0 then none
          else some { m with list := some (fieldAt (fromBytes bs) 0 48, fieldAt (fromBytes bs) 48 16) })) ∧
      (∀ m at_ left bs s1, b.emit = some m → m.held = 0 → m.action = 1 → m.list = some (at_, left) → s.cutOff b.ctx at_ = false →
        s.engRead ⟨b.ctx, false, m.pts, b.site⟩ (.glob at_) 16 = (.ok bs, s1) →
        let n := fromBytes bs
        let tick := m.tick + fieldAt n 32 32
        let skipped := fieldAt n 32 32 = 0 ∨ eventReserved n = true ∨ fieldAt n 96 6 ≠ 0 ∨ 2 ^ 32 ≤ tick ∨
          s.inDomain (fieldAt n 21 8) = false
        let home : Site := ⟨fieldAt n 18 3, fieldAt n 14 4⟩
        let After (t : State) (drops : Nat) : Prop := exec .fireAction s = .next t ∧ ∃ b', t.argBank = some b' ∧
          b'.emit = (if left ≤ 1 then none else some { m with list := some (at_ + 16, left - 1) }) ∧
          b'.dropped = sat64 (b.dropped + drops)
        (skipped → ∃ t, After t 1 ∧ t.eng.events = s.eng.events) ∧
        (¬ skipped → fieldAt n 21 8 = s.pkgIndex → b.dropped < 2 ^ 64 →
          (∀ k, s.bankHome? b.ctx home (fieldAt n 12 2) = some k → k.site ≠ b.site) →
          (s.bankHome? b.ctx home (fieldAt n 12 2) = none → home ≠ b.site) →
          ∃ t e, After t 0 ∧ t.eng.events = s.eng.events ++ [e] ∧ e.ctx = b.ctx ∧ e.pts = m.pts ∧ e.src = some b.site ∧
            e.bits = eventBits (fieldAt n 0 29) tick (fieldAt n 64 32) b.job)))

/-- POST, TRAYCFG and INBOXQ.take (R307 to R309): the status of a bad target or shape, a record injected with its words, a tray held or
released, with the first status that applies (log 44), and the oldest record of the class's mailbox taken with its priority and job. -/
def Obligations.QueueWords : Prop :=
  ∀ (g : Guard) (d a b : XReg) (s : State) (h : Group) (p : Path) (l : Nat), s.runsOne h p g l →
    let x := h.lane l
    let A := x.rx a
    let B := x.rx b
    let Ends (t : State) (v : Nat) : Prop := d ≠ 0 → (t.lane h.gid l).rx d = BitVec.ofNat 64 v
    (p.part = [] → A.toNat % 64 = 0 →
      ((bitsAt B 62 2 = 0 ∧ bitsAt B 7 55 ≠ 0) ∨ bitsAt B 62 2 = 3 ∨ (bitsAt B 62 2 = 1 ∧ (bitsAt B 2 60 ≠ 0 ∨ bitsAt B 0 2 = 3)) ∨
          (bitsAt B 62 2 = 2 ∧ bitsAt B 54 8 ≠ 0) →
        ∃ t, exec (.post g d a b) s = .next t ∧ Ends t 2 ∧ t.eng = s.eng) ∧
      (∀ site mail us s1, s.postTarget h l B = .to_ site mail → s.frontRoom h.ctx site mail = true →
        s.load16s h.gid l A 1 4 = .ok us s1 →
        ∃ t f, exec (.post g d a b) s = .next t ∧ Ends t 0 ∧ t.eng.flights = s.eng.flights ++ [f] ∧ f.words = wordsOf16 us ∧
          f.ctx = h.ctx ∧ f.site = site ∧ f.mail = mail ∧ f.issuer = some (h.gid, l)) ∧
      (bitsAt B 62 2 = 0 → bitsAt B 7 55 = 0 → s.postTarget h l B = .to_ ⟨bitsAt B 0 3, bitsAt B 3 4⟩ none)) ∧
    (let n := bitsAt A 0 4
      let code := bitsAt A 8 3
      let here := s.eng.trays.find? (fun t => t.site == h.site && t.num == n)
      let bad := bitsAt A 4 4 ≠ 0 ∨ bitsAt A 11 5 ≠ 0 ∨ bitsAt A 32 32 ≠ 0 ∨
        (B.toNat ≠ 0 ∧ (code = 0 ∨ 4 < code ∨ bitsAt A 16 16 = 0 ∨ B.toNat % 8 ≠ 0))
      let rest := s.eng.trays.filter (fun u => !(u.site == h.site && u.num == n))
      let Sets (v : Nat) (ts : List Tray) : Prop := ∃ t, exec (.trayCfg g d a b) s = .next t ∧ Ends t v ∧ t.eng.trays = ts
      (bad → Sets 3 s.eng.trays) ∧
      (¬bad → (∀ t, here = some t → t.ctx ≠ h.ctx → Sets 1 s.eng.trays) ∧
        (∀ t, here = some t → t.ctx = h.ctx → t.recs ≠ [] → Sets 2 s.eng.trays) ∧
        ((∀ t, here = some t → t.ctx = h.ctx ∧ t.recs = []) →
          (B.toNat = 0 → Sets 0 rest) ∧
          (B.toNat ≠ 0 → (∃ t ∈ rest, t.site = h.site ∧ t.ctx = h.ctx ∧ t.key = B.toNat) → Sets 4 s.eng.trays) ∧
          (B.toNat ≠ 0 → (∀ t ∈ rest, t.site = h.site → t.ctx = h.ctx → t.key ≠ B.toNat) →
            Sets 0 (rest ++ [⟨h.site, n, h.ctx, B.toNat, (sizeOfCode code).getD 4, bitsAt A 16 16, [], 0, false⟩]))))) ∧
    (p.part = [] → padAddress s h l A 64 = none →
      (bitsAt B 4 60 ≠ 0 → ∃ t, exec (.inboxqTake g d a b) s = .next t ∧ Ends t 3 ∧ t.eng = s.eng) ∧
      (bitsAt B 4 60 = 0 → ∀ k, s.klass? h.cls = some k →
        (pickMail (bitsAt B 0 4) (s.mailbox k) = none → ∃ t, exec (.inboxqTake g d a b) s = .next t ∧ Ends t 1 ∧ t.eng = s.eng) ∧
        (∀ r s1, pickMail (bitsAt B 0 4) (s.mailbox k) = some ⟨r, none⟩ → s.malformed r = false →
          (s.modLane h.gid l (fun y => { y with pts := max y.pts r.pts })).store16s h.gid l A (units16 r.words) = .ok () s1 →
          ∃ t, exec (.inboxqTake g d a b) s = .next t ∧
            Ends t (4 * (recFields r.words).prio + 2 ^ 8 * ((recFields r.words).theJob % 256)) ∧
            t.eng.inbox = s.eng.inbox.filter (fun y => y.seq != r.seq) ∧ SamePads s1 t)))

/-- The steps of records and trays (R299 to R305): a record lands in a free entry, a front end's record follows its class, a spilled
one returns, dispatch takes the first candidate and places its group, joins a tray or rejects it, and a tray's timer fills it. -/
def Obligations.RecordsMove : Prop :=
  ∀ (s : State) (r : TaskRec), s.noStacks → r.fault = false →
    let into (r : TaskRec) : Prop := (s.spilledHere r.ctx r.site).isEmpty = true ∧ s.entryFree r = true
    (s.eng.flights.find? (fun y => y.seq == s.arg 0) = some r → s.ctxTakes r.ctx = true →
      s.flightWaits r = false → s.backOwed r = false →
      (r.mail = none → into r → ∃ t, exec .recordArrival s = .next t ∧ t.eng.inbox = s.eng.inbox ++ [{ r with seq := s.nextId }] ∧
        t.eng.flights = s.eng.flights.filter (fun y => y.seq != r.seq)) ∧
      (∀ lid n c, r.mail = some (lid, n) → s.classPlace r.ctx lid n = .ended → s.ctx? r.ctx = some c →
        s.mem.poisoned (c.rejectsPa r.site) 4 = false → ∃ t, exec .recordArrival s = .next t ∧
        t.eng.inbox = s.eng.inbox ∧ t.eng.flights = s.eng.flights.filter (fun y => y.seq != r.seq)) ∧
      (∀ lid n site, r.mail = some (lid, n) → s.classPlace r.ctx lid n = .placed site → s.frontHolds r.ctx r.mail = false →
        into { r with site := site } → ∃ t, exec .recordArrival s = .next t ∧
        t.eng.inbox = s.eng.inbox ++ [{ r with site := site, seq := s.nextId }] ∧
        t.eng.flights = s.eng.flights.filter (fun y => y.seq != r.seq))) ∧
    (∀ lid n site, s.eng.front.find? (fun y => y.seq == s.arg 0) = some r → s.ctxTakes r.ctx = true →
      s.eng.front.find? (fun y => y.mail == r.mail && y.ctx == r.ctx) = some r → r.mail = some (lid, n) →
      s.classPlace r.ctx lid n = .placed site → into { r with site := site } →
      ∃ t, exec .mailboxAccept s = .next t ∧ t.eng.inbox = s.eng.inbox ++ [{ r with site := site, seq := s.nextId }] ∧
        t.eng.front = s.eng.front.filter (fun y => y.seq != r.seq)) ∧
    (∀ x c, s.arg 2 = 0 →
      (sortBy (fun y => y.seq) (s.eng.spill.filter (fun y =>
        y.site == ⟨s.arg 0, s.arg 1⟩ && !y.isEvent && s.ctxTakes y.ctx && !(s.ctx? y.ctx).any (fun c => c.saved.isSome)))).head? = some x →
      x.item = .rec_ r → s.ctx? x.ctx = some c → s.slotBad? c x = none → s.sharedUsed ⟨s.arg 0, s.arg 1⟩ < 60 →
      c.efs = [] → (∀ lid n, r.mail = some (lid, n) → s.classPlace r.ctx lid n ≠ .ended) → ∃ t, exec .spillReturn s = .next t ∧
        t.eng.inbox = s.eng.inbox ++ [{ r with words := (s.physReadWords (c.slotPa x) 8).1, seq := x.seq }] ∧
        t.eng.spill = s.eng.spill.filter (fun y => !(y.ctx == x.ctx && y.site == x.site && y.slot == x.slot))) ∧
    (∀ rest, s.candidates ⟨s.arg 0, s.arg 1⟩ = .one r :: rest →
      let left := s.eng.inbox.filter (fun y => y.seq != r.seq)
      (s.malformed r = true → ∃ t, exec .dispatch s = .next t ∧ t.eng.inbox = left ∧ t.groups.length = s.groups.length) ∧
      (∀ y, s.malformed r = false → s.trayOf? r = some y → y.closed s.clk = false →
        ∃ t y', exec .dispatch s = .next t ∧ t.eng.inbox = left ∧
          t.eng.trays.find? (fun u => u.site == y.site && u.num == y.num) = some y' ∧
          (s.eng.trays.find? (fun u => u.site == y.site && u.num == y.num) = some y → y'.recs = y.recs ++ [r] ∧
            y'.full = decide (y.size ≤ y.recs.length + 1))) ∧
      (s.malformed r = false → s.trayOf? r = none → s.tooLarge r = true →
        ∃ t, exec .dispatch s = .next t ∧ t.eng.inbox = left ∧ t.groups.length = s.groups.length) ∧
      (∀ c gr, s.malformed r = false → s.trayOf? r = none → s.ctx? r.ctx = some c → s.tooLarge r = false →
        s.recTurn ⟨s.arg 0, s.arg 1⟩ = true →
        ((recFields r.words).excl = false ∨ ∀ g ∈ s.groups, g.ctx = r.ctx → g.site = ⟨s.arg 0, s.arg 1⟩ → g.excl = false) →
        (s.takeInbox r).grantHere r.ctx ⟨s.arg 0, s.arg 1⟩ (s.recScratch [r]) [r.size] = some gr →
        ∃ t g, exec .dispatch s = .next t ∧ t.eng.inbox = left ∧ t.groups = s.groups ++ [g] ∧ g.ctx = r.ctx ∧
          g.site = ⟨s.arg 0, s.arg 1⟩ ∧ g.lanes.length = r.size ∧ g.started = false)) ∧
    (∀ y, s.eng.trays.find? (fun u => u.site == ⟨s.arg 0, s.arg 1⟩ && u.num == s.arg 2) = some y → y.recs ≠ [] →
      y.deadline ≤ s.clk → s.mayPlace y.ctx = true → ∃ t, exec .trayTimer s = .next t ∧
        t.eng.trays.find? (fun u => u.site == ⟨s.arg 0, s.arg 1⟩ && u.num == s.arg 2) = some { y with full := true })

/-- Placement and counters (R132, R195, R295, R305): the first unplaced class of a die takes the lowest cluster that fits it and
takes its turn there (R305), its groups start when the boundary has moved; a counter decrement takes one from its 8 bytes of memory, at U,
with the low bits of its address ignored (log 43). -/
def Obligations.PlacementAndCounters : Prop :=
  ∀ (s : State),
    (∀ c l lin site gr, s.arg 0 = 0 → s.ctx? (s.arg 1) = some c → c.launch? (s.arg 2) = some l → s.mayPlace c.num = true →
      l.waiting = false → (sortNat (l.unplaced.filter (fun n => l.dieOf n == s.arg 3))).head? = some lin →
      s.grantOnDie c.num (s.arg 3) l.scratch (List.replicate l.gpc l.gsize) = some (site, gr) → s.classTurn site = true →
      ∃ t news, exec .placement s = .next t ∧ t.groups = s.groups ++ news ∧ news.length = gr.length ∧
        t.classes.length = s.classes.length + 1 ∧ ∀ g ∈ news, g.ctx = c.num ∧ g.site = site ∧ g.started = false ∧
          g.lanes.length = l.gsize ∧ ∀ q ∈ g.paths, q.pc = BitVec.ofNat 64 l.entry) ∧
    (∀ y s1, s.arg 0 = 1 → s.headCand ⟨s.arg 1, s.arg 2⟩ = some (.tray y) → y.num = s.arg 3 → s.recTurn ⟨s.arg 1, s.arg 2⟩ = true →
      s.startCand ⟨s.arg 1, s.arg 2⟩ (.tray y) = some s1 → exec .placement s = .next s1) ∧
    (∀ k, s.klass? (s.arg 0) = some k → s.mayPlace k.ctx = true → (∃ g ∈ s.groups, g.cls = k.kid ∧ g.started = false) →
      (∀ g ∈ s.groups, g.cls = k.kid → s.imagesOwed g = false) → s.boundaryOwed k = false →
      ∃ t, exec .boundaryChangeComplete s = .next t ∧ (∀ g ∈ t.groups, g.cls = k.kid → g.started = true) ∧
        t.mem.hbm = s.mem.hbm) ∧
    (∀ (d : Decrement) (launch : Bool) pa bs s1 s2,
      s.eng.decrements.find? (fun y => y.idx == s.arg 0 && y.launch == launch) = some d →
      s.ctxRuns d.ctx = true → d.held = 0 → s.cutOff d.ctx d.addr = false →
      let va := d.addr / 8 * 8
      let ac : Actor := ⟨d.ctx, false, d.pts, ⟨d.site % 8, d.site / 8 % 16⟩⟩
      s.engTranslate ac va needRW = (.ok pa, s1) → s1.engRead ac (.glob va) 8 = (.ok bs, s2) →
      ∃ t, exec (if launch then .launchCounterDecrement else .successorDecrement) s = .next t ∧
        t.mem = (s2.engWrite ac (.glob va) (toBytes 8 ((fromBytes bs + 2 ^ 64 - 1) % 2 ^ 64))).2.mem ∧
        t.eng.decrements = s.eng.decrements.filter (fun y => y.idx != s.arg 0))

/-- The steps of a context's life (R248, R259, R265, R266, R273, R454): an idle context is resident; a violation halts and faults it and drops
its engines' work; a pre-emption reaches its boundary, completes the shell or passes its deadline; a killed context is destroyed. That
engine work and MMAs end at once is the model's (log 55). -/
def Obligations.LifeSteps : Prop :=
  ∀ (s : State) (c : Ctx), s.ctx? (s.arg 0) = some c →
    let After (i : Instr) (Q : State → Ctx → Prop) : Prop := ∃ t c', exec i s = .next t ∧ t.ctx? (s.arg 0) = some c' ∧ Q t c'
    (c.st = .running → c.viol = false → c.stopAt = none → s.workLeft c.num = false →
      After .contextIdle (fun t c' => c' = { c with st := .resident } ∧ t = { s with ctxs := t.ctxs })) ∧
    (c.viol = true → c.st = .running ∨ c.st = .resident ∨ c.st = .preempting →
      After .violation (fun t c' => c'.st = .faulted ∧ c'.viol = false ∧ c'.efs = [] ∧ c'.launches = [] ∧
        c'.saved = c.saved.map Saved.shellOnly ∧ c'.faultCause = c.faultCause ∧ c'.faultAddr = c.faultAddr ∧ c'.stopAt = some (c.stopAt.getD s.clk) ∧ (∀ g ∈ t.groups, g.ctx = c.num → g.mmas = []) ∧
        (∀ x ∈ t.eng.copies, x.ctx ≠ c.num) ∧ (∀ x ∈ t.eng.inbox, x.ctx ≠ c.num) ∧ (∀ x ∈ t.jobs, x.ctx ≠ c.num) ∧
        ∀ x ∈ t.rings, x.ctx ≠ c.num)) ∧
    (c.stopAt.isSome = true → c.boundary = false → s.boundaryReady c.num = true →
      After .preemptBoundary (fun t c' => c'.boundary = true ∧ ∀ g ∈ t.groups, g.ctx = c.num → g.frozen = true)) ∧
    (∀ n, c.stopAt = some n → c.boundary = true → c.stallEnd ≤ s.clk →
      (c.st = .preempting → s.plat.displaced.contains c.num = false → s.clk ≤ n + 3600 * c.desc.saveDl + c.saveWait →
        After .shellComplete (fun t c' => c'.st = .saved ∧ c'.stopAt = none ∧ (∀ g ∈ t.groups, g.ctx ≠ c.num) ∧
          (∀ k ∈ t.classes, k.ctx ≠ c.num) ∧ c'.clflags = [] ∧ c'.saved = some (s.savedOf c))) ∧
      (c.st = .faulted → After .shellComplete (fun t c' => c'.st = .faulted ∧ c'.stopAt = none ∧
        (∀ g ∈ t.groups, g.ctx ≠ c.num) ∧ ∀ k ∈ t.classes, k.ctx ≠ c.num))) ∧
    (∀ n, c.stopAt = some n → c.st = .preempting → n + 3600 * c.desc.saveDl + c.saveWait < s.clk →
      After .saveDeadline (fun t c' => c'.st = .faulted ∧ c'.faultCause = 0xFF ∧ c'.efs = [] ∧ c'.launches = [] ∧
        c'.saved = c.saved.map Saved.shellOnly ∧ ∀ x ∈ t.eng.inbox, x.ctx ≠ c.num)) ∧
    (c.st = .killed → ∃ t, exec .killDiscardComplete s = .next t ∧ t.ctx? c.num = none ∧ t.groups = s.groups) ∧
    (∀ x q g d, s.plat.tests[s.arg 0]? = some x → x.unit_ = .cluster d q → x.since + 3600000 ≤ s.clk → g ∈ s.groups →
      g.site = ⟨d, q⟩ → g.ctx = s.arg 1 → s.arg 1 = s.arg 0 → c.st = .running → c.viol = false →
      After .quadEmptyTimeout (fun _ c' => c'.st = .preempting ∧ c'.stopAt = some s.clk))

/-- The commands that move a context between its states (R247, R248, R271, R273, R274, R447): each at the head of its ring, from the
physical function, writes the status and the result that the rules give, or waits with its number until the context gets there. The
step's operands are the words of the command's record (log 108); a kill ends work at once (log 55), and NO_CONTEXT is function 0's answer
(log 66). -/
def Obligations.ContextCommands : Prop :=
  ∀ (s : State) (fn : Func) (q : CmdRing), s.plat.ready = true → s.func? (s.arg 0) = some fn → fn.num = 0 →
    fn.ring? (s.arg 1) = some q → q.head ≠ q.tail → s.link.pend = [] → fieldAt (s.arg 3) 32 32 = 0 →
    let Answers (i : Instr) (st res : Nat) (Q : State → Prop) : Prop := ∃ t, exec i s = .next t ∧ t.link.pend = [] ∧
      t.link.dma = s.link.dma ++ [(fn.num, s.arg 2, st + 256 * res)] ∧ Q t
    let Waits (i : Instr) (k o : Nat) (Q : State → Ctx → Prop) : Prop := ∃ t c', exec i s = .next t ∧ t.link.dma = s.link.dma ∧
      t.link.pend = [⟨fn.num, s.arg 1, s.arg 2, none, k, s.cmdCtx, o⟩] ∧ t.ctx? s.cmdCtx = some c' ∧ Q t c'
    let cmd := s.cmdCode
    let w := (s.physReadWords (s.arg 4) 16).1
    (cmd = 0x01 → s.arg 4 % 128 ≠ 0 → Answers .create 6 0 (fun t => t.ctxs = s.ctxs)) ∧
    (cmd = 0x01 → s.arg 4 % 128 = 0 → fn.holds (s.arg 4) 128 = true →
      (descOk fn w = false → Answers .create 2 0 (fun t => t.ctxs = s.ctxs)) ∧
      (descOk fn w = true → (s.ctxs.filter (fun c => c.fn == fn.num)).length < fn.quota → s.ctxs.length < 4095 →
        0 < s.arg 5 → s.arg 5 ≤ 4095 → s.ctx? (s.arg 5) = none →
        Answers .create 0 (s.arg 5) (fun t => ∃ c, t.ctx? (s.arg 5) = some c ∧ c.st = .created ∧ c.desc = descOf w ∧
          c.fn = fn.num))) ∧
    (s.ctx? s.cmdCtx = none → ∀ i ∈ [(Instr.reside, 0x02), (.preempt, 0x03), (.restore, 0x04), (.kill, 0x05), (.destroy, 0x06),
      (.load, 0x07), (.unload, 0x08), (.lqcfg, 0x09), (.ttcfg, 0x0A), (.xqcfg, 0x0B), (.peercfg, 0x0C), (.landcfg, 0x0D),
      (.cpagecfg, 0x0E)], cmd = i.2 → Answers i.1 7 0 (fun t => t.ctxs = s.ctxs)) ∧
    (∀ c, s.ctx? s.cmdCtx = some c →
      (cmd = 0x02 → c.st ≠ .created → Answers .reside 1 0 (fun t => t.ctxs = s.ctxs)) ∧
      (∀ f, cmd = 0x02 → c.st = .created → s.func? c.fn = some f → descOk f (s.physReadWords c.descAddr 16).1 = true →
        Answers .reside 0 0 (fun t => ∃ c', t.ctx? s.cmdCtx = some c' ∧ c'.st = .resident)) ∧
      (cmd = 0x03 → (c.st = .running ∨ c.st = .resident) → c.viol = false →
        Waits .preempt 0 0 (fun _ c' => c'.st = .preempting ∧ c'.stopAt = some s.clk ∧ c'.boundary = false)) ∧
      (cmd = 0x03 → c.st ≠ .running → c.st ≠ .resident → Answers .preempt 1 0 (fun t => t.ctxs = s.ctxs)) ∧
      (cmd = 0x04 → c.st ≠ .saved → Answers .restore 1 0 (fun t => t.ctxs = s.ctxs)) ∧
      (∀ sv, cmd = 0x04 → c.st = .saved → c.saved = some sv →
        ((s.shellValid c sv).1 = false → Answers .restore 3 0 (fun t => t.ctxs = s.ctxs)) ∧
        ((s.shellValid c sv).1 = true → Waits .restore 1 0 (fun _ c' => c'.st = .resident))) ∧
      (cmd = 0x05 → Waits .kill 2 0 (fun t c' => c'.st = .killed ∧ (∀ g ∈ t.groups, g.ctx ≠ c.num) ∧ (∀ k ∈ t.classes, k.ctx ≠ c.num) ∧
        (∀ x ∈ t.eng.inbox, x.ctx ≠ c.num) ∧ ∀ j ∈ t.jobs, j.ctx ≠ c.num)) ∧
      (cmd = 0x06 → (c.st = .running ∨ c.st = .preempting ∨ c.st = .killed ∨ s.busyCtx c = true) →
        Answers .destroy 1 0 (fun t => t.ctxs = s.ctxs)) ∧
      (cmd = 0x06 → (c.st = .created ∨ c.st = .resident ∨ c.st = .saved ∨ c.st = .faulted) → s.busyCtx c = false →
        Answers .destroy 0 0 (fun t => t.ctx? s.cmdCtx = none)) ∧
      (∀ r, cmd = 0x07 → (c.st = .created ∨ c.st = .resident ∨ c.st = .running) → c.stopAt = none → c.objs = [] →
        s.loadReq c (s.arg 4) = some r → Waits .load 3 1 (fun _ c' => c'.objs.map (fun o => (o.num, o.st)) = [(1, 0)])) ∧
      (cmd = 0x08 → c.objs.find? (fun o => o.num == s.arg 4 && o.st == 1) = none → Answers .unload 1 0 (fun t => t.ctxs = s.ctxs)) ∧
      (∀ o, cmd = 0x08 → c.objs.find? (fun o => o.num == s.arg 4 && o.st == 1) = some o →
        let inObj (n : Nat) : Prop := o.codeBase ≤ n ∧ n < o.codeBase + o.codeSize
        ((∃ l ∈ c.launches, inObj l.entry ∧ l.left ≠ 0) → Answers .unload 4 0 (fun t => t.ctxs = s.ctxs)) ∧
        ((∃ g ∈ s.groups, g.ctx = c.num ∧ inObj g.entry.toNat) → Answers .unload 4 0 (fun t => t.ctxs = s.ctxs)) ∧
        (s.objInUse c o = true → Answers .unload 4 0 (fun t => t.ctxs = s.ctxs)) ∧
        (s.objInUse c o = false →
          Answers .unload 0 0 (fun t => ∃ c', t.ctx? s.cmdCtx = some c' ∧ c'.objs = c.objs.filter (fun y => y.num != o.num)))))

/-- The commands that configure (R289, R296, R400, R423, R432, R434, R437 to R439, R444 to R447): their limits, DENIED for a virtual
function, BUSY while the context runs, and what each sets. The operands are the words of the record (log 108). -/
def Obligations.ConfigurationCommands : Prop :=
  ∀ (s : State) (fn : Func) (ring : CmdRing), s.plat.ready = true → s.func? (s.arg 0) = some fn →
    fn.ring? (s.arg 1) = some ring → ring.head ≠ ring.tail → s.link.pend = [] →
    let Answers (i : Instr) (st : Nat) (Q : State → Prop) : Prop := ∃ t, exec i s = .next t ∧ t.link.pend = [] ∧
      t.link.dma = s.link.dma ++ [(fn.num, s.arg 2, st)] ∧ Q t
    let cmd := s.cmdCode
    let a (n : Nat) : Nat := s.arg n
    let rs := routesOf (s.pick.drop 5)
    let ps := pairsOf (s.pick.drop 4)
    (cmd = 0 ∨ 0x16 < cmd ∨ fieldAt (s.arg 3) 32 32 ≠ 0 → ∀ i ∈ [(Instr.rcperiod, 0x13), (.scrubperiod, 0x14)],
      cmd = 0 ∨ 0x16 < cmd ∨ cmd = i.2 → Answers i.1 6 (fun t => t.ctxs = s.ctxs ∧ t.roll = s.roll ∧ t.plat = s.plat)) ∧
    (fieldAt (s.arg 3) 32 32 = 0 → fn.num ≠ 0 → ∀ i ∈ [(Instr.dbind, 0x0F), (.domain, 0x12), (.rcperiod, 0x13), (.scrubperiod, 0x14),
        (.ptpsrc, 0x15), (.funccfg, 0x16)], cmd = i.2 →
      Answers i.1 5 (fun t => t.ctxs = s.ctxs ∧ t.roll = s.roll ∧ t.plat = s.plat)) ∧
    (fieldAt (s.arg 3) 32 32 = 0 → fn.num = 0 →
      (cmd = 0x13 → a 4 = 0 ∨ 2000 < a 4 → Answers .rcperiod 6 (fun t => t.roll = s.roll)) ∧
      (cmd = 0x13 → 1 ≤ a 4 → a 4 ≤ 2000 → Answers .rcperiod 0 (fun t => t.roll = { s.roll with period := a 4 })) ∧
      (cmd = 0x14 → a 4 = 0 ∨ 168 < a 4 → Answers .scrubperiod 6 (fun t => t.plat = s.plat)) ∧
      (cmd = 0x14 → 1 ≤ a 4 → a 4 ≤ 168 → Answers .scrubperiod 0 (fun t => t.plat = { s.plat with scrubHours := a 4 })) ∧
      (cmd = 0x15 → (∃ p ∈ s.link.ports, p.num = a 4 ∧ p.mcl = false) →
        Answers .ptpsrc 0 (fun t => t.link.ptpPort = some (a 4) ∧ t.link.ptpLocked = false)) ∧
      (cmd = 0x16 → a 4 < 65 → a 6 ≤ 2 ^ 36 → a 5 + a 6 ≤ memLimit → a 7 ≤ 4095 → Answers .funccfg 0 (fun t => ∃ f,
        t.func? (a 4) = some f ∧ f.base = a 5 ∧ f.size = a 6 ∧ f.quota = a 7)) ∧
      (cmd = 0x12 → a 4 < 256 → (∀ r ∈ rs, r.1 < 256 ∧ r.1 ≠ a 4 ∧ r.2 ≠ []) → (rs.map (·.1)).Nodup →
        Answers .domain 0 (fun t => t.link.domIndex = a 4 ∧ t.link.routes = rs)) ∧
      (∀ q, cmd = 0x0F → ps.find? (fun y => y.1 == s.link.domIndex) = some q → (∀ y ∈ ps, y.1 < 256 ∧ 0 < y.2 ∧ y.2 ≤ 4095) → (ps.map (·.1)).Nodup →
        (s.ctx? q.2).isSome = true →
        Answers .dbind 0 (fun t => (t.ctx? q.2).map (·.domain) = some ((ps.head?).map (·.2))))) ∧
    (∀ c own, fieldAt (s.arg 3) 32 32 = 0 → s.ctx? s.cmdCtx = some c → (fn.num = 0 ∨ c.fn = fn.num) → s.func? c.fn = some own →
      (c.st = .running → ∀ i ∈ [(Instr.xqcfg, 0x0B), (.peercfg, 0x0C), (.landcfg, 0x0D), (.cpagecfg, 0x0E)], cmd = i.2 → Answers i.1 4 (fun t => t.link.xcfg = s.link.xcfg)) ∧
      (c.st ≠ .running →
        (cmd = 0x0B → a 4 < 8 → a 5 % 64 = 0 → a 5 < 2 ^ 56 → isPow2 (a 6) = true → 64 ≤ a 6 → a 6 ≤ 65536 →
          Answers .xqcfg 0 (fun t => (a 4, a 5, a 6, 0) ∈ (t.xcfgOf c.num).rings)) ∧
        (cmd = 0x0C → a 5 ≤ 65536 → a 4 < 2 ^ 56 →
          Answers .peercfg 0 (fun t => (t.xcfgOf c.num).peerBase = a 4 ∧ (t.xcfgOf c.num).peerCount = a 5)) ∧
        (cmd = 0x0D → a 5 ≤ 4096 → a 4 < 2 ^ 56 → a 6 < 2 ^ 32 → Answers .landcfg 0 (fun t => (t.xcfgOf c.num).landBase = a 4 ∧
          (t.xcfgOf c.num).landCount = a 5 ∧ (t.xcfgOf c.num).landKey = a 6)) ∧
        (cmd = 0x0E → a 4 < 8 → a 5 % 2 ^ 21 = 0 → fn.holds (a 5) (2 ^ 21) = true →
          Answers .cpagecfg 0 (fun t => (a 4, a 5, 0) ∈ (t.xcfgOf c.num).pages))) ∧
      (cmd = 0x09 → 16 ≤ a 4 ∨ 4 ≤ a 5 ∨ isPow2 (a 7) = false ∨ a 7 < 16 ∨ 4096 < a 7 →
        Answers .lqcfg 6 (fun t => t.ctxs = s.ctxs)) ∧
      (cmd = 0x09 → a 4 < 16 → a 5 < 4 → isPow2 (a 7) = true → 16 ≤ a 7 → a 7 ≤ 4096 → a 6 % 16 = 0 → own.holds (a 6) (16 * a 7) = true →
        ((∃ q ∈ c.queues, q.num = a 4 ∧ q.taken ≠ q.written) → Answers .lqcfg 4 (fun t => t.ctxs = s.ctxs)) ∧
        ((∀ q ∈ c.queues, q.num = a 4 → q.taken = q.written) → Answers .lqcfg 0 (fun t => ∃ c', t.ctx? s.cmdCtx = some c' ∧
          c'.queues = ⟨a 4, a 5, a 6, a 7, 0, 0⟩ :: c.queues.filter (fun y => y.num != a 4)))) ∧
      (cmd = 0x0A → a 5 ≤ 256 → a 4 % 32 = 0 → own.holds (a 4) (32 * a 5) = true → Answers .ttcfg 0 (fun t => ∃ c', t.ctx? s.cmdCtx = some c' ∧
        c'.ttBase = a 4 ∧ c'.ttCount = a 5 ∧ c'.tt = [])))

/-- What the host does besides commands (R289, R446, R449, R457): doorbells set tails or are logged, a BAR2 write puts its bytes in the
function's window and nowhere beyond memory, and an attestation answers the measurements in order, or the platform log. A write beyond memory is the one stop (log 84), and a doorbell
beyond a ring's entries is ignored (log 109). -/
def Obligations.HostWrites : Prop :=
  (∀ (s : State), s.plat.ready = true →
    (∀ fn q, s.func? (s.arg 0) = some fn → fn.ring? (s.arg 1) = some q →
      ∃ t f, exec .commandDoorbell s = .next t ∧ t.func? (s.arg 0) = some f ∧
        f.ring? (s.arg 1) = some (if (s.arg 2 + 2 ^ 32 - q.head) % 2 ^ 32 ≤ q.entries then { q with tail := s.arg 2 % 2 ^ 32 } else q)) ∧
    (∀ fn, s.func? (s.arg 0) = some fn →
      let bs : List Byte := (s.pick.drop 2).map (BitVec.ofNat 8)
      s.arg 1 + bs.length ≤ fn.size → cellsWf s.mem.hbm = true →
      (fn.base + s.arg 1 + bs.length ≤ memLimit → ∃ t, exec .hostBar2Write s = .next t ∧ cellsWf t.mem.hbm = true ∧
        (∀ k, k < bs.length → cellAt t.mem.hbm (fn.base + s.arg 1 + k) = bs.getD k 0) ∧
        (∀ k, k < fn.base + s.arg 1 ∨ fn.base + s.arg 1 + bs.length ≤ k → cellAt t.mem.hbm k = cellAt s.mem.hbm k) ∧
        SamePads s t) ∧
      (memLimit < fn.base + s.arg 1 + bs.length → exec .hostBar2Write s = .fault (.noSuchMemory (fn.base + s.arg 1)))) ∧
    (s.arg 0 ≠ 1 → ∃ t a b, exec .spdmRequest s = .next t ∧ t.link.spdm = s.link.spdm ++ [[s.plat.fwDigest, s.plat.fwVersion,
      s.plat.dtVersion, s.plat.dtDigest] ++ s.sparesInUse ++ [a, b]]) ∧
    (s.arg 0 = 1 → ∃ t, exec .spdmRequest s = .next t ∧
      t.link.spdm = s.link.spdm ++ [s.plat.log.flatMap (fun e => [e.1, e.2])])) ∧
  (∀ (s : State),
    let w := BitVec.ofNat 64 (s.arg 1)
    (s.ctx? (bitsAt w 0 12) = none → exec .launchDoorbell s = .next (s.logPlat 1 w.toNat)) ∧
    (∀ c, s.ctx? (bitsAt w 0 12) = some c →
      (c.fn ≠ s.arg 0 ∨ bitsAt w 48 16 ≠ 0 → exec .launchDoorbell s = .next (s.logPlat 1 w.toNat)) ∧
      (∀ q, c.fn = s.arg 0 → bitsAt w 48 16 = 0 → c.queues.find? (fun y => y.num == bitsAt w 12 4) = some q →
        ∃ t c', exec .launchDoorbell s = .next t ∧ t.ctx? (bitsAt w 0 12) = some c' ∧
          c'.queues.find? (fun y => y.num == bitsAt w 12 4) = some (if q.entries < (bitsAt w 16 32 + 2 ^ 32 - q.taken) % 2 ^ 32 then q
            else { q with written := bitsAt w 16 32 }))))

/-- The loader's end and launches (R276 to R278, R289 to R291, R296, R297): a refused object goes and its result record shows why, with
status 9, NO_SPACE, for one that does not fit, and a sound one takes its number, at addresses that the step's operands name (logs 68, 91); the queue to be served gives its entry and its
status is written; a timetable starts, skips, holds or pre-empts. -/
def Obligations.LoadsAndLaunches : Prop :=
  ∀ (s : State) (c : Ctx), s.ctx? (s.arg 0) = some c →
    let After (i : Instr) (Q : State → Ctx → Prop) : Prop := ∃ t c', exec i s = .next t ∧ t.ctx? (s.arg 0) = some c' ∧ Q t c'
    (∀ ob, c.objs.find? (fun o => o.num == s.arg 1 && o.st == 0) = some ob →
      let Gone : Prop := After .loadChecksDone (fun _ c' => c'.objs = c.objs.filter (fun y => y.num != ob.num))
      let record (r : LoadReq) (st d : Nat) (l : List Offence) : List Word :=
        [BitVec.ofNat 64 (0x4C524B5A + 2 ^ 32 * st), BitVec.ofNat 64 (min l.length r.cap + 2 ^ 32 * l.length), BitVec.ofNat 64 d, 0, 0, 0, 0,
          0] ++ (l.take (min l.length r.cap)).flatMap Offence.words
      let Refused (r : LoadReq) (st d : Nat) (l : List Offence) : Prop := After .loadChecksDone (fun t c' =>
        c'.objs = c.objs.filter (fun y => y.num != ob.num) ∧ t.mem = (s.loaderWrite c.num r.res (record r st d l)).mem)
      (s.loadReq c ob.image = none → Gone) ∧
      (∀ r, s.loadReq c ob.image = some r →
        let o := s.objView c.desc.ptRoot c.num r.obj r.size
        let places := o.places ((s.pick.drop 2).take 3)
        let fits := fitsSpace ((s.mem.pages c.desc.ptRoot).map (·.1)) r.hint (places.map (fun p => (2 ^ (o.sect p.sect).alog, p.size)))
        (∀ st d l, o.verdict = some (st, d, l) → Refused r st d l) ∧
        (o.verdict = none → fits = false → Refused r 9 0 []) ∧
        (∀ m, o.verdict = none → fits = true → mapPlaces c.desc.ptRoot places ⟨s, s.pick.drop 5⟩ = some m →
          (∀ p ∈ places, p.va % 2 ^ (o.sect p.sect).alog = 0) → (r.hint = 0 ∨ s.arg 2 = r.hint) →
          After .loadChecksDone (fun _ c' =>
            ∃ n, c'.objs = updWhere (fun y => y.num == ob.num) (fun _ => { o.toObj ob.num places with pts := n }) c.objs)))) ∧
    (∀ q, c.queues.find? (fun y => y.num == s.arg 1) = some q → s.takesLaunches c = true → q.taken ≠ q.written →
      (∀ x ∈ s.ctxs, ∀ y ∈ s.offers x, y = (q.prio, c.num, q.num) ∨ q.prio < y.1) →
      (∀ i, i < c.ttCount → s.ttReady c i = true → (s.ttAt c i).queue ≠ q.num) →
      let rd := (s.serve (q.prio, c.num, q.num)).physReadWords (q.base + 16 * (q.taken % q.entries)) 2
      let packet := (rd.1.getD 0 0).toNat
      let stat := (rd.1.getD 1 0).toNat
      let s1 := rd.2.modCtx c.num (fun x => { x with
        queues := updWhere (fun y => y.num == q.num) (fun y => { y with taken := (y.taken + 1) % 2 ^ 32 }) x.queues })
      (stat % 8 ≠ 0 → exec .launchTake s = .next (s1.logPlat 2 stat)) ∧
      (stat % 8 = 0 → (s.func? c.fn).any (fun f => f.holds stat 8) = true →
        (packet % 64 ≠ 0 → exec .launchTake s = .next (s1.physWrite stat (toBytes 8 1))) ∧
        (∀ v o s2, s1.tryLaunch c packet q.num none = (v, o, s2) →
          exec .launchTake s = .next (s2.physWrite stat (toBytes 8 v)) ∧
          ∀ lid, o = some lid → v = 0 ∧ ∃ c', s2.ctx? (s.arg 0) = some c' ∧ ∃ l ∈ c'.launches, l.lid = lid))) ∧
    (let i := s.arg 1
      let x := s.ttAt c i
      let e := c.ttEntry i
      let served : Prop := s.nextQueue = some (c.prioOf x.queue, c.num, x.queue)
      i < c.ttCount → s.takesLaunches c = true → x.on = true →
      (e.held = true → c.ttRunning e = false → served →
        After .timetableStart (fun _ c' => (c'.ttEntry i).nextK = e.nextK ∧ (c'.ttEntry i).held = false)) ∧
      (e.held = false → x.start + e.nextK * x.period ≤ s.ptp → x.period ≠ 0 →
        (c.ttRunning e = false → served → After .timetableStart (fun _ c' =>
          (c'.ttEntry i).nextK = (s.ptp - x.start) / x.period + 1 ∧ (c'.ttEntry i).held = false)) ∧
        (c.ttRunning e = true → After .timetableStart (fun _ c' =>
          (c'.ttEntry i).nextK = (s.ptp - x.start) / x.period + 1 ∧ (c'.ttEntry i).held = decide (x.rule ≠ 0) ∧
          (c'.ttEntry i).running = e.running ∧ c'.st = (if x.rule = 2 then .preempting else c.st)))))

/-- Ports and the time base (R427 to R433, R448): training, lane failures, retraining with its stall, timeouts, replays, route switches,
PTP, and the commands PORTCFG and PORTSTAT (logs 76, 77). -/
def Obligations.PortsAndTime : Prop :=
  ∀ (s : State) (p : Port), p.num < 48 →
    let After (i : Instr) (q : Port) : Prop := ∃ t, exec i s = .next t ∧ t.port? p.num = some q
    let again (q : Port) : Port := if s.savesOn (p.num / 6) then { q with pending := true }
      else { q with st := .retraining, pending := false, attempts := 0, retrains := min (q.retrains + 1) (2 ^ 32 - 1), outSince := s.clk }
    let less : Port := if s.arg 1 = 0 then { p with dataBad := min 4 (p.dataBad + 1) } else { p with spareBad := true }
    (s.port? (s.arg 0) = some p →
      (p.st = .training ∨ p.st = .retraining →
        (4 ≤ p.good → After .trainingEnd { p with lanes := 4, st := if p.dataBad = 0 then .up else .degraded }) ∧
        (2 ≤ p.good → p.good < 4 → After .trainingEnd { p with lanes := 2, st := .degraded }) ∧
        (p.good < 2 → p.attempts < 2 → After .trainingEnd { p with attempts := p.attempts + 1 }) ∧
        (p.good < 2 → 2 ≤ p.attempts → After .trainingEnd { p with st := .failed }) ∧
        (p.mcl = true → p.outSince + 36000000 ≤ s.clk → After .mclPortTimeout { p with st := .failed })) ∧
      (s.arg 1 = 0 ∨ p.spareBad = false →
        (p.st = .up → s.arg 1 ≠ 0 → After .laneRetire less) ∧
        (p.st = .up → s.arg 1 = 0 → p.spare = true → After .laneRetire { less with st := .degraded }) ∧
        (p.st = .up → s.arg 1 = 0 → p.spare = false → After .laneRetire (again less)) ∧
        (p.st = .degraded → p.lanes = 4 → After .laneRetire (again less)) ∧
        (p.st = .degraded → p.lanes ≠ 4 → After .laneRetire { less with st := .failed, outSince := s.clk })) ∧
      (p.carries = true → After .retrainRequest (again p)) ∧
      (p.carries = true → p.mcl = true → s.arg 1 = 0 → After .mclFlitReplay { p with retried := p.retried + 1 })) ∧
    (∃ t, exec .linkClockRelock s = .next t ∧ t.link.stalls = s.link.stalls.filter (fun x => x.1 != s.arg 0) ∧
      t.link.ports = s.link.ports) ∧
    (∀ n, s.routePort? (s.arg 0) = some n → (∀ m ∈ s.link.mcl, m.pkg = s.arg 0 → m.port = n) → ∃ t, exec .routeSwitch s = .next t ∧
      t.link.via = (s.arg 0, n) :: s.link.via.filter (fun u => u.1 != s.arg 0)) ∧
    (s.ptpUp = true →
      (s.link.ptpLocked = false ∨ s.link.ptpSeen + 7200000000 ≤ s.clk ∨ s.ptp + 1000 < s.arg 0 ∨ s.arg 0 + 1000 < s.ptp →
        ∃ t, exec .ptpMessage s = .next t ∧ t.ptp = s.arg 0 ∧ t.link.ptpLocked = true ∧ t.link.ptpSeen = s.clk) ∧
      (s.link.ptpLocked = true → s.clk < s.link.ptpSeen + 7200000000 → s.ptp ≤ s.arg 0 + 1000 → s.arg 0 ≤ s.ptp + 1000 →
        ∃ t, exec .ptpMessage s = .next t ∧ t.ptp = s.ptp ∧ t.link.ptpSeen = s.clk ∧
          t.link.ptpRate = (if s.arg 0 < s.ptp then -1 else if s.arg 0 = s.ptp then 0 else 1) * min ((s.arg 1 : Nat) : Int) 3600)) ∧
    (s.link.ptpLocked = true → (s.ptpUp = false ∨ s.link.ptpSeen + 7200000000 ≤ s.clk) →
      exec .ptpHoldover s = .next { s with link := { s.link with ptpLocked := false } }) ∧
    (∀ fn ring, s.plat.ready = true → s.func? (s.arg 0) = some fn → fn.num = 0 → fn.ring? (s.arg 1) = some ring →
      ring.head ≠ ring.tail → s.link.pend = [] → s.port? (s.arg 4) = some p → fieldAt (s.arg 3) 32 32 = 0 →
      let Answers (i : Instr) (st res : Nat) (q : Port) : Prop := ∃ t, exec i s = .next t ∧
        t.link.dma = s.link.dma ++ [(fn.num, s.arg 2, st + 256 * res)] ∧ t.port? p.num = some q
      (s.cmdCode = 0x11 → Answers .portstat 0 (p.word % 2 ^ 56) p) ∧
      (s.cmdCode = 0x10 → s.arg 5 < 2 → s.arg 6 < 3 →
        (s.arg 7 = 1 → p.st = .down → Answers .portcfg 0 0 { p with
          mcl := s.arg 5 == 1, rate := s.arg 6, st := .training, attempts := 0, outSince := s.clk }) ∧
        (s.arg 7 = 1 → p.st = .training → Answers .portcfg 1 0 p) ∧
        (s.arg 7 = 0 → p.st ≠ .down → p.mcl = true →
          Answers .portcfg 0 0 { p with st := .down, lanes := 0, pending := false })) ∧
      (s.cmdCode = 0x10 → 2 ≤ s.arg 5 ∨ 3 ≤ s.arg 6 → Answers .portcfg 6 0 p))

/-- The transport (R438 to R444): slots are taken or refused, packets acknowledged, repeated or lost, deposited once where their key
is right, and messages consumed or abandoned; the congestion page counts its updates. Tables are read at virtual addresses (log 73). -/
def Obligations.Transport : Prop :=
  (∀ (s : State),
    (∀ c x base slots head bs s1, s.ctx? (s.arg 0) = some c → s.xcfg? (s.arg 0) = some x →
      x.rings.find? (fun r => r.1 == s.arg 1) = some (s.arg 1, base, slots, head) →
      let va := base + 64 * (head % slots)
      let v := fromBytes bs
      let cmd := s.link.sends.find? (fun y => y.ctx == c.num && y.va == va)
      let a := xActor c.num (s.arg 1) (cmd.any (·.privS)) ((cmd.map (·.pts)).getD s.latest)
      let x1 : XCfg := { x with rings := x.rings.map (fun r => if r.1 = s.arg 1 then (r.1, r.2.1, r.2.2.1, head + 1) else r) }
      let Head (t : State) (n : Nat) : Prop := ((t.xcfg? (s.arg 0)).bind (fun y => y.rings.find? (fun r => r.1 == s.arg 1))) =
        some (s.arg 1, base, slots, n)
      (c.st = .running ∨ c.st = .resident) → c.viol = false → c.stopAt = none →
      (s.link.tx.filter (fun m => m.die == s.arg 1)).length < 256 → s.xHeld c.num (slotRef va) = false →
      (s.ethPorts (s.arg 1) = [] ∨ s.arg 2 ∈ s.ethPorts (s.arg 1)) → s.arg 2 / 6 = s.arg 1 → s.cutOff c.num va = false →
      s.link.tx.find? (fun m => m.ctx == c.num && m.die == s.arg 1 && !m.ready) = none →
      s.engGather a (.glob va) 16 4 = (.ok bs, s1) →
      (fieldAt v 216 8 ≠ 1 → exec .sendSlotTake s = .next s1) ∧
      (∀ ts s2, fieldAt v 216 8 = 1 → s1.engWrite a (.glob (va + 27)) [2] = (.ok ts, s2) →
        let m := txMsg v s2.nextId c.num (s.arg 1) va (s.arg 2) s.link.msgSeq s.clk cmd s.latest
        let s3 := s2.setXcfg x1
        (sendOk v = false ∨ s2.jobOpen c.num m.job = false → ∃ t, exec .sendSlotTake s = .next t ∧ Head t (head + 1) ∧
          t.link.tx = s2.link.tx.filter (fun y => y.mid != m.mid)) ∧
        (sendOk v = true → s2.jobOpen c.num m.job = true →
          let at_ := x.peerBase + 32 * fieldAt v 160 16
          let s4 : State := { s3 with nextId := s2.nextId + 1, link := { s3.link with tx := s2.link.tx ++ [m], msgSeq := s2.link.msgSeq + 1 } }
          (x.peerCount ≤ fieldAt v 160 16 → ∃ t, exec .sendSlotTake s = .next t ∧ Head t (head + 1) ∧ ∀ y ∈ t.link.tx, y.mid ≠ m.mid) ∧
          (∀ b s5, fieldAt v 160 16 < x.peerCount → s4.receives c.num = true → s4.cutOff c.num at_ = false →
            s4.xHeld c.num (srcRef m.mid) = false → s4.engGather m.actor (.glob at_) 16 2 = (.ok b, s5) →
            (fieldAt (fromBytes b) 192 64 ≠ 1 → ∃ t, exec .sendSlotTake s = .next t ∧ Head t (head + 1) ∧
              ∀ y ∈ t.link.tx, y.mid ≠ m.mid) ∧
            (fieldAt (fromBytes b) 192 64 = 1 → ∃ t, exec .sendSlotTake s = .next t ∧ Head t (head + 1) ∧
              t.link.tx.length = s2.link.tx.length + 1 ∧ ∃ n ∈ t.link.tx, n.mid = m.mid ∧ n.ready = true ∧ n.len = fieldAt v 128 32 ∧
                n.src = fieldAt v 0 64 ∧ n.off = fieldAt v 64 64 ∧ n.slotVa = va ∧ n.acked = [] ∧ n.port = s.arg 2 ∧
                n.addr = fieldAt (fromBytes b) 0 128 ∧ n.fep = fieldAt (fromBytes b) 128 32 ∧
                n.rkey = fieldAt (fromBytes b) 160 32))))) ∧
    (∀ m, s.tx? (s.arg 0) = some m → s.arg 1 < m.packets → s.arg 1 ∉ m.acked → m.ready = true →
      (∀ bs s1, s.xHeld m.ctx (srcRef m.mid) = false → s.ethPorts m.die ≠ [] → s.receives m.ctx = true →
        s.cutOff m.ctx (m.src + 4096 * s.arg 1) = false → (s.arg 3 ≠ 1 ∨ m.acq = true) →
        s.engGather m.actor (.glob (m.src + 4096 * s.arg 1)) 16 (min 4096 (m.len - 4096 * s.arg 1) / 16) = (.ok bs, s1) →
        (m.acked.length + 1 < m.packets → ∃ t, exec .packetAck s = .next t ∧ t.tx? (s.arg 0) = some { m with
            acked := s.arg 1 :: m.acked, progress := s.clk, refused := m.refused || s.arg 2 != 0 } ∧
          t.link.sent = s1.link.sent ++ [⟨m.mid, s.arg 1, m.addr, m.fep, m.rkey, m.landing, m.off, m.len, m.ctag, bs⟩]) ∧
        (m.packets ≤ m.acked.length + 1 → ∃ t, exec .packetAck s = .next t ∧ t.tx? (s.arg 0) = none)) ∧
      (let had := ((m.tries.find? (fun t => t.1 == s.arg 1)).map (·.2)).getD 0;
        (16 ≤ had ∨ m.progress + 36000000 ≤ s.clk → ∃ t, exec .retransmitTimeout s = .next t ∧ t.tx? (s.arg 0) = none) ∧
        (had < 16 → s.clk < m.progress + 36000000 → ∃ t, exec .retransmitTimeout s = .next t ∧ t.tx? (s.arg 0) = some { m with
          retx := m.retx + 1, tries := (s.arg 1, had + 1) :: m.tries.filter (fun t => t.1 != s.arg 1) }))) ∧
    (∀ x base n, s.xcfg? (s.arg 0) = some x → x.pages.find? (fun y => y.1 == s.arg 1) = some (s.arg 1, base, n) →
      3600 * (n + 1) ≤ s.clk → ∃ t, exec .congestionUpdate s = .next t ∧ ((t.xcfg? (s.arg 0)).bind (fun y => y.pages.find? (fun z => z.1 == s.arg 1))) =
        some (s.arg 1, base, n + 1) ∧ ∀ q ∈ statsOf (s.arg 0) (s.arg 1) (s.pick.drop 2), q ∈ t.link.peers)) ∧
  (∀ (s : State),
    (let key := s.arg 2
      let ctx := s.arg 3
      let bs : List Byte := (s.pick.drop 10).map (BitVec.ofNat 8)
      s.arg 1 ∈ s.ethPorts (s.arg 0) → s.receives ctx = true → (key, ctx, s.arg 0) ∉ s.link.ended → bs.length = min 4096 (s.arg 7 - 4096 * s.arg 9) →
      4096 * s.arg 9 < s.arg 7 → s.arg 7 % 16 = 0 → s.arg 6 % 16 = 0 →
      (s.link.rx.find? (fun r => r.is key ctx (s.arg 0)) = none →
        (s.arg 4 ≠ (s.xcfgOf ctx).landKey ∨ (s.xcfgOf ctx).landCount ≤ s.arg 5) →
        ∃ t r, exec .packetArrival s = .next t ∧ t.link.rx = s.link.rx ++ [r] ∧ r.refused = true ∧ r.key = key ∧ r.ctx = ctx ∧
          t.link.replies = s.link.replies ++ [(key, ctx, s.arg 0, true)] ∧ t.mem = s.mem) ∧
      (∀ r, s.link.rx.find? (fun r => r.is key ctx (s.arg 0)) = some r → r.refused = false → r.rest = [] →
        s.arg 9 ∉ r.got → r.len = s.arg 7 →
        let va := r.base + r.off + 4096 * s.arg 9
        s.cutOff ctx va = false →
        exec .packetArrival s = .next (s.depositUnits r (s.xOwn ctx (s.arg 0)) (s.arg 9) va (chunksOf 16 bs)))) ∧
    (∀ (r : RxMsg) (a : Actor) (i va : Nat) (u : List Byte) (us : List (List Byte)),
      s.link.rx.find? (fun y => y.is r.key r.ctx r.die) = some r →
      (∃ r', (s.depositUnits r a i va []).link.rx.find? (fun y => y.is r.key r.ctx r.die) = some r' ∧ r'.got = i :: r.got ∧
        r'.seen = s.clk ∧ (s.depositUnits r a i va []).mem = s.mem) ∧
      (∀ ts s1, s.engWrite a (.glob va) u = (.ok ts, s1) → s.depositUnits r a i va (u :: us) =
        (s1.modRx r.key r.ctx r.die (fun y => { y with pts := max y.pts ts })).depositUnits r a i (va + 16) us) ∧
      (∀ s1, s.engWrite a (.glob va) u = (.pageFault, s1) → s1.link.rx = s.link.rx →
        ∃ r', (s.depositUnits r a i va (u :: us)).link.rx.find? (fun y => y.is r.key r.ctx r.die) = some r' ∧ r'.got = r.got ∧
          r'.rest = r.rest ++ [(i, va, (u :: us).flatten)])) ∧
    (∀ r, s.link.rx.find? (fun r => r.is (s.arg 0) (s.arg 1) (s.arg 2)) = some r →
      let Gone (i : Instr) : Prop :=
        ∃ t, exec i s = .next t ∧ (s.arg 0, s.arg 1, s.arg 2) ∈ t.link.ended ∧ t.link.rx.find? (fun r => r.is (s.arg 0) (s.arg 1) (s.arg 2)) = none
      (∀ la s1 c, r.refused = false → r.rest = [] → r.packets ≤ r.got.length → s.receives r.ctx = true →
        s.cutOff r.ctx ((s.xcfgOf r.ctx).landBase + 64 * r.landing) = false → s.xHeld r.ctx (rxRef r.key) = false →
        s.ctx? r.ctx = some c → (c.st = .running ∨ c.st = .resident) → c.viol = false → c.stopAt = none → c.saved = none →
        s.landing (s.xcfgOf r.ctx) r.die r.landing = (.ok la, s1) → la.ckind ≠ 3 →
        (la.ckind = 2 → ∀ k m, s1.completionPad r.ctx la = some (k, m) →
          ∃ pd, s1.pad? k.kid m = some pd ∧ la.coff + 8 * (r.ctag / 64) + 8 ≤ pd.size) → Gone .transportCompletion ∧
        (la.ckind = 0 → ∃ t, exec .transportCompletion s = .next t ∧ (r.key, r.ctx, r.die, false) ∈ t.link.replies)) ∧
      (r.seen + 72000000 ≤ s.clk → (r.refused = true ∨ r.got.length < r.packets) → Gone .receiveAbandon)))

/-- Timestamps, poison and keys (R204, R216, R235, R421 to R424): a tick adds one to every lane's PTS, once in 128 clk; a rebase lowers
every timestamp by the amount the step names (log 78) and fires every watch; a poisoned granule is marked, logged, and its channel tested; a scrub pass takes the next key
version, under which it brings every granule (logs 79, 80), and ends with the old one erased. -/
def Obligations.TimestampsAndKeys : Prop :=
  ∀ (s : State),
    (∀ gid g i, s.group? gid = some g → i < g.size → 128 * (s.ticks + 1) ≤ s.clk → ∃ t, exec .ptsTick s = .next t ∧
      t.lane gid i = { g.lane i with pts := (g.lane i).pts + 1 } ∧ t = { s with groups := t.groups, ticks := s.ticks + 1 }) ∧
    (∀ gid g i, s.group? gid = some g → i < g.size →
      ∃ t, exec .rebase s = .next t ∧ (t.lane gid i).pts = (g.lane i).pts - s.arg 0 ∧ SameRegs (t.lane gid i) (g.lane i) ∧
        (∀ w, (t.lane gid i).watch = some w → w.fired.isSome = true) ∧ t.mem.hbm = s.mem.hbm ∧
        SamePads s t ∧ t.mem.homes = s.mem.homes.map (fun h => { h with wts := h.wts - s.arg 0, rts := h.rts - s.arg 0 })) ∧
    (64 * s.arg 0 < memLimit → ∃ t, exec .poison s = .next t ∧ t.mem.poisoned (64 * s.arg 0) 64 = true ∧ t.mem.hbm = s.mem.hbm ∧
      (3, s.arg 0) ∈ t.plat.log ∧
      let u := PUnit_.channel (granuleStack (s.arg 0)) (s.arg 1)
      (u ∉ s.plat.retired → u ∉ s.plat.suspects → (∀ x ∈ s.plat.tests, x.unit_ ≠ u) → s.ueRecent u = false →
        t.plat.tests = s.plat.tests ++ [⟨u, s.clk⟩])) ∧
    (s.plat.keyOld = none → s.plat.ready = true →
      (s.plat.scrubStart = 0 ∨ s.plat.scrubStart + 12960000000000 * s.plat.scrubHours ≤ s.clk) → ∃ t, exec .scrubPassStart s = .next t ∧ t.plat.keyOld = some s.plat.keyCur ∧
      t.plat.keyCur = (s.plat.keyCur + 1) % 16 ∧ t.mem = { s.mem with fresh := [] } ∧ ∀ k, t.keyVersion k = s.keyVersion k) ∧
    (∀ n, s.plat.scrubNext.find? (fun x => x.1 == s.arg 0) = some (s.arg 0, n) → n < stackGranules → s.plat.keyOld.isSome = true →
      ∃ t, exec .scrubGranule s = .next t ∧ t.plat.scrubNext.find? (fun x => x.1 == s.arg 0) = some (s.arg 0, n + 1) ∧
        t.mem.hbm = s.mem.hbm ∧ (s.arg 1 = 1 → t.mem.poisoned (64 * granuleOf (s.arg 0) n) 64 = true) ∧
        (s.arg 0 < 16 → t.keyVersion (granuleOf (s.arg 0) n) = s.plat.keyCur) ∧ (s.arg 1 ≠ 1 → t.mem = s.mem)) ∧
    (s.plat.scrubNext.length = 16 → (∀ x ∈ s.plat.scrubNext, stackGranules ≤ x.2) → ∃ t, exec .keyErase s = .next t ∧
      t.plat.keyOld = none ∧ t.plat.keyCur = s.plat.keyCur ∧ t.mem = s.mem)

/-- Self-test, sparing, throttling, start-up, firmware and decode tables (R281, R452 to R456); what a module reset keeps is log 107. -/
def Obligations.PlatformSteps : Prop :=
  ∀ (s : State) (u : PUnit_),
    let under := s.plat.tests.any (fun t => t.unit_ == u)
    let retiredBy (t : State) : Prop := u ∈ t.plat.retired ∧ ∀ x ∈ t.plat.tests, x.unit_ ≠ u
    (unitOf (s.pick.drop 1) = some u →
      (s.arg 0 = 0 → under = false → u ∉ s.plat.retired →
        (u ∉ s.plat.suspects → ∃ t, exec .selfTest s = .next t ∧ t.plat.tests = s.plat.tests ++ [⟨u, s.clk⟩]) ∧
        (u ∈ s.plat.suspects → ∃ t, exec .selfTest s = .next t ∧ retiredBy t)) ∧
      (under = true → s.groups.any (unitHolds u) = false →
        (s.arg 0 = 1 → ∃ t, exec .selfTest s = .next t ∧ t.plat.suspects = u :: s.plat.suspects ∧ t.plat.retired = s.plat.retired) ∧
        (s.arg 0 = 2 → ∃ t, exec .selfTest s = .next t ∧ retiredBy t)) ∧
      (s.arg 0 = 3 → u ∉ s.plat.retired →
        (s.ueRecent u = true → ∃ t, exec .selfTest s = .next t ∧ retiredBy t) ∧
        (s.ueRecent u = false → ∃ t, exec .selfTest s = .next t ∧ t.plat.ueAt.head? = some (u, s.clk)))) ∧
    (unitOf s.pick = some u → u ∈ s.plat.retired →
      (s.spareFor u = true → s.vacant u = true → ∃ t, exec .spareMapIn s = .next t ∧ t.plat.spared.getLast? = some u ∧
        (∀ v, unitPartOf v u = true → v ∉ t.plat.retired) ∧ t.mem.hbm = s.mem.hbm) ∧
      (s.spareFor u = false →
        (∀ d c q, u = .quad d c q → ∃ t, exec .unitFailure s = .next t ∧ .cluster d c ∈ t.plat.retired) ∧
        (∀ d c, u = .cluster d c → ∃ t, exec .unitFailure s = .next t ∧ ⟨d, c⟩ ∉ t.plat.clusters) ∧
        (∀ p l q, u = .lane p l → s.port? p = some q → q.good < 2 → q.st ≠ .down → ∃ t, exec .unitFailure s = .next t ∧
          (t.port? p).map (·.st) = some .failed))) ∧
    (let site : Site := ⟨s.arg 0, s.arg 1⟩
      let th := s.throttleOf site
      let want := min (s.arg 2) 8
      s.arg 0 < 8 → s.arg 1 < 16 → ∃ t, exec .throttleMeasure s = .next t ∧ (t.throttleOf site).step = (if th.step < want then want
        else if want < th.step ∧ th.since + 360000 ≤ s.clk then th.step - 1 else th.step) ∧
        (t.throttleOf site).temp = s.arg 3 % 256) ∧
    (s.arg 0 = 0 → exec .moduleReset s = .next { State.reset with
      agenda := s.agenda, freeN := s.freeN, nextId := s.nextId, plat := { State.reset.plat with fusedMin := s.plat.fusedMin } }) ∧
    (3 ≤ s.arg 0 → s.plat.hostUp = true → s.plat.ready = false → (∀ d n, d < 8 → n < 16 → s.clusterDone d n = true) → s.arg 3 = 1 →
      s.arg 6 = 1 → s.plat.fusedMin ≤ s.arg 1 → s.plat.fusedMin ≤ s.arg 7 →
      ∃ t, exec .moduleReset s = .next t ∧ t.plat.ready = true ∧ t.plat.fwVersion = s.arg 1 ∧ t.plat.fusedMin = s.arg 1) ∧
    (s.arg 0 < 8 → s.arg 1 < 16 → 8 ≤ s.plat.dies.length → s.clusterDone (s.arg 0) (s.arg 1) = false →
      (∀ d n, d < 8 → n < 16 → 16 * d + n < 16 * s.arg 0 + s.arg 1 → s.clusterDone d n = true) →
      3600 * (50 * s.arg 0 + 400 + 2 * s.arg 1) ≤ s.clk → s.arg 2 = 0 →
      ∃ t, exec .clusterPowerUp s = .next t ∧ t.plat.clusters = s.plat.clusters ++ [⟨s.arg 0, s.arg 1⟩]) ∧
    (s.plat.ready = true →
      (s.arg 2 = 1 → s.arg 3 = 1 → s.plat.fusedMin ≤ s.arg 0 → ∃ t, exec .firmwareUpdate s = .next t ∧
        t.plat.fwVersion = s.arg 0 ∧ t.plat.fwDigest = s.arg 1 ∧ t.plat.fusedMin = s.arg 0 ∧
        t.link.dma = s.link.dma ++ [(0, s.arg 4, 0)]) ∧
      (s.arg 2 ≠ 1 ∨ s.arg 3 ≠ 1 ∨ s.arg 0 < s.plat.fusedMin → ∃ t, exec .firmwareUpdate s = .next t ∧
        t.plat.fwVersion = s.plat.fwVersion ∧ t.plat.fwDigest = s.plat.fwDigest ∧ t.plat.fusedMin = s.plat.fusedMin ∧
        t.link.dma = s.link.dma ++ [(0, s.arg 4, 5)]) ∧
      (s.arg 0 = 0 → s.plat.installing = none → (s.pick.drop 4).take 5 = [1, 1, 1, 1, 1] →
        sameGeneration (s.arg 1) s.plat.dtVersion = true → s.plat.fusedMin ≤ s.arg 3 →
        ∃ t cs, exec .decodeTableInstall s = .next t ∧ t.plat.installing = some (s.arg 1, s.arg 2, cs) ∧
          ∀ c ∈ s.ctxs, (c.st = .running ∨ c.st = .resident) → c.num ∈ cs)) ∧
    (∀ v d cs, s.arg 0 = 1 → s.plat.installing = some (v, d, cs) → (∀ c ∈ s.ctxs, c.st ≠ .preempting ∧ c.st ≠ .running) →
      ∃ t, exec .decodeTableInstall s = .next t ∧ t.plat.installing = none ∧ t.plat.dtVersion = v ∧ t.plat.dtDigest = d)

/-- A step runs the decoded instruction: where the next move is the issue of a path that may issue and its next word decodes to i, the
step is i's meaning at that path, with the clk passed, its fetch buffer moved on, a path held back for it let go (R461), the turn that
the path has taken noted (R128, R306; log 14), unless the word is held, and what waits woken (no tick or rebase being due, which come
first: R204, R235); a word the decoder refuses is ILLEGAL_INSTRUCTION in every lane of the path with the check's number and the word in
TVAL (R85, R86, R252). -/
def Obligations.StepRunsTheDecodedWord : Prop :=
  ∀ (s s1 : State) (dt gid pid : Nat) (rest : List Sched) (g : Group) (p : Path) (w : Word),
    s.agenda = ⟨dt, .issue gid pid⟩ :: rest → s.tsHigh = false → s.tickWithin dt = false →
    let s0 := { s with agenda := rest }.pass dt
    s0.group? gid = some g → g.path? pid = some p → s0.issues g.ctx = true → g.canIssue p = true →
    p.readyAt ≤ s0.clk → s0.turnOk g p = true → s0.pipeBusy g p = false → s0.fencesReady g p = true → (s0.takeFences g p).nextWord g p = .word w s1 →
    let at_ := s1.issued gid pid
    (∀ i, decode w = .ok i → step s = wake (conclude g p w (exec i { at_ with curG := gid, curP := pid }))) ∧
    (∀ e, decode w = .error e → step s = wake (conclude g p w (.next
      ((at_.takeTraps gid p.pc (p.lanes.map (fun l => (l, ⟨1, e.code, w, false⟩)))).settle gid))))

/-- Decoding is exact (R75, R85, R88 to R93): what the decoder accepts is well formed and encodes to the very word; class 3, the opcodes
without an assignment, those of zw.wide, and k0 negated in a word that is otherwise accepted are refused, each by name. -/
def Obligations.DecodingIsExact : Prop :=
  (∀ w i, decode w = .ok i → i.wf = true ∧ encode i = some w) ∧
  (∀ w : Word, 3 * 2 ^ 62 ≤ w.toNat → decode w = .error .reservedClass) ∧
  (∀ w : Word, 0xC0 ≤ w.toNat / 2 ^ 54 → w.toNat / 2 ^ 54 < 0xE0 → decode w = .error .profileAbsent) ∧
  (∀ w : Word, let op := w.toNat / 2 ^ 54
    ((0x00B ≤ op ∧ op ≤ 0x00F) ∨ op = 0x01F ∨ (0x02E ≤ op ∧ op ≤ 0x03F) ∨ (0x05A ≤ op ∧ op ≤ 0x05F) ∨ (0x06C ≤ op ∧ op ≤ 0x06F) ∨
      (0x077 ≤ op ∧ op ≤ 0x07F) ∨ (0x089 ≤ op ∧ op ≤ 0x08F) ∨ (0x0A4 ≤ op ∧ op ≤ 0x0BF) ∨ (0x0E0 ≤ op ∧ op ≤ 0x0FF) ∨
      (0x112 ≤ op ∧ op ≤ 0x17F) ∨ (0x189 ≤ op ∧ op ≤ 0x18F) ∨ (0x199 ≤ op ∧ op ≤ 0x1BF) ∨ (0x1C8 ≤ op ∧ op ≤ 0x1DF) ∨
      (0x1FB ≤ op ∧ op ≤ 0x1FF)) → decode w = .error .unassigned) ∧
  (∀ (w v : Word) (i : Instr), v.toNat / 2 ^ 63 = 0 → decode v = .ok i → w.toNat / 2 ^ 42 = v.toNat / 2 ^ 42 →
    w.toNat % 2 ^ 38 = v.toNat % 2 ^ 38 → w.toNat / 2 ^ 38 % 16 = 8 → decode w = .error .badGuard)

/-- Decode and encode agree (R75 to R94): the word of every well-formed instruction decodes to it, every operand at every value its
encoding admits. -/
def Obligations.DecodeInvertsEncode : Prop :=
  ∀ (i : Instr) (w : Word), i.wf = true → encode i = some w → decode w = .ok i

/-- Words written out from the encoding tables decode to the instructions they stand for: DIVN.n32 x7, x8, x9; ISYNC; POST x5, x2, x3;
and the dual word of 24 R464. -/
def Obligations.SomeWordsDecode : Prop :=
  decode 0x01C7200900020000 = .ok (.divn ⟨false, 0⟩ 7 8 9 .w32) ∧ decode 0x7CC0000000000000 = .ok .isync ∧
  decode 0x7A45080300000000 = .ok (.post ⟨false, 0⟩ 5 2 3) ∧ 
  decode 0x808A0C019B187010 = .ok (.dualWord ⟨.add, 5, 1, .reg 3⟩ ⟨.ldB64, 6, 7, .imm 0x010⟩)

/-- Watches stay on held lines (R216): after every step, a lane's watch that has not fired stands on a line that its pipeline holds
under its lease. -/
def Obligations.WatchesStayHeld : Prop :=
  ∀ (s t : State), step s = .next t → t.watchesHeld

/-- Reset (R204, R400, R452): no context, group, copy, record, event, notice or message is left, memory is in its canonical form and reads as zeros (log 2), no
watch stands, the rings accept no command, the roll call has its period of 2 us, and clk and timestamps are 0. -/
def Obligations.ResetState : Prop :=
  Memory.wf State.reset = true ∧ State.reset.watchesHeld ∧ State.reset.ctxs = [] ∧ State.reset.groups = [] ∧
  State.reset.classes = [] ∧ State.reset.jobs = [] ∧ State.reset.rings = [] ∧ State.reset.banks = [] ∧
  (∀ a, cellAt State.reset.mem.hbm a = 0) ∧ State.reset.mem.copies = [] ∧ State.reset.plat.ready = false ∧
  State.reset.roll.period = 4 ∧ State.reset.clk = 0 ∧ State.reset.ticks = 0 ∧
  (∀ n, (State.reset.mem.home n).wts = 0 ∧ (State.reset.mem.home n).rts = 0) ∧
  State.reset.eng.flights = [] ∧ State.reset.eng.events = [] ∧ State.reset.eng.inbox = [] ∧ State.reset.eng.copies = [] ∧
  State.reset.bars.flying = [] ∧ State.reset.link.tx = [] ∧ State.reset.link.rx = [] ∧ State.reset.link.mcl = []
end

