-- ==== Sys2Proof/Laws/Regs.lean ====
section
/-!
SUPPORT. Laws of a thread's registers: x0 and k0 read as constants and discard writes (01 R28, R30), a write is read back, and
leaves every other register alone.
-/

namespace Sys2Proof.Machine

open Sys2Proof

@[simp] theorem Lane.rx_zero (l : Lane) : l.rx 0 = 0 := by simp [Lane.rx]
@[simp] theorem Lane.wx_zero (l : Lane) (w : Word) : l.wx 0 w = l := by simp [Lane.wx]
@[simp] theorem Lane.rk_zero (l : Lane) : l.rk 0 = true := by simp [Lane.rk]
@[simp] theorem Lane.wk_zero (l : Lane) (b : Bool) : l.wk 0 b = l := by simp [Lane.wk]

theorem Lane.wx_atS (l : Lane) (d : XReg) (w : Word) (h0 : d.val ≠ 0) (h : l.privS = true ∧ 60 ≤ d.val) :
    l.wx d w = { l with sx := l.sx.set (d.val - 60) w (by omega) } := by
  unfold Lane.wx; rw [if_neg h0, dif_pos h]

theorem Lane.wx_atU (l : Lane) (d : XReg) (w : Word) (h0 : d.val ≠ 0) (h : ¬(l.privS = true ∧ 60 ≤ d.val)) :
    l.wx d w = { l with x := l.x.set d w } := by
  unfold Lane.wx; rw [if_neg h0, dif_neg h]

theorem Lane.rx_atS (l : Lane) (r : XReg) (h0 : r.val ≠ 0) (h : l.privS = true ∧ 60 ≤ r.val) :
    l.rx r = l.sx[r.val - 60]'(by omega) := by
  unfold Lane.rx; rw [if_neg h0, dif_pos h]

theorem Lane.rx_atU (l : Lane) (r : XReg) (h0 : r.val ≠ 0) (h : ¬(l.privS = true ∧ 60 ≤ r.val)) : l.rx r = l.x[r] := by
  unfold Lane.rx; rw [if_neg h0, dif_neg h]

theorem Lane.rx_wx_same (l : Lane) (d : XReg) (w : Word) (h : d ≠ 0) : (l.wx d w).rx d = w := by
  have h0 : d.val ≠ 0 := fun e => h (Fin.ext e)
  by_cases hs : l.privS = true ∧ 60 ≤ d.val
  · rw [l.wx_atS d w h0 hs, Lane.rx_atS _ d h0 (by exact hs)]; simp
  · rw [l.wx_atU d w h0 hs, Lane.rx_atU _ d h0 (by exact hs)]; simp

theorem Lane.rx_wx_other (l : Lane) (d r : XReg) (w : Word) (h : r ≠ d) : (l.wx d w).rx r = l.rx r := by
  have hv : d.val ≠ r.val := fun e => h (Fin.ext e.symm)
  by_cases h0 : d.val = 0
  · unfold Lane.wx; rw [if_pos h0]
  by_cases r0 : r.val = 0
  · simp [Lane.rx, r0]
  by_cases hs : l.privS = true ∧ 60 ≤ d.val
  · rw [l.wx_atS d w h0 hs]
    by_cases hr : l.privS = true ∧ 60 ≤ r.val
    · rw [Lane.rx_atS _ r r0 (by exact hr), Lane.rx_atS _ r r0 (by exact hr)]
      exact Vector.getElem_set_ne (by omega) (by omega) (by omega)
    · rw [Lane.rx_atU _ r r0 (by exact hr), Lane.rx_atU _ r r0 (by exact hr)]
  · rw [l.wx_atU d w h0 hs]
    by_cases hr : l.privS = true ∧ 60 ≤ r.val
    · rw [Lane.rx_atS _ r r0 (by exact hr), Lane.rx_atS _ r r0 (by exact hr)]
    · rw [Lane.rx_atU _ r r0 (by exact hr), Lane.rx_atU _ r r0 (by exact hr)]
      exact Vector.getElem_set_ne d.isLt r.isLt hv

@[simp] theorem Lane.rv_wv_same (l : Lane) (d : VReg) (w : BitVec 128) : (l.wv d w).rv d = w := by simp [Lane.rv, Lane.wv]

theorem Lane.rv_wv_other (l : Lane) (d r : VReg) (w : BitVec 128) (h : r ≠ d) : (l.wv d w).rv r = l.rv r := by
  have hv : d.val ≠ r.val := fun e => h (Fin.ext e.symm)
  simp [Lane.rv, Lane.wv, Vector.getElem_set_ne, hv]

theorem Lane.rk_wk_same (l : Lane) (d : KReg) (b : Bool) (h : d ≠ 0) : (l.wk d b).rk d = b := by
  have h0 : d.val ≠ 0 := fun e => h (Fin.ext e)
  simp [Lane.rk, Lane.wk, h0]

theorem Lane.rk_wk_other (l : Lane) (d r : KReg) (b : Bool) (h : r ≠ d) : (l.wk d b).rk r = l.rk r := by
  have hv : d.val ≠ r.val := fun e => h (Fin.ext e.symm)
  unfold Lane.rk Lane.wk
  by_cases h0 : d.val = 0
  · simp [h0]
  · simp [h0, Vector.getElem_set_ne, hv]

/-! What writes of one bank leave of the others. -/

@[simp] theorem Lane.rv_wx (l : Lane) (d : XReg) (w : Word) (r : VReg) : (l.wx d w).rv r = l.rv r := by
  unfold Lane.wx; split; · rfl
  split <;> rfl
@[simp] theorem Lane.rk_wx (l : Lane) (d : XReg) (w : Word) (r : KReg) : (l.wx d w).rk r = l.rk r := by
  unfold Lane.wx; split; · rfl
  split <;> rfl
@[simp] theorem Lane.privS_wx (l : Lane) (d : XReg) (w : Word) : (l.wx d w).privS = l.privS := by
  unfold Lane.wx; split; · rfl
  split <;> rfl
@[simp] theorem Lane.fpflags_wx (l : Lane) (d : XReg) (w : Word) : (l.wx d w).fpflags = l.fpflags := by
  unfold Lane.wx; split; · rfl
  split <;> rfl
@[simp] theorem Lane.fpctl_wx (l : Lane) (d : XReg) (w : Word) : (l.wx d w).fpctl = l.fpctl := by
  unfold Lane.wx; split; · rfl
  split <;> rfl
@[simp] theorem Lane.pts_wx (l : Lane) (d : XReg) (w : Word) : (l.wx d w).pts = l.pts := by
  unfold Lane.wx; split; · rfl
  split <;> rfl
@[simp] theorem Lane.m_wx (l : Lane) (d : XReg) (w : Word) : (l.wx d w).m = l.m := by
  unfold Lane.wx; split; · rfl
  split <;> rfl
@[simp] theorem Lane.exited_wx (l : Lane) (d : XReg) (w : Word) : (l.wx d w).exited = l.exited := by
  unfold Lane.wx; split; · rfl
  split <;> rfl
@[simp] theorem Lane.wait_wx (l : Lane) (d : XReg) (w : Word) : (l.wx d w).wait = l.wait := by
  unfold Lane.wx; split; · rfl
  split <;> rfl

@[simp] theorem Lane.rx_wv (l : Lane) (d : VReg) (w : BitVec 128) (r : XReg) : (l.wv d w).rx r = l.rx r := rfl
@[simp] theorem Lane.rk_wv (l : Lane) (d : VReg) (w : BitVec 128) (r : KReg) : (l.wv d w).rk r = l.rk r := rfl

@[simp] theorem Lane.rx_wk (l : Lane) (d : KReg) (b : Bool) (r : XReg) : (l.wk d b).rx r = l.rx r := by
  unfold Lane.wk; split <;> rfl
@[simp] theorem Lane.rv_wk (l : Lane) (d : KReg) (b : Bool) (r : VReg) : (l.wk d b).rv r = l.rv r := by
  unfold Lane.wk; split <;> rfl

/-! Flags. -/

@[simp] theorem Lane.rx_setFlags (l : Lane) (f : Fl) (r : XReg) : (l.setFlags f).rx r = l.rx r := rfl
@[simp] theorem Lane.rv_setFlags (l : Lane) (f : Fl) (r : VReg) : (l.setFlags f).rv r = l.rv r := rfl
@[simp] theorem Lane.rk_setFlags (l : Lane) (f : Fl) (r : KReg) : (l.setFlags f).rk r = l.rk r := rfl

/-- FPCTL never holds a rounding mode above 4 or a bit above 3 (01 R32). -/
theorem fpctlWrite_bound (old w : Word) (h : old.toNat < 16 ∧ old.toNat % 8 ≤ 4) :
    (fpctlWrite old w).toNat < 16 ∧ (fpctlWrite old w).toNat % 8 ≤ 4 := by
  unfold fpctlWrite
  simp only [BitVec.toNat_ofNat]
  split <;> omega

end Sys2Proof.Machine
end

