-- ==== Sys2Proof/Laws/State.lean ====
section
/-!
SUPPORT. One lemma per field per update of the state: what an update of one part leaves of the others.
-/

namespace Sys2Proof.Machine

open Sys2Proof

/-! modGroup. -/

@[simp] theorem State.modGroup_clk (s : State) (gid : Nat) (f : Group → Group) : (s.modGroup gid f).clk = s.clk := rfl
@[simp] theorem State.modGroup_ticks (s : State) (gid : Nat) (f : Group → Group) : (s.modGroup gid f).ticks = s.ticks := rfl
@[simp] theorem State.modGroup_ptp (s : State) (gid : Nat) (f : Group → Group) : (s.modGroup gid f).ptp = s.ptp := rfl
@[simp] theorem State.modGroup_agenda (s : State) (gid : Nat) (f : Group → Group) : (s.modGroup gid f).agenda = s.agenda := rfl
@[simp] theorem State.modGroup_curG (s : State) (gid : Nat) (f : Group → Group) : (s.modGroup gid f).curG = s.curG := rfl
@[simp] theorem State.modGroup_curP (s : State) (gid : Nat) (f : Group → Group) : (s.modGroup gid f).curP = s.curP := rfl
@[simp] theorem State.modGroup_pick (s : State) (gid : Nat) (f : Group → Group) : (s.modGroup gid f).pick = s.pick := rfl
@[simp] theorem State.modGroup_freeN (s : State) (gid : Nat) (f : Group → Group) : (s.modGroup gid f).freeN = s.freeN := rfl
@[simp] theorem State.modGroup_nextId (s : State) (gid : Nat) (f : Group → Group) : (s.modGroup gid f).nextId = s.nextId := rfl
@[simp] theorem State.modGroup_ctxs (s : State) (gid : Nat) (f : Group → Group) : (s.modGroup gid f).ctxs = s.ctxs := rfl
@[simp] theorem State.modGroup_classes (s : State) (gid : Nat) (f : Group → Group) : (s.modGroup gid f).classes = s.classes := rfl
@[simp] theorem State.modGroup_mem (s : State) (gid : Nat) (f : Group → Group) : (s.modGroup gid f).mem = s.mem := rfl
@[simp] theorem State.modGroup_eng (s : State) (gid : Nat) (f : Group → Group) : (s.modGroup gid f).eng = s.eng := rfl
@[simp] theorem State.modGroup_jobs (s : State) (gid : Nat) (f : Group → Group) : (s.modGroup gid f).jobs = s.jobs := rfl
@[simp] theorem State.modGroup_roll (s : State) (gid : Nat) (f : Group → Group) : (s.modGroup gid f).roll = s.roll := rfl
@[simp] theorem State.modGroup_bars (s : State) (gid : Nat) (f : Group → Group) : (s.modGroup gid f).bars = s.bars := rfl
@[simp] theorem State.modGroup_rings (s : State) (gid : Nat) (f : Group → Group) : (s.modGroup gid f).rings = s.rings := rfl
@[simp] theorem State.modGroup_banks (s : State) (gid : Nat) (f : Group → Group) : (s.modGroup gid f).banks = s.banks := rfl
@[simp] theorem State.modGroup_units (s : State) (gid : Nat) (f : Group → Group) : (s.modGroup gid f).units = s.units := rfl
@[simp] theorem State.modGroup_link (s : State) (gid : Nat) (f : Group → Group) : (s.modGroup gid f).link = s.link := rfl
@[simp] theorem State.modGroup_plat (s : State) (gid : Nat) (f : Group → Group) : (s.modGroup gid f).plat = s.plat := rfl
@[simp] theorem State.modGroup_turns (s : State) (gid : Nat) (f : Group → Group) : (s.modGroup gid f).turns = s.turns := rfl

/-! modLane. -/

@[simp] theorem State.modLane_clk (s : State) (gid l : Nat) (f : Lane → Lane) : (s.modLane gid l f).clk = s.clk := rfl
@[simp] theorem State.modLane_ticks (s : State) (gid l : Nat) (f : Lane → Lane) : (s.modLane gid l f).ticks = s.ticks := rfl
@[simp] theorem State.modLane_ptp (s : State) (gid l : Nat) (f : Lane → Lane) : (s.modLane gid l f).ptp = s.ptp := rfl
@[simp] theorem State.modLane_agenda (s : State) (gid l : Nat) (f : Lane → Lane) : (s.modLane gid l f).agenda = s.agenda := rfl
@[simp] theorem State.modLane_curG (s : State) (gid l : Nat) (f : Lane → Lane) : (s.modLane gid l f).curG = s.curG := rfl
@[simp] theorem State.modLane_curP (s : State) (gid l : Nat) (f : Lane → Lane) : (s.modLane gid l f).curP = s.curP := rfl
@[simp] theorem State.modLane_pick (s : State) (gid l : Nat) (f : Lane → Lane) : (s.modLane gid l f).pick = s.pick := rfl
@[simp] theorem State.modLane_freeN (s : State) (gid l : Nat) (f : Lane → Lane) : (s.modLane gid l f).freeN = s.freeN := rfl
@[simp] theorem State.modLane_nextId (s : State) (gid l : Nat) (f : Lane → Lane) : (s.modLane gid l f).nextId = s.nextId := rfl
@[simp] theorem State.modLane_ctxs (s : State) (gid l : Nat) (f : Lane → Lane) : (s.modLane gid l f).ctxs = s.ctxs := rfl
@[simp] theorem State.modLane_classes (s : State) (gid l : Nat) (f : Lane → Lane) : (s.modLane gid l f).classes = s.classes := rfl
@[simp] theorem State.modLane_mem (s : State) (gid l : Nat) (f : Lane → Lane) : (s.modLane gid l f).mem = s.mem := rfl
@[simp] theorem State.modLane_eng (s : State) (gid l : Nat) (f : Lane → Lane) : (s.modLane gid l f).eng = s.eng := rfl
@[simp] theorem State.modLane_jobs (s : State) (gid l : Nat) (f : Lane → Lane) : (s.modLane gid l f).jobs = s.jobs := rfl
@[simp] theorem State.modLane_roll (s : State) (gid l : Nat) (f : Lane → Lane) : (s.modLane gid l f).roll = s.roll := rfl
@[simp] theorem State.modLane_bars (s : State) (gid l : Nat) (f : Lane → Lane) : (s.modLane gid l f).bars = s.bars := rfl
@[simp] theorem State.modLane_rings (s : State) (gid l : Nat) (f : Lane → Lane) : (s.modLane gid l f).rings = s.rings := rfl
@[simp] theorem State.modLane_banks (s : State) (gid l : Nat) (f : Lane → Lane) : (s.modLane gid l f).banks = s.banks := rfl
@[simp] theorem State.modLane_units (s : State) (gid l : Nat) (f : Lane → Lane) : (s.modLane gid l f).units = s.units := rfl
@[simp] theorem State.modLane_link (s : State) (gid l : Nat) (f : Lane → Lane) : (s.modLane gid l f).link = s.link := rfl
@[simp] theorem State.modLane_plat (s : State) (gid l : Nat) (f : Lane → Lane) : (s.modLane gid l f).plat = s.plat := rfl
@[simp] theorem State.modLane_turns (s : State) (gid l : Nat) (f : Lane → Lane) : (s.modLane gid l f).turns = s.turns := rfl

/-! modPath. -/

@[simp] theorem State.modPath_clk (s : State) (gid pid : Nat) (f : Path → Path) : (s.modPath gid pid f).clk = s.clk := rfl
@[simp] theorem State.modPath_ticks (s : State) (gid pid : Nat) (f : Path → Path) : (s.modPath gid pid f).ticks = s.ticks := rfl
@[simp] theorem State.modPath_ptp (s : State) (gid pid : Nat) (f : Path → Path) : (s.modPath gid pid f).ptp = s.ptp := rfl
@[simp] theorem State.modPath_agenda (s : State) (gid pid : Nat) (f : Path → Path) : (s.modPath gid pid f).agenda = s.agenda := rfl
@[simp] theorem State.modPath_curG (s : State) (gid pid : Nat) (f : Path → Path) : (s.modPath gid pid f).curG = s.curG := rfl
@[simp] theorem State.modPath_curP (s : State) (gid pid : Nat) (f : Path → Path) : (s.modPath gid pid f).curP = s.curP := rfl
@[simp] theorem State.modPath_pick (s : State) (gid pid : Nat) (f : Path → Path) : (s.modPath gid pid f).pick = s.pick := rfl
@[simp] theorem State.modPath_freeN (s : State) (gid pid : Nat) (f : Path → Path) : (s.modPath gid pid f).freeN = s.freeN := rfl
@[simp] theorem State.modPath_nextId (s : State) (gid pid : Nat) (f : Path → Path) : (s.modPath gid pid f).nextId = s.nextId := rfl
@[simp] theorem State.modPath_ctxs (s : State) (gid pid : Nat) (f : Path → Path) : (s.modPath gid pid f).ctxs = s.ctxs := rfl
@[simp] theorem State.modPath_classes (s : State) (gid pid : Nat) (f : Path → Path) : (s.modPath gid pid f).classes = s.classes := rfl
@[simp] theorem State.modPath_mem (s : State) (gid pid : Nat) (f : Path → Path) : (s.modPath gid pid f).mem = s.mem := rfl
@[simp] theorem State.modPath_eng (s : State) (gid pid : Nat) (f : Path → Path) : (s.modPath gid pid f).eng = s.eng := rfl
@[simp] theorem State.modPath_jobs (s : State) (gid pid : Nat) (f : Path → Path) : (s.modPath gid pid f).jobs = s.jobs := rfl
@[simp] theorem State.modPath_roll (s : State) (gid pid : Nat) (f : Path → Path) : (s.modPath gid pid f).roll = s.roll := rfl
@[simp] theorem State.modPath_bars (s : State) (gid pid : Nat) (f : Path → Path) : (s.modPath gid pid f).bars = s.bars := rfl
@[simp] theorem State.modPath_rings (s : State) (gid pid : Nat) (f : Path → Path) : (s.modPath gid pid f).rings = s.rings := rfl
@[simp] theorem State.modPath_banks (s : State) (gid pid : Nat) (f : Path → Path) : (s.modPath gid pid f).banks = s.banks := rfl
@[simp] theorem State.modPath_units (s : State) (gid pid : Nat) (f : Path → Path) : (s.modPath gid pid f).units = s.units := rfl
@[simp] theorem State.modPath_link (s : State) (gid pid : Nat) (f : Path → Path) : (s.modPath gid pid f).link = s.link := rfl
@[simp] theorem State.modPath_plat (s : State) (gid pid : Nat) (f : Path → Path) : (s.modPath gid pid f).plat = s.plat := rfl
@[simp] theorem State.modPath_turns (s : State) (gid pid : Nat) (f : Path → Path) : (s.modPath gid pid f).turns = s.turns := rfl

/-! goTo. -/

@[simp] theorem State.goTo_clk (s : State) (gid pid : Nat) (pc : Word) : (s.goTo gid pid pc).clk = s.clk := rfl
@[simp] theorem State.goTo_ticks (s : State) (gid pid : Nat) (pc : Word) : (s.goTo gid pid pc).ticks = s.ticks := rfl
@[simp] theorem State.goTo_ptp (s : State) (gid pid : Nat) (pc : Word) : (s.goTo gid pid pc).ptp = s.ptp := rfl
@[simp] theorem State.goTo_agenda (s : State) (gid pid : Nat) (pc : Word) : (s.goTo gid pid pc).agenda = s.agenda := rfl
@[simp] theorem State.goTo_curG (s : State) (gid pid : Nat) (pc : Word) : (s.goTo gid pid pc).curG = s.curG := rfl
@[simp] theorem State.goTo_curP (s : State) (gid pid : Nat) (pc : Word) : (s.goTo gid pid pc).curP = s.curP := rfl
@[simp] theorem State.goTo_pick (s : State) (gid pid : Nat) (pc : Word) : (s.goTo gid pid pc).pick = s.pick := rfl
@[simp] theorem State.goTo_freeN (s : State) (gid pid : Nat) (pc : Word) : (s.goTo gid pid pc).freeN = s.freeN := rfl
@[simp] theorem State.goTo_nextId (s : State) (gid pid : Nat) (pc : Word) : (s.goTo gid pid pc).nextId = s.nextId := rfl
@[simp] theorem State.goTo_ctxs (s : State) (gid pid : Nat) (pc : Word) : (s.goTo gid pid pc).ctxs = s.ctxs := rfl
@[simp] theorem State.goTo_classes (s : State) (gid pid : Nat) (pc : Word) : (s.goTo gid pid pc).classes = s.classes := rfl
@[simp] theorem State.goTo_mem (s : State) (gid pid : Nat) (pc : Word) : (s.goTo gid pid pc).mem = s.mem := rfl
@[simp] theorem State.goTo_eng (s : State) (gid pid : Nat) (pc : Word) : (s.goTo gid pid pc).eng = s.eng := rfl
@[simp] theorem State.goTo_jobs (s : State) (gid pid : Nat) (pc : Word) : (s.goTo gid pid pc).jobs = s.jobs := rfl
@[simp] theorem State.goTo_roll (s : State) (gid pid : Nat) (pc : Word) : (s.goTo gid pid pc).roll = s.roll := rfl
@[simp] theorem State.goTo_bars (s : State) (gid pid : Nat) (pc : Word) : (s.goTo gid pid pc).bars = s.bars := rfl
@[simp] theorem State.goTo_rings (s : State) (gid pid : Nat) (pc : Word) : (s.goTo gid pid pc).rings = s.rings := rfl
@[simp] theorem State.goTo_banks (s : State) (gid pid : Nat) (pc : Word) : (s.goTo gid pid pc).banks = s.banks := rfl
@[simp] theorem State.goTo_units (s : State) (gid pid : Nat) (pc : Word) : (s.goTo gid pid pc).units = s.units := rfl
@[simp] theorem State.goTo_link (s : State) (gid pid : Nat) (pc : Word) : (s.goTo gid pid pc).link = s.link := rfl
@[simp] theorem State.goTo_plat (s : State) (gid pid : Nat) (pc : Word) : (s.goTo gid pid pc).plat = s.plat := rfl
@[simp] theorem State.goTo_turns (s : State) (gid pid : Nat) (pc : Word) : (s.goTo gid pid pc).turns = s.turns := rfl

/-! setPts. -/

@[simp] theorem State.setPts_clk (s : State) (gid l p : Nat) : (s.setPts gid l p).clk = s.clk := rfl
@[simp] theorem State.setPts_ticks (s : State) (gid l p : Nat) : (s.setPts gid l p).ticks = s.ticks := rfl
@[simp] theorem State.setPts_ptp (s : State) (gid l p : Nat) : (s.setPts gid l p).ptp = s.ptp := rfl
@[simp] theorem State.setPts_agenda (s : State) (gid l p : Nat) : (s.setPts gid l p).agenda = s.agenda := rfl
@[simp] theorem State.setPts_curG (s : State) (gid l p : Nat) : (s.setPts gid l p).curG = s.curG := rfl
@[simp] theorem State.setPts_curP (s : State) (gid l p : Nat) : (s.setPts gid l p).curP = s.curP := rfl
@[simp] theorem State.setPts_pick (s : State) (gid l p : Nat) : (s.setPts gid l p).pick = s.pick := rfl
@[simp] theorem State.setPts_freeN (s : State) (gid l p : Nat) : (s.setPts gid l p).freeN = s.freeN := rfl
@[simp] theorem State.setPts_nextId (s : State) (gid l p : Nat) : (s.setPts gid l p).nextId = s.nextId := rfl
@[simp] theorem State.setPts_ctxs (s : State) (gid l p : Nat) : (s.setPts gid l p).ctxs = s.ctxs := rfl
@[simp] theorem State.setPts_classes (s : State) (gid l p : Nat) : (s.setPts gid l p).classes = s.classes := rfl
@[simp] theorem State.setPts_mem (s : State) (gid l p : Nat) : (s.setPts gid l p).mem = s.mem := rfl
@[simp] theorem State.setPts_eng (s : State) (gid l p : Nat) : (s.setPts gid l p).eng = s.eng := rfl
@[simp] theorem State.setPts_jobs (s : State) (gid l p : Nat) : (s.setPts gid l p).jobs = s.jobs := rfl
@[simp] theorem State.setPts_roll (s : State) (gid l p : Nat) : (s.setPts gid l p).roll = s.roll := rfl
@[simp] theorem State.setPts_bars (s : State) (gid l p : Nat) : (s.setPts gid l p).bars = s.bars := rfl
@[simp] theorem State.setPts_rings (s : State) (gid l p : Nat) : (s.setPts gid l p).rings = s.rings := rfl
@[simp] theorem State.setPts_banks (s : State) (gid l p : Nat) : (s.setPts gid l p).banks = s.banks := rfl
@[simp] theorem State.setPts_units (s : State) (gid l p : Nat) : (s.setPts gid l p).units = s.units := rfl
@[simp] theorem State.setPts_link (s : State) (gid l p : Nat) : (s.setPts gid l p).link = s.link := rfl
@[simp] theorem State.setPts_plat (s : State) (gid l p : Nat) : (s.setPts gid l p).plat = s.plat := rfl
@[simp] theorem State.setPts_turns (s : State) (gid l p : Nat) : (s.setPts gid l p).turns = s.turns := rfl

/-! setMem. -/

@[simp] theorem State.setMem_clk (s : State) (m : MemSys) : (s.setMem m).clk = s.clk := rfl
@[simp] theorem State.setMem_ticks (s : State) (m : MemSys) : (s.setMem m).ticks = s.ticks := rfl
@[simp] theorem State.setMem_ptp (s : State) (m : MemSys) : (s.setMem m).ptp = s.ptp := rfl
@[simp] theorem State.setMem_agenda (s : State) (m : MemSys) : (s.setMem m).agenda = s.agenda := rfl
@[simp] theorem State.setMem_curG (s : State) (m : MemSys) : (s.setMem m).curG = s.curG := rfl
@[simp] theorem State.setMem_curP (s : State) (m : MemSys) : (s.setMem m).curP = s.curP := rfl
@[simp] theorem State.setMem_pick (s : State) (m : MemSys) : (s.setMem m).pick = s.pick := rfl
@[simp] theorem State.setMem_freeN (s : State) (m : MemSys) : (s.setMem m).freeN = s.freeN := rfl
@[simp] theorem State.setMem_nextId (s : State) (m : MemSys) : (s.setMem m).nextId = s.nextId := rfl
@[simp] theorem State.setMem_ctxs (s : State) (m : MemSys) : (s.setMem m).ctxs = s.ctxs := rfl
@[simp] theorem State.setMem_classes (s : State) (m : MemSys) : (s.setMem m).classes = s.classes := rfl
@[simp] theorem State.setMem_groups (s : State) (m : MemSys) : (s.setMem m).groups = s.groups := rfl
@[simp] theorem State.setMem_eng (s : State) (m : MemSys) : (s.setMem m).eng = s.eng := rfl
@[simp] theorem State.setMem_jobs (s : State) (m : MemSys) : (s.setMem m).jobs = s.jobs := rfl
@[simp] theorem State.setMem_roll (s : State) (m : MemSys) : (s.setMem m).roll = s.roll := rfl
@[simp] theorem State.setMem_bars (s : State) (m : MemSys) : (s.setMem m).bars = s.bars := rfl
@[simp] theorem State.setMem_rings (s : State) (m : MemSys) : (s.setMem m).rings = s.rings := rfl
@[simp] theorem State.setMem_banks (s : State) (m : MemSys) : (s.setMem m).banks = s.banks := rfl
@[simp] theorem State.setMem_units (s : State) (m : MemSys) : (s.setMem m).units = s.units := rfl
@[simp] theorem State.setMem_link (s : State) (m : MemSys) : (s.setMem m).link = s.link := rfl
@[simp] theorem State.setMem_plat (s : State) (m : MemSys) : (s.setMem m).plat = s.plat := rfl
@[simp] theorem State.setMem_turns (s : State) (m : MemSys) : (s.setMem m).turns = s.turns := rfl

/-! modCtx. -/

@[simp] theorem State.modCtx_clk (s : State) (c : Nat) (f : Ctx → Ctx) : (s.modCtx c f).clk = s.clk := rfl
@[simp] theorem State.modCtx_ticks (s : State) (c : Nat) (f : Ctx → Ctx) : (s.modCtx c f).ticks = s.ticks := rfl
@[simp] theorem State.modCtx_ptp (s : State) (c : Nat) (f : Ctx → Ctx) : (s.modCtx c f).ptp = s.ptp := rfl
@[simp] theorem State.modCtx_agenda (s : State) (c : Nat) (f : Ctx → Ctx) : (s.modCtx c f).agenda = s.agenda := rfl
@[simp] theorem State.modCtx_curG (s : State) (c : Nat) (f : Ctx → Ctx) : (s.modCtx c f).curG = s.curG := rfl
@[simp] theorem State.modCtx_curP (s : State) (c : Nat) (f : Ctx → Ctx) : (s.modCtx c f).curP = s.curP := rfl
@[simp] theorem State.modCtx_pick (s : State) (c : Nat) (f : Ctx → Ctx) : (s.modCtx c f).pick = s.pick := rfl
@[simp] theorem State.modCtx_freeN (s : State) (c : Nat) (f : Ctx → Ctx) : (s.modCtx c f).freeN = s.freeN := rfl
@[simp] theorem State.modCtx_nextId (s : State) (c : Nat) (f : Ctx → Ctx) : (s.modCtx c f).nextId = s.nextId := rfl
@[simp] theorem State.modCtx_classes (s : State) (c : Nat) (f : Ctx → Ctx) : (s.modCtx c f).classes = s.classes := rfl
@[simp] theorem State.modCtx_groups (s : State) (c : Nat) (f : Ctx → Ctx) : (s.modCtx c f).groups = s.groups := rfl
@[simp] theorem State.modCtx_mem (s : State) (c : Nat) (f : Ctx → Ctx) : (s.modCtx c f).mem = s.mem := rfl
@[simp] theorem State.modCtx_eng (s : State) (c : Nat) (f : Ctx → Ctx) : (s.modCtx c f).eng = s.eng := rfl
@[simp] theorem State.modCtx_jobs (s : State) (c : Nat) (f : Ctx → Ctx) : (s.modCtx c f).jobs = s.jobs := rfl
@[simp] theorem State.modCtx_roll (s : State) (c : Nat) (f : Ctx → Ctx) : (s.modCtx c f).roll = s.roll := rfl
@[simp] theorem State.modCtx_bars (s : State) (c : Nat) (f : Ctx → Ctx) : (s.modCtx c f).bars = s.bars := rfl
@[simp] theorem State.modCtx_rings (s : State) (c : Nat) (f : Ctx → Ctx) : (s.modCtx c f).rings = s.rings := rfl
@[simp] theorem State.modCtx_banks (s : State) (c : Nat) (f : Ctx → Ctx) : (s.modCtx c f).banks = s.banks := rfl
@[simp] theorem State.modCtx_units (s : State) (c : Nat) (f : Ctx → Ctx) : (s.modCtx c f).units = s.units := rfl
@[simp] theorem State.modCtx_link (s : State) (c : Nat) (f : Ctx → Ctx) : (s.modCtx c f).link = s.link := rfl
@[simp] theorem State.modCtx_plat (s : State) (c : Nat) (f : Ctx → Ctx) : (s.modCtx c f).plat = s.plat := rfl
@[simp] theorem State.modCtx_turns (s : State) (c : Nat) (f : Ctx → Ctx) : (s.modCtx c f).turns = s.turns := rfl

/-! modKlass. -/

@[simp] theorem State.modKlass_clk (s : State) (k : Nat) (f : Klass → Klass) : (s.modKlass k f).clk = s.clk := rfl
@[simp] theorem State.modKlass_ticks (s : State) (k : Nat) (f : Klass → Klass) : (s.modKlass k f).ticks = s.ticks := rfl
@[simp] theorem State.modKlass_ptp (s : State) (k : Nat) (f : Klass → Klass) : (s.modKlass k f).ptp = s.ptp := rfl
@[simp] theorem State.modKlass_agenda (s : State) (k : Nat) (f : Klass → Klass) : (s.modKlass k f).agenda = s.agenda := rfl
@[simp] theorem State.modKlass_curG (s : State) (k : Nat) (f : Klass → Klass) : (s.modKlass k f).curG = s.curG := rfl
@[simp] theorem State.modKlass_curP (s : State) (k : Nat) (f : Klass → Klass) : (s.modKlass k f).curP = s.curP := rfl
@[simp] theorem State.modKlass_pick (s : State) (k : Nat) (f : Klass → Klass) : (s.modKlass k f).pick = s.pick := rfl
@[simp] theorem State.modKlass_freeN (s : State) (k : Nat) (f : Klass → Klass) : (s.modKlass k f).freeN = s.freeN := rfl
@[simp] theorem State.modKlass_nextId (s : State) (k : Nat) (f : Klass → Klass) : (s.modKlass k f).nextId = s.nextId := rfl
@[simp] theorem State.modKlass_ctxs (s : State) (k : Nat) (f : Klass → Klass) : (s.modKlass k f).ctxs = s.ctxs := rfl
@[simp] theorem State.modKlass_groups (s : State) (k : Nat) (f : Klass → Klass) : (s.modKlass k f).groups = s.groups := rfl
@[simp] theorem State.modKlass_mem (s : State) (k : Nat) (f : Klass → Klass) : (s.modKlass k f).mem = s.mem := rfl
@[simp] theorem State.modKlass_eng (s : State) (k : Nat) (f : Klass → Klass) : (s.modKlass k f).eng = s.eng := rfl
@[simp] theorem State.modKlass_jobs (s : State) (k : Nat) (f : Klass → Klass) : (s.modKlass k f).jobs = s.jobs := rfl
@[simp] theorem State.modKlass_roll (s : State) (k : Nat) (f : Klass → Klass) : (s.modKlass k f).roll = s.roll := rfl
@[simp] theorem State.modKlass_bars (s : State) (k : Nat) (f : Klass → Klass) : (s.modKlass k f).bars = s.bars := rfl
@[simp] theorem State.modKlass_rings (s : State) (k : Nat) (f : Klass → Klass) : (s.modKlass k f).rings = s.rings := rfl
@[simp] theorem State.modKlass_banks (s : State) (k : Nat) (f : Klass → Klass) : (s.modKlass k f).banks = s.banks := rfl
@[simp] theorem State.modKlass_units (s : State) (k : Nat) (f : Klass → Klass) : (s.modKlass k f).units = s.units := rfl
@[simp] theorem State.modKlass_link (s : State) (k : Nat) (f : Klass → Klass) : (s.modKlass k f).link = s.link := rfl
@[simp] theorem State.modKlass_plat (s : State) (k : Nat) (f : Klass → Klass) : (s.modKlass k f).plat = s.plat := rfl
@[simp] theorem State.modKlass_turns (s : State) (k : Nat) (f : Klass → Klass) : (s.modKlass k f).turns = s.turns := rfl

/-! modPad. -/

@[simp] theorem State.modPad_clk (s : State) (k m : Nat) (f : Pad → Pad) : (s.modPad k m f).clk = s.clk := rfl
@[simp] theorem State.modPad_ticks (s : State) (k m : Nat) (f : Pad → Pad) : (s.modPad k m f).ticks = s.ticks := rfl
@[simp] theorem State.modPad_ptp (s : State) (k m : Nat) (f : Pad → Pad) : (s.modPad k m f).ptp = s.ptp := rfl
@[simp] theorem State.modPad_agenda (s : State) (k m : Nat) (f : Pad → Pad) : (s.modPad k m f).agenda = s.agenda := rfl
@[simp] theorem State.modPad_curG (s : State) (k m : Nat) (f : Pad → Pad) : (s.modPad k m f).curG = s.curG := rfl
@[simp] theorem State.modPad_curP (s : State) (k m : Nat) (f : Pad → Pad) : (s.modPad k m f).curP = s.curP := rfl
@[simp] theorem State.modPad_pick (s : State) (k m : Nat) (f : Pad → Pad) : (s.modPad k m f).pick = s.pick := rfl
@[simp] theorem State.modPad_freeN (s : State) (k m : Nat) (f : Pad → Pad) : (s.modPad k m f).freeN = s.freeN := rfl
@[simp] theorem State.modPad_nextId (s : State) (k m : Nat) (f : Pad → Pad) : (s.modPad k m f).nextId = s.nextId := rfl
@[simp] theorem State.modPad_ctxs (s : State) (k m : Nat) (f : Pad → Pad) : (s.modPad k m f).ctxs = s.ctxs := rfl
@[simp] theorem State.modPad_groups (s : State) (k m : Nat) (f : Pad → Pad) : (s.modPad k m f).groups = s.groups := rfl
@[simp] theorem State.modPad_mem (s : State) (k m : Nat) (f : Pad → Pad) : (s.modPad k m f).mem = s.mem := rfl
@[simp] theorem State.modPad_eng (s : State) (k m : Nat) (f : Pad → Pad) : (s.modPad k m f).eng = s.eng := rfl
@[simp] theorem State.modPad_jobs (s : State) (k m : Nat) (f : Pad → Pad) : (s.modPad k m f).jobs = s.jobs := rfl
@[simp] theorem State.modPad_roll (s : State) (k m : Nat) (f : Pad → Pad) : (s.modPad k m f).roll = s.roll := rfl
@[simp] theorem State.modPad_bars (s : State) (k m : Nat) (f : Pad → Pad) : (s.modPad k m f).bars = s.bars := rfl
@[simp] theorem State.modPad_rings (s : State) (k m : Nat) (f : Pad → Pad) : (s.modPad k m f).rings = s.rings := rfl
@[simp] theorem State.modPad_banks (s : State) (k m : Nat) (f : Pad → Pad) : (s.modPad k m f).banks = s.banks := rfl
@[simp] theorem State.modPad_units (s : State) (k m : Nat) (f : Pad → Pad) : (s.modPad k m f).units = s.units := rfl
@[simp] theorem State.modPad_link (s : State) (k m : Nat) (f : Pad → Pad) : (s.modPad k m f).link = s.link := rfl
@[simp] theorem State.modPad_plat (s : State) (k m : Nat) (f : Pad → Pad) : (s.modPad k m f).plat = s.plat := rfl
@[simp] theorem State.modPad_turns (s : State) (k m : Nat) (f : Pad → Pad) : (s.modPad k m f).turns = s.turns := rfl

/-! modLaunch. -/

@[simp] theorem State.modLaunch_clk (s : State) (c l : Nat) (f : Launch → Launch) : (s.modLaunch c l f).clk = s.clk := rfl
@[simp] theorem State.modLaunch_ticks (s : State) (c l : Nat) (f : Launch → Launch) : (s.modLaunch c l f).ticks = s.ticks := rfl
@[simp] theorem State.modLaunch_ptp (s : State) (c l : Nat) (f : Launch → Launch) : (s.modLaunch c l f).ptp = s.ptp := rfl
@[simp] theorem State.modLaunch_agenda (s : State) (c l : Nat) (f : Launch → Launch) : (s.modLaunch c l f).agenda = s.agenda := rfl
@[simp] theorem State.modLaunch_curG (s : State) (c l : Nat) (f : Launch → Launch) : (s.modLaunch c l f).curG = s.curG := rfl
@[simp] theorem State.modLaunch_curP (s : State) (c l : Nat) (f : Launch → Launch) : (s.modLaunch c l f).curP = s.curP := rfl
@[simp] theorem State.modLaunch_pick (s : State) (c l : Nat) (f : Launch → Launch) : (s.modLaunch c l f).pick = s.pick := rfl
@[simp] theorem State.modLaunch_freeN (s : State) (c l : Nat) (f : Launch → Launch) : (s.modLaunch c l f).freeN = s.freeN := rfl
@[simp] theorem State.modLaunch_nextId (s : State) (c l : Nat) (f : Launch → Launch) : (s.modLaunch c l f).nextId = s.nextId := rfl
@[simp] theorem State.modLaunch_classes (s : State) (c l : Nat) (f : Launch → Launch) : (s.modLaunch c l f).classes = s.classes := rfl
@[simp] theorem State.modLaunch_groups (s : State) (c l : Nat) (f : Launch → Launch) : (s.modLaunch c l f).groups = s.groups := rfl
@[simp] theorem State.modLaunch_mem (s : State) (c l : Nat) (f : Launch → Launch) : (s.modLaunch c l f).mem = s.mem := rfl
@[simp] theorem State.modLaunch_eng (s : State) (c l : Nat) (f : Launch → Launch) : (s.modLaunch c l f).eng = s.eng := rfl
@[simp] theorem State.modLaunch_jobs (s : State) (c l : Nat) (f : Launch → Launch) : (s.modLaunch c l f).jobs = s.jobs := rfl
@[simp] theorem State.modLaunch_roll (s : State) (c l : Nat) (f : Launch → Launch) : (s.modLaunch c l f).roll = s.roll := rfl
@[simp] theorem State.modLaunch_bars (s : State) (c l : Nat) (f : Launch → Launch) : (s.modLaunch c l f).bars = s.bars := rfl
@[simp] theorem State.modLaunch_rings (s : State) (c l : Nat) (f : Launch → Launch) : (s.modLaunch c l f).rings = s.rings := rfl
@[simp] theorem State.modLaunch_banks (s : State) (c l : Nat) (f : Launch → Launch) : (s.modLaunch c l f).banks = s.banks := rfl
@[simp] theorem State.modLaunch_units (s : State) (c l : Nat) (f : Launch → Launch) : (s.modLaunch c l f).units = s.units := rfl
@[simp] theorem State.modLaunch_link (s : State) (c l : Nat) (f : Launch → Launch) : (s.modLaunch c l f).link = s.link := rfl
@[simp] theorem State.modLaunch_plat (s : State) (c l : Nat) (f : Launch → Launch) : (s.modLaunch c l f).plat = s.plat := rfl
@[simp] theorem State.modLaunch_turns (s : State) (c l : Nat) (f : Launch → Launch) : (s.modLaunch c l f).turns = s.turns := rfl

/-! modJob. -/

@[simp] theorem State.modJob_clk (s : State) (c n : Nat) (f : Job → Job) : (s.modJob c n f).clk = s.clk := rfl
@[simp] theorem State.modJob_ticks (s : State) (c n : Nat) (f : Job → Job) : (s.modJob c n f).ticks = s.ticks := rfl
@[simp] theorem State.modJob_ptp (s : State) (c n : Nat) (f : Job → Job) : (s.modJob c n f).ptp = s.ptp := rfl
@[simp] theorem State.modJob_agenda (s : State) (c n : Nat) (f : Job → Job) : (s.modJob c n f).agenda = s.agenda := rfl
@[simp] theorem State.modJob_curG (s : State) (c n : Nat) (f : Job → Job) : (s.modJob c n f).curG = s.curG := rfl
@[simp] theorem State.modJob_curP (s : State) (c n : Nat) (f : Job → Job) : (s.modJob c n f).curP = s.curP := rfl
@[simp] theorem State.modJob_pick (s : State) (c n : Nat) (f : Job → Job) : (s.modJob c n f).pick = s.pick := rfl
@[simp] theorem State.modJob_freeN (s : State) (c n : Nat) (f : Job → Job) : (s.modJob c n f).freeN = s.freeN := rfl
@[simp] theorem State.modJob_nextId (s : State) (c n : Nat) (f : Job → Job) : (s.modJob c n f).nextId = s.nextId := rfl
@[simp] theorem State.modJob_ctxs (s : State) (c n : Nat) (f : Job → Job) : (s.modJob c n f).ctxs = s.ctxs := rfl
@[simp] theorem State.modJob_classes (s : State) (c n : Nat) (f : Job → Job) : (s.modJob c n f).classes = s.classes := rfl
@[simp] theorem State.modJob_groups (s : State) (c n : Nat) (f : Job → Job) : (s.modJob c n f).groups = s.groups := rfl
@[simp] theorem State.modJob_mem (s : State) (c n : Nat) (f : Job → Job) : (s.modJob c n f).mem = s.mem := rfl
@[simp] theorem State.modJob_eng (s : State) (c n : Nat) (f : Job → Job) : (s.modJob c n f).eng = s.eng := rfl
@[simp] theorem State.modJob_roll (s : State) (c n : Nat) (f : Job → Job) : (s.modJob c n f).roll = s.roll := rfl
@[simp] theorem State.modJob_bars (s : State) (c n : Nat) (f : Job → Job) : (s.modJob c n f).bars = s.bars := rfl
@[simp] theorem State.modJob_rings (s : State) (c n : Nat) (f : Job → Job) : (s.modJob c n f).rings = s.rings := rfl
@[simp] theorem State.modJob_banks (s : State) (c n : Nat) (f : Job → Job) : (s.modJob c n f).banks = s.banks := rfl
@[simp] theorem State.modJob_units (s : State) (c n : Nat) (f : Job → Job) : (s.modJob c n f).units = s.units := rfl
@[simp] theorem State.modJob_link (s : State) (c n : Nat) (f : Job → Job) : (s.modJob c n f).link = s.link := rfl
@[simp] theorem State.modJob_plat (s : State) (c n : Nat) (f : Job → Job) : (s.modJob c n f).plat = s.plat := rfl
@[simp] theorem State.modJob_turns (s : State) (c n : Nat) (f : Job → Job) : (s.modJob c n f).turns = s.turns := rfl

/-! modRing. -/

@[simp] theorem State.modRing_clk (s : State) (c n : Nat) (f : Ring → Ring) : (s.modRing c n f).clk = s.clk := rfl
@[simp] theorem State.modRing_ticks (s : State) (c n : Nat) (f : Ring → Ring) : (s.modRing c n f).ticks = s.ticks := rfl
@[simp] theorem State.modRing_ptp (s : State) (c n : Nat) (f : Ring → Ring) : (s.modRing c n f).ptp = s.ptp := rfl
@[simp] theorem State.modRing_agenda (s : State) (c n : Nat) (f : Ring → Ring) : (s.modRing c n f).agenda = s.agenda := rfl
@[simp] theorem State.modRing_curG (s : State) (c n : Nat) (f : Ring → Ring) : (s.modRing c n f).curG = s.curG := rfl
@[simp] theorem State.modRing_curP (s : State) (c n : Nat) (f : Ring → Ring) : (s.modRing c n f).curP = s.curP := rfl
@[simp] theorem State.modRing_pick (s : State) (c n : Nat) (f : Ring → Ring) : (s.modRing c n f).pick = s.pick := rfl
@[simp] theorem State.modRing_freeN (s : State) (c n : Nat) (f : Ring → Ring) : (s.modRing c n f).freeN = s.freeN := rfl
@[simp] theorem State.modRing_nextId (s : State) (c n : Nat) (f : Ring → Ring) : (s.modRing c n f).nextId = s.nextId := rfl
@[simp] theorem State.modRing_ctxs (s : State) (c n : Nat) (f : Ring → Ring) : (s.modRing c n f).ctxs = s.ctxs := rfl
@[simp] theorem State.modRing_classes (s : State) (c n : Nat) (f : Ring → Ring) : (s.modRing c n f).classes = s.classes := rfl
@[simp] theorem State.modRing_groups (s : State) (c n : Nat) (f : Ring → Ring) : (s.modRing c n f).groups = s.groups := rfl
@[simp] theorem State.modRing_mem (s : State) (c n : Nat) (f : Ring → Ring) : (s.modRing c n f).mem = s.mem := rfl
@[simp] theorem State.modRing_eng (s : State) (c n : Nat) (f : Ring → Ring) : (s.modRing c n f).eng = s.eng := rfl
@[simp] theorem State.modRing_jobs (s : State) (c n : Nat) (f : Ring → Ring) : (s.modRing c n f).jobs = s.jobs := rfl
@[simp] theorem State.modRing_roll (s : State) (c n : Nat) (f : Ring → Ring) : (s.modRing c n f).roll = s.roll := rfl
@[simp] theorem State.modRing_bars (s : State) (c n : Nat) (f : Ring → Ring) : (s.modRing c n f).bars = s.bars := rfl
@[simp] theorem State.modRing_banks (s : State) (c n : Nat) (f : Ring → Ring) : (s.modRing c n f).banks = s.banks := rfl
@[simp] theorem State.modRing_units (s : State) (c n : Nat) (f : Ring → Ring) : (s.modRing c n f).units = s.units := rfl
@[simp] theorem State.modRing_link (s : State) (c n : Nat) (f : Ring → Ring) : (s.modRing c n f).link = s.link := rfl
@[simp] theorem State.modRing_plat (s : State) (c n : Nat) (f : Ring → Ring) : (s.modRing c n f).plat = s.plat := rfl
@[simp] theorem State.modRing_turns (s : State) (c n : Nat) (f : Ring → Ring) : (s.modRing c n f).turns = s.turns := rfl

/-! fireWatches. -/

@[simp] theorem State.fireWatches_clk (s : State) (a : LineAt) (ts : Nat) : (s.fireWatches a ts).clk = s.clk := rfl
@[simp] theorem State.fireWatches_ticks (s : State) (a : LineAt) (ts : Nat) : (s.fireWatches a ts).ticks = s.ticks := rfl
@[simp] theorem State.fireWatches_ptp (s : State) (a : LineAt) (ts : Nat) : (s.fireWatches a ts).ptp = s.ptp := rfl
@[simp] theorem State.fireWatches_agenda (s : State) (a : LineAt) (ts : Nat) : (s.fireWatches a ts).agenda = s.agenda := rfl
@[simp] theorem State.fireWatches_curG (s : State) (a : LineAt) (ts : Nat) : (s.fireWatches a ts).curG = s.curG := rfl
@[simp] theorem State.fireWatches_curP (s : State) (a : LineAt) (ts : Nat) : (s.fireWatches a ts).curP = s.curP := rfl
@[simp] theorem State.fireWatches_pick (s : State) (a : LineAt) (ts : Nat) : (s.fireWatches a ts).pick = s.pick := rfl
@[simp] theorem State.fireWatches_freeN (s : State) (a : LineAt) (ts : Nat) : (s.fireWatches a ts).freeN = s.freeN := rfl
@[simp] theorem State.fireWatches_nextId (s : State) (a : LineAt) (ts : Nat) : (s.fireWatches a ts).nextId = s.nextId := rfl
@[simp] theorem State.fireWatches_ctxs (s : State) (a : LineAt) (ts : Nat) : (s.fireWatches a ts).ctxs = s.ctxs := rfl
@[simp] theorem State.fireWatches_classes (s : State) (a : LineAt) (ts : Nat) : (s.fireWatches a ts).classes = s.classes := rfl
@[simp] theorem State.fireWatches_mem (s : State) (a : LineAt) (ts : Nat) : (s.fireWatches a ts).mem = s.mem := rfl
@[simp] theorem State.fireWatches_eng (s : State) (a : LineAt) (ts : Nat) : (s.fireWatches a ts).eng = s.eng := rfl
@[simp] theorem State.fireWatches_jobs (s : State) (a : LineAt) (ts : Nat) : (s.fireWatches a ts).jobs = s.jobs := rfl
@[simp] theorem State.fireWatches_roll (s : State) (a : LineAt) (ts : Nat) : (s.fireWatches a ts).roll = s.roll := rfl
@[simp] theorem State.fireWatches_bars (s : State) (a : LineAt) (ts : Nat) : (s.fireWatches a ts).bars = s.bars := rfl
@[simp] theorem State.fireWatches_rings (s : State) (a : LineAt) (ts : Nat) : (s.fireWatches a ts).rings = s.rings := rfl
@[simp] theorem State.fireWatches_banks (s : State) (a : LineAt) (ts : Nat) : (s.fireWatches a ts).banks = s.banks := rfl
@[simp] theorem State.fireWatches_units (s : State) (a : LineAt) (ts : Nat) : (s.fireWatches a ts).units = s.units := rfl
@[simp] theorem State.fireWatches_link (s : State) (a : LineAt) (ts : Nat) : (s.fireWatches a ts).link = s.link := rfl
@[simp] theorem State.fireWatches_plat (s : State) (a : LineAt) (ts : Nat) : (s.fireWatches a ts).plat = s.plat := rfl
@[simp] theorem State.fireWatches_turns (s : State) (a : LineAt) (ts : Nat) : (s.fireWatches a ts).turns = s.turns := rfl

/-! markLost. -/

@[simp] theorem State.markLost_clk (s : State) : s.markLost.clk = s.clk := rfl
@[simp] theorem State.markLost_ticks (s : State) : s.markLost.ticks = s.ticks := rfl
@[simp] theorem State.markLost_ptp (s : State) : s.markLost.ptp = s.ptp := rfl
@[simp] theorem State.markLost_agenda (s : State) : s.markLost.agenda = s.agenda := rfl
@[simp] theorem State.markLost_curG (s : State) : s.markLost.curG = s.curG := rfl
@[simp] theorem State.markLost_curP (s : State) : s.markLost.curP = s.curP := rfl
@[simp] theorem State.markLost_pick (s : State) : s.markLost.pick = s.pick := rfl
@[simp] theorem State.markLost_freeN (s : State) : s.markLost.freeN = s.freeN := rfl
@[simp] theorem State.markLost_nextId (s : State) : s.markLost.nextId = s.nextId := rfl
@[simp] theorem State.markLost_ctxs (s : State) : s.markLost.ctxs = s.ctxs := rfl
@[simp] theorem State.markLost_classes (s : State) : s.markLost.classes = s.classes := rfl
@[simp] theorem State.markLost_mem (s : State) : s.markLost.mem = s.mem := rfl
@[simp] theorem State.markLost_eng (s : State) : s.markLost.eng = s.eng := rfl
@[simp] theorem State.markLost_jobs (s : State) : s.markLost.jobs = s.jobs := rfl
@[simp] theorem State.markLost_roll (s : State) : s.markLost.roll = s.roll := rfl
@[simp] theorem State.markLost_bars (s : State) : s.markLost.bars = s.bars := rfl
@[simp] theorem State.markLost_rings (s : State) : s.markLost.rings = s.rings := rfl
@[simp] theorem State.markLost_banks (s : State) : s.markLost.banks = s.banks := rfl
@[simp] theorem State.markLost_units (s : State) : s.markLost.units = s.units := rfl
@[simp] theorem State.markLost_link (s : State) : s.markLost.link = s.link := rfl
@[simp] theorem State.markLost_plat (s : State) : s.markLost.plat = s.plat := rfl
@[simp] theorem State.markLost_turns (s : State) : s.markLost.turns = s.turns := rfl

end Sys2Proof.Machine
end

