-- ==== Sys2Proof/Laws/Group.lean ====
section
/-!
SUPPORT. Laws of lookup and update, of settling a group that has no path on its stack, and of the words that act on the
registers of their active lanes.
-/

namespace Sys2Proof.Machine

open Sys2Proof

/-! Lookup after an update. -/

theorem find?_updWhere {α : Type} (k : α → Nat) (n m : Nat) (f : α → α) (hf : ∀ a, k (f a) = k a) (l : List α) :
    (updWhere (fun a => k a == n) f l).find? (fun a => k a == m) =
      (l.find? (fun a => k a == m)).map (fun a => if k a = n then f a else a) := by
  induction l with
  | nil => rfl
  | cons a r ih =>
    by_cases hn : k a = n <;> by_cases hm : k a = m <;> simp_all [updWhere]

/-- The group a number names after an update that keeps numbers. -/
theorem State.group?_modGroup (s : State) (gid n : Nat) (f : Group → Group) (hf : ∀ g, (f g).gid = g.gid) :
    (s.modGroup gid f).group? n = (s.group? n).map (fun g => if g.gid = gid then f g else g) :=
  find?_updWhere (fun g : Group => g.gid) gid n f hf s.groups

theorem State.gid_of_group? {s : State} {n : Nat} {g : Group} (h : s.group? n = some g) : g.gid = n := by
  have := List.find?_some h
  simpa using this

theorem State.group?_modGroup_same {s : State} {gid : Nat} {g : Group} (h : s.group? gid = some g) (f : Group → Group)
    (hf : ∀ g, (f g).gid = g.gid) : (s.modGroup gid f).group? gid = some (f g) := by
  rw [s.group?_modGroup gid gid f hf, h]
  simp [State.gid_of_group? h]

theorem State.group?_modGroup_other (s : State) (gid n : Nat) (f : Group → Group) (hf : ∀ g, (f g).gid = g.gid) (h : n ≠ gid) :
    (s.modGroup gid f).group? n = s.group? n := by
  rw [s.group?_modGroup gid n f hf]
  cases hg : s.group? n with
  | none => rfl
  | some g => simp [State.gid_of_group? hg, h]

theorem Group.path?_modPath (g : Group) (pid n : Nat) (f : Path → Path) (hf : ∀ p, (f p).pid = p.pid) :
    (g.modPath pid f).path? n = (g.path? n).map (fun p => if p.pid = pid then f p else p) :=
  find?_updWhere (fun p : Path => p.pid) pid n f hf g.paths

theorem State.modGroup_modGroup (s : State) (gid : Nat) (f h : Group → Group) (hf : ∀ g, (f g).gid = g.gid) :
    (s.modGroup gid f).modGroup gid h = s.modGroup gid (h ∘ f) := by
  unfold State.modGroup updWhere
  simp only [List.map_map]
  congr 1
  apply List.map_congr_left
  intro g _
  by_cases hg : g.gid = gid <;> simp [hg, hf]

/-! Settling. -/


/-- A group with other paths. -/
def Group.withPaths (g : Group) (ps : List Path) : Group := { g with paths := ps }

/-- What settling does to a group without stacked paths. -/
def Group.tidy (g : Group) : Group := (Group.mergeAll { g with paths := g.paths.filter (fun p => !p.lanes.isEmpty || p.stacked.isSome) } 32).clearAfter

theorem Group.mergeOnce_eq {g h : Group} (e : g.mergeOnce = some h) :
    h = g.withPaths h.paths ∧ (g.noStack → h.noStack) := by
  unfold Group.mergeOnce at e
  split at e
  · cases e
  · split at e
    · cases e
    · cases e
      refine ⟨rfl, fun hn p hp => ?_⟩
      simp only [updWhere, List.mem_filter, List.mem_map] at hp
      obtain ⟨⟨q, hq, rfl⟩, -⟩ := hp
      split <;> exact hn q hq

theorem Group.mergeAll_eq (n : Nat) (g : Group) :
    g.mergeAll n = g.withPaths (g.mergeAll n).paths ∧ (g.noStack → (g.mergeAll n).noStack) := by
  induction n generalizing g with
  | zero => exact ⟨rfl, id⟩
  | succ n ih =>
    unfold Group.mergeAll
    split
    · exact ⟨rfl, id⟩
    · rename_i h e
      obtain ⟨h1, h2⟩ := Group.mergeOnce_eq e
      obtain ⟨i1, i2⟩ := ih h
      refine ⟨?_, fun hn => i2 (h2 hn)⟩
      generalize hm : h.mergeAll n = m at i1
      generalize m.paths = mp at i1
      rw [i1, h1]; rfl

theorem Group.tidy_eq (g : Group) : g.tidy = g.withPaths g.tidy.paths := by
  have h := (Group.mergeAll_eq 32 { g with paths := g.paths.filter (fun p => !p.lanes.isEmpty || p.stacked.isSome) }).1
  unfold Group.tidy Group.clearAfter
  generalize Group.mergeAll _ 32 = m at h
  generalize m.paths = mp at h
  rw [h]; rfl

@[simp] theorem Group.tidy_gid (g : Group) : g.tidy.gid = g.gid := by rw [g.tidy_eq]; rfl
@[simp] theorem Group.tidy_lanes (g : Group) : g.tidy.lanes = g.lanes := by rw [g.tidy_eq]; rfl

theorem Group.noStack_tidy (g : Group) (h : g.noStack) : g.tidy.noStack := by
  have h1 : Group.noStack { g with paths := g.paths.filter (fun p => !p.lanes.isEmpty || p.stacked.isSome) } :=
    fun p hp => h p (List.mem_of_mem_filter hp)
  have h2 := (Group.mergeAll_eq 32 _).2 h1
  intro p hp
  unfold Group.tidy Group.clearAfter at hp
  simp only [List.mem_map] at hp
  obtain ⟨q, hq, rfl⟩ := hp
  have := h2 q hq
  split
  · exact this
  · split
    · exact this
    · split <;> exact this

theorem insertBy_nil_iff {α : Type} (k : α → Nat) (x : α) (l : List α) : insertBy k x l ≠ [] := by
  cases l with
  | nil => simp [insertBy]
  | cons y r => unfold insertBy; split <;> simp

theorem Group.stackOf_noStack (g : Group) (h : g.noStack) (q : Nat) : g.stackOf q = [] := by
  unfold Group.stackOf
  have : g.paths.filter (fun p => p.qset == q && p.stacked.isSome) = [] := by
    rw [List.filter_eq_nil_iff]
    intro p hp
    simp [h p hp]
  rw [this]; rfl

theorem State.popFree_noStack (s : State) (gid n : Nat) (g : Group) (hg : s.group? gid = some g) (h : g.noStack) :
    s.popFree gid n = s := by
  cases n with
  | zero => rfl
  | succ n =>
    unfold State.popFree
    rw [hg]
    simp only
    split
    · rfl
    · rename_i q hq
      have hf := List.find?_some hq
      simp [g.stackOf_noStack h] at hf

/-- Settling a group without stacked paths only tidies its paths. -/
theorem State.settle_noStack (s : State) (gid : Nat) (g : Group) (hg : s.group? gid = some g) (h : g.noStack) :
    s.settle gid = s.modGroup gid Group.tidy := by
  unfold State.settle
  exact State.popFree_noStack (s.modGroup gid Group.tidy) gid 32 g.tidy
    (State.group?_modGroup_same hg Group.tidy Group.tidy_gid) (g.noStack_tidy h)

/-! Words that act on registers. -/

theorem State.current_some {s : State} {g : Group} {p : Path} (h : s.current = some (g, p)) :
    s.group? s.curG = some g ∧ g.path? s.curP = some p ∧ g.gid = s.curG ∧ p.pid = s.curP := by
  unfold State.current at h
  split at h
  · cases h
  · rename_i g' hg
    split at h
    · cases h
    · rename_i p' hp
      cases h
      refine ⟨hg, hp, State.gid_of_group? hg, ?_⟩
      have := List.find?_some hp
      simpa using this

theorem Group.noStack_modPath (g : Group) (h : g.noStack) (pid : Nat) (f : Path → Path) (hf : ∀ p, (f p).stacked = p.stacked) :
    (g.modPath pid f).noStack := by
  intro p hp
  simp only [Group.modPath, updWhere, List.mem_map] at hp
  obtain ⟨q, hq, rfl⟩ := hp
  split
  · rw [hf]; exact h q hq
  · exact h q hq

/-- The group after a register word: lanes, path, tidied. -/
def Group.afterWord (g : Group) (p : Path) (gd : Guard) (f : Lane → Lane) : Group :=
  ((g.mapActive p gd f).modPath p.pid (fun q => { q with pc := p.pc + 8, part := [] })).tidy

theorem regWord_eq (gd : Guard) (f : Lane → Lane) (s : State) (g : Group) (p : Path) (h : s.current = some (g, p))
    (hn : g.noStack) : regWord gd f s = .next (s.modGroup g.gid (fun x => x.afterWord p gd f)) := by
  obtain ⟨hg, hp, e1, e2⟩ := State.current_some h
  unfold regWord
  rw [h]
  simp only
  have hk : ∀ x : Group, (x.mapActive p gd f).gid = x.gid := fun _ => rfl
  have hm : (s.modGroup g.gid (fun g => g.mapActive p gd f)).goTo g.gid p.pid (p.pc + 8) =
      s.modGroup g.gid (fun x => (x.mapActive p gd f).modPath p.pid (fun q => { q with pc := p.pc + 8, part := [] })) := by
    unfold State.goTo State.modPath
    rw [State.modGroup_modGroup _ _ _ _ hk]; rfl
  rw [hm, e1]
  have hn' : ((g.mapActive p gd f).modPath p.pid (fun q => { q with pc := p.pc + 8, part := [] })).noStack :=
    Group.noStack_modPath _ (fun q hq => hn q hq) _ _ (fun _ => rfl)
  have hgr := State.group?_modGroup_same hg
    (fun x => (x.mapActive p gd f).modPath p.pid (fun q => { q with pc := p.pc + 8, part := [] })) (fun _ => rfl)
  rw [State.settle_noStack _ s.curG _ hgr hn', State.modGroup_modGroup]
  · rfl
  · exact fun _ => rfl

/-- The lanes after a register word. -/
theorem Group.lane_mapActive (g : Group) (p : Path) (gd : Guard) (f : Lane → Lane) (l : Nat) (hl : l < g.size) :
    (g.mapActive p gd f).lane l = if p.lanes.contains l && guardHolds gd (g.lane l) then f (g.lane l) else g.lane l := by
  have hl' : l < g.lanes.length := hl
  unfold Group.mapActive Group.lane
  simp [List.getD_eq_getElem?_getD, hl']

@[simp] theorem Group.afterWord_gid (g : Group) (p : Path) (gd : Guard) (f : Lane → Lane) : (g.afterWord p gd f).gid = g.gid := by
  unfold Group.afterWord; rw [Group.tidy_gid]; rfl

theorem Group.afterWord_lanes (g : Group) (p : Path) (gd : Guard) (f : Lane → Lane) :
    (g.afterWord p gd f).lanes = (g.mapActive p gd f).lanes := by
  unfold Group.afterWord; rw [Group.tidy_lanes]; rfl

theorem Group.afterWord_eq (g : Group) (p : Path) (gd : Guard) (f : Lane → Lane) :
    g.afterWord p gd f = { g with lanes := (g.afterWord p gd f).lanes, paths := (g.afterWord p gd f).paths } := by
  rw [Group.afterWord_lanes]
  exact Group.tidy_eq _

/-- An undivided group stays so, with its path where it was put. -/
theorem Group.tidy_one (g : Group) (p : Path) (h : g.paths = [p]) (hl : p.lanes ≠ []) :
    ∃ q, g.tidy.paths = [q] ∧ q.lanes = p.lanes ∧ q.pc = p.pc := by
  have hf : ({ g with paths := g.paths.filter (fun p => !p.lanes.isEmpty || p.stacked.isSome) } : Group) = g := by
    have : g.paths.filter (fun p => !p.lanes.isEmpty || p.stacked.isSome) = g.paths := by
      rw [h]; simp [hl]
    rw [this]
  have hm : g.mergeOnce = none := by
    unfold Group.mergeOnce
    rw [h]
    simp
  have ha : g.mergeAll 32 = g := by
    unfold Group.mergeAll; rw [hm]
  unfold Group.tidy
  rw [hf, ha]
  unfold Group.clearAfter
  rw [h]
  simp only [List.map_cons, List.map_nil, List.cons.injEq, and_true, exists_eq_left']
  split
  · exact ⟨rfl, rfl⟩
  · split
    · exact ⟨rfl, rfl⟩
    · split <;> exact ⟨rfl, rfl⟩

theorem Group.modPath_one (g : Group) (p : Path) (h : g.paths = [p]) (f : Path → Path) : (g.modPath p.pid f).paths = [f p] := by
  simp [Group.modPath, updWhere, h]

theorem Group.afterWord_stepsTo (g : Group) (p : Path) (gd : Guard) (f : Lane → Lane) : g.stepsTo p (g.afterWord p gd f) := by
  refine ⟨Group.afterWord_eq g p gd f, fun hw => ?_⟩
  have h1 := Group.modPath_one (g.mapActive p gd f) p hw.1 (fun q => { q with pc := p.pc + 8, part := [] })
  obtain ⟨q, hq, h2, h3⟩ := Group.tidy_one _ _ h1 (by simpa using hw.2)
  exact ⟨q, hq, h2, h3⟩

theorem Group.afterWord_lanesBecome (g : Group) (p : Path) (gd : Guard) (f : Lane → Lane) :
    LanesBecome gd g p f (g.afterWord p gd f) := by
  have h : ∀ l, (g.afterWord p gd f).lane l = (g.mapActive p gd f).lane l := fun l => by
    unfold Group.lane; rw [Group.afterWord_lanes]
  refine ⟨?_, fun l hl => ?_⟩
  · rw [Group.afterWord_lanes]; simp [Group.mapActive]
  · rw [h, Group.lane_mapActive _ _ _ _ _ hl]

/-- A register word acts by its function and changes nothing else. -/
theorem regWord_actsBy (gd : Guard) (f : Lane → Lane) : ActsBy (regWord gd f) gd f := by
  intro s g p hr
  have hg := (State.current_some hr.1).1
  have e1 := (State.current_some hr.1).2.2.1
  rw [← e1] at hg
  have hk : ∀ x : Group, (x.afterWord p gd f).gid = x.gid := fun x => Group.afterWord_gid x p gd f
  exact ⟨_, _, regWord_eq gd f s g p hr.1 hr.2, State.group?_modGroup_same hg _ hk, Group.afterWord_stepsTo g p gd f,
    Group.afterWord_lanesBecome g p gd f, fun n hn => State.group?_modGroup_other s g.gid n _ hk hn, rfl⟩

/-! Words that raise flags. -/

theorem State.orCl_modGroup (s : State) (gid : Nat) (f : Group → Group) (c : Nat) (site : Site) (fl : Fl) :
    (s.modGroup gid f).orCl c site fl = (s.orCl c site fl).modGroup gid f := by
  unfold State.orCl; split <;> rfl

@[simp] theorem State.orCl_groups (s : State) (c : Nat) (site : Site) (fl : Fl) : (s.orCl c site fl).groups = s.groups := by
  unfold State.orCl; split <;> rfl

theorem State.orCl_group? (s : State) (c : Nat) (site : Site) (fl : Fl) (n : Nat) :
    (s.orCl c site fl).group? n = s.group? n := by
  unfold State.group?; rw [State.orCl_groups]

theorem State.orCl_eq (s : State) (c : Nat) (site : Site) (fl : Fl) :
    s.orCl c site fl = { s with ctxs := (s.orCl c site fl).ctxs } := by
  unfold State.orCl; split <;> rfl

/-- All the flags of the active lanes of a word. -/
def Group.allFlags (g : Group) (p : Path) (gd : Guard) (f : Lane → Lane × Fl) : Fl :=
  Fl.orAll ((g.active p gd).map (fun l => (f (g.lane l)).2))

theorem fpWord_eq (gd : Guard) (f : Lane → Lane × Fl) (s : State) (g : Group) (p : Path) (h : s.current = some (g, p))
    (hn : g.noStack) : fpWord gd f s = .next ((s.orCl g.ctx g.site (g.allFlags p gd f)).modGroup g.gid
      (fun x => x.afterWord p gd (fun l => (f l).1.setFlags (f l).2))) := by
  have hc : (s.orCl g.ctx g.site (g.allFlags p gd f)).current = some (g, p) := by
    have e : (s.orCl g.ctx g.site (g.allFlags p gd f)).current = s.current := by
      unfold State.current
      rw [State.orCl_group?]
      have h1 : (s.orCl g.ctx g.site (g.allFlags p gd f)).curG = s.curG := by rw [State.orCl_eq]
      have h2 : (s.orCl g.ctx g.site (g.allFlags p gd f)).curP = s.curP := by rw [State.orCl_eq]
      rw [h1, h2]
    rw [e, h]
  rw [← regWord_eq gd (fun l => (f l).1.setFlags (f l).2) _ g p hc hn]
  unfold fpWord regWord
  rw [h, hc]
  simp only [State.orCl_modGroup]
  rfl

theorem fpWord_actsByFl (gd : Guard) (f : Lane → Lane × Fl) : ActsByFl (fpWord gd f) gd f := by
  intro s g p hr
  have hg := (State.current_some hr.1).1
  have e1 := (State.current_some hr.1).2.2.1
  rw [← e1] at hg
  let F : Lane → Lane := fun l => (f l).1.setFlags (f l).2
  have hk : ∀ x : Group, (x.afterWord p gd F).gid = x.gid := fun x => Group.afterWord_gid x p gd F
  have hg' : (s.orCl g.ctx g.site (g.allFlags p gd f)).group? g.gid = some g := by rw [State.orCl_group?]; exact hg
  refine ⟨_, _, fpWord_eq gd f s g p hr.1 hr.2, State.group?_modGroup_same hg' _ hk, Group.afterWord_stepsTo g p gd F,
    Group.afterWord_lanesBecome g p gd F, fun n hn => ?_, rfl, ?_⟩
  · rw [State.group?_modGroup_other _ g.gid n _ hk hn, State.orCl_group?]
  · have e := State.orCl_eq s g.ctx g.site (g.allFlags p gd f)
    generalize hu : s.orCl g.ctx g.site (g.allFlags p gd f) = u at e ⊢
    generalize u.ctxs = cs at e
    subst e; rfl

end Sys2Proof.Machine
end

