-- ==== Sys2Proof/Laws/Mem.lean ====
section
/-!
SUPPORT. Laws of memory: the canonical form of the cells and that every memory operation keeps it, read after write, and that
only writes change the value of a byte.
-/

namespace Sys2Proof.Machine

open Sys2Proof

/-! Cells. -/

theorem cellsWf_cons (c : Nat) (x : Byte) (r : List Host.Cell) :
    cellsWf ((c, x) :: r) = true ↔ x ≠ 0 ∧ cellsWf r = true ∧ ∀ e ∈ r, c < e.1 := by
  induction r generalizing c x with
  | nil => simp [cellsWf]
  | cons e t ih =>
    obtain ⟨d, y⟩ := e
    constructor
    · intro h
      simp only [cellsWf, Bool.and_eq_true, decide_eq_true_eq, bne_iff_ne] at h
      obtain ⟨⟨h1, h2⟩, h3⟩ := h
      refine ⟨h2, h3, ?_⟩
      intro e he
      rcases List.mem_cons.mp he with rfl | he
      · exact h1
      · exact lt_trans h1 (((ih d y).mp h3).2.2 e he)
    · rintro ⟨h1, h2, h3⟩
      simp only [cellsWf, Bool.and_eq_true, decide_eq_true_eq, bne_iff_ne]
      exact ⟨⟨h3 (d, y) (List.mem_cons_self), h1⟩, h2⟩

/-- An address below every listed one reads 0. -/
theorem cellAt_below (r : List Host.Cell) (a : Nat) (h : ∀ e ∈ r, a < e.1) : cellAt r a = 0 := by
  cases r with
  | nil => rfl
  | cons e t =>
    obtain ⟨c, x⟩ := e
    have : a < c := h (c, x) (List.mem_cons_self)
    simp [cellAt, this, Nat.ne_of_lt this]

theorem cellPut_mem (r : List Host.Cell) (a : Nat) (b : Byte) (e : Host.Cell) (h : e ∈ cellPut r a b) :
    e = (a, b) ∨ e ∈ r := by
  induction r with
  | nil =>
    unfold cellPut at h
    split at h
    · cases h
    · exact .inl (by simpa using h)
  | cons f t ih =>
    obtain ⟨c, x⟩ := f
    unfold cellPut at h
    split at h
    · split at h
      · exact .inr h
      · rcases List.mem_cons.mp h with h | h
        · exact .inl h
        · exact .inr h
    · split at h
      · split at h
        · exact .inr (List.mem_cons_of_mem _ h)
        · rcases List.mem_cons.mp h with h | h
          · exact .inl h
          · exact .inr (List.mem_cons_of_mem _ h)
      · rcases List.mem_cons.mp h with h | h
        · exact .inr (h ▸ List.mem_cons_self)
        · rcases ih h with h | h
          · exact .inl h
          · exact .inr (List.mem_cons_of_mem _ h)

/-- A write of a byte keeps the canonical form. -/
theorem cellsWf_cellPut (r : List Host.Cell) (a : Nat) (b : Byte) (h : cellsWf r = true) : cellsWf (cellPut r a b) = true := by
  induction r with
  | nil =>
    unfold cellPut
    split
    · rfl
    · rename_i hb; simpa [cellsWf] using hb
  | cons e t ih =>
    obtain ⟨c, x⟩ := e
    obtain ⟨h1, h2, h3⟩ := (cellsWf_cons c x t).mp h
    unfold cellPut
    split
    · rename_i hlt
      split
      · exact h
      · rename_i hb
        refine (cellsWf_cons a b _).mpr ⟨hb, h, ?_⟩
        intro e he
        rcases List.mem_cons.mp he with rfl | he
        · exact hlt
        · exact lt_trans hlt (h3 e he)
    · split
      · rename_i hac
        split
        · exact h2
        · rename_i hb
          exact (cellsWf_cons a b t).mpr ⟨hb, h2, fun e he => hac ▸ h3 e he⟩
      · rename_i hlt hne
        refine (cellsWf_cons c x _).mpr ⟨h1, ih h2, ?_⟩
        intro e he
        rcases cellPut_mem t a b e he with rfl | he
        · exact lt_of_le_of_ne (Nat.le_of_not_lt hlt) (Ne.symm hne)
        · exact h3 e he

/-- A byte written is read back. -/
theorem cellAt_cellPut_same (r : List Host.Cell) (a : Nat) (b : Byte) (h : cellsWf r = true) : cellAt (cellPut r a b) a = b := by
  induction r with
  | nil =>
    unfold cellPut
    split
    · rename_i hb; simp [cellAt, hb]
    · simp [cellAt]
  | cons e t ih =>
    obtain ⟨c, x⟩ := e
    obtain ⟨-, h2, h3⟩ := (cellsWf_cons c x t).mp h
    unfold cellPut
    split
    · rename_i hlt
      split
      · rename_i hb; simp [cellAt, hlt, Nat.ne_of_lt hlt, hb]
      · simp [cellAt]
    · split
      · rename_i hac
        split
        · rename_i hb; rw [hb]; exact cellAt_below t a (fun e he => hac ▸ h3 e he)
        · simp [cellAt]
      · rename_i hlt hne
        simp [cellAt, hne, hlt, ih h2]

/-- A write of a byte leaves every other byte alone. -/
theorem cellAt_cellPut_other (r : List Host.Cell) (a b' : Nat) (b : Byte) (h : cellsWf r = true) (hn : b' ≠ a) :
    cellAt (cellPut r a b) b' = cellAt r b' := by
  induction r with
  | nil =>
    unfold cellPut
    split
    · rfl
    · simp only [cellAt, hn, if_false]; split <;> rfl
  | cons e t ih =>
    obtain ⟨c, x⟩ := e
    obtain ⟨-, h2, h3⟩ := (cellsWf_cons c x t).mp h
    unfold cellPut
    split
    · rename_i hlt
      split
      · rfl
      · rw [cellAt, if_neg hn]
        by_cases hb : b' < a
        · rw [if_pos hb, cellAt, if_neg (by omega), if_pos (by omega)]
        · rw [if_neg hb]
    · split
      · rename_i hac
        subst hac
        split
        · by_cases hb : b' < a
          · rw [cellAt_below t b' (fun e he => lt_trans hb (h3 e he))]; simp [cellAt, hn, hb]
          · simp [cellAt, hn, hb]
        · simp [cellAt, hn]
      · simp only [cellAt]
        split
        · rfl
        · split
          · rfl
          · exact ih h2

theorem cellsWf_cellsWrite (l : List Host.Cell) (a : Nat) (bs : List Byte) (h : cellsWf l = true) :
    cellsWf (cellsWrite l a bs) = true := by
  unfold cellsWrite
  generalize bs.zipIdx a = xs
  induction xs generalizing l with
  | nil => exact h
  | cons e t ih => exact ih _ (cellsWf_cellPut l e.2 e.1 h)

/-- A write of several bytes leaves every byte outside its range alone. -/
theorem cellAt_cellsWrite_other (l : List Host.Cell) (a : Nat) (bs : List Byte) (c : Nat) (h : cellsWf l = true)
    (hc : c < a ∨ a + bs.length ≤ c) : cellAt (cellsWrite l a bs) c = cellAt l c := by
  unfold cellsWrite
  induction bs generalizing l a with
  | nil => rfl
  | cons b t ih =>
    simp only [List.zipIdx_cons, List.foldl_cons]
    simp only [List.length_cons] at hc
    rw [ih _ (a + 1) (cellsWf_cellPut l a b h) (by omega), cellAt_cellPut_other l a c b h (by omega)]

/-- Each byte written is read back. -/
theorem cellAt_cellsWrite_same (l : List Host.Cell) (a i : Nat) (bs : List Byte) (h : cellsWf l = true) (hi : i < bs.length) :
    cellAt (cellsWrite l a bs) (a + i) = bs[i] := by
  unfold cellsWrite
  induction bs generalizing l a i with
  | nil => exact absurd hi (by simp)
  | cons b t ih =>
    simp only [List.zipIdx_cons, List.foldl_cons]
    cases i with
    | zero =>
      have := cellAt_cellsWrite_other (cellPut l a b) (a + 1) t a (cellsWf_cellPut l a b h) (.inl (by omega))
      unfold cellsWrite at this
      simpa [cellAt_cellPut_same l a b h] using this
    | succ i =>
      have := ih (cellPut l a b) (a + 1) i (cellsWf_cellPut l a b h) (by simpa using hi)
      simpa [Nat.add_assoc, Nat.add_comm 1 i] using this

/-! What the operations on copies leave of the values of memory. -/

@[simp] theorem MemSys.setHome_hbm (m : MemSys) (h : Home) : (m.setHome h).hbm = m.hbm := rfl
@[simp] theorem MemSys.dropCopies_hbm (m : MemSys) (p : Copy → Bool) : (m.dropCopies p).hbm = m.hbm := rfl
@[simp] theorem MemSys.modCopies_hbm (m : MemSys) (p : Copy → Bool) (f : Copy → Copy) : (m.modCopies p f).hbm = m.hbm := rfl
@[simp] theorem MemSys.touch_hbm (m : MemSys) (p : Copy → Bool) : (m.touch p).hbm = m.hbm := rfl
@[simp] theorem MemSys.setBoundary_hbm (m : MemSys) (site : Site) (p b : Nat) : (m.setBoundary site p b).hbm = m.hbm := rfl
@[simp] theorem MemSys.lease_hbm (m : MemSys) (l p : Nat) : (m.lease l p).2.hbm = m.hbm := rfl

@[simp] theorem MemSys.recall_hbm (m : MemSys) (l : Nat) : (m.recall l).hbm = m.hbm := by
  unfold MemSys.recall; simp only; split <;> rfl

@[simp] theorem MemSys.evict_hbm (m : MemSys) (c : Copy) : (m.evict c).hbm = m.hbm := by
  unfold MemSys.evict; simp only; split <;> rfl

@[simp] theorem MemSys.fill_hbm (m : MemSys) (w : Nat) (c : Copy) : (m.fill w c).hbm = m.hbm := by
  unfold MemSys.fill
  simp only
  split
  · rfl
  · split
    · rfl
    · simp

@[simp] theorem MemSys.roomInStation_hbm (m : MemSys) (c : Copy) : (m.roomInStation c).hbm = m.hbm := by
  unfold MemSys.roomInStation
  simp only
  repeat' (first | rfl | split)

@[simp] theorem MemSys.tableRead_hbm (m : MemSys) (die st ctx level key pa pts : Nat) :
    (m.tableRead die st ctx level key pa pts).2.2.hbm = m.hbm := by
  unfold MemSys.tableRead
  simp only
  split <;> simp

@[simp] theorem MemSys.walk_hbm (m : MemSys) (root die ctx va pts : Nat) : (m.walk root die ctx va pts).2.2.hbm = m.hbm := by
  unfold MemSys.walk
  simp only
  repeat' (split <;> try simp)

@[simp] theorem MemSys.translate_hbm (m : MemSys) (root die ctx : Nat) (p : Bool) (va need pts : Nat) :
    (m.translate root die ctx p va need pts).2.2.hbm = m.hbm := by
  unfold MemSys.translate
  simp only
  split
  · simp
  · split <;> simp

@[simp] theorem MemSys.l1Fill_hbm (m : MemSys) (r : Req) (va pa perm : Nat) : (m.l1Fill r va pa perm).1.hbm = m.hbm := by
  unfold MemSys.l1Fill
  simp only
  split <;> split <;> simp

@[simp] theorem MemSys.l1Renew_hbm (m : MemSys) (r : Req) (va n pa perm : Nat) : (m.l1Renew r va n pa perm).2.2.hbm = m.hbm := by
  unfold MemSys.l1Renew
  split <;> simp

@[simp] theorem MemSys.l1Load_hbm (m : MemSys) (r : Req) (va n : Nat) : (m.l1Load r va n).2.2.hbm = m.hbm := by
  unfold MemSys.l1Load
  split
  · simp only; split <;> simp
  · split
    · simp
    · simp only; split <;> simp

/-- A translation repeated for its place in the order changes no byte where a single one changes none. -/
theorem MemSys.translateAt_hbm (tr : MemSys → Nat → MRes (Nat × Nat) × Nat × MemSys) (place : MemSys → Nat → Nat → Nat)
    (h : ∀ m p, (tr m p).2.2.hbm = m.hbm) (n : Nat) (m : MemSys) (pts : Nat) :
    (MemSys.translateAt tr place n m pts).2.2.hbm = m.hbm := by
  induction n generalizing m pts with
  | zero => exact h m pts
  | succ n ih =>
    unfold MemSys.translateAt
    have h1 := h m pts
    generalize tr m pts = a at h1
    obtain ⟨r, p, m1⟩ := a
    have h2 := fun q => h m1 q
    cases r <;> simp only at h1 ⊢ <;> try exact h1
    rename_i x
    have h3 := h2 (place m1 x.1 p)
    generalize tr m1 (place m1 x.1 p) = b at h3
    obtain ⟨r2, q, m2⟩ := b
    cases r2 <;> simp only at h3 ⊢ <;> repeat' split
    all_goals first | exact h1 | exact h3.trans h1 | exact (ih m2 q).trans (h3.trans h1)

@[simp] theorem MemSys.l1Own_hbm (m : MemSys) (r : Req) (va need : Nat) : (m.l1Own r va need).2.2.hbm = m.hbm := by
  unfold MemSys.l1Own
  split
  · simp
  · have h := MemSys.translateAt_hbm (fun m q => m.translate r.ptRoot r.die r.ctx r.privS va need q) MemSys.writePlace (by simp) 3 m r.pts
    simp only
    split <;> simp [h]

@[simp] theorem MemSys.homeRead_hbm (m : MemSys) (pa n pts : Nat) : (m.homeRead pa n pts).2.hbm = m.hbm := by
  unfold MemSys.homeRead; simp

@[simp] theorem MemSys.shrink_hbm_step (m : MemSys) (cs : List Copy) : (cs.foldl (fun m c => m.evict c) m).hbm = m.hbm := by
  induction cs generalizing m with
  | nil => rfl
  | cons c t ih => simp [ih]

/-! Writes. -/

theorem MemSys.write_hbm (m : MemSys) (skip : Copy → Bool) (home : Bool) (pa : Nat) (bs : List Byte) :
    (m.write skip home pa bs).hbm = cellsWrite m.hbm pa bs := by
  unfold MemSys.write cellsWrite
  generalize bs.zipIdx pa = xs
  induction xs generalizing m with
  | nil => rfl
  | cons e t ih =>
    rw [List.foldl_cons, List.foldl_cons, ih]
    cases home <;> rfl

theorem MemSys.l1Write_hbm (m : MemSys) (r : Req) (va pa pts : Nat) (bs : List Byte) :
    (m.l1Write r va pa pts bs).2.hbm = cellsWrite m.hbm pa bs := by
  unfold MemSys.l1Write; simp [MemSys.write_hbm]

theorem MemSys.homeWrite_hbm (m : MemSys) (pa pts : Nat) (bs : List Byte) :
    (m.homeWrite pa pts bs).2.hbm = cellsWrite m.hbm pa bs := by
  unfold MemSys.homeWrite; simp [MemSys.write_hbm]

/-- Every write of physical memory keeps the canonical form. -/
theorem MemSys.l1Write_wf (m : MemSys) (r : Req) (va pa pts : Nat) (bs : List Byte) (h : cellsWf m.hbm = true) :
    cellsWf (m.l1Write r va pa pts bs).2.hbm = true := by
  rw [MemSys.l1Write_hbm]; exact cellsWf_cellsWrite _ _ _ h

theorem MemSys.homeWrite_wf (m : MemSys) (pa pts : Nat) (bs : List Byte) (h : cellsWf m.hbm = true) :
    cellsWf (m.homeWrite pa pts bs).2.hbm = true := by
  rw [MemSys.homeWrite_hbm]; exact cellsWf_cellsWrite _ _ _ h

/-! Scratchpads. -/

@[simp] theorem Pad.load_bytes (p : Pad) (off n pts : Nat) : (p.load off n pts).2.2.bytes = p.bytes := rfl
@[simp] theorem Pad.store_bytes (p : Pad) (own : Writer) (off pts : Nat) (bs : List Byte) :
    (p.store own off pts bs).2.bytes = cellsWrite p.bytes off bs := rfl

theorem Pad.store_wf (p : Pad) (own : Writer) (off pts : Nat) (bs : List Byte) (h : cellsWf p.bytes = true) :
    cellsWf (p.store own off pts bs).2.bytes = true := cellsWf_cellsWrite _ _ _ h

end Sys2Proof.Machine
end

