-- ==== Sys2Proof/Laws/Word.lean ====
section
/-!
SUPPORT. Laws of the forms in which a word acts on its lanes one by one, of traps, and of parked paths: what each answers when
no lane is active, when its one active lane completes, holds or traps.
-/

namespace Sys2Proof.Machine

open Sys2Proof

/-- The path of a word goes on at an address, and the group is tidied. -/
def Group.goOn (g : Group) (pid : Nat) (pc : Word) : Group := (g.modPath pid (fun q => { q with pc := pc, part := [] })).tidy

@[simp] theorem Group.goOn_gid (g : Group) (pid : Nat) (pc : Word) : (g.goOn pid pc).gid = g.gid := by
  unfold Group.goOn; rw [Group.tidy_gid]; rfl
@[simp] theorem Group.goOn_lanes (g : Group) (pid : Nat) (pc : Word) : (g.goOn pid pc).lanes = g.lanes := by
  unfold Group.goOn; rw [Group.tidy_lanes]; rfl
@[simp] theorem Group.goOn_lane (g : Group) (pid : Nat) (pc : Word) (l : Nat) : (g.goOn pid pc).lane l = g.lane l := by
  unfold Group.lane; rw [Group.goOn_lanes]

theorem Group.goOn_eq (g : Group) (pid : Nat) (pc : Word) : g.goOn pid pc = { g with paths := (g.goOn pid pc).paths } :=
  Group.tidy_eq _

/-- An undivided group's path goes on where it was sent. -/
theorem Group.goOn_one (g : Group) (p : Path) (pc : Word) (h : g.whole p) :
    ∃ q, (g.goOn p.pid pc).paths = [q] ∧ q.lanes = p.lanes ∧ q.pc = pc := by
  obtain ⟨q, h1, h2, h3⟩ := Group.tidy_one _ _ (Group.modPath_one g p h.1 (fun q => { q with pc := pc, part := [] })) (by simpa using h.2)
  exact ⟨q, h1, h2, h3⟩

/-- Going on and settling, in a group without stacked paths. -/
theorem State.goTo_settle (u : State) (gid pid : Nat) (pc : Word) (g : Group) (hg : u.group? gid = some g) (hn : g.noStack) :
    (u.goTo gid pid pc).settle gid = u.modGroup gid (fun x => x.goOn pid pc) := by
  have h1 : (u.goTo gid pid pc).group? gid = some (g.modPath pid (fun q => { q with pc := pc, part := [] })) :=
    State.group?_modGroup_same hg _ (fun _ => rfl)
  rw [State.settle_noStack _ gid _ h1 (Group.noStack_modPath _ hn _ _ (fun _ => rfl))]
  unfold State.goTo State.modPath
  rw [State.modGroup_modGroup]
  · rfl
  · exact fun _ => rfl

/-! Words that act lane by lane. -/

theorem laneFold_one (f : State → Nat → LRes Unit) (l : Nat) (s u : State) (h : f s l = .ok () u) :
    laneFold f [l] s = ⟨u, [], [], false⟩ := by simp [laneFold, h]

theorem laneFold_hold (f : State → Nat → LRes Unit) (l : Nat) (s : State) (h : f s l = .hold) :
    laneFold f [l] s = ⟨s, [], [], true⟩ := by simp [laneFold, h]

theorem laneFold_trap (f : State → Nat → LRes Unit) (l : Nat) (s : State) (t : TrapInfo) (h : f s l = .trap t) :
    laneFold f [l] s = ⟨s, [(l, t)], [], false⟩ := by simp [laneFold, h]

/-- The one active lane completes: the path goes on. -/
theorem laneWord_one {s u : State} {g g' : Group} {p : Path} {gd : Guard} {l : Nat} {f : State → Nat → Nat → LRes Unit}
    (h : s.runsOne g p gd l) (hf : f s g.gid l = .ok () u) (hu : u.group? g.gid = some g') (hn : g'.noStack) :
    laneWord gd f s = .next (u.modGroup g.gid (fun x => x.goOn p.pid (p.pc + 8))) := by
  obtain ⟨⟨hc, -⟩, ha, -⟩ := h
  unfold laneWord
  rw [hc]
  simp only [ha, laneFold_one (fun s l => f s g.gid l) l s u hf]
  exact congrArg Host.Outcome.next (State.goTo_settle u g.gid p.pid (p.pc + 8) g' hu hn)

/-- The one active lane holds issue: nothing changes, and the word is issued again. -/
theorem laneWord_hold {s : State} {g : Group} {p : Path} {gd : Guard} {l : Nat} {f : State → Nat → Nat → LRes Unit}
    (h : s.runsOne g p gd l) (hf : f s g.gid l = .hold) : laneWord gd f s = .next s := by
  obtain ⟨⟨hc, -⟩, ha, -⟩ := h
  unfold laneWord
  rw [hc]
  simp only [ha, laneFold_hold (fun s l => f s g.gid l) l s hf]
  simp [State.finish]

/-- A word without an active lane only advances. -/
theorem laneWord_idle {s : State} {g : Group} {p : Path} {gd : Guard} {f : State → Nat → Nat → LRes Unit}
    (h : s.runs g p) (ha : g.active p gd = []) :
    laneWord gd f s = .next (s.modGroup g.gid (fun x => x.goOn p.pid (p.pc + 8))) := by
  obtain ⟨hc, hn⟩ := h
  have hg := (State.current_some hc).1
  rw [← (State.current_some hc).2.2.1] at hg
  unfold laneWord
  rw [hc]
  simp only [ha]
  exact congrArg Host.Outcome.next (State.goTo_settle s g.gid p.pid (p.pc + 8) g hg hn)

/-! Lookup of lanes after updates. -/

theorem State.lane_of_group? {s : State} {n : Nat} {g : Group} (h : s.group? n = some g) (l : Nat) : s.lane n l = g.lane l := by
  unfold State.lane; rw [h]

theorem Group.lane_modLane_same (g : Group) (l : Nat) (f : Lane → Lane) (h : l < g.size) : (g.modLane l f).lane l = f (g.lane l) := by
  have h' : l < g.lanes.length := h
  unfold Group.modLane Group.lane
  simp [List.getD_eq_getElem?_getD, h']

theorem Group.lane_modLane_other (g : Group) (l i : Nat) (f : Lane → Lane) (h : i ≠ l) : (g.modLane l f).lane i = g.lane i := by
  unfold Group.modLane Group.lane
  simp [List.getD_eq_getElem?_getD, Ne.symm h]

@[simp] theorem Group.modLane_paths (g : Group) (l : Nat) (f : Lane → Lane) : (g.modLane l f).paths = g.paths := rfl
@[simp] theorem Group.modLane_gid (g : Group) (l : Nat) (f : Lane → Lane) : (g.modLane l f).gid = g.gid := rfl
@[simp] theorem Group.modLane_size (g : Group) (l : Nat) (f : Lane → Lane) : (g.modLane l f).size = g.size := by
  simp [Group.modLane, Group.size]

theorem State.lane_modLane_same (s : State) (n l : Nat) (g : Group) (f : Lane → Lane) (hg : s.group? n = some g) (h : l < g.size) :
    (s.modLane n l f).lane n l = f (s.lane n l) := by
  have h1 : (s.modLane n l f).group? n = some (g.modLane l f) := State.group?_modGroup_same hg _ (fun _ => rfl)
  rw [State.lane_of_group? h1, State.lane_of_group? hg, Group.lane_modLane_same g l f h]

theorem State.lane_modLane_other (s : State) (n l m i : Nat) (f : Lane → Lane) (h : ¬(m = n ∧ i = l)) :
    (s.modLane n l f).lane m i = s.lane m i := by
  unfold State.lane State.modLane
  rw [s.group?_modGroup n m (fun g => g.modLane l f) (fun _ => rfl)]
  cases hg : s.group? m with
  | none => rfl
  | some g =>
    simp only [Option.map_some]
    have := State.gid_of_group? hg
    split
    · rename_i e
      exact Group.lane_modLane_other g l i f (fun hi => h ⟨by omega, hi⟩)
    · rfl

/-- Going on changes no lane. -/
theorem State.lane_goOn (s : State) (n pid m i : Nat) (pc : Word) :
    (s.modGroup n (fun x => x.goOn pid pc)).lane m i = s.lane m i := by
  unfold State.lane
  rw [s.group?_modGroup n m _ (fun g => Group.goOn_gid g pid pc)]
  cases s.group? m with
  | none => rfl
  | some g => simp only [Option.map_some]; split <;> simp

/-! Scratchpads. -/

theorem State.klass?_modKlass (s : State) (k n : Nat) (f : Klass → Klass) (hf : ∀ c, (f c).kid = c.kid) :
    (s.modKlass k f).klass? n = (s.klass? n).map (fun c => if c.kid = k then f c else c) :=
  find?_updWhere (fun c : Klass => c.kid) k n f hf s.classes

theorem State.kid_of_klass? {s : State} {n : Nat} {c : Klass} (h : s.klass? n = some c) : c.kid = n := by
  have := List.find?_some h
  simpa using this

/-- A member's scratchpad after an update of it. -/
theorem State.pad?_modPad_same (s : State) (k m : Nat) (p : Pad) (f : Pad → Pad) (h : s.pad? k m = some p) :
    (s.modPad k m f).pad? k m = some (f p) := by
  unfold State.pad? at h ⊢
  unfold State.modPad
  rw [s.klass?_modKlass k k (fun c => { c with pads := c.pads.modify m f }) (fun _ => rfl)]
  cases hc : s.klass? k with
  | none => rw [hc] at h; cases h
  | some c =>
    rw [hc] at h
    simp only [Option.map_some, State.kid_of_klass? hc, if_true]
    simp only at h
    simp [h]

theorem State.pad?_modPad_other (s : State) (k m k' m' : Nat) (f : Pad → Pad) (h : ¬(k' = k ∧ m' = m)) :
    (s.modPad k m f).pad? k' m' = s.pad? k' m' := by
  unfold State.pad? State.modPad
  rw [s.klass?_modKlass k k' (fun c => { c with pads := c.pads.modify m f }) (fun _ => rfl)]
  cases hc : s.klass? k' with
  | none => rfl
  | some c =>
    simp only [Option.map_some]
    split
    · rename_i e
      have := State.kid_of_klass? hc
      have hm : m ≠ m' := fun e' => h ⟨by omega, e'.symm⟩
      simp [hm]
    · rfl

end Sys2Proof.Machine
end

