-- ==== Sys2Proof/Laws/Read.lean ====
section
/-!
SUPPORT. Laws of the words that read their group and the units into a register, and of a lane's access to a scratchpad: what
each answers, once, for every caller.
-/

namespace Sys2Proof.Machine

open Sys2Proof

/-! Words that read into a register. -/

/-- The lanes of a group after a word that writes a register of its active lanes. -/
def Group.readInto (g : Group) (act : List Nat) (d : XReg) (f : Nat → Word) : List Lane :=
  (g.lanes.zipIdx).map (fun y => if act.contains y.2 then y.1.wx d (f y.2) else y.1)

theorem Group.lane_readInto (g : Group) (act : List Nat) (d : XReg) (f : Nat → Word) (l : Nat) (hl : l < g.size) :
    (g.readInto act d f).getD l Lane.zero = if l ∈ act then (g.lane l).wx d (f l) else g.lane l := by
  have hl' : l < g.lanes.length := hl
  unfold Group.readInto Group.lane
  simp [List.getD_eq_getElem?_getD, hl']

/-- A word that reads its group writes one register of its active lanes and nothing else. -/
theorem groupRead_readsBy (gd : Guard) (d : XReg) (val : State → Group → Nat → Word) :
    ReadsBy (fun s => groupRead gd d (val s) s) gd d val := by
  intro s g p hr
  obtain ⟨hc, hn⟩ := hr
  have hg := (State.current_some hc).1
  rw [← (State.current_some hc).2.2.1] at hg
  let F : Group → Group := fun x => { x with lanes := (x.lanes.zipIdx).map (fun y =>
    if (g.active p gd).contains y.2 then y.1.wx d (val s g y.2) else y.1) }
  let g1 : Group := { g with lanes := g.readInto (g.active p gd) d (val s g) }
  have h1 : (s.modGroup g.gid F).group? g.gid = some g1 := State.group?_modGroup_same hg F (fun _ => rfl)
  have hn1 : g1.noStack := hn
  have e : groupRead gd d (val s) s = .next ((s.modGroup g.gid F).modGroup g.gid (fun x => x.goOn p.pid (p.pc + 8))) := by
    unfold groupRead
    rw [hc]
    exact congrArg Host.Outcome.next (State.goTo_settle _ g.gid p.pid (p.pc + 8) g1 h1 hn1)
  refine ⟨_, g1.goOn p.pid (p.pc + 8), e, State.group?_modGroup_same h1 _ (fun x => Group.goOn_gid x _ _), ⟨?_, ?_⟩, ?_, ?_, ?_, ?_⟩
  · rw [Group.goOn_eq]
  · intro hw; exact Group.goOn_one g1 p (p.pc + 8) hw
  · rw [Group.goOn_lanes]; simp [g1, Group.readInto]
  · intro l hl
    rw [Group.goOn_lane]
    exact Group.lane_readInto g _ d _ l hl
  · intro n hn'
    rw [State.group?_modGroup_other _ g.gid n _ (fun x => Group.goOn_gid x _ _) hn', State.group?_modGroup_other _ g.gid n F (fun _ => rfl) hn']
  · rfl

theorem ReadsBy.of_eq {o : State → Out} {gd : Guard} {d : XReg} {val : State → Group → Nat → Word}
    (h : ∀ s, o s = groupRead gd d (val s) s) : ReadsBy o gd d val := by
  rw [show o = fun s => groupRead gd d (val s) s from funext h]
  exact groupRead_readsBy gd d val

end Sys2Proof.Machine
end

