-- ==== Sys2Proof/Laws/Access.lean ====
section
/-!
SUPPORT. A lane's access to its own scratchpad or a member's of its class, once for every caller: what the checks of 08 R207 answer, and the state that a
load, a store and an atomic leave.
-/

namespace Sys2Proof.Machine

open Sys2Proof

theorem toBytes_length (n v : Nat) : (toBytes n v).length = n := by
  unfold toBytes
  rw [List.length_map]
  induction n generalizing v with
  | zero => rfl
  | succ n ih => simp [bytesOf, ih]

/-- Byte k of a number, little-endian (00 R3). -/
theorem toBytes_get (n v k : Nat) (h : k < (toBytes n v).length) : (toBytes n v)[k] = BitVec.ofNat 8 (v / 256 ^ k) := by
  unfold toBytes at h ⊢
  rw [List.getElem_map]
  induction n generalizing v k with
  | zero => simp [bytesOf] at h
  | succ n ih =>
    cases k with
    | zero => simp [bytesOf]; apply BitVec.eq_of_toNat_eq; simp
    | succ k =>
      simp only [bytesOf, List.getElem_cons_succ]
      rw [ih (v / 256) k (by simpa [bytesOf] using h), Nat.div_div_eq_div_mul, Nat.pow_succ']

/-- An aligned address within a scratchpad of the lane's class resolves to it. -/
theorem resolve_pad {s : State} {g : Group} {l : Nat} {A : Word} {n : Nat} {pd : Pad} {i o : Nat} (hs : g.padAt l A = some (i, o))
    (ha : A.toNat % n = 0) (hp : s.pad? g.cls i = some pd) (hb : o + n ≤ pd.size) :
    resolve s g l A n n = .ok (.pad g.cls i o) := by
  unfold Group.padAt at hs
  unfold resolve
  by_cases h1 : A.toNat / 2 ^ 56 = 0xFC
  · rw [if_pos h1] at hs
    cases hs
    simp only [h1, hp, hb, ha]
    rfl
  · rw [if_neg h1] at hs
    by_cases h2 : A.toNat / 2 ^ 56 = 0xFD
    · rw [if_pos h2] at hs
      cases hs
      simp only [h2, hp, hb, ha]
      rfl
    · rw [if_neg h2] at hs; cases hs

/-- A load of a scratchpad that nothing holds. -/
theorem State.load_pad {s : State} {g : Group} {gid l : Nat} {A : Word} {n sub : Nat} {pd : Pad} (hg : s.group? gid = some g)
    {i o : Nat} (hs : g.padAt l A = some (i, o)) (ha : A.toNat % n = 0) (hp : s.pad? g.cls i = some pd)
    (hb : o + n ≤ pd.size) (h1 : s.loadHeld (.pad g.cls i o) n = false)
    (h2 : s.drainHeld g (.pad g.cls i o) n = false) :
    s.load gid l A n sub = .ok (pd.load o n (g.lane l).pts).1
      ((s.modPad g.cls i (fun _ => (pd.load o n (g.lane l).pts).2.2)).setPts gid l
        (pd.load o n (g.lane l).pts).2.1) := by
  unfold State.load
  simp only [hg, resolve_pad hs ha hp hb]
  unfold State.loadAt
  simp only [hg, h1, h2]
  unfold State.loadRaw
  simp only [hg, hp]
  rfl

/-- A store to a scratchpad that nothing holds. -/
theorem State.store_pad {s : State} {g : Group} {gid l : Nat} {A : Word} {bs : List Byte} {pd : Pad} (hg : s.group? gid = some g)
    {i o : Nat} (hs : g.padAt l A = some (i, o)) (ha : A.toNat % bs.length = 0) (hp : s.pad? g.cls i = some pd)
    (hb : o + bs.length ≤ pd.size)
    (h1 : s.storeHeld g l (.pad g.cls i o) bs.length = false)
    (h2 : s.drainHeld g (.pad g.cls i o) bs.length = false) :
    s.store gid l A bs = .ok ()
      (((s.modPad g.cls i (fun _ => (pd.store (g.writer l i) o (g.lane l).pts bs).2)).fireWatches
        (.pad g.cls i (o / 128)) (pd.store (g.writer l i) o (g.lane l).pts bs).1).setPts gid l
          (pd.store (g.writer l i) o (g.lane l).pts bs).1) := by
  unfold State.store
  simp only [hg, resolve_pad hs ha hp hb]
  unfold State.storeAt
  simp only [hg, h1, h2]
  unfold State.storeRaw
  simp only [hg, hp]
  rfl

/-- An atomic on a scratchpad that nothing holds. -/
theorem State.rmw_pad {s : State} {g : Group} {gid l : Nat} {A : Word} {n : Nat} {far : Bool} {f : Nat → Option Nat} {pd : Pad}
    (hg : s.group? gid = some g) {i o : Nat} (hs : g.padAt l A = some (i, o)) (ha : A.toNat % n = 0)
    (hp : s.pad? g.cls i = some pd) (hb : o + n ≤ pd.size)
    (h1 : s.loadHeld (.pad g.cls i o) n = false)
    (h2 : s.storeHeld g l (.pad g.cls i o) n = false)
    (h3 : s.drainHeld g (.pad g.cls i o) n = false) :
    let r := pd.load o n (g.lane l).pts
    s.rmw gid l A n far f = match f r.1 with
      | none => .ok r.1 ((s.modPad g.cls i (fun _ => r.2.2)).setPts gid l r.2.1)
      | some w => .ok r.1 (((s.modPad g.cls i (fun _ => (r.2.2.store (g.writer l i) o r.2.1 (toBytes n w)).2)).fireWatches
          (.pad g.cls i (o / 128)) (r.2.2.store (g.writer l i) o r.2.1 (toBytes n w)).1).setPts gid l
            (r.2.2.store (g.writer l i) o r.2.1 (toBytes n w)).1) := by
  intro r
  unfold State.rmw
  simp only [hg, resolve_pad hs ha hp hb]
  unfold State.rmwAt
  simp only [hg, h1, h2, h3, hp]
  simp only [Bool.or_self, Bool.false_eq_true, if_false]
  simp only [show pd.load o n (g.lane l).pts = r from rfl]
  all_goals (cases f r.1 <;> rfl)

/-! What an access leaves of the registers of the lanes. -/

theorem SameRegs.refl (a : Lane) : SameRegs a a := ⟨rfl, rfl, rfl, rfl, rfl, rfl, rfl, rfl, rfl, rfl, rfl, rfl, rfl, rfl, rfl⟩

theorem SameRegs.trans {a b c : Lane} (h : SameRegs a b) (k : SameRegs b c) : SameRegs a c := by
  obtain ⟨h1, h2, h3, h4, h5, h6, h7, h8, h9, h10, h11, h12, h13, h14, h15⟩ := h
  obtain ⟨k1, k2, k3, k4, k5, k6, k7, k8, k9, k10, k11, k12, k13, k14, k15⟩ := k
  exact ⟨h1.trans k1, h2.trans k2, h3.trans k3, h4.trans k4, h5.trans k5, h6.trans k6, h7.trans k7, h8.trans k8, h9.trans k9,
    h10.trans k10, h11.trans k11, h12.trans k12, h13.trans k13, h14.trans k14, h15.trans k15⟩

/-- A store changes no register of a lane that does not wait. -/
theorem Lane.seeStore_regs (l : Lane) (a : LineAt) (ts : Nat) (w : Nat → Nat) (h : l.wait = none) :
    SameRegs l (l.seeStore a ts w) ∧ (l.seeStore a ts w).pts = l.pts ∧ (l.seeStore a ts w).wait = none := by
  unfold Lane.seeStore
  cases hw : l.watch with
  | none => simp only [h]; exact ⟨SameRegs.refl l, trivial, trivial⟩
  | some x =>
    by_cases hc : (decide (x.at_ = a) && x.fired.isNone) = true
    · simp only [hc, if_true, h]
      exact ⟨⟨rfl, rfl, rfl, rfl, rfl, rfl, rfl, rfl, rfl, rfl, rfl, rfl, rfl, rfl, rfl⟩, trivial, trivial⟩
    · simp only [hc, Bool.false_eq_true, if_false, h]
      exact ⟨SameRegs.refl l, trivial, trivial⟩

theorem State.group?_fireWatches (s : State) (a : LineAt) (ts n : Nat) :
    (s.fireWatches a ts).group? n = (s.group? n).map (fun g => { g with lanes := g.lanes.map (fun l => l.seeStore a ts (s.padWord a)) }) := by
  unfold State.fireWatches State.group?
  rw [List.find?_map]
  rfl

theorem State.lane_fireWatches (s : State) (a : LineAt) (ts n i : Nat) (h : (s.lane n i).wait = none) :
    SameRegs (s.lane n i) ((s.fireWatches a ts).lane n i) ∧ ((s.fireWatches a ts).lane n i).pts = (s.lane n i).pts ∧
      ((s.fireWatches a ts).lane n i).wait = none := by
  unfold State.lane at h ⊢
  rw [s.group?_fireWatches a ts n]
  cases hg : s.group? n with
  | none => exact ⟨SameRegs.refl _, rfl, rfl⟩
  | some g =>
    rw [hg] at h
    simp only [Option.map_some] at h ⊢
    unfold Group.lane at h ⊢
    by_cases hi : i < g.lanes.length
    · simp only [List.getD_eq_getElem?_getD, List.getElem?_map, List.getElem?_eq_getElem hi, Option.map_some, Option.getD_some] at h ⊢
      exact Lane.seeStore_regs _ _ _ _ h
    · simp only [List.getD_eq_getElem?_getD, List.getElem?_map, List.getElem?_eq_none (by omega : g.lanes.length ≤ i), Option.map_none, Option.getD_none]
      exact ⟨SameRegs.refl _, trivial, rfl⟩

@[simp] theorem State.pad?_fireWatches (s : State) (a : LineAt) (ts k m : Nat) : (s.fireWatches a ts).pad? k m = s.pad? k m := rfl
@[simp] theorem State.pad?_modGroup (s : State) (n : Nat) (f : Group → Group) (k m : Nat) : (s.modGroup n f).pad? k m = s.pad? k m := rfl
@[simp] theorem State.pad?_setPts (s : State) (n l p : Nat) (k m : Nat) : (s.setPts n l p).pad? k m = s.pad? k m := rfl
@[simp] theorem State.group?_modPad (s : State) (k m n : Nat) (f : Pad → Pad) : (s.modPad k m f).group? n = s.group? n := rfl

/-- Only the stack, the place and the number of the other groups' paths: an access keeps the paths of every group. -/
theorem State.noStack_fireWatches {s : State} {a : LineAt} {ts n : Nat} {g : Group} (h : s.group? n = some g) (hn : g.noStack) :
    ∃ h', (s.fireWatches a ts).group? n = some h' ∧ h'.noStack ∧ h'.paths = g.paths ∧ h'.size = g.size := by
  rw [s.group?_fireWatches a ts n, h]
  exact ⟨_, rfl, hn, rfl, by simp [Group.size]⟩

/-! Words that load, store and update a scratchpad, with one active lane. -/

theorem State.runsOne.group {s : State} {g : Group} {p : Path} {gd : Guard} {l : Nat} (h : s.runsOne g p gd l) :
    s.group? g.gid = some g := by
  obtain ⟨⟨hc, -⟩, -, -⟩ := h
  have hg := (State.current_some hc).1
  rwa [← (State.current_some hc).2.2.1] at hg

/-- What the FENCE before a releasing access leaves: of the lane only PTS and what it owes change, of its own scratchpad only what
earlier commands may still read, and nothing else. -/
theorem State.opened_spec {s : State} {gid l : Nat} {m : MMod} {g : Group} (hg : s.group? gid = some g) :
    ∃ f : Lane → Lane, (∀ x, SameRegs x (f x) ∧ (f x).wait = x.wait ∧ (f x).watch = x.watch) ∧
      (s.opened gid l m).group? gid = some (g.modLane l f) ∧
      (∀ n i, ¬(n = gid ∧ i = l) → (s.opened gid l m).lane n i = s.lane n i) ∧
      (∀ k i, ((s.opened gid l m).pad? k i).map (fun p => { p with prev := [] }) = (s.pad? k i).map (fun p => { p with prev := [] })) ∧
      s.opened gid l m = { s with groups := (s.opened gid l m).groups, classes := (s.opened gid l m).classes } := by
  have base : ∀ f : Lane → Lane, (s.modLane gid l f).group? gid = some (g.modLane l f) :=
    fun f => State.group?_modGroup_same hg _ (fun _ => rfl)
  unfold State.opened
  split
  · unfold State.fenced
    rw [hg]
    simp only
    let F : Lane → Lane := fun x => { x with pts := max x.pts (max x.cmdPts g.acqPts), fenceOwed := none }
    refine ⟨F, fun x => ⟨⟨rfl, rfl, rfl, rfl, rfl, rfl, rfl, rfl, rfl, rfl, rfl, rfl, rfl, rfl, rfl⟩, rfl, rfl⟩, ?_⟩
    have other := fun n i h => State.lane_modLane_other s gid l n i F h
    cases hp : s.pad? g.cls (g.member l) with
    | none => exact ⟨base F, other, fun _ _ => rfl, rfl⟩
    | some p =>
      simp only
      split
      · exact ⟨base F, other, fun _ _ => rfl, rfl⟩
      · refine ⟨base F, other, fun k i => ?_, rfl⟩
        by_cases e : k = g.cls ∧ i = g.member l
        · obtain ⟨rfl, rfl⟩ := e
          rw [State.pad?_modPad_same (s.modLane gid l F) _ _ p _ hp, hp]; rfl
        · rw [State.pad?_modPad_other _ _ _ _ _ _ e]; rfl
  · exact ⟨id, fun x => ⟨SameRegs.refl x, rfl, rfl⟩, by rw [hg]; exact congrArg some (by simp [Group.modLane, List.modify_id]),
      fun _ _ _ => rfl, fun _ _ => rfl, rfl⟩

theorem State.ordOpen_ok {s : State} {gid l : Nat} {m : MMod} (h : m.ord.releases = true → s.fenceReady gid l = true) :
    s.ordOpen gid l m = .ok () (s.opened gid l m) := by
  unfold State.ordOpen State.opened
  cases ho : m.ord with
  | none => rfl
  | acq => rfl
  | rel => simp [State.fenceLane, h (by rw [ho]; rfl), Order.releases]
  | ar => simp [State.fenceLane, h (by rw [ho]; rfl), Order.releases]

/-- New timestamps of a scratchpad line change no byte. -/
theorem samePads_setTs {s : State} {k m : Nat} {pd : Pad} (hp : s.pad? k m = some pd) (t : PadTs) :
    SamePads s (s.modPad k m (fun _ => pd.setTs t)) := by
  intro k' m'
  by_cases h : k' = k ∧ m' = m
  · obtain ⟨rfl, rfl⟩ := h
    rw [State.pad?_modPad_same _ _ _ _ _ hp, hp]; rfl
  · rw [State.pad?_modPad_other _ _ _ _ _ _ h]

/-- What an access finds after the FENCE it may make first: the same scratchpad and the same holds. -/
theorem State.opened_own {s : State} {h : Group} {l k i : Nat} {m : MMod} {pd : Pad} (hp : s.pad? k i = some pd) :
    ∃ pv, (s.opened h.gid l m).pad? k i = some { pd with prev := pv } := by
  unfold State.opened
  split
  · unfold State.fenced
    cases hg : s.group? h.gid with
    | none => exact ⟨pd.prev, hp⟩
    | some g =>
      simp only
      cases hq : s.pad? g.cls (g.member l) with
      | none => exact ⟨pd.prev, hp⟩
      | some q =>
        simp only
        split
        · exact ⟨pd.prev, hp⟩
        · by_cases e : k = g.cls ∧ i = g.member l
          · obtain ⟨rfl, rfl⟩ := e
            exact ⟨_, State.pad?_modPad_same (s.modLane h.gid l _) _ _ pd _ hp⟩
          · exact ⟨pd.prev, (State.pad?_modPad_other (s.modLane h.gid l _) _ _ _ _ _ e).trans hp⟩
  · exact ⟨pd.prev, hp⟩

theorem State.opened_eng {s : State} {gid l : Nat} {m : MMod} {g : Group} (hg : s.group? gid = some g) :
    (s.opened gid l m).eng = s.eng ∧ (s.opened gid l m).mem = s.mem ∧ (s.opened gid l m).link = s.link := by
  obtain ⟨f, -, -, -, -, he⟩ := State.opened_spec (l := l) (m := m) hg
  rw [he]; exact ⟨rfl, rfl, rfl⟩

/-- A commit in progress holds an access off after the FENCE as before it. -/
theorem State.ownedFor_opened {s : State} {h : Group} {l cid n : Nat} {m : MMod} {loc : Loc} (hg : s.group? h.gid = some h) :
    (s.opened h.gid l m).ownedFor cid loc n = s.ownedFor cid loc n := by
  cases loc with
  | glob va => rfl
  | pad k i off =>
    obtain ⟨φ, -, -, -, hpads, -⟩ := State.opened_spec (l := l) (m := m) hg
    have hk := hpads k i
    unfold State.ownedFor
    simp only [(State.opened_eng (l := l) (m := m) hg).1]
    cases h1 : (s.opened h.gid l m).pad? k i <;> cases h2 : s.pad? k i <;> rw [h1, h2] at hk <;>
      simp only [Option.map_none, Option.map_some, reduceCtorEq, Option.some.injEq] at hk
    have ht := congrArg Pad.ts hk
    simp only at ht
    simp only [Option.any_some, ht]

theorem State.loadHeld_opened {s : State} {h : Group} {l k i off n : Nat} {m : MMod} {pd : Pad} (hg : s.group? h.gid = some h)
    (hp : s.pad? k i = some pd) :
    (s.opened h.gid l m).loadHeld (.pad k i off) n = s.loadHeld (.pad k i off) n := by
  obtain ⟨pv, hq⟩ := State.opened_own (h := h) (l := l) (m := m) hp
  unfold State.loadHeld
  simp only [hq, hp, (State.opened_eng (l := l) (m := m) hg).1, State.ownedFor_opened hg]

/-- A load of a scratchpad: the lane becomes `f` of the bytes read and of itself with PTS raised; no byte changes. -/
theorem laneWord_load_pad {s : State} {g : Guard} {h : Group} {p : Path} {l : Nat} {A : Word} {m : MMod} {n : Nat} {pd : Pad}
    (f : Nat → Lane → Lane) (F : State → Nat → Nat → LRes Unit) (hF : F s h.gid l = s.laneLoad h.gid l m A n f)
    (hr : s.runsOne h p g l) {i o : Nat} (hs : h.padAt l A = some (i, o)) (ha : A.toNat % n = 0) (hp : s.pad? h.cls i = some pd)
    (hb : o + n ≤ pd.size) (hf : m.ord.releases = true → s.fenceReady h.gid l = true)
    (h1 : s.loadHeld (.pad h.cls i o) n = false)
    (h2 : s.drainHeld h (.pad h.cls i o) n = false) :
    ∃ t, laneWord g F s = .next t ∧ OtherLanes s t h.gid l ∧ SamePads s t ∧ t.mem = s.mem ∧
      t = { s with groups := t.groups, classes := t.classes } ∧
      t.lane h.gid l = (f (fromBytes (cellsRead pd.bytes o n))
        { (s.opened h.gid l m).lane h.gid l with
          pts := max ((s.opened h.gid l m).lane h.gid l).pts (pd.tsOf (o / 128)).wts }).acquired m := by
  have hg := hr.group
  have hl := hr.2.2
  obtain ⟨φ, -, hg0, hother, hpads, heq⟩ := State.opened_spec (l := l) (m := m) hg
  obtain ⟨pv, hp0⟩ := State.opened_own (h := h) (l := l) (m := m) hp
  have hheld := State.loadHeld_opened (off := o) (n := n) (l := l) (m := m) hg hp
  have heng := (State.opened_eng (l := l) (m := m) hg).1
  have hmem := (State.opened_eng (l := l) (m := m) hg).2.1
  have hopen := State.ordOpen_ok hf
  generalize s.opened h.gid l m = s0 at *
  let q : Pad := { pd with prev := pv }
  have hload := State.load_pad (s := s0) (g := h.modLane l φ) (sub := 1) (pd := q) hg0 hs ha hp0 hb (hheld.trans h1)
    (by unfold State.drainHeld at h2 ⊢; rw [heng]; exact h2)
  unfold Pad.load at hload
  simp only at hload
  let x := (h.modLane l φ).lane l
  let ts := q.tsOf (o / 128)
  let s1 := s0.modPad h.cls i (fun _ => q.setTs { ts with rts := max ts.rts (max x.pts ts.wts) })
  let s2 := s1.setPts h.gid l (max x.pts ts.wts)
  let s3 := s2.modLane h.gid l (fun y => (f (q.read o n) y).acquired m)
  have e : F s h.gid l = .ok () s3 := by
    rw [hF]; unfold State.laneLoad
    rw [hopen]; simp only [LRes.bind]
    rw [hload]
    rfl
  have hg1 : s1.group? h.gid = some (h.modLane l φ) := hg0
  have hg2 : s2.group? h.gid = some ((h.modLane l φ).modLane l (fun y => { y with pts := _ })) :=
    State.group?_modGroup_same hg1 _ (fun _ => rfl)
  have hg3 : s3.group? h.gid = some _ := State.group?_modGroup_same hg2 _ (fun _ => rfl)
  refine ⟨_, laneWord_one hr e hg3 hr.1.2, ?_, ?_, hmem, ?_, ?_⟩
  · intro n' i hni
    rw [State.lane_goOn, State.lane_modLane_other _ _ _ _ _ _ hni, ← hother n' i hni]
    exact State.lane_modLane_other _ _ _ _ _ _ hni
  · have hs1 : SamePads s0 s1 := samePads_setTs hp0 _
    intro k i
    refine (hs1 k i).trans ?_
    have := congrArg (Option.map (fun p : Pad => p.bytes)) (hpads k i)
    simpa [Option.map_map, Function.comp_def] using this
  · have e0 : s3 = { s0 with groups := s3.groups, classes := s3.classes } := rfl
    show State.modGroup s3 _ _ = _
    unfold State.modGroup
    rw [e0, heq]
  · rw [State.lane_goOn, State.lane_modLane_same _ _ _ _ _ hg2 (by simpa using hl), State.lane_of_group? hg2,
      State.lane_of_group? hg0, Group.lane_modLane_same _ _ _ (by simpa using hl)]
    rfl

theorem State.noteSend_eq (s : State) (gid l : Nat) (a : Word) (bs : List Byte) :
    s.noteSend gid l a bs = { s with link := (s.noteSend gid l a bs).link } := by
  unfold State.noteSend
  split
  · rfl
  · simp only; split <;> rfl

@[simp] theorem State.noteSend_groups (s : State) (gid l : Nat) (a : Word) (bs : List Byte) :
    (s.noteSend gid l a bs).groups = s.groups := by rw [State.noteSend_eq]

/-- What a store to a scratchpad leaves of it: its bytes and its line's timestamps. -/
theorem State.pad?_stored {s : State} {k m : Nat} {pd q : Pad} (hp : s.pad? k m = some pd) :
    (s.modPad k m (fun _ => q)).pad? k m = some q ∧
    ∀ i j, ¬(i = k ∧ j = m) → (s.modPad k m (fun _ => q)).pad? i j = s.pad? i j :=
  ⟨State.pad?_modPad_same _ _ _ _ _ hp, fun _ _ h => State.pad?_modPad_other _ _ _ _ _ _ h⟩

/-- After an access of lane l that stored to a line, only what waits on or watches it has changed in other lanes. -/
theorem State.lane_stored (s : State) (a : LineAt) (ts gid l p n i : Nat) (h : (s.lane n i).wait = none) :
    SameRegs (s.lane n i) (((s.fireWatches a ts).setPts gid l p).lane n i) ∧
      (((s.fireWatches a ts).setPts gid l p).lane n i).wait = none := by
  obtain ⟨h1, h2, h3⟩ := State.lane_fireWatches s a ts n i h
  unfold State.setPts State.modLane
  have key : ∀ t : State, (t.lane n i).wait = none →
      SameRegs (t.lane n i) ((t.modGroup gid (fun g => g.modLane l (fun x => { x with pts := p }))).lane n i) ∧
      ((t.modGroup gid (fun g => g.modLane l (fun x => { x with pts := p }))).lane n i).wait = none := by
    intro t ht
    by_cases e : n = gid ∧ i = l
    · obtain ⟨rfl, rfl⟩ := e
      unfold State.lane at ht ⊢
      rw [t.group?_modGroup n n (fun g => g.modLane i (fun x => { x with pts := p })) (fun _ => rfl)]
      cases hg : t.group? n with
      | none => exact ⟨SameRegs.refl _, rfl⟩
      | some g =>
        rw [hg] at ht
        simp only [Option.map_some, State.gid_of_group? hg, if_true] at ht ⊢
        by_cases hl : i < g.size
        · rw [Group.lane_modLane_same g i _ hl]
          exact ⟨⟨rfl, rfl, rfl, rfl, rfl, rfl, rfl, rfl, rfl, rfl, rfl, rfl, rfl, rfl, rfl⟩, ht⟩
        · have h' : g.lanes.length ≤ i := Nat.le_of_not_lt hl
          have : g.modLane i (fun x => { x with pts := p }) = g := by
            unfold Group.modLane
            rw [List.modify_eq_self h']
          rw [this]; exact ⟨SameRegs.refl _, ht⟩
    · have := State.lane_modLane_other t gid l n i (fun x => { x with pts := p }) e
      unfold State.modLane at this
      rw [this]; exact ⟨SameRegs.refl _, ht⟩
  obtain ⟨k1, k2⟩ := key _ h3
  exact ⟨h1.trans k1, k2⟩

/-- What the lane owes after an acquiring access is none of its registers. -/
theorem Lane.acquired_spec (x : Lane) (m : MMod) : SameRegs x (x.acquired m) ∧ (x.acquired m).pts = x.pts := by
  unfold Lane.acquired
  split
  · exact ⟨SameRegs.refl x, rfl⟩
  · exact ⟨SameRegs.refl x, rfl⟩
  · exact ⟨⟨rfl, rfl, rfl, rfl, rfl, rfl, rfl, rfl, rfl, rfl, rfl, rfl, rfl, rfl, rfl⟩, rfl⟩
  · exact ⟨⟨rfl, rfl, rfl, rfl, rfl, rfl, rfl, rfl, rfl, rfl, rfl, rfl, rfl, rfl, rfl⟩, rfl⟩

/-- The FENCE before an access changes no register of any lane. -/
theorem State.opened_regs {s : State} {h : Group} {l : Nat} {m : MMod} (hg : s.group? h.gid = some h) (hl : l < h.size) (n i : Nat) :
    SameRegs (s.lane n i) ((s.opened h.gid l m).lane n i) ∧ ((s.opened h.gid l m).lane n i).wait = (s.lane n i).wait := by
  obtain ⟨φ, hφ, hg0, hother, -, -⟩ := State.opened_spec (l := l) (m := m) hg
  by_cases e : n = h.gid ∧ i = l
  · obtain ⟨rfl, rfl⟩ := e
    rw [State.lane_of_group? hg, State.lane_of_group? hg0, Group.lane_modLane_same _ _ _ hl]
    exact ⟨(hφ _).1, (hφ _).2.1⟩
  · rw [hother n i e]; exact ⟨SameRegs.refl _, rfl⟩

theorem State.storeHeld_opened {s : State} {h : Group} {l : Nat} {m : MMod} {loc : Loc} {n : Nat} {f : Lane → Lane}
    (hg : s.group? h.gid = some h) :
    (s.opened h.gid l m).storeHeld (h.modLane l f) l loc n = s.storeHeld h l loc n := by
  unfold State.storeHeld
  rw [(State.opened_eng (l := l) (m := m) hg).1, State.ownedFor_opened hg]; rfl

theorem State.drainHeld_opened {s : State} {h : Group} {l : Nat} {m : MMod} {loc : Loc} {n : Nat} {f : Lane → Lane}
    (hg : s.group? h.gid = some h) :
    (s.opened h.gid l m).drainHeld (h.modLane l f) loc n = s.drainHeld h loc n := by
  unfold State.drainHeld
  rw [(State.opened_eng (l := l) (m := m) hg).1]; rfl

/-- A scratchpad that a FENCE leaves has its bytes. -/
theorem State.opened_pads {s : State} {h : Group} {l : Nat} {m : MMod} (hg : s.group? h.gid = some h) : SamePads s (s.opened h.gid l m) := by
  obtain ⟨φ, -, -, -, hpads, -⟩ := State.opened_spec (l := l) (m := m) hg
  intro k i
  have := congrArg (Option.map (fun p : Pad => p.bytes)) (hpads k i)
  simpa [Option.map_map, Function.comp_def] using this

/-- A store to a scratchpad writes its bytes and no other, above every load of its line. -/
theorem laneWord_store_pad {s : State} {g : Guard} {h : Group} {p : Path} {l : Nat} {A : Word} {m : MMod} {bs : List Byte}
    {pd : Pad} (F : State → Nat → Nat → LRes Unit) (hF : F s h.gid l = s.laneStore h.gid l m A bs)
    (hr : s.runsOne h p g l) {i o : Nat} (hs : h.padAt l A = some (i, o)) (ha : A.toNat % bs.length = 0)
    (hp : s.pad? h.cls i = some pd) (hb : o + bs.length ≤ pd.size)
    (hf : m.ord.releases = true → s.fenceReady h.gid l = true)
    (h1 : s.storeHeld h l (.pad h.cls i o) bs.length = false)
    (h2 : s.drainHeld h (.pad h.cls i o) bs.length = false) :
    ∃ t pd', laneWord g F s = .next t ∧ t.mem = s.mem ∧ t.pad? h.cls i = some pd' ∧
      pd'.bytes = cellsWrite pd.bytes o bs ∧
      (∀ k j, ¬(k = h.cls ∧ j = i) → (t.pad? k j).map (·.bytes) = (s.pad? k j).map (·.bytes)) ∧
      (t.lane h.gid l).pts = max ((s.opened h.gid l m).lane h.gid l).pts ((pd.tsOf (o / 128)).rts + 1) ∧
      (∀ n i, (s.lane n i).wait = none → SameRegs (s.lane n i) (t.lane n i)) := by
  have hg := hr.group
  have hl := hr.2.2
  have hregs := State.opened_regs (m := m) hg hl
  have hpads := State.opened_pads (l := l) (m := m) hg
  obtain ⟨φ, -, hg0, -, -, -⟩ := State.opened_spec (l := l) (m := m) hg
  obtain ⟨pv, hp0⟩ := State.opened_own (h := h) (l := l) (m := m) hp
  have k1 := (State.storeHeld_opened (m := m) (loc := .pad h.cls i o) (n := bs.length) (l := l) (f := φ) hg).trans h1
  have k2 := (State.drainHeld_opened (m := m) (loc := .pad h.cls i o) (n := bs.length) (l := l) (f := φ) hg).trans h2
  have hmem := (State.opened_eng (l := l) (m := m) hg).2.1
  have hopen := State.ordOpen_ok hf
  generalize s.opened h.gid l m = s0 at *
  let q0 : Pad := { pd with prev := pv }
  have hstore := State.store_pad (s := s0) (g := h.modLane l φ) (pd := q0) hg0 hs ha hp0 hb k1 k2
  have hpts : s0.lane h.gid l = (h.modLane l φ).lane l := State.lane_of_group? hg0 l
  let x := (h.modLane l φ).lane l
  let q := (q0.store (h.writer l i) o x.pts bs).2
  let w := (q0.store (h.writer l i) o x.pts bs).1
  let a : LineAt := .pad h.cls i (o / 128)
  let s1 := s0.modPad h.cls i (fun _ => q)
  let s2 := s1.fireWatches a w
  let s3 := s2.setPts h.gid l w
  let s4 := s3.noteSend h.gid l A bs
  let s5 := s4.modLane h.gid l (fun y => y.acquired m)
  have e : F s h.gid l = .ok () s5 := by
    rw [hF]; unfold State.laneStore
    rw [hopen]; simp only [LRes.bind]
    rw [hstore]
    rfl
  obtain ⟨g2, hg2, hn2, hp2, hz2⟩ := State.noStack_fireWatches (a := a) (ts := w)
    (show s1.group? h.gid = some (h.modLane l φ) from hg0) (show (h.modLane l φ).noStack from hr.1.2)
  have hz2 : g2.size = h.size := hz2.trans (by simp)
  have hg3 : s3.group? h.gid = some (g2.modLane l (fun y => { y with pts := w })) := State.group?_modGroup_same hg2 _ (fun _ => rfl)
  have e4 : ∀ n, s4.group? n = s3.group? n := fun n => by unfold State.group?; rw [State.noteSend_groups]
  have e5 : ∀ n i, s4.lane n i = s3.lane n i := fun n i => by unfold State.lane; rw [e4]
  have hg4 : s4.group? h.gid = _ := (e4 _).trans hg3
  have hg5 : s5.group? h.gid = some _ := State.group?_modGroup_same hg4 _ (fun _ => rfl)
  have e6 : s4.classes = s3.classes := by show (s3.noteSend h.gid l A bs).classes = _; rw [State.noteSend_eq]
  have e7 : ∀ k m, s5.pad? k m = s1.pad? k m := fun k m' => by
    show State.pad? s4 k m' = State.pad? _ k m'
    unfold State.pad? State.klass?
    rw [e6]; rfl
  refine ⟨_, q, laneWord_one hr e hg5 hn2, ?_, ?_, rfl, ?_, ?_, ?_⟩
  · show (s3.noteSend h.gid l A bs).mem = _; rw [State.noteSend_eq]; exact hmem
  · exact (e7 _ _).trans (State.pad?_stored hp0).1
  · exact fun k i hki => (congrArg _ ((e7 _ _).trans ((State.pad?_stored hp0).2 k i hki))).trans (hpads k i)
  · rw [State.lane_goOn, State.lane_modLane_same _ _ _ _ _ hg4 (by simpa [hz2] using hl), (Lane.acquired_spec _ m).2, e5,
      State.lane_of_group? hg3, Group.lane_modLane_same _ _ _ (by rw [hz2]; exact hl), hpts]
    rfl
  · intro n i hni
    have hs3 := (hregs n i).1.trans (State.lane_stored s1 a w h.gid l w n i ((hregs n i).2.trans hni)).1
    rw [State.lane_goOn]
    by_cases ei : n = h.gid ∧ i = l
    · obtain ⟨rfl, rfl⟩ := ei
      rw [State.lane_modLane_same _ _ _ _ _ hg4 (by simpa [hz2] using hl), e5]
      exact hs3.trans (Lane.acquired_spec _ m).1
    · rw [State.lane_modLane_other _ _ _ _ _ _ ei, e5]; exact hs3

/-- An atomic on a scratchpad returns the old value in x[d]; where `f` gives a new one it is written. -/
theorem laneWord_rmw_pad {s : State} {g : Guard} {h : Group} {p : Path} {l : Nat} {A : Word} {m : MMod} {n : Nat} {d : XReg}
    {pd : Pad} (f : Nat → Option Nat) (F : State → Nat → Nat → LRes Unit) (hF : F s h.gid l = s.laneAtomic h.gid l m A n d f)
    (hr : s.runsOne h p g l) {i o : Nat} (hs : h.padAt l A = some (i, o)) (ha : A.toNat % n = 0)
    (hp : s.pad? h.cls i = some pd) (hb : o + n ≤ pd.size)
    (hf : m.ord.releases = true → s.fenceReady h.gid l = true)
    (h1 : s.loadHeld (.pad h.cls i o) n = false)
    (h2 : s.storeHeld h l (.pad h.cls i o) n = false)
    (h3 : s.drainHeld h (.pad h.cls i o) n = false) (hw : (h.lane l).wait = none) :
    let old := fromBytes (cellsRead pd.bytes o n)
    ∃ t pd' x, laneWord g F s = .next t ∧ t.mem = s.mem ∧ t.pad? h.cls i = some pd' ∧
      pd'.bytes = (match f old with | some v => cellsWrite pd.bytes o (toBytes n v) | none => pd.bytes) ∧
      (∀ k j, ¬(k = h.cls ∧ j = i) → (t.pad? k j).map (·.bytes) = (s.pad? k j).map (·.bytes)) ∧
      SameRegs (h.lane l) x ∧ t.lane h.gid l = (x.wx d (BitVec.ofNat 64 old)).acquired m ∧
      (∀ k i, ¬(k = h.gid ∧ i = l) → (s.lane k i).wait = none → SameRegs (s.lane k i) (t.lane k i)) := by
  intro old
  have hg := hr.group
  have hl := hr.2.2
  have hregs := State.opened_regs (m := m) hg hl
  have hpads := State.opened_pads (l := l) (m := m) hg
  obtain ⟨φ, hφ, hg0, hother, -, -⟩ := State.opened_spec (l := l) (m := m) hg
  obtain ⟨pv, hp0⟩ := State.opened_own (h := h) (l := l) (m := m) hp
  have k1 := (State.loadHeld_opened (off := o) (n := n) (l := l) (m := m) hg hp).trans h1
  have k2 := (State.storeHeld_opened (m := m) (loc := .pad h.cls i o) (n := n) (l := l) (f := φ) hg).trans h2
  have k3 := (State.drainHeld_opened (m := m) (loc := .pad h.cls i o) (n := n) (l := l) (f := φ) hg).trans h3
  have hmem := (State.opened_eng (l := l) (m := m) hg).2.1
  have hopen := State.ordOpen_ok hf
  generalize s.opened h.gid l m = s0 at *
  let q0 : Pad := { pd with prev := pv }
  have hx : (h.modLane l φ).lane l = φ (h.lane l) := Group.lane_modLane_same _ _ _ hl
  have hrmw := State.rmw_pad (s := s0) (g := h.modLane l φ) (far := !scopeNear m.scope) (f := f) (pd := q0) hg0 hs ha hp0 hb k1 k2 k3
  simp only at hrmw
  have e0 : F s h.gid l = (s0.rmw h.gid l A n (!scopeNear m.scope) f).bind (fun v s2 =>
      .ok () (s2.modLane h.gid l (fun x => (x.wx d (BitVec.ofNat 64 v)).acquired m))) := by
    rw [hF]; unfold State.laneAtomic
    rw [hopen]; rfl
  let y := (h.modLane l φ).lane l
  have eo : (q0.load o n y.pts).1 = old := rfl
  rw [eo] at hrmw
  cases hv : f old with
  | none =>
    rw [hv] at hrmw
    simp only at hrmw
    let q := (q0.load o n y.pts).2.2
    let w := (q0.load o n y.pts).2.1
    let s1 := s0.modPad h.cls i (fun _ => q)
    let s3 := s1.setPts h.gid l w
    let s4 := s3.modLane h.gid l (fun x => (x.wx d (BitVec.ofNat 64 old)).acquired m)
    have e : F s h.gid l = .ok () s4 := by rw [e0, hrmw]; rfl
    have hg1 : s1.group? h.gid = some (h.modLane l φ) := hg0
    have hg3 : s3.group? h.gid = some ((h.modLane l φ).modLane l (fun x => { x with pts := w })) :=
      State.group?_modGroup_same hg1 _ (fun _ => rfl)
    have hg4 : s4.group? h.gid = some _ := State.group?_modGroup_same hg3 _ (fun _ => rfl)
    refine ⟨_, q, { φ (h.lane l) with pts := w }, laneWord_one hr e hg4 hr.1.2, hmem, (State.pad?_stored hp0).1, rfl,
      fun k i hki => (congrArg _ ((State.pad?_stored hp0).2 k i hki)).trans (hpads k i),
      (hφ _).1.trans ⟨rfl, rfl, rfl, rfl, rfl, rfl, rfl, rfl, rfl, rfl, rfl, rfl, rfl, rfl, rfl⟩, ?_, ?_⟩
    · rw [State.lane_goOn, State.lane_modLane_same _ _ _ _ _ hg3 (by simpa using hl), State.lane_of_group? hg3,
        Group.lane_modLane_same _ _ _ (by simpa using hl), hx]
    · intro k i hki _
      rw [State.lane_goOn, State.lane_modLane_other _ _ _ _ _ _ hki]
      rw [show s3.lane k i = s1.lane k i from State.lane_modLane_other _ _ _ _ _ _ hki]
      exact (hregs k i).1
  | some v =>
    rw [hv] at hrmw
    simp only at hrmw
    let r := q0.load o n y.pts
    let q := (r.2.2.store (h.writer l i) o r.2.1 (toBytes n v)).2
    let w := (r.2.2.store (h.writer l i) o r.2.1 (toBytes n v)).1
    let a : LineAt := .pad h.cls i (o / 128)
    let s1 := s0.modPad h.cls i (fun _ => q)
    let s2 := s1.fireWatches a w
    let s3 := s2.setPts h.gid l w
    let s4 := s3.modLane h.gid l (fun x => (x.wx d (BitVec.ofNat 64 old)).acquired m)
    have e : F s h.gid l = .ok () s4 := by rw [e0, hrmw]; rfl
    obtain ⟨g2, hg2, hn2, hp2, hz2⟩ := State.noStack_fireWatches (a := a) (ts := w)
      (show s1.group? h.gid = some (h.modLane l φ) from hg0) (show (h.modLane l φ).noStack from hr.1.2)
    have hg3 : s3.group? h.gid = some (g2.modLane l (fun x => { x with pts := w })) := State.group?_modGroup_same hg2 _ (fun _ => rfl)
    have hg4 : s4.group? h.gid = some _ := State.group?_modGroup_same hg3 _ (fun _ => rfl)
    have hl2 : l < g2.size := by rw [hz2]; simpa using hl
    have hs := State.lane_stored s1 a w h.gid l w
    refine ⟨_, q, s3.lane h.gid l, laneWord_one hr e hg4 hn2, hmem, (State.pad?_stored hp0).1, rfl,
      fun k i hki => (congrArg _ ((State.pad?_stored hp0).2 k i hki)).trans (hpads k i), ?_, ?_, ?_⟩
    · rw [← State.lane_of_group? hg l]
      exact (hregs h.gid l).1.trans (hs h.gid l ((hregs h.gid l).2.trans (by rw [State.lane_of_group? hg]; exact hw))).1
    · rw [State.lane_goOn, State.lane_modLane_same _ _ _ _ _ hg3 (by simpa using hl2)]
    · intro k i hki hwi
      rw [State.lane_goOn, State.lane_modLane_other _ _ _ _ _ _ hki]
      exact (hregs k i).1.trans (hs k i ((hregs k i).2.trans hwi)).1

end Sys2Proof.Machine
end

