-- ==== Sys2Proof/Tests/Slice0.lean ====
section
/-!
SUPPORT. Tests. First states on which each statement's hypotheses hold together (`wit_…`, named after the statement), then
decoding of words written out from the encoding tables, the checks of well-formedness, and single steps.
-/

namespace Sys2Proof.Tests

set_option Elab.async false

open Sys2Proof Sys2Proof.Machine

/-! Small states: one context (1) that runs, one class (2) on cluster 0 of die 0, one group (3) with one path (4) at 0x1000. -/

def gd : Guard := ⟨false, 0⟩

/-- A lane with some x registers. -/
def laneX (rs : List (XReg × Word)) : Lane := rs.foldl (fun y r => y.wx r.1 r.2) Lane.zero

/-- The lane at S. -/
def atS (l : Lane) : Lane := { l with privS := true }

def padT (i : Nat) : Pad := ⟨i, 38, 2, [], [], [], [], []⟩

def klassT (n : Nat) : Klass := { bootKlass 1 2 with pads := (List.range n).map padT }

def groupT (ls : List Lane) : Group :=
  { newGroup 3 4 1 2 ⟨0, 0⟩ ⟨List.range ls.length, 0, [], []⟩ 0 0 ls 0x1000 false .held 0 with started := true }

def pathT (ls : List Lane) : Path := (groupT ls).paths.headD (Path.blank 0)

/-- The state with a group of these lanes; clk is 1000 and page 0 of the context is mapped. -/
def stT (ls : List Lane) : State :=
  { State.reset with
    clk := 1000, ticks := 7, nextId := 10, ctxs := [bootCtx 1], classes := [klassT ls.length], groups := [groupT ls], curG := 3, curP := 4,
    mem := { MemSys.empty with hbm := bootCells } }

/-- The state with its group and path changed. -/
def stG (ls : List Lane) (f : Group → Group) : State := { stT ls with groups := [f (groupT ls)] }

/-- Scratchpad bytes put into member 0. -/
def withPad (s : State) (c : List Host.Cell) : State := s.modPad 2 0 (fun p => { p with bytes := c })

/-- A state with operands of a step that is not a word. -/
def withPick (s : State) (l : List Nat) : State := { s with pick := l }

def mresVal {α β : Type} (r : MRes α × β) : Option α := match r.1 with | .ok a => some a | _ => none

/-! ## Hypotheses that can be met: one theorem a statement. -/

/-- The states of the words that only need a running path: one lane, four lanes, and four lanes of which the guard !k1 of lane 2
fails. -/
def L1 : List Lane := [laneX [(1, 5), (2, 7)]]
def L4 : List Lane := [laneX [], laneX [], (laneX []).wk 1 true, laneX []]

/-- For SumsAndProducts to WordsThatReadUnits, all of whose hypotheses are those of `ActsBy`, `ActsByFl` and `ReadsBy`. -/
theorem wit_ActsBy : (stT L1).runs (groupT L1) (pathT L1) ∧ (stT L4).runs (groupT L4) (pathT L4) ∧
    (groupT L4).active (pathT L4) ⟨true, 1⟩ = [0, 1, 3] := by
  simp only [State.runs, Group.noStack]
  decide +kernel

/-- The clauses of HighProductsAndDivision: a zero divisor, signed overflow and neither, at 32 bits. -/
theorem wit_HighProductsAndDivision :
    opnd 0x300000000 32 true = 0 ∧ opnd 0x80000000 32 true = -(2 ^ 31) ∧ opnd 0xFFFFFFFF 32 true = -1 ∧
    opnd 0x80000000 32 false = 2 ^ 31 := by
  decide +kernel

theorem wit_ConstantRegisters : (63 : XReg) ≠ 0 ∧ (1 : XReg) ≠ 63 ∧ (7 : KReg) ≠ 0 ∧ (0 : KReg) ≠ 7 := by
  decide +kernel

def LS : List Lane := [atS (laneX [(1, 0x1235)])]

theorem wit_ControlRegisterReads : (stT LS).runsOne (groupT LS) (pathT LS) gd 0 ∧
    (∀ i ∈ (pathT LS).lanes, ((groupT LS).lane i).privS = true) ∧ (groupT LS).mmas.all (·.reading) = true := by
  simp only [State.runsOne, State.runs, Group.noStack]
  decide +kernel

theorem wit_ControlRegisterWrites :
    ((stT L1).runsOne (groupT L1) (pathT L1) gd 0 ∧ ((groupT L1).lane 0).privS = false) ∧
    ((stT LS).runsOne (groupT LS) (pathT LS) gd 0 ∧ (∀ i ∈ (pathT LS).lanes, ((groupT LS).lane i).privS = true) ∧
      0 ∈ (pathT LS).lanes ∧ (stT LS).ctx? (groupT LS).ctx = some (bootCtx 1)) := by
  simp only [State.runsOne, State.runs, Group.noStack]
  decide +kernel

/-- A lane with a scratchpad address: the last 8 bytes of its 16 KiB, and 0. -/
def LP : List Lane := [laneX [(1, 0xFC00000000003FF8), (2, 0xFC00000000000000), (3, 0x0123456789ABCDEF)]]

/-- Nothing of an engine stands in the way of an access of n bytes at o of member 0. -/
def unheld (s : State) (h : Group) (o n : Nat) : Prop :=
  s.loadHeld (.pad 2 0 o) n = false ∧ s.storeHeld h 0 (.pad 2 0 o) n = false ∧ s.drainHeld h (.pad 2 0 o) n = false

/-- The same bytes by the address of the class: member 1, for a lane of a class of two members. -/
def LP1 : List Lane := [laneX [(1, 0xFD01000000003FF8), (2, 0xFD01000000000000)], Lane.zero]
def pad1 : Path := { pathT LP1 with lanes := [0] }
def sP1 : State := { stT LP1 with groups := [{ groupT LP1 with paths := [pad1] }] }
def gP1 : Group := { groupT LP1 with paths := [pad1] }

theorem wit_ScratchLoadsAndStores : (stT LP).runsOne (groupT LP) (pathT LP) gd 0 ∧
    (stT LP).pad? (groupT LP).cls 0 = some (padT 0) ∧ cellsWf (padT 0).bytes = true ∧
    ((groupT LP).padAt 0 (((groupT LP).lane 0).addrIndexed 1 0 0) = some (0, 0x3FF8) ∧
      (groupT LP).padAt 0 (((groupT LP).lane 0).addrData 1 0) = some (0, 0x3FF8) ∧ (((groupT LP).lane 0).addrIndexed 1 0 0).toNat % MSize.b64.bytes = 0 ∧ (((groupT LP).lane 0).addrData 1 0).toNat % MSize.b64.bytes = 0 ∧
      0x3FF8 + MSize.b64.bytes ≤ (padT 0).size) ∧
    (stT LP).fenceReady (groupT LP).gid 0 = true ∧ unheld (stT LP) (groupT LP) 0x3FF8 8 := by
  simp only [State.runsOne, unheld, State.runs, Group.noStack]
  decide +kernel

theorem wit_ScratchLoadsAndStores_class : sP1.runsOne gP1 pad1 gd 0 ∧ sP1.pad? gP1.cls 1 = some (padT 1) ∧
    (gP1.padAt 0 ((gP1.lane 0).addrIndexed 1 0 0) = some (1, 0x3FF8) ∧ gP1.padAt 0 ((gP1.lane 0).addrData 1 0) = some (1, 0x3FF8) ∧
      ((gP1.lane 0).addrIndexed 1 0 0).toNat % MSize.b64.bytes = 0 ∧ ((gP1.lane 0).addrData 1 0).toNat % MSize.b64.bytes = 0 ∧
      0x3FF8 + MSize.b64.bytes ≤ (padT 1).size) ∧
    sP1.fenceReady gP1.gid 0 = true ∧ sP1.loadHeld (.pad 2 1 0x3FF8) 8 = false ∧ sP1.storeHeld gP1 0 (.pad 2 1 0x3FF8) 8 = false ∧
    sP1.drainHeld gP1 (.pad 2 1 0x3FF8) 8 = false := by
  simp only [State.runsOne, State.runs, Group.noStack]
  decide +kernel

theorem wit_ScratchAtomics : (stT LP).runsOne (groupT LP) (pathT LP) gd 0 ∧
    (stT LP).placed (groupT LP) 0 (((groupT LP).lane 0).addrData 2 0) MSize.b32.bytes 0 0 (padT 0) ∧
    (stT LP).fenceReady (groupT LP).gid 0 = true ∧ ((groupT LP).lane 0).wait = none ∧
    sP1.runsOne gP1 pad1 gd 0 ∧ sP1.placed gP1 0 ((gP1.lane 0).addrData 2 0) MSize.b32.bytes 1 0 (padT 1) ∧
    (gP1.lane 0).wait = none := by
  simp only [State.runsOne, State.placed, State.runs, Group.noStack]
  decide +kernel

/-- A lane with a global address: the last 8 bytes of the mapped page. -/
def LG : List Lane := [laneX [(1, 0x1FFFF8), (2, 0x1122334455667788)]]

/-- Whether an access that may trap was let through. -/
def okOf {α : Type} (r : MRes α × Nat × MemSys) : Bool := match r.1 with | .ok _ => true | _ => false

theorem wit_GlobalLoadsAndStores : (stT LG).runsOne (groupT LG) (pathT LG) gd 0 ∧ (stT LG).fenceReady (groupT LG).gid 0 = true ∧
    ((groupT LG).lane 0).addrIndexed 1 0 0 = 0x1FFFF8 ∧ ((groupT LG).lane 0).addrData 1 0 = 0x1FFFF8 ∧
    (stT LG).far (groupT LG).ctx 0x1FFFF8 = false ∧ (stT LG).drainHeld (groupT LG) (.glob 0x1FFFF8) 8 = false ∧ (stT LG).storeHeld (groupT LG) 0 (.glob 0x1FFFF8) 8 = false ∧
    cellsWf (stT LG).mem.hbm = true ∧
    (stT LG).group? (groupT LG).gid = some (groupT LG) ∧
    okOf ((stT LG).mem.l1Load ((stT LG).req (groupT LG) 0 0x1FFFF8) 0x1FFFF8 8) = true ∧
    okOf ((stT LG).mem.l1Own ((stT LG).req (groupT LG) 0 0x1FFFF8) 0x1FFFF8 needW) = true := by
  simp only [State.runsOne, State.runs, Group.noStack]
  decide +kernel

/-- The physical address of an atomic near its pipeline, and of one at the home. -/
def nearPa : Option Nat :=
  match (stT LG).mem.l1Own ((stT LG).req (groupT LG) 0 0x1FFFF8) 0x1FFFF8 needRW with
  | (.ok pa, _, m) => if m.poisoned pa 8 then none else some pa
  | _ => none
def homePa : Option Nat :=
  let r := (stT LG).req (groupT LG) 0 0x1FFFF8
  match MemSys.translateAt (fun m q => m.translate r.ptRoot r.die r.ctx r.privS 0x1FFFF8 needRW q) MemSys.atomicPlace 3 (stT LG).mem r.pts with
  | (.ok (pa, _), _, m) => if m.poisoned pa 8 then none else some pa
  | _ => none

theorem wit_GlobalAtomics : nearPa = some 0x3FFFF8 ∧ homePa = some 0x3FFFF8 ∧ scopeNear .pl = true ∧ scopeNear .die = false ∧
    ((groupT LG).lane 0).wait = none ∧ (stT LG).runsOne (groupT LG) (pathT LG) gd 0 := by
  simp only [State.runsOne, State.runs, Group.noStack]
  decide +kernel

/-- Whether an access answers this trap. -/
def trapOf {α : Type} (r : LRes α) : Option TrapInfo := match r with | .trap ti => some ti | _ => none

theorem wit_AddressChecks_taken : (stT LP).single (groupT LP) (pathT LP) 0 ∧ guardHolds gd ((groupT LP).lane 0) = true ∧
    ((groupT LP).lane 0).privS = false ∧ (Order.none).releases = false ∧
    trapOf ((stT LP).load 3 0 (((groupT LP).lane 0).addrIndexed 1 0 1) 8 1) = some ⟨4, 2, 0xFC00000000003FF9, false⟩ ∧
    trapOf ((stT LP).store 3 0 (((groupT LP).lane 0).addrData 2 1) (toBytes 8 0)) = some ⟨2, 0, 0xFC00000000000001, false⟩ := by
  simp only [State.single, State.undivided, State.runs, Group.noStack]
  decide +kernel

theorem wit_AddressChecks : (stT LP).group? (groupT LP).gid = some (groupT LP) ∧
    (stT LP).pad? (groupT LP).cls ((groupT LP).member 0) = some (padT 0) ∧
    ((0x0100000000000000 : Word).toNat / 2 ^ 56 ≠ 0 ∧ (0x0100000000000000 : Word).toNat / 2 ^ 56 ≠ 0xFC ∧
      (0x0100000000000000 : Word).toNat / 2 ^ 56 ≠ 0xFD) ∧
    ((groupT LP).padAt 0 0xFC00000000003FF9 = some (0, 0x3FF9) ∧ (padT 0).size < 0x3FF9 + 8) ∧
    ((groupT LP).padAt 0 0xFD00000000003FF7 = some (0, 0x3FF7) ∧ 0x3FF7 + 8 ≤ (padT 0).size ∧ (0xFD00000000003FF7 : Word).toNat % 8 ≠ 0) ∧
    ((0x00FFFFFFFFFFFFFF : Word).toNat / 2 ^ 56 = 0 ∧ (0x00FFFFFFFFFFFFFF : Word).toNat % 2 ≠ 0) ∧
    ((groupT LP).padAt 0 0xFD01000000000000 = some (1, 0) ∧ (stT LP).pad? (groupT LP).cls 1 = none) := by
  and_intros <;> decide +kernel

theorem wit_CacheHints : (stT LG).runsOne (groupT LG) (pathT LG) gd 0 ∧ (((groupT LG).lane 0).addrIndexed 1 0 0).toNat / 2 ^ 56 = 0 ∧
    (stT LG).far (groupT LG).ctx 0x1FFFF8 = false ∧
    okOf ((stT LG).mem.translate (((stT LG).req (groupT LG) 0 0x1FFFF8).ptRoot) 0 1 false 0x1FFFF8 needR 0) = true := by
  simp only [State.runsOne, State.runs, Group.noStack]
  decide +kernel

/-- A group whose paths cannot reach a third in a quad: it has two of them at most. -/
theorem calm_of_few (g : Group) (h : g.owedEntries = []) (n : g.paths.length ≤ 2) : g.calm :=
  ⟨h, fun _ => le_trans (List.length_filter_le _ _) n⟩

/-- A lane whose watch on line 0 of its scratchpad has fired. -/
def LW : List Lane := [{ laneX [(1, 0xFC00000000000000), (4, 1)] with watch := some ⟨.pad 2 0 0, some .store⟩ }]

theorem wit_FencesWatchesAndCompletionWords :
    ((stT LP).runsOne (groupT LP) (pathT LP) gd 0 ∧ (stT LP).fenceReady (groupT LP).gid 0 = true) ∧
    ({ stT LP with eng := { (stT LP).eng with flights := [⟨[], 1, 0, 0, 0, none, false, 0, ⟨0, 0⟩, 7, some (3, 0), none⟩] } } : State).fenceReady
      (groupT LP).gid 0 = false ∧
    ((stT LW).runsOne (groupT LW) (pathT LW) gd 0 ∧ (stT LW).pad? (groupT LW).cls ((groupT LW).member 0) = some (padT 0) ∧
      (pathT LW).lanes = [0] ∧ (groupT LW).paths = [pathT LW] ∧ (stT LW).noStacks ∧
      ((groupT LW).lane 0).watch = some ⟨.pad 2 0 (0 / 128), some .store⟩ ∧ (0 : Nat) < (padT 0).size) ∧
    (unheld (stT LW) (groupT LW) 0 8 ∧ (pathT LW).waiting = false ∧ ((groupT LW).lane 0).wait = none ∧
      (let v := BitVec.ofNat 64 (fromBytes (cellsRead (padT 0).bytes 0 8))
       v = 0 ∧ v &&& ((groupT LW).lane 0).rx 2 = ((groupT LW).lane 0).rx 2) ∧ (pathT LW).part = []) ∧
    (withPad (stT LW) [(0, 1)]).runsOne (groupT LW) (pathT LW) gd 0 ∧
    BitVec.ofNat 64 (fromBytes (cellsRead [(0, 1)] 0 8)) ≠ 0 := by
  simp only [State.runsOne, State.noStacks, unheld, State.runs, Group.noStack]
  and_intros <;> decide +kernel

/-! Control, traps, system words and cross-lane words. -/

/-- The state with its context changed. -/
def ctxOf (s : State) (f : Ctx → Ctx) : State := { s with ctxs := s.ctxs.map f }

/-- The state with its group's lanes and paths of a test. -/
def LB : List Lane := [laneX [(1, 0x00FFFFFFFFFFFFF8)], laneX [(1, 0x00FFFFFFFFFFFFF8)]]

theorem wit_BranchesAndDivisions :
    ((stT LB).undivided (groupT LB) (pathT LB) ∧ (∀ i ∈ (pathT LB).lanes, guardHolds gd ((groupT LB).lane i) = true) ∧
      ((pathT LB).pc + 8 * (0xFFFE00 : BitVec 24).signExtend 64).toNat / 2 ^ 56 = 0 ∧
      (∀ i ∈ (pathT LB).lanes, ((groupT LB).lane i).rx 1 = 0x00FFFFFFFFFFFFF8) ∧
      (∀ i ∈ (pathT LB).lanes, ((groupT LB).lane i).rx 1 + 8 * (0xFFFFFF : BitVec 24).signExtend 64 = 0x00FFFFFFFFFFFFF0) ∧
      (0x00FFFFFFFFFFFFF8 : Word).toNat / 2 ^ 56 = 0 ∧ (0x00FFFFFFFFFFFFF8 : Word).toNat % 8 = 0) ∧
    ((stT L4).undivided (groupT L4) (pathT L4) ∧ (pathT L4).alone = false ∧ (pathT L4).joins = [] ∧ (groupT L4).joins = [] ∧
      (groupT L4).qsets = [⟨(pathT L4).qset, [0], 0⟩] ∧ (groupT L4).size ≤ 4 ∧
      (pathT L4).lanes.filter (fun l => guardHolds ⟨true, 1⟩ ((groupT L4).lane l)) ≠ [] ∧
      (pathT L4).lanes.filter (fun l => !guardHolds ⟨true, 1⟩ ((groupT L4).lane l)) ≠ [] ∧
      ((pathT L4).pc + 8 * (5 : BitVec 24).signExtend 64).toNat / 2 ^ 56 = 0 ∧ (5 : BitVec 24) ≠ 1 ∧ (9 : BitVec 14) ≠ 0) := by
  simp only [State.undivided, State.runs, Group.noStack]
  and_intros <;> decide +kernel

/-- A group whose two paths have both reached the pending join 7 at 0x2000. -/
def gJoin : Group := { groupT L4 with
  joins := [⟨7, 0x2000, [0, 1, 2, 3]⟩],
  paths := [{ pathT L4 with lanes := [0, 2], pc := 0x2000, joins := [7] },
            { pathT L4 with pid := 5, lanes := [1, 3], pc := 0x2000, joins := [7] }] }
def sJoin : State := withPick { stT L4 with groups := [gJoin] } [3, 7]

/-- A group with a path on the stack of set 4 since clk 0, at clk 3584. -/
def gRot : Group := { groupT L4 with
  paths := [{ pathT L4 with lanes := [0, 2] }, { pathT L4 with pid := 5, lanes := [1, 3], stacked := some 1, pushedAt := 0 }] }
def sRot : State := { withPick { stT L4 with groups := [gRot] } [3, 4] with clk := 3584 }

/-- A group halted at MWAIT with no MMA. -/
def gHalt : Group := { groupT L4 with paths := [{ pathT L4 with halted := some .mwait }] }
def sHalt : State := withPick { stT L4 with groups := [gHalt] } [3, 4]

theorem wit_PathsYieldAndReunite : ((stT L4).undivided (groupT L4) (pathT L4) ∧ (pathT L4).joins = []) ∧
    (sJoin.group? gJoin.gid = some gJoin ∧ sJoin.arg 0 = gJoin.gid ∧ sJoin.arg 1 = 7 ∧ gJoin.noStack ∧ gJoin.owedEntries = [] ∧
      gJoin.join? 7 = some ⟨7, 0x2000, [0, 1, 2, 3]⟩ ∧ [0, 1, 2, 3] = gJoin.liveLanes ∧
      (∀ l ∈ [0, 1, 2, 3], ∃ q ∈ gJoin.paths, l ∈ q.lanes) ∧
      ∀ q ∈ gJoin.paths, q.joins = [7] ∧ q.pc = 0x2000 ∧ q.lanes ≠ [] ∧ ∀ l ∈ q.lanes, l ∈ [0, 1, 2, 3]) ∧
    (sRot.group? gRot.gid = some gRot ∧ sRot.arg 0 = gRot.gid ∧
      gRot.stackOf (sRot.arg 1) = [{ pathT L4 with pid := 5, lanes := [1, 3], stacked := some 1, pushedAt := 0 }] ∧
      0 + 3584 ≤ sRot.clk ∧
      sortBy (fun y : Path => y.since) (gRot.paths.filter (fun y => y.qset == sRot.arg 1 && gRot.live y &&
        y.quads.any (fun z => [0].contains z))) = [{ pathT L4 with lanes := [0, 2] }]) ∧
    (sHalt.group? gHalt.gid = some gHalt ∧ sHalt.arg 0 = gHalt.gid ∧ sHalt.arg 1 = 4 ∧
      gHalt.paths = [{ pathT L4 with halted := some .mwait }] ∧ (pathT L4).lanes = gHalt.liveLanes ∧ (pathT L4).lanes ≠ [] ∧
      (pathT L4).stacked = none ∧ (pathT L4).waiting = false ∧ gHalt.frozen = false ∧ gHalt.mmas = []) := by
  simp only [State.undivided, Group.noStack, State.runs]
  and_intros <;> decide +kernel

/-- Two lanes of which lane 0 alone passes the guard k1, with a record at offset 64 of its scratchpad. -/
def LE : List Lane := [(laneX [(1, 0xFC00000000000040)]).wk 1 true, laneX []]

/-- The state that a load answers, if it answers. -/
def lresOk {α : Type} (r : LRes α) : Bool := match r with | .ok _ _ => true | _ => false

theorem wit_ExitEndsThreads : (stT LE).runsOne (groupT LE) (pathT LE) ⟨false, 1⟩ 0 ∧ (((groupT LE).lane 0).rx 1).toNat % 64 = 0 ∧
    lresOk ((stT LE).load16s 3 0 0xFC00000000000040 1 4) = true ∧ lresOk ((stT LE).load16s 3 0 0xFC00000000000040 1 28) = true ∧
    (stT LE).eng.copies.any (fun c => c.gid == 3 && c.lane == 0 && !c.released) = false ∧
    (stT LE).link.sends.any (fun c => c.gid == 3 && c.lane == 0) = false ∧
    (groupT LE).owedEntries = [] ∧ (groupT LP).owedEntries = [] ∧ (∃ i ∈ (groupT LE).liveLanes, i ≠ 0) ∧ (groupT LP).liveLanes = [0] ∧ (stT LP).runsOne (groupT LP) (pathT LP) gd 0 := by
  simp only [State.runsOne, State.runs, Group.noStack]
  decide +kernel

theorem wit_DualWordReadsBeforeWrites : (stT L4).undivided (groupT L4) (pathT L4) ∧ slotLd .add = none ∧ slotSt .add = none ∧
    slotLd .br = none ∧ slotSt .br = none ∧ (slotTarget (pathT L4).pc ⟨.br, 0, 0, .imm 0x1FF⟩).toNat / 2 ^ 56 = 0 ∧
    slotLd .mov = none ∧ slotSt .mov = none ∧
    (stT LP).undivided (groupT LP) (pathT LP) ∧ (pathT LP).lanes = [0] ∧ slotLd .ldB64 = some (8, false) ∧ slotSt .stB64 = some 8 ∧
    (stT LP).placed (groupT LP) 0 (((groupT LP).lane 0).rx 2 + SOpnd.x ((groupT LP).lane 0) (.imm 8)) 8 0 8 (padT 0) ∧
    ((groupT LP).lane 0).wait = none := by
  simp only [State.undivided, State.placed, State.runs, Group.noStack]
  and_intros <;> decide +kernel

theorem wit_TrapEntryAndViolations :
    ((stT L4).group? (groupT L4).gid = some (groupT L4) ∧ (groupT L4).whole (pathT L4) ∧ (pathT L4).pid ≠ (stT L4).nextId ∧
      3 ∈ (pathT L4).lanes ∧ 3 < (groupT L4).size ∧ (pathT L4).alone = false ∧ (groupT L4).size ≠ 1 ∧ 1 < (groupT L4).size ∧
      (pathT L4).lanes ≠ [3] ∧ ((groupT L4).lane 3).privS = false) ∧
    ((stT L1).group? (groupT L1).gid = some (groupT L1) ∧ (groupT L1).whole (pathT L1) ∧ (pathT L1).lanes = [0] ∧
      (pathT L1).pid ≠ (stT L1).nextId ∧ ((groupT L1).lane 0).privS = false) ∧
    ((stT LS).group? (groupT LS).gid = some (groupT LS) ∧ (groupT LS).whole (pathT LS) ∧ (pathT LS).pid ≠ (stT LS).nextId ∧
      (pathT LS).lanes = [0] ∧ 0 < (groupT LS).size ∧ ((groupT LS).lane 0).privS = true ∧
      (stT LS).ctx? (groupT LS).ctx = some (bootCtx 1) ∧ (bootCtx 1).st = .running ∧ (bootCtx 1).viol = false) := by
  simp only [Group.whole]
  and_intros <;> decide +kernel

def LT : List Lane := [{ atS (laneX [(1, 0x100), (2, 0x80)]) with tepc := 0x00FFFFFFFFFFFFF9 }]

theorem wit_TrapWordsAndEret : ((stT L1).single (groupT L1) (pathT L1) 0 ∧ ((groupT L1).lane 0).privS = false ∧
      guardHolds gd ((groupT L1).lane 0) = true) ∧
    ((stT LT).single (groupT LT) (pathT LT) 0 ∧ ((groupT LT).lane 0).privS = true ∧ ((groupT LT).lane 0).tepc.toNat % 4 ≤ 1 ∧
      (((groupT LT).lane 0).tepc &&& ~~~(7#64)).toNat / 2 ^ 56 = 0) := by
  simp only [State.single, State.undivided, State.runs, Group.noStack]
  decide +kernel

theorem wit_SystemWords : Scope.wide .cl = false ∧ Scope.wide .die = true ∧ (stT LT).single (groupT LT) (pathT LT) 0 ∧ guardHolds gd ((groupT LT).lane 0) = true ∧
    ((groupT LT).lane 0).privS = true ∧ ((groupT LT).lane 0).wait = none ∧ (4 : Nat) < (5 : BitVec 16).toNat ∧
    (0 : BitVec 16).toNat = 0 ∧ 1 ≤ (4 : BitVec 16).toNat ∧ (4 : BitVec 16).toNat ≤ 4 ∧ 1 ≤ (1 : BitVec 16).toNat ∧
    (((groupT LT).lane 0).rx 1).toNat / 2 ^ 56 = 0 ∧ (((groupT LT).lane 0).rx 2).toNat / 2 ^ 32 = 0 := by
  simp only [State.single, State.undivided, State.runs, Group.noStack]
  and_intros <;> decide +kernel

/-- A lane that waits for the firmware with code n, x1 naming the fault record with tag 0x107. -/
def LF (n : Nat) : List Lane := [{ atS (laneX [(1, 0x107)]) with wait := some ⟨.scall n, 1, none, 0, false⟩ }]
def faultT : EngFault := ⟨7, 0x107, 0x2000, 1, 5, 0, 0, .copy 9, true⟩
def sF (n : Nat) (fs : List EngFault) : State :=
  withPick (ctxOf (stG (LF n) (fun g => { g with paths := [{ pathT (LF n) with waiting := true }] })) (fun c => { c with efs := fs })) [3, 0]
def gF (n : Nat) : Group := { groupT (LF n) with paths := [{ pathT (LF n) with waiting := true }] }

theorem wit_FirmwareCalls : (∀ n ∈ [1, 2, 3, 4], ∀ fs ∈ [[], [faultT]], (gF n).gid = (sF n fs).arg 0 ∧ 0 = (sF n fs).arg 1 ∧
      (sF n fs).group? (gF n).gid = some (gF n) ∧ 0 < (gF n).size ∧
      (sF n fs).ctx? (gF n).ctx = some { bootCtx 1 with efs := fs } ∧ (sF n fs).calling (gF n).gid 0 n = some (gF n)) ∧
    (∀ g ∈ (sF 1 []).groups, ∀ p ∈ g.paths, p.stacked = none) ∧
    (sF 1 []).fault? 1 ((LF 1).headD Lane.zero |>.rx 1) = none ∧
    (sF 2 [faultT]).fault? 1 (((gF 2).lane 0).rx 1) = some faultT ∧ (sF 1 [faultT]).fault? 1 (((gF 1).lane 0).rx 1) = some faultT := by
  decide +kernel

/-- A lane parked with a wait; its watch stands on line 0 of its scratchpad. -/
def LK (w : Wait) (c : Option WatchCause) : List Lane := [{ atS (laneX []) with wait := some w, watch := some ⟨.pad 2 0 0, c⟩ }]
def gK (w : Wait) (c : Option WatchCause) : Group :=
  { groupT (LK w c) with paths := [{ pathT (LK w c) with waiting := true }] }
def sK (w : Wait) (c : Option WatchCause) (pick : List Nat) : State := withPick { stT (LK w c) with groups := [gK w c] } pick

theorem wit_ParkedLanesReturn :
    (∀ w ∈ [⟨.wfi, 5, some 1000, 0, false⟩, ⟨.wfi, 5, none, 0, false⟩, ⟨.waitm, 5, some 1000, 0, false⟩],
      ∀ c ∈ [none, some .store, some .lost], ∀ a ∈ [[3, 0], [3, 4]],
      (sK w c a).group? (gK w c).gid = some (gK w c) ∧ (∀ g ∈ (sK w c a).groups, ∀ p ∈ g.paths, p.stacked = none) ∧
      (gK w c).paths = [{ pathT (LK w c) with waiting := true }] ∧ (pathT (LK w c)).lanes = [0] ∧ 0 < (gK w c).size ∧
      ((gK w c).lane 0).wait = some w ∧ w.intr = false ∧ w.d ≠ 0 ∧ (gK w c).gid = (sK w c a).arg 0 ∧
      ((gK w c).lane 0).watch = some ⟨.pad 2 0 0, c⟩ ∧ (sK w c a).clk = 1000) ∧
    (sK ⟨.wfi, 5, some 1000, 0, false⟩ none [3, 0]).arg 1 = 0 ∧ (sK ⟨.wfi, 5, none, 0, false⟩ none [3, 4]).arg 1 = 4 := by
  and_intros <;> decide +kernel

/-- For the words over lanes: four lanes, of which lane 3 does not pass the guard, whose x1 names lanes 0 to 2; and all four with x0. -/
def LC : List Lane := [(laneX [(1, 7)]).wk 1 true, (laneX [(1, 7)]).wk 1 true, (laneX [(1, 7)]).wk 1 true, laneX []]

theorem wit_CrossActs : (stT LC).undivided (groupT LC) (pathT LC) ∧ (groupT LC).active (pathT LC) ⟨false, 1⟩ = [0, 1, 2] ∧
    7 < 2 ^ (groupT LC).size ∧
    (∀ l ∈ (groupT LC).active (pathT LC) ⟨false, 1⟩, ((groupT LC).lane l).memberMask (groupT LC).size 1 = 7 ∧ inMask 7 l = true) ∧
    (stT L4).undivided (groupT L4) (pathT L4) ∧ (groupT L4).active (pathT L4) gd = [0, 1, 2, 3] ∧ 15 < 2 ^ (groupT L4).size ∧
    (∀ l ∈ (groupT L4).active (pathT L4) gd, ((groupT L4).lane l).memberMask (groupT L4).size 0 = 15 ∧ inMask 15 l = true) := by
  simp only [State.undivided, State.runs, Group.noStack]
  decide +kernel

/-- RED.add of an integer type with every named lane present. -/
theorem wit_ReductionsAndScans : Ty.i32 ≠ .f32 ∧ (∀ n, n < (groupT L4).size → inMask 15 n = true → n ∈ [0, 1, 2, 3]) := by
  refine ⟨by decide, fun n h _ => ?_⟩
  have : n < 4 := h
  simp only [List.mem_cons, List.not_mem_nil]
  omega

/-- A launch of two classes of one group of one lane. -/
def launchT : Launch :=
  { lid := 20, ctx := 1, queue := 0, entry := 0x1000, gsize := 1, stages := 1, scratch := 0, gpc := 1, job := 1, cx := 2, cy := 1,
    cz := 1, tscratch := 0, arg := 0, seed := 0, part := [0, 2, 2, 2, 2, 2, 2, 2, 2], trows := 1, tcols := 1, tiler := 0, tilec := 0,
    routes := [⟨none, none⟩], doneAddr := 0, pts := 1, endPts := 0, waiting := false, unplaced := [], left := 2, tt := none }

/-- A lane of class n of that launch: x1 names the other class, x2 a class outside the grid. -/
def laneOf (n : Nat) : Lane :=
  { laneX [(1, BitVec.ofNat 64 (1 - n)), (2, 9), (6, BitVec.ofNat 64 (100 + n))] with idClass := n, origin := ⟨0, 1, 0, 20, true, 0⟩ }
def exchT (n : Nat) : Exch := ⟨BitVec.ofNat 64 (1 - n), [0], 5, 6, 1, 7, false, 0⟩
def gX (n : Nat) (e : Option Exch) : Group :=
  { groupT [laneOf n] with
    gid := 3 + 10 * n, idGroup := 0, site := ⟨0, n⟩, exch := e,
    paths := [{ pathT [laneOf n] with halted := if e.isSome then some (.exch gd 5 6 1 1 7 false) else none }] }
def sX (e f : Option Exch) (tmo : Nat) : State :=
  withPick { ctxOf (stT [laneOf 0]) (fun c => { c with launches := [launchT], desc := { c.desc with exTimeout := tmo } }) with
    groups := [gX 0 e, gX 1 f], clk := 3600 } [3]

theorem wit_Exchanges :
    ((sX none none 0).undivided (gX 0 none) (pathT [laneOf 0]) ∧ (gX 0 none).exch = none ∧
      ((gX 0 none).active (pathT [laneOf 0]) gd).head? = some 0 ∧
      (sX none none 0).badPartner (gX 0 none) (partnerOf (((gX 0 none).lane 0).rx 1)) = false ∧
      (sX none none 0).badPartner (gX 0 none) (partnerOf (((gX 0 none).lane 0).rx 2)) = true) ∧
    (let s := sX (some (exchT 0)) (some (exchT 1)) 0
     s.arg 0 = 3 ∧ s.noStacks ∧ s.exchPair? 3 = some (gX 0 (some (exchT 0)), exchT 0, gX 1 (some (exchT 1)), exchT 1) ∧
      s.group? 13 = some (gX 1 (some (exchT 1))) ∧ (gX 0 none).size = (gX 1 none).size ∧ (exchT 0).v = (exchT 1).v ∧
      (gX 0 (some (exchT 0))).owedEntries = [] ∧ (gX 0 (some (exchT 0))).paths.length ≤ 2 ∧ (gX 1 (some (exchT 1))).owedEntries = [] ∧
      (gX 1 (some (exchT 1))).paths.length ≤ 2 ∧
      (∀ l ∈ (exchT 0).present, s.fenceReady 3 l = true) ∧ (∀ l ∈ (exchT 1).present, s.fenceReady 13 l = true)) ∧
    (let s := sX (some (exchT 0)) none 1
     s.arg 0 = 3 ∧ s.group? 3 = some (gX 0 (some (exchT 0))) ∧ (gX 0 (some (exchT 0))).noStack ∧
      s.exchBroken (gX 0 (some (exchT 0))) (exchT 0) = true ∧ (exchT 0).s ≠ 0) := by
  simp only [State.undivided, State.noStacks, Group.noStack, State.runs]
  and_intros <;> decide +kernel

/-! The tile unit, forms, barriers and copies. -/

/-- A state of LP with a list of groups. -/
def stGs (gs : List Group) : State := { stT LP with groups := gs }

/-- The group with the hall pass and its pair. -/
def gPair : Group := { groupT LP with gid := 9, slot := 1, pass := .away }
def mmaR (step : Nat) (reading : Bool) : Mma :=
  ⟨1, ⟨0xFC00000000000000, 16, 2, 0, false, false, 0, 0, 0⟩, ⟨0xFC00000000000000, 16, 2, 0, false, false, 0, 0, 0⟩, 4, step, 5, reading, 1⟩
def gMma (m : Mma) : Group := { groupT LP with mmas := [m] }

theorem wit_TileWords : (stT LP).undivided (groupT LP) (pathT LP) ∧ (stT LP).pairOf? (groupT LP) = none ∧
    (groupT LP).mmas = [] ∧ (stT LP).drainsOf 3 = 0 ∧
    ((stGs [groupT LP, gPair]).undivided (groupT LP) (pathT LP) ∧
      (stGs [groupT LP, gPair]).pairOf? (groupT LP) = some gPair ∧ (groupT LP).pass = .held) ∧
    ((stGs [gMma (mmaR 0 true)]).undivided (gMma (mmaR 0 true)) (pathT LP) ∧ (gMma (mmaR 0 true)).mmas ≠ []) := by
  simp only [State.undivided, State.runs, Group.noStack]
  decide +kernel

/-- The operands of an MMA in the own scratchpad: A and B at 0 with rows of 16 and columns of 2 bytes, a format block at 0x20. -/
def LM : List Lane := [laneX [(2, 0xFC00000000000000), (3, 0x0000000200000010), (4, 0xFC00000000000000), (5, 0x0000000200000010),
  (6, 0xFC00000000000020)]]
def sM : State := (stT LM).modPath 3 4 (fun q => { q with halted := some (.mma 1 2 4 6 0 .normal false) })
def rowLoads : List (Nat × Nat) :=
  let m := mmaR 7 true
  let sh := tileShape 1
  let rows := (List.range sh.1).filter (fun i => i % 8 == m.step)
  rows.flatMap (fun i => (List.range m.k).map (fun kk => m.a.at_ i kk)) ++
    (List.range m.k).flatMap (fun kk => (List.range sh.2.1).map (fun j => m.b.at_ kk j)) ++
    rows.flatMap (fun i => (List.range (m.a.blocks m.k)).map (fun n => m.a.scaleAt i n)) ++
    (List.range (m.b.blocks m.k)).flatMap (fun n => (List.range sh.2.1).map (fun j => m.b.scaleAt n j))

/-- What a load leaves of the group. -/
def lresGroup {α : Type} (r : LRes α) (gid : Nat) : Option Group := match r with | .ok _ s => s.group? gid | _ => none
def lresVal {α : Type} (r : LRes α) : Option α := match r with | .ok a _ => some a | _ => none

theorem wit_MmaAndPass :
    ((stT LM).undivided (groupT LM) (pathT LM) ∧ (stT LM).holdsPass (groupT LM) = true ∧ (groupT LM).mmas = [] ∧
      (groupT LM).firstStep = 0 ∧ { groupT LM with mrp := 0x10005 }.firstStep = 5 ∧ (0xFC00000000000020 : Word).toNat % 32 = 0 ∧ (0xFC00000000000020 : Word).toNat / 2 ^ 56 = 0xFC ∧
      lresVal (sM.load16s 3 0 0xFC00000000000020 4 2) = some [0, 0] ∧
      (lresGroup (sM.load16s 3 0 0xFC00000000000020 4 2) 3).map (fun h => (h.mmas, h.paths.all (·.stacked.isNone))) = some ([], true) ∧
      (let oa := mmaOperand 0xFC00000000000000 0x0000000200000010 0
       oa.bad 0 = false ∧ Machine.pairOk oa.fmt oa.fmt = true ∧
        mmaMisaligned 0xFC00000000000000 0x0000000200000010 0xFC00000000000000 0x0000000200000010 oa oa = none)) ∧
    (let h := gMma (mmaR 7 true)
     let s := withPick (stGs [h]) [3]
     s.arg 0 = h.gid ∧ s.group? h.gid = some h ∧ h.noStack ∧ h.reading? = some (mmaR 7 true) ∧ h.frozen = false ∧
      h.paths.any (·.frozen) = false ∧ s.drainsRun 1 = true ∧ s.datapathBusy h (mmaR 7 true) = false ∧ lresOk (s.loadList 3 0 rowLoads) = true ∧
      (lresGroup (s.loadList 3 0 rowLoads) 3).map (fun g => (g.mmas, g.paths.map (·.stacked), g.owedEntries, g.size)) =
        some (h.mmas, [none], [], 1)) ∧
    (let h := { groupT LP with pass := .inFlight }
     let s := withPick (stGs [h, gPair]) [3]
     s.group? h.gid = some h ∧ s.arg 0 = h.gid ∧ h.pass = .inFlight ∧ h.mmas = [] ∧ s.pairOf? h = some gPair ∧
      s.group? gPair.gid = some gPair ∧ gPair.gid ≠ h.gid ∧ (withPick (stGs [h]) [3]).pairOf? h = none) ∧
    (gMma (mmaR 8 false)).mmas.find? (fun x => !x.reading) = some (mmaR 8 false) ∧
    (let s := ctxOf (withPick (stGs [gMma (mmaR 5 true)]) [3]) (fun c => { c with stopAt := some 0 })
     ({ s with clk := 4800 }.ctx? 1).bind (·.stopAt) = some 0 ∧ s.group? 3 = some (gMma (mmaR 5 true))) := by
  simp only [State.undivided, Group.noStack, State.runs]
  and_intros <;> decide +kernel

/-- The operands of drains: elements at 0 with rows of 32 and columns of 4 bytes, a record at 0x40; x6 is a destination. -/
def LD : List Lane := [laneX [(2, 0xFC00000000000000), (3, 0x0000000400000020), (6, 0xFC00000000000040), (8, 0), (9, 0x0000000400000020)]]
def drainT (ws : List Bool) : Drain :=
  { did := 8, gid := 3, ctx := 1, privS := false, site := ⟨0, 0⟩, cls := 2, pts := 0,
    elems := ws.map (fun w => ⟨.pad 2 0 0x3FFC, 0xFC00000000003FFC, [1, 2, 3, 4], w⟩), remote := true,
    wake := [1, 2, 3, 4, 5, 6, 7, 0], wakeSite := ⟨0, 0⟩, job := 0, held := 0 }
def sDrain (ws : List Bool) : State := { withPick (stT LD) [8] with eng := { Engines.empty with drains := [drainT ws] } }
def haltR : Path := { pathT LD with halted := some (.mdrainr 6 8 1 10 .f32 .rne false) }

theorem wit_DrainsRun :
    ((stT LD).undivided (groupT LD) (pathT LD) ∧ (stT LD).drainsOf 3 < 4 ∧ (groupT LD).mmas.any (fun m => m.reading && m.d == 1) = false ∧
      drainMisaligned 0xFC00000000000000 0x0000000400000020 (Ty.f32.bits / 8) = none ∧
      (0xFC00000000000000 : Word).toNat / 2 ^ 56 = 0xFC) ∧
    (drainMisaligned (BitVec.ofNat 64 (bitsAt 0 0 48)) 0x0000000400000020 (Ty.f32.bits / 8) = none ∧
      (0xFC00000000000040 : Word).toNat % 64 = 0 ∧
      (let s := (stT LD).modPath 3 4 (fun q => { q with halted := some (.mdrainr 6 8 1 10 .f32 .rne false) })
       lresOk (s.load16s 3 0 0xFC00000000000040 4 4) = true ∧
        (lresGroup (s.load16s 3 0 0xFC00000000000040 4 4) 3).map (fun h => (h.paths, h.size, h.owedEntries)) = some ([haltR], 1, []))) ∧
    (let s := sDrain [false, false]
     s.arg 0 = 8 ∧ s.drain? 8 = some (drainT [false, false]) ∧ s.drainsRun 1 = true ∧ s.drainCut (drainT [false, false]) = false ∧
      (drainT [false, false]).held = 0 ∧ s.ownedFor 0 (.pad 2 0 0x3FFC) 4 = false ∧
      (drainT [false, false]).elems[0]?.isSome = true ∧ (mresVal (s.engWrite ⟨1, false, 0, ⟨0, 0⟩⟩ (.pad 2 0 0x3FFC) [1, 2, 3, 4])).isSome = true ∧
      (drainT [false, false]).elems.findIdx? (fun y => !y.written) = some 0 ∧ 0 + 1 < (drainT [false, false]).elems.length ∧
      s.pad? 2 0 = some (padT 0) ∧ 0x3FFC + 4 ≤ (padT 0).size) ∧
    (let d := { drainT [true, false] with remote := false }
     let s := { sDrain [] with eng := { Engines.empty with drains := [d] } }
     s.drain? 8 = some d ∧ d.elems.findIdx? (fun y => !y.written) = some 1 ∧ d.elems.length ≤ 1 + 1) ∧
    (let s := sDrain [true, true]
     s.drain? 8 = some (drainT [true, true]) ∧ s.drainsRun 1 = true ∧ (drainT [true, true]).elems.any (fun y => !y.written) = false) := by
  simp only [State.undivided, State.runs, Group.noStack]
  and_intros <;> decide +kernel

def LL : List Lane := [laneX [(1, 0x11000)], laneX [(1, 0x1001)]]

theorem wit_FormsDivideAndUnite : ((stT L1).undivided (groupT L1) (pathT L1) ∧ (groupT L1).size = 1) ∧
    ((stT L4).undivided (groupT L4) (pathT L4) ∧ 1 < (groupT L4).size ∧ (groupT L4).owedEntries = [] ∧
      (pathT L4).alone = false ∧ ∃ i ∈ (groupT L4).liveLanes, ((groupT L4).lane i).reason ≠ 1) ∧
    (∀ rs ∈ [[laneX [(1, 0x11000)]], [laneX [(1, 0x1001)]]], (stT rs).current = some (groupT rs, pathT rs) ∧
      (∀ p ∈ (groupT rs).paths, p.stacked = none) ∧ (groupT rs).active (pathT rs) gd = [0] ∧ 0 < (groupT rs).size) ∧
    (bitsAt 0x11000 0 13 ≤ 4096 ∧ bitsAt 0x11000 13 3 = 0 ∧ bitsAt 0x11000 17 47 = 0) ∧ 4096 < bitsAt 0x1001 0 13 := by
  simp only [State.undivided, State.runs, Group.noStack]
  and_intros <;> decide +kernel

/-- A lane with a barrier word at offset 8 of its scratchpad. -/
def LBar : List Lane := [laneX [(1, 0xFC00000000000008)]]
/-- Its group beside one whose lanes wait at that word in generation `gen`. -/
def waitB (gen : Nat) : Wait := ⟨.bar (.pad 2 0 0) 8 gen true, 5, none, 0, false⟩
def gWait (n gen : Nat) : Group :=
  let g := groupT (List.replicate n { Lane.zero with wait := some (waitB gen) })
  { g with gid := 50, slot := 1, paths := g.paths.map (fun p => { p with pid := 51, waiting := true }) }
def sBar (w : BarWord) : State := withPad (stT LBar) ((toBytes 8 w.bits).zipIdx.filterMap (fun x => if x.1 = 0 then none else some (8 + x.2, x.1)))

theorem wit_BarrierWords :
    (∀ w ∈ [(⟨2, 0, 7, false, 2, 0⟩ : BarWord), ⟨2, 1, 65535, false, 2, 0⟩, ⟨2, 0, 7, true, 2, 0⟩, ⟨2, 2, 7, false, 2, 0⟩,
        ⟨65535, 65534, 0, false, 0, 0⟩, ⟨0, 0, 0, false, 0, 0⟩],
      (sBar w).current = some (groupT LBar, pathT LBar) ∧
      barWord (fromBytes (cellsRead (((sBar w).pad? 2 0).getD (padT 0)).bytes 8 8)) = w ∧
      (sBar w).loadHeld (.pad 2 0 8) 8 = false ∧ (sBar w).storeHeld (groupT LBar) 0 (.pad 2 0 8) 8 = false ∧
      (sBar w).drainHeld (groupT LBar) (.pad 2 0 8) 8 = false ∧ (((sBar w).pad? 2 0).getD (padT 0)).size = 16384) ∧
    (stT LBar).single (groupT LBar) (pathT LBar) 0 ∧ guardHolds gd ((groupT LBar).lane 0) = true ∧ (stT LBar).noStacks ∧
    (stT LBar).noWaits ∧ (stT LBar).placed (groupT LBar) 0 (((groupT LBar).lane 0).rx 1) 8 0 8 (padT 0) ∧
    ((⟨2, 2, 7, false, 2, 0⟩ : BarWord).invalid = true ∧ (⟨2, 0, 7, true, 2, 0⟩ : BarWord).invalid = false ∧
      (⟨2, 0, 7, false, 2, 0⟩ : BarWord).invalid = false ∧ (⟨0, 0, 0, false, 0, 0⟩ : BarWord).invalid = true) := by
  simp only [State.single, State.noStacks, State.noWaits, State.placed, State.undivided, Group.noStack, State.runs]
  and_intros <;> decide +kernel

/-- The bank's waiters in use, and a waiter of the generation that the last arrival ends. -/
theorem wit_BarrierWords_waiters :
    (let s := { sBar ⟨2, 0, 7, false, 2, 0⟩ with groups := [groupT LBar, gWait 64 7] }
     s.single (groupT LBar) (pathT LBar) 0 ∧ s.noStacks ∧ 64 ≤ s.barWaiters (groupT LBar).site ∧ (7 : Nat) < 2 ^ 16) ∧
    (let s := { sBar ⟨2, 1, 7, false, 2, 0⟩ with groups := [groupT LBar, gWait 1 7] }
     s.single (groupT LBar) (pathT LBar) 0 ∧ s.noStacks ∧ s.group? (gWait 1 7).gid = some (gWait 1 7) ∧ (gWait 1 7).gid ≠ (groupT LBar).gid ∧
      0 < (gWait 1 7).size ∧ ((gWait 1 7).lane 0).wait = some (waitB 7)) := by
  simp only [State.single, State.noStacks, State.undivided, Group.noStack, State.runs]
  decide +kernel

/-- A BARX by a lane: x1 is rank 0 of 1, x2 rank 1 of 2, x3 rank 1 of 1; the roster is at 0x1000. -/
def LX : List Lane := [laneX [(1, 0x0000000700010000), (2, 0x0000000700020001), (3, 0x0000000700010001), (4, 0x1000)]]
def instT : BarxInst := ⟨0, 0, 1, 7, 0, 2, 5, 0, [(0, 0)], 3, 1000, 0⟩
def noticeT (e : Nat) : Notice := ⟨0, 1, 7, 1, 0, 0, e, some 0, 0⟩
def LY : List Lane := [{ laneX [] with wait := some ⟨.barx 7, 5, none, 0, false⟩ }]
def sBarx (insts : List BarxInst) (e : Nat) : State :=
  withPick { ctxOf (stT LY) (fun c => { c with desc := { c.desc with exTimeout := 1 } }) with
    bars := ⟨insts, [noticeT e], [], [], []⟩, clk := 4600 } [0, 0]
def haltX (a : XReg) (q : Path) : Path := { q with halted := some (.barx 5 a 4 .die) }
def rosterOf (a : XReg) (ranks : List Nat) : LRes (List Nat) :=
  ((stT LX).modPath 3 4 (haltX a)).rosterRead 3 0 0x1000 ranks
/-- The roster's rank 0 in package 1 of the domain. -/
def sFar : State :=
  { stT LX with
    mem := { MemSys.empty with hbm := bootCells ++ [(0x201001, 1)] },
    link := { State.reset.link with ports := [{ Port.down 7 with st := .up, lanes := 4, mcl := true }], routes := [(1, [7])] } }
def sysX (q : Path) : Path := { q with halted := some (.barx 5 1 4 .sys) }
def farRoster : LRes (List Nat) := (sFar.modPath 3 4 sysX).rosterRead 3 0 0x1000 [0]

theorem wit_WideBarriers_far : sFar.undivided (groupT LX) (pathT LX) := by
  simp only [State.undivided, State.runs, Group.noStack]
  decide +kernel

theorem wit_WideBarriers_away : lresVal farRoster = some [0x100] ∧
    (lresGroup farRoster 3).map (fun h => (h.paths, h.liveLanes, h.size, h.owedEntries)) = some ([sysX (pathT LX)], [0], 1, []) ∧
    (rosterEntry 0x100).rsv = 0 ∧ sFar.outsideScope (rosterEntry 0x100) .sys 0 = false ∧ sFar.bars.insts = [] ∧
    (rosterEntry 0x100).pkg ≠ sFar.pkgIndex := by
  decide +kernel

theorem wit_WideBarriers : (stT LX).undivided (groupT LX) (pathT LX) ∧
    (bitsAt 0x0000000700010001 16 16 ≤ bitsAt 0x0000000700010001 0 16) ∧
    (bitsAt 0x0000000700010000 0 16 < bitsAt 0x0000000700010000 16 16 ∧ bitsAt 0x0000000700010000 48 16 = 0) ∧
    (bitsAt 0x0000000700020001 0 16 < bitsAt 0x0000000700020001 16 16 ∧ bitsAt 0x0000000700020001 48 16 = 0) ∧
    (0x1000 : Word).toNat / 2 ^ 56 = 0 ∧ (stT LX).bars.insts = [] ∧ (stT LX).bars.held = [] ∧
    (lresVal (rosterOf 1 [0]) = some [0] ∧ lresVal (rosterOf 2 [1, 0]) = some [0, 0]) ∧
    ((lresGroup (rosterOf 1 [0]) 3).map (fun h => (h.paths, h.liveLanes, h.size, h.owedEntries)) = some ([haltX 1 (pathT LX)], [0], 1, []) ∧
      (lresGroup (rosterOf 2 [1, 0]) 3).map (fun h => (h.paths, h.liveLanes, h.size, h.owedEntries)) = some ([haltX 2 (pathT LX)], [0], 1, [])) ∧
    ((rosterEntry 0).rsv = 0 ∧ (stT LX).outsideScope (rosterEntry 0) .die 0 = false ∧ (rosterEntry 8).rsv ≠ 0 ∧
      (stT LX).outsideScope (rosterEntry 1) .die 0 = true ∧ (stT LX).outsideScope (rosterEntry 1) .pkg 0 = false ∧
      (stT LX).outsideScope (rosterEntry 0x100) .pkg 0 = true ∧ (stT LX).outsideScope (rosterEntry 0x100) .sys 0 = true) ∧
    ((sBarx [] 5).arg 0 = 0 ∧ (sBarx [] 5).bars.flying[(sBarx [] 5).arg 1]? = some (noticeT 5) ∧ (noticeT 5).round.isSome = true ∧
      (sBarx [] 5).stale (noticeT 5) = false ∧ (sBarx [] 5).heldAt 0 < 256 ∧ (sBarx [instT] 5).noticed (noticeT 5) = true) ∧
    ((sBarx [instT] 5).bars.insts = [instT] ∧ (sBarx [instT] 5).atHome instT = true ∧ (sBarx [instT] 5).stale (noticeT 5) = false ∧
      instT.brokenBy { noticeT 5 with round := none } = true ∧ instT.gid = 3 ∧ instT.matches_ (noticeT 5) = true ∧ instT.matches_ (noticeT 6) = false ∧
      instT.rounds ≤ instT.round + 1 ∧ (sBarx [instT] 5).ctxRuns 1 = true ∧ (sBarx [instT] 5).noStacks ∧
      (sBarx [instT] 5).group? 3 = some (groupT LY) ∧ 0 < (groupT LY).size ∧
      ((groupT LY).lane 0).wait = some ⟨.barx 7, 5, none, 0, false⟩) ∧
    ((sBarx [instT] 5).bars.insts[(sBarx [instT] 5).arg 0]? = some instT ∧ (groupT LY).paths = [pathT LY] ∧
      instT.since + 3600 * 1 ≤ (sBarx [instT] 5).clk ∧ ((sBarx [instT] 5).ctx? 1).map (fun c => (c.st, c.desc.exTimeout)) = some (.running, 1)) := by
  simp only [State.undivided, State.noStacks, State.runs, Group.noStack]
  and_intros <;> decide +kernel

/-- A lane with the operands of copies: source 0x2000, length 512 in x2, destination 0xFC…1000, object and status at 0xFC…2000. -/
def LCopy : List Lane := [laneX [(1, 0x2000), (2, 512), (3, 0xFC00000000001000), (4, 0xFC00000000000000), (6, 0xFD00000000002000),
  (7, 0xFC00000000003000), (8, 0xFD00000000001000), (10, 0x4000)]]

theorem wit_CopyWordsStart : (stT LCopy).single (groupT LCopy) (pathT LCopy) 0 ∧ guardHolds gd ((groupT LCopy).lane 0) = true ∧
    (pathT LCopy).part = [] ∧ (stT LCopy).eng.copies = [] ∧ bitsAt 512 0 32 ≠ 0 ∧ bitsAt 0 0 32 = 0 ∧
    copyTrap (stT LCopy) (groupT LCopy) 0 .get 512 0x2000 0xFC00000000001000 0 0 false false = none ∧
    (stT LCopy).rangeRoom (locOf (stT LCopy) (groupT LCopy) 0 0xFC00000000001000) = true ∧
    copyTrap (stT LCopy) (groupT LCopy) 0 .put 512 0xFC00000000000000 0x4000 0 0 false false = none ∧
    copyTrap (stT LCopy) (groupT LCopy) 0 .send 512 0xFC00000000000000 0xFD00000000001000 0xFD00000000002000 0xFC00000000003000 true
      false = none ∧
    copyTrap (stT LCopy) (groupT LCopy) 0 .senda 512 0xFC00000000000000 0xFD00000000001000 0xFD00000000002000 0xFC00000000003000 true
      true = none ∧
    copyTrap (stT LCopy) (groupT LCopy) 0 .sendv 512 0xFC00000000000000 0xFD00000000001000 0xFD00000000002000 0xFC00000000003000 true
      false = none ∧
    copyTrap (stT LCopy) (groupT LCopy) 0 .get 0 0x2000 0xFC00000000001000 0 0 false false = none ∧
    (let h := { groupT LCopy with paths := [{ pathT LCopy with part := [0] }] }
     (stGs [h]).undivided h { pathT LCopy with part := [0] } ∧ ({ pathT LCopy with part := [0] } : Path).lanes = [0]) := by
  simp only [State.single, State.undivided, State.runs, Group.noStack]
  and_intros <;> decide +kernel

/-- A copy command from the scratchpad of member 0 to 0x1000 of it. -/
def copyT (k : CopyKind) (f : CopyCmd → CopyCmd) : CopyCmd :=
  f { cid := 8, kind := k, ctx := 1, privS := false, gid := 3, lane := 0, site := ⟨0, 0⟩, pipe := 0, cls := 2, member := 0,
      src := .pad 2 0 0, dst := .pad 2 0 0x1000, srcVa := 0xFC00000000000000, dstVa := 0xFD00000000001000, len := 1024, obj := none,
      status := none, version := 0, op := .add, et := .i64, ordered := false, seq := 0, acq := false, rel := false, scope := .cl,
      job := 0, pts := 0, ranged := true, released := false, readChunks := [], payload := [], sent := [], done := [], held := 0 }
def sCopy (c : CopyCmd) (i : Nat) : State := { withPick (stT LP) [8, i] with eng := { Engines.empty with copies := [c] } }
def zeros512 : List Byte := List.replicate 512 0
def pairVal {ε α β : Type} (r : Except ε α × β) : Option α := match r.1 with | .ok a => some a | .error _ => none

theorem wit_CopySteps_order :
    (∀ k ∈ [CopyKind.put, .send, .senda, .sendv], (sCopy (copyT k id) 1).ownedFor 8 (.pad 2 0 512) 512 = false ∧
      (sCopy (copyT k id) 1).ownedFor 8 (.pad 2 0 0x1200) 512 = false ∧ (sCopy (copyT k id) 1).askedBefore (copyT k id) = false) ∧
    (sCopy (copyT .sendv id) 1).ownedFor 8 (.pad 2 0 0x2000) 16 = false ∧ (sCopy (copyT .sendv id) 1).arg 1 = 1 ∧
    (sCopy (copyT .sendv id) 0).arg 1 ≠ 1 ∧
    (sCopy (copyT .put (fun c => { c with dst := .glob 0x1000, obj := some (.glob 0x2000) })) 1).looseCounter
      (copyT .put (fun c => { c with dst := .glob 0x1000, obj := some (.glob 0x2000) })) = some 0x2000 ∧
    ({ sCopy (copyT .send id) 1 with pick := [8, 1, 1] } : State).arg 2 = 1 ∧ (copyT .send id).acq = false := by
  decide +kernel

theorem wit_CopySteps :
    (∀ k ∈ [CopyKind.send, .senda, .sendv], (sCopy (copyT k id) 1).arg 0 = 8 ∧
      (sCopy (copyT k id) 1).copy? 8 = some (copyT k id) ∧ (sCopy (copyT k id) 1).copyReady (copyT k id) = true ∧
      1 < (copyT k id).chunks ∧ (copyT k id).readChunks.contains 1 = false ∧
      pairVal ((sCopy (copyT k id) 1).engGather (copyT k id).actor ((copyT k id).src.plus (512 * 1)) 16 ((copyT k id).chunkLen 1 / 16)) =
        some zeros512) ∧
    ((copyT .send id).obj = none ∧ (copyT .send id).done.length + 1 < (copyT .send id).chunks ∧
      ((sCopy (copyT .send id) 1).engReach (copyT .send id).actor ((copyT .send id).dst.plus (512 * 1)) 512 needW).1 = none) ∧
    (let c := copyT .put (fun c => { c with obj := some (.pad 2 0 0x2000), done := [0], released := true, readChunks := [0] })
     let s := sCopy c 1
     s.copy? 8 = some c ∧ s.copyReady c = true ∧ (mresVal (s.engRead c.actor (.pad 2 0 0x2000) 8)).isSome = true ∧
      (s.engReach c.actor (.pad 2 0 0x2000) 8 needRW).1 = none ∧ c.chunks ≤ c.done.length + 1) ∧
    (let c := copyT .senda (fun c => { c with readChunks := [1], payload := [(1, zeros512)] })
     let s := sCopy c 1
     s.copy? 8 = some c ∧ c.payload.find? (fun x => x.1 == 1) = some (1, zeros512) ∧ s.applies c = true ∧ s.sentBefore c 1 = false ∧
      c.done.contains 1 = false ∧ s.sendaTurn c = true ∧ c.obj = none ∧ c.done.length + 1 < c.chunks) ∧
    (let c := copyT .sendv (fun c => { c with readChunks := [0, 1], payload := [(0, zeros512), (1, zeros512)],
                                              obj := some (.pad 2 0 0x2000), status := some (.pad 2 0 0x3000) })
     let s := sCopy c 0
     s.copy? 8 = some c ∧ c.obj = some (.pad 2 0 0x2000) ∧ c.status = some (.pad 2 0 0x3000) ∧ s.copyReady c = true ∧
      c.readChunks.length = c.chunks ∧ c.done = [] ∧ mresVal (s.engRead c.actor (.pad 2 0 0x2000) 8) = some (toBytes 8 0) ∧
      BitVec.ofNat 64 (fromBytes (toBytes 8 0)) = c.version ∧ BitVec.ofNat 64 (fromBytes (toBytes 8 0)) ≠ ({ c with version := 1 } : CopyCmd).version) ∧
    (let c := copyT .send (fun c => { c with ranged := false })
     let s := sCopy c 0
     s.copy? 8 = some c ∧ c.dst = .pad 2 0 0x1000 ∧ s.pad? 2 0 = some (padT 0) ∧ c.ranged = false ∧ s.ctxRuns c.ctx = true ∧
      (padT 0).incoming.length < 16) ∧
    (let c := copyT .send (fun c => { c with readChunks := [0, 1] })
     let s := sCopy c 0
     s.copy? 8 = some c ∧ c.released = false ∧ c.readChunks.length = c.chunks ∧ c.done.length < c.chunks ∧
      c.chunks ≤ ({ c with done := [0, 1] } : CopyCmd).done.length) := by
  and_intros <;> decide +kernel

/-! Rings. -/

/-- A ring of two stations on clusters 0 and 1, with slots of 1 KiB and a chart that names the pair (0, 0). -/
def ringT (f : Ring → Ring) : Ring :=
  f { ctx := 1, num := 5, st := 2, lslot := 10, laps := 3, gcode := 0, prio := 0, job := 1, task := 0x2000, miss := 0x2008, arg := 0,
      mlist := 0, mcap := 4, stations := [⟨2, ⟨0, 0⟩, 0, 0⟩, ⟨12, ⟨0, 1⟩, 0, 0⟩], chart := [1], ncw := 1, nccw := 1, tiles := [],
      encs := [], seenCw := [], seenCcw := [], injected := 0, retired := 0, encounters := 0, missed := 0, lost := 0, order := 4 }

/-- The classes of its stations: 16 scratchpads each. -/
def klassR (kid n : Nat) : Klass := { klassT 16 with kid := kid, launch := 20, linear := n, site := ⟨0, n⟩ }

/-- A state with a lane of class 0 and rings; the launch gives TSCRATCH in KiB. -/
def sR (rs : List (XReg × Word)) (rings : List Ring) (ts : Nat) (ks : List Klass) (cells : List Host.Cell) : State :=
  { stT [laneR rs] with
    ctxs := [{ bootCtx 1 with launches := [{ launchT with tscratch := ts }] }], classes := ks, rings := rings,
    jobs := [⟨1, 1, 20, [], [], 0, 0, 0, false, false⟩], mem := { MemSys.empty with hbm := bootCells ++ cells } }
where laneR (rs : List (XReg × Word)) : Lane := { laneX rs with origin := ⟨0, 1, 0, 20, true, 0⟩ }
def gR (rs : List (XReg × Word)) : Group := groupT [sR.laneR rs]
def pR (rs : List (XReg × Word)) : Path := pathT [sR.laneR rs]

/-- A descriptor at 0x1000 of ring 5 with the stations of classes 0 and 1; `x` is put into the first entry's reserved bits. -/
def descR (x : Byte) : List Host.Cell :=
  [(0x201000, 5), (0x201001, 2), (0x201002, 10), (0x201003, 3), (0x201006, 1)] ++ (if x = 0 then [] else [(0x20104C, x)]) ++
    [(0x201050, 1)]
def two : List Klass := [klassR 2 0, klassR 12 1]
def rattOf (s : State) : Option (Bool × Option (List StationDesc × Bool)) :=
  match s.load16s 3 0 0x1000 1 4 with
  | .ok us s1 =>
    let v := ofBytes (us.flatMap (bytesOf 16))
    let r := ringOf 1 v
    match s1.load16s 3 0 (0x1000 + 64) 1 (fieldAt v 8 8) with
    | .ok es _ => some (r.badHeader v (fieldAt v 8 8), some (es.map stationDesc, (es.map stationDesc).any (fun e => e.bad r.slotSize)))
    | _ => some (r.badHeader v (fieldAt v 8 8), none)
  | _ => none
def stationsR (s : State) : Option (List Station) := s.stationsOf (gR [(1, 0x1000)]) 0 [⟨0, 0, 0, 0, 0⟩, ⟨1, 0, 0, 0, 0⟩]
def okR (ks : List Klass) (ts : Nat) : State := sR [(1, 0x1000)] [] ts ks (descR 0)

def tileT (f : Tile → Tile) : Tile :=
  f { tid := 30, ccw := false, num := 0, len := 16, homest := 0, lap := 0, pins := 0, home := 0, doneBits := [], station := 0, slot := 0,
      resident := true, image := [], left := false, dwelling := false, arrivedAt := 0, order := 1, pts := 0, pending := none, missing := [], missDone := 0,
      issuer := none, held := 0 }
def tileU (f : Tile → Tile) : Tile := f (tileT (fun t => { t with tid := 31, ccw := true, slot := 8, order := 2 }))

theorem wit_RingWords :
    (∀ rs ∈ [[(1, 0x1000)], [(1, 5), (2, 5)], [(1, 16), (2, 0x10000)]],
      (sR rs [] 2 two []).runsOne (gR rs) (pR rs) gd 0 ∧ (sR rs [] 2 two []).single (gR rs) (pR rs) 0 ∧
      guardHolds gd ((gR rs).lane 0) = true ∧ ((gR rs).lane 0).wait = none) := by
  simp only [State.single, State.runsOne, State.undivided, State.runs, Group.noStack]
  decide +kernel

theorem wit_RingWords_attach :
    ((0x1000 : Word).toNat / 2 ^ 56 = 0 ∧ (0x1000 : Word).toNat % 64 = 0) ∧
    (rattOf (sR [(1, 0x1000)] [] 2 two []) = some (true, some ([], false)) ∧
      rattOf (sR [(1, 0x1000)] [] 2 two (descR 1)) = some (false, some ([⟨0, 0, 0, 0, 1⟩, ⟨1, 0, 0, 0, 0⟩], true)) ∧
      rattOf (okR two 2) = some (false, some ([⟨0, 0, 0, 0, 0⟩, ⟨1, 0, 0, 0, 0⟩], false))) ∧
    ((sR [(1, 0x1000)] [ringT id] 2 two (descR 0)).ring? 1 5 = some (ringT id) ∧ (okR two 2).ring? 1 5 = none ∧
      stationsR (okR [klassR 2 0] 2) = none ∧ stationsR (okR two 2) = some (ringT id).stations ∧
      (okR two 1).ringRoom (ringT id) (ringT id).stations = false ∧ (okR two 2).ringRoom (ringT id) (ringT id).stations = true) ∧
    (ringNum 16 = none ∧ ringNum 5 = some 5 ∧
      (sR [(1, 5)] [ringT (fun r => { r with injected := 1 })] 2 two []).ring? 1 5 = some (ringT (fun r => { r with injected := 1 })) ∧
      (ringT (fun r => { r with injected := 1 })).injected ≠ (ringT (fun r => { r with injected := 1 })).retired ∧
      (ringT id).injected = (ringT id).retired ∧ (ringT id).st ≠ 3 ∧ (sR [(1, 5)] [ringT id] 2 two []).noStacks) ∧
    ((0x1000 : Word).toNat % 32 = 0 ∧ bitsAt 0x10 4 4 ≠ 0 ∧ bitsAt 0x1000000 24 40 ≠ 0 ∧ bitsAt 5 4 4 = 0 ∧ bitsAt 5 24 40 = 0 ∧
      bitsAt 5 0 4 = 5 ∧ lresOk ((okR two 2).load16s 3 0 0x1000 1 (2 * (bitsAt 0x105 8 8 + 1))) = true) := by
  simp only [State.noStacks, Group.noStack]
  and_intros <;> decide +kernel

def WInj : Word := 0x0000000000500000
def inj (w len : Word) (rings : List Ring) : State := sR [(1, 0xFC00000000000000), (2, w), (4, len)] rings 2 two []
def gInj (w len : Word) : Group := gR [(1, 0xFC00000000000000), (2, w), (4, len)]

theorem wit_RingWords_injection :
    (inj WInj 16 []).ring? 1 (bitsAt WInj 20 4) = none ∧
    (inj (WInj + 0x20000) 16 [ringT id]).rinjCheck (gInj (WInj + 0x20000) 16) (WInj + 0x20000) 16 = .error 4 ∧
    (inj WInj 16 [ringT (fun r => { r with stations := [⟨12, ⟨0, 1⟩, 0, 0⟩] })]).rinjCheck (gInj WInj 16) WInj 16 = .error 3 ∧
    (inj WInj 0 [ringT id]).rinjCheck (gInj WInj 0) WInj 0 = .error 2 ∧
    (inj WInj 961 [ringT id]).rinjCheck (gInj WInj 961) WInj 961 = .error 2 ∧
    (inj WInj 16 [ringT (fun r => { r with seenCw := [0] })]).rinjCheck (gInj WInj 16) WInj 16 = .error 6 ∧
    (inj WInj 16 [ringT (fun r => { r with tiles := List.replicate 15 (tileT id) })]).rinjCheck (gInj WInj 16) WInj 16 = .error 5 ∧
    ((inj WInj 960 [ringT id]).runsOne (gInj WInj 960) (pR [(1, 0xFC00000000000000), (2, WInj), (4, 960)]) gd 0 ∧
      (inj WInj 960 [ringT id]).rinjCheck (gInj WInj 960) WInj 960 = .ok (ringT id, 0, 0) ∧ (gInj WInj 960).paths.all (·.part.isEmpty) = true ∧
      (inj WInj 960 [ringT id]).sourcesFull (gInj WInj 960) 0 = false ∧
      (0xFC00000000000000 : Word).toNat / 2 ^ 56 = 0xFC ∧
      (match resolve (inj WInj 960 [ringT id]) (gInj WInj 960) 0 0xFC00000000000000 960 16 with
        | .ok x => x | .error _ => .glob 0) = .pad 2 0 0 ∧
      (inj WInj 960 [ringT id]).loadHeld (.pad 2 0 0) 960 = false ∧
      (pairVal ((inj WInj 960 [ringT id]).engGather ⟨1, false, 0, ⟨0, 0⟩⟩ (.pad 2 0 0) 16 60)).isSome = true) := by
  simp only [State.runsOne, State.runs, Group.noStack]
  and_intros <;> decide +kernel

def encT : Encounter := ⟨0, 0, 0x0000500000000000, 30, 31, false⟩
def tagW : Word := 0x0000500000000000

theorem wit_RingWords_waits :
    (ringNum 5 = some 5 ∧ (ringT (fun r => { r with st := 3 })).st = 3 ∧
      (ringT (fun r => { r with injected := 2, retired := 2 })).st ≠ 3 ∧ (2 : Word).toNat ≤ 2 ∧
      (ringT (fun r => { r with injected := 2, retired := 1 })).retired < (2 : Word).toNat) ∧
    ((sR [(1, tagW)] [] 2 two []).undivided (gR [(1, tagW)]) (pR [(1, tagW)]) ∧
      (∀ r ∈ (sR [(1, tagW)] [] 2 two []).rings, r.ctx = 1 → r.num = fieldAt tagW.toNat 44 4 → ∀ e ∈ r.encs, e.tag ≠ tagW.toNat)) ∧
    (let r := ringT (fun r => { r with encs := [encT], tiles := [tileT (fun t => { t with pins := 1 }), tileU (fun t => { t with pins := 1 })] })
     (sR [(1, tagW)] [r] 2 two []).ring? 1 (fieldAt tagW.toNat 44 4) = some r ∧ r.encs = [encT] ∧ encT.tag = tagW.toNat ∧
      encT.cw ≠ encT.ccw ∧ r.tile? encT.cw = some (tileT (fun t => { t with pins := 1 })) ∧
      r.tile? encT.ccw = some (tileU (fun t => { t with pins := 1 })) ∧ ∀ u ∈ r.tiles, u.pending = none) := by
  simp only [State.undivided, State.runs, Group.noStack]
  and_intros <;> decide +kernel

/-- A state for the steps of a ring, with the operands of the step. -/
def sStep (r : Ring) (pick : List Nat) : State := { withPick (sR [] [r] 2 two []) pick with clk := 2048 }

theorem wit_RingSteps :
    (let t := tileT id
     let r := ringT (fun r => { r with tiles := [t] })
     let s := sStep r [1, 5, 30]
     s.ring? (s.arg 0) (s.arg 1) = some r ∧ s.noStacks ∧ r.tile? (s.arg 2) = some t ∧ r.st = 2 ∧ s.ctxRuns (s.arg 0) = true ∧
      r.mayLeave t = true ∧ t.arrivedAt < s.clk ∧ (∀ v ∈ r.tiles, v.station = t.station → v.ccw = t.ccw → r.mayLeave v = true → t.order ≤ v.order) ∧
      r.freeSlot (r.nextStation t) t.ccw = some 0 ∧ r.slotLoc t.station t.slot = some (.pad 2 0 0) ∧
      (pairVal (s.engGather (r.actor t.station) ((Loc.pad 2 0 0).plus 64) 16 (t.len / 16))).isSome = true) ∧
    (let t := tileT (fun t => { t with resident := false, image := List.replicate 16 1, left := true, station := 1 })
     let r := ringT (fun r => { r with tiles := [t] })
     let s := sStep r [1, 5, 30]
     r.tile? 30 = some t ∧ s.pick.drop 3 = [] ∧ r.st = 2 ∧ s.ringMoves 1 true = true ∧ t.held = 0 ∧ t.resident = false ∧
      r.slotLoc t.station t.slot = some (.pad 12 0 0) ∧ t.ccw = decide (8 ≤ t.slot) ∧ t.station ≠ t.homest ∧
      ∀ v ∈ r.tiles, v.tid ≠ t.tid → v.resident = true → v.station ≠ t.station) ∧
    (let t := tileT (fun t => { t with resident := false, image := List.replicate 16 1, left := true })
     let u := tileU id
     let r := ringT (fun r => { r with tiles := [u, t] })
     let s := sStep r [1, 5, 30]
     s.rings = [r] ∧ s.ringMoves 1 true = true ∧ r.tile? 30 = some t ∧ r.encs = [] ∧ u.tid ≠ t.tid ∧ u.resident = true ∧ u.station = t.station ∧ u.arrivedAt ≠ s.clk ∧
      t.ccw = false ∧ u.ccw = true ∧ 8 ≤ u.slot ∧ u.slot < 16 ∧ r.named t.num u.num = true ∧ u.num ∉ t.doneBits ∧
      t.num ∉ u.doneBits ∧ (if t.station = t.homest && t.left then t.lap + 1 else t.lap) ≠ r.laps) ∧
    (let t := tileT (fun t => { t with dwelling := true })
     let r := ringT (fun r => { r with tiles := [t] })
     r.tile? 30 = some t ∧ t.resident = true ∧ t.dwelling = true ∧ t.arrivedAt + 2048 ≤ (sStep r [1, 5, 30]).clk) ∧
    (let t := tileT (fun t => { t with doneBits := [0] })
     let r := ringT (fun r => { r with tiles := [t] })
     r.tile? 30 = some t ∧ t.resident = true ∧ t.pins = 0 ∧ t.pending = none ∧ t.missing = [] ∧ r.covered t = true ∧
      t.arrivedAt < (sStep r [1, 5, 30]).clk) := by
  simp only [State.noStacks, Group.noStack]
  and_intros <;> decide +kernel

/-- The group that an encounter's record started, not yet begun. -/
def gEnc : Group := { groupT [{ laneX [] with origin := ⟨1, 1, 0, 20, true, encT.tag + 1⟩ }] with gid := 40, cls := 41, started := false }

theorem wit_RingSteps_images :
    (let r := ringT (fun r => { r with encs := [encT], tiles := [tileT id, tileU id] })
     let s := { sStep r [1, 5, encT.tag] with groups := [gEnc] }
     r.encs.find? (fun y => y.tag == s.arg 2 && !y.copied) = some encT ∧
      s.groups.find? (fun y => y.ctx == s.arg 0 && !y.started && (y.lane 0).origin.tag == encT.tag + 1) = some gEnc ∧
      r.tile? encT.cw = some (tileT id) ∧ r.tile? encT.ccw = some (tileU id) ∧ s.ctxRuns (s.arg 0) = true ∧
      r.slotLoc encT.station (tileT id).slot = some (.pad 2 0 0) ∧ r.slotLoc encT.station (tileU id).slot = some (.pad 2 8 0) ∧
      (pairVal (s.engGather (r.actor 0) (.pad 2 0 0) 16 (r.slotSize / 16))).isSome = true ∧
      (pairVal ((s.engGather (r.actor 0) (.pad 2 0 0) 16 (r.slotSize / 16)).2.engGather (r.actor 0) (.pad 2 8 0) 16
        (r.slotSize / 16))).isSome = true) ∧
    (let s := { sStep (ringT id) [1, 5] with classes := two ++ [{ klassR 41 2 with pads := [padT 0] }] }
     10 ≤ (ringT id).lslot ∧ s.pad? gEnc.cls 0 = some (padT 0) ∧ 2 * (ringT id).slotSize ≤ (padT 0).size ∧ cellsWf (padT 0).bytes = true) ∧
    ((ringT (fun r => { r with st := 3 })).st = 3 ∧
      (let s := { sStep (ringT id) [1, 5] with classes := [klassR 2 0] }
       (∃ y ∈ (ringT id).stations, (s.klass? y.kid).any (·.live) = false) ∧ (s.ctx? (s.arg 0)).map (·.saved) = some none)) := by
  and_intros <;> decide +kernel

/-! Jobs, events, queues, placement. -/

def jobT (f : Job → Job) : Job := f ⟨1, 1, 20, [], [], 0, 0, 0, false, false⟩

/-- A state with a lane of the launch's class 0 and job 1. -/
def sJ (rs : List (XReg × Word)) (j : Job) (left : Nat) : State :=
  { stT [sR.laneR rs] with
    ctxs := [{ bootCtx 1 with launches := [{ launchT with left := left }] }], classes := [klassR 2 0], jobs := [j] }

/-- A lane parked in QUIET of job 1 at scope .cl. -/
def waitQ : Wait := ⟨.quiet 1 2, 5, some 1000, 0, false⟩
def LQ : List Lane := [{ sR.laneR [] with wait := some waitQ }]
def sQ (j : Job) (pick : List Nat) : State :=
  withPick { sJ [] j 1 with groups := [groupT LQ], roll := ⟨4, true, 0⟩ } pick

theorem wit_JobsAndQuiescence :
    (∀ rs ∈ [[(1, 1), (2, 0xFC00000000000000)], [(1, 2), (2, 0)], [(1, 64), (2, 5)]], ∀ j ∈ [jobT id, jobT (fun j => { j with loss := [[1, 2, 3, 4]] })],
      (sJ rs j 1).runsOne (gR rs) (pR rs) gd 0 ∧ (sJ rs j 1).undivided (gR rs) (pR rs)) ∧
    ((sJ [] (jobT id) 1).jobOf 1 2 = none ∧ (sJ [] (jobT id) 1).jobOf 1 64 = none ∧ (sJ [] (jobT id) 1).jobOf 1 1 = some (jobT id) ∧
      padAddress (sJ [(2, 0xFC00000000000000)] (jobT id) 1) (gR [(2, 0xFC00000000000000)]) 0 0xFC00000000000000 32 = none ∧
      lresOk ((sJ [(2, 0xFC00000000000000)] (jobT id) 1).store16s 3 0 0xFC00000000000000 (units16 [1, 2, 3, 4])) = true ∧
      (sJ [] (jobT (fun j => { j with quietPkg := true })) 0).jobBusy 1 1 = false ∧ (sJ [] (jobT id) 1).jobBusy 1 1 = true) ∧
    (∀ pick ∈ [[3], [0]], (sQ (jobT id) pick).noStacks ∧ (sQ (jobT id) pick).group? 3 = some (groupT LQ) ∧
      ((groupT LQ).lane 0).wait = some waitQ ∧ 0 < (groupT LQ).size ∧ (1000 : Nat) ≤ (sQ (jobT id) pick).clk ∧
      (sQ (jobT id) pick).roll.pass1 = true ∧ (sQ (jobT id) pick).groups = [groupT LQ] ∧ (groupT LQ).quietOn = some (1, 2) ∧
      ((sQ (jobT id) pick).ctx? 1).any (fun c => c.st == .running) = true ∧ (sQ (jobT id) pick).job? 1 1 = some (jobT id)) ∧
    ((sJ [] (jobT id) 1).roll.since + 1800 * (sJ [] (jobT id) 1).roll.period ≤ { sJ [] (jobT id) 1 with clk := 7200 }.clk ∧
      (sQ (jobT id) [3]).quietAt (jobT id) 2 ⟨0, 0⟩ = true ∧
      (sQ (jobT id) [3]).quietAt (jobT (fun j => { j with counts := [⟨.cni 0 0, 2, 1, 2, 1, false⟩] })) 2 ⟨0, 0⟩ = false ∧
      (sJ [] (jobT id) 1).roll.pass1 = false) := by
  simp only [State.undivided, State.runsOne, State.noStacks, State.runs, Group.noStack]
  and_intros <;> decide +kernel

def bankT (f : Bank → Bank) : Bank :=
  f ⟨0, 0, 2, ⟨0, 0⟩, 1, 1, 10, 10, [], [], 0, 0, 0, 0, 0, none⟩
def unitT : EvUnit := ⟨⟨0, 0⟩, 1, [(3, ⟨0, 2, 0, 0, 2, 0, 0x2000, 0⟩)]⟩
def sE (rs : List (XReg × Word)) (bs : List Bank) (us : List EvUnit) : State := { sJ rs (jobT id) 1 with banks := bs, units := us }
def evBits (tick job : Nat) : BitVec 128 := eventBits (3 + 2 ^ 12 * 2) tick 0 job

theorem wit_EventWords :
    (sE [(1, 2), (2, 0x500000001)] [] []).runsOne (gR [(1, 2), (2, 0x500000001)]) (pR [(1, 2), (2, 0x500000001)]) gd 0 ∧
    (bitsAt 4 2 62 ≠ 0 ∧ bitsAt 0x40 6 26 ≠ 0 ∧ (sE [] [] []).jobOpen 1 0 = false ∧ bitsAt 3 2 62 = 0 ∧ bitsAt 0x500000001 6 26 = 0 ∧
      (sE [] [] []).jobOpen 1 (bitsAt 0x500000001 0 6) = true) ∧
    (((sE [] [] [⟨⟨0, 0⟩, 7, []⟩]).unit? ⟨0, 0⟩).any (fun u => u.ctx != 1) = true ∧
      ((sE [] [] []).unit? ⟨0, 0⟩).any (fun u => u.ctx != 1) = false ∧ (sE [] [] []).bankAt? ⟨0, 0⟩ 2 = none ∧
      (sE [] [] []).bankHome? 1 ⟨0, 0⟩ 2 = none ∧ ((sE [] [bankT id] [unitT]).bankAt? ⟨0, 0⟩ 2).isSome = true) ∧
    ((sE [] [] []).ownBank (gR []) 2 = none ∧ (sE [] [bankT id] [unitT]).ownBank (gR []) 2 = some (bankT id) ∧
      (bankT (fun b => { b with queue := [⟨evBits 0 1, 1, 5, false, 0, none, none⟩] })).queue ≠ [] ∧
      (sE [] [bankT id] [unitT]).spilledOf (bankT id) = [] ∧ (bankT id).queue = [] ∧ (bankT id).emit = none) ∧
    (bitsAt 63 6 58 = 0 ∧ bitsAt 64 6 58 ≠ 0 ∧ lresOk ((sE [] [] [unitT]).load16s 3 0 0xFC00000000000000 1 2) = true ∧
      (match resolve (sE [] [] [unitT]) (gR []) 0 0xFC00000000000000 32 32 with | .ok x => some x | .error _ => none) = some (.pad 2 0 0) ∧
      psetOf 0 = some ⟨0, 0, 0, 0, 0, 0, 0, 0⟩ ∧ psetOf (3 * 2 ^ 96) = none ∧ ((sE [] [] [unitT]).unit? ⟨0, 0⟩).any (fun u => u.ctx == 1) = true) ∧
    (bitsAt 0x2FFF 14 50 = 0 ∧ (sE [] [bankT id] [unitT]).ownBank (gR []) (bitsAt 0x2FFF 12 2) = some (bankT id) ∧
      accAddress (sE [] [bankT id] [unitT]) (gR []) 0 0xFC00000000000000 64 = none ∧
      accAddress (sE [] [bankT id] [unitT]) (gR []) 0 0xFC00000000000000 16 = none ∧ bitsAt 0x2FFF 0 12 + 1 ≤ 4096 ∧
      lresOk ((sE [] [bankT id] [unitT]).store16s 3 0 0xFC00000000000000 (units16 ((sE [] [] []).bankStatus (bankT id)))) = true ∧
      lresOk ((sE [] [bankT id] [unitT]).store16s 3 0 0xFC00000000000000 [((bankT id).acc 4095).image]) = true ∧
      lresOk ((sE [] [bankT id] [unitT]).load16s 3 0 0xFC00000000000000 1 1) = true) := by
  simp only [State.runsOne, State.runs, Group.noStack]
  and_intros <;> decide +kernel

/-- The state with an MCL port up and a route to package 1. -/
def sEd : State :=
  let p : Port := { Port.down 7 with st := .up, lanes := 4, mcl := true }
  let s := sE [] [] []
  { s with link := { s.link with ports := [p], routes := [(1, [7])] } }

theorem wit_EventWords_events :
    (eventReserved (2 ^ 29) = true ∧ eventReserved (evBits 5 1).toNat = false ∧
      (let e : QEvent := ⟨evBits 5 1, 1, 0, false, 0, some (3, 0), some ⟨0, 0⟩⟩
       (sE [] [] []).jobOpen 1 e.job = true ∧ e.pkg = (sE [] [] []).pkgIndex) ∧
      (sE [] [] []).inDomain 1 = false ∧ sEd.inDomain 1 = true ∧ (gR []).paths.all (·.part.isEmpty) = true ∧ (sE [] [] []).banksAway 1 .sys = false ∧
      (sE [] [] []).jobOpen 1 (⟨evBits 5 2, 1, 0, false, 0, some (3, 0), some ⟨0, 0⟩⟩ : QEvent).job = false) ∧
    (bitsAt 1 6 58 = 0 ∧ bitsAt 0xFFFFFFFF 32 32 = 0 ∧ bitsAt 64 6 58 ≠ 0 ∧ bitsAt 0x100000000 32 32 ≠ 0 ∧
      (sE [] [] []).banks.filter (fun k => k.ctx == 1 && k.job == 1 && k.within .cl ⟨0, 0⟩) = [] ∧
      (sE [] [bankT id] [unitT]).banks.filter (fun k => k.ctx == 1 && k.job == 1 && k.within .cl ⟨0, 0⟩) = [bankT id]) := by
  and_intros <;> decide +kernel

def evT (tick : Nat) : QEvent := ⟨evBits tick 1, 1, 5, false, 0, none, some ⟨0, 0⟩⟩
def sEv (b : Bank) (es : List QEvent) (pick : List Nat) : State :=
  withPick { sE [] [b] [unitT] with eng := { Engines.empty with events := es } } pick
def accEn (v : Nat) : Acc := ⟨0, 0, true, 3, 0, v, 0⟩
def emitT (a : Nat) : Emission := ⟨3, 5, 0, a, 0x2000, 0, 0, none, 0, 0⟩

theorem wit_EventSteps :
    (∀ tick ∈ [9, 10], (sEv (bankT id) [evT tick] [5]).arg 0 ≠ 0 ∧
      (sEv (bankT id) [evT tick] [5]).eng.events.find? (fun y => y.arr == (sEv (bankT id) [evT tick] [5]).arg 0) = some (evT tick) ∧
      (sEv (bankT id) [evT tick] [5]).ctxTakes 1 = true ∧ (sEv (bankT id) [evT tick] [5]).eventWaits (evT tick) = false ∧
      (sEv (bankT id) [evT tick] [5]).bankAwaited (evT tick) = false ∧
      (sEv (bankT id) [evT tick] [5]).bankHome? 1 (evT tick).home (evT tick).bankNum = some (bankT id) ∧
      (bankT id).job = (evT tick).job ∧ (bankT id).queue.length < 1024) ∧
    ((bankT id).frontier ≤ (evT 10).tick ∧ (evT 9).tick < (bankT id).frontier) ∧
    (∀ v ∈ [[], [(3, accEn 0x40000000)]],
      let b := bankT (fun b => { b with queue := [evT 9], accs := v })
      (sEv b [] [1, 0, 0, 2]).argBank = some b ∧ (sEv b [] [1, 0, 0, 2]).ctxRuns b.ctx = true ∧ b.emit = none ∧
      b.next = some (evT 9) ∧ (b.acc (evT 9).index).en = !v.isEmpty) ∧
    (∀ a ∈ [1, 2],
      let b := bankT (fun b => { b with emit := some (emitT a) })
      (sEv b [] [1, 0, 0, 2]).argBank = some b ∧ (sEv b [] [1, 0, 0, 2]).ctxRuns b.ctx = true ∧ b.emit = some (emitT a) ∧
      (emitT a).held = 0 ∧ (emitT a).action = a ∧ (emitT a).list = none ∧
      (sEv b [] [1, 0, 0, 2]).cutOff b.ctx (0x2000 + 8 * (4096 * 2 + 3)) = false) ∧
    (let b := bankT (fun b => { b with emit := some (emitT 1) })
     mresVal ((sEv b [] [1, 0, 0, 2]).engRead ⟨1, false, 0, ⟨0, 0⟩⟩ (.glob (0x2000 + 8 * (4096 * 2 + 3))) 8) = some (toBytes 8 0) ∧
      fieldAt (fromBytes (toBytes 8 0)) 0 48 % 16 = 0) := by
  and_intros <;> decide +kernel

/-- A bank whose queue is full, in a context whose husk has slots; and the same event for a bank that nothing holds. -/
def sSpill (n : Nat) : State :=
  let b := bankT (fun b => { b with queue := List.replicate n (evT 12) })
  let s := sEv b [evT 11] [5]
  { s with ctxs := s.ctxs.map (fun c => { c with desc := { c.desc with husk := 0x300000, huskSize := 2 ^ 21 } }) }

theorem wit_EventSteps_full :
    (let s := sSpill 1024
     let b := bankT (fun b => { b with queue := List.replicate 1024 (evT 12) })
     s.bankHome? 1 (evT 11).home (evT 11).bankNum = some b ∧ b.job = (evT 11).job ∧ 1024 ≤ b.queue.length ∧ b.frontier ≤ (evT 11).tick ∧
      (s.ctx? 1).any (fun c => !s.mem.poisoned (c.huskPart b.site) 8 && c.nslot != 0 &&
        !s.slotHeld 1 b.site ((s.physRead (c.huskPart b.site) 8).1 % c.nslot)) = true) := by
  decide +kernel

theorem wit_EventSteps_rejected :
    let s := { sSpill 0 with banks := [] }
    s.bankHome? 1 (evT 11).home (evT 11).bankNum = none ∧ s.eventWaits (evT 11) = false ∧ s.bankAwaited (evT 11) = false ∧
      s.ctxTakes 1 = true ∧ (s.ctx? 1).any (fun c => !s.mem.poisoned (c.rejectsPa (evT 11).home) 4) = true := by
  decide +kernel

/-- The bank's fan-out list at 0x4000 with this first entry: index 3 of bank 2, this delay and this job. -/
def sFan (delay job : Byte) : State :=
  let m : Emission := { emitT 1 with list := some (0x4000, 2) }
  let s := sEv (bankT (fun b => { b with emit := some m, cluster := 1, site := ⟨0, 1⟩ })) [] [1, 0, 1, 2]
  let cells : List Host.Cell := [(0x204000, 3), (0x204001, 0x20)] ++ (if delay = 0 then [] else [(0x204004, delay)]) ++
    (if job = 0 then [] else [(0x20400C, job)])
  { s with mem := { MemSys.empty with hbm := bootCells ++ cells } }

theorem wit_EventSteps_fanOut : ([((0, 0) : Byte × Byte), (1, 0), (1, 1)].all (fun x =>
    let s := sFan x.1 x.2
    let n := 3 + 2 ^ 13 + 2 ^ 32 * x.1.toNat + 2 ^ 96 * x.2.toNat
    s.argBank.map (fun b => (b.emit.map (fun m => (m.held, m.action, m.list)), b.dropped)) == some (some (0, 1, some (0x4000, 2)), 0) &&
      s.ctxRuns 1 && !s.cutOff 1 0x4000 && (mresVal (s.engRead ⟨1, false, 0, ⟨0, 1⟩⟩ (.glob 0x4000) 16)).map fromBytes == some n &&
      !eventReserved n && (decide (fieldAt n 32 32 = 0) || decide (fieldAt n 96 6 ≠ 0) || x == (1, 0)) &&
      s.inDomain (fieldAt n 21 8) && fieldAt n 21 8 == s.pkgIndex && fieldAt n 18 3 == 0 && fieldAt n 14 4 == 0 &&
      (s.bankHome? 1 ⟨0, 0⟩ (fieldAt n 12 2)).isNone)) = true := by
  decide +kernel

/-- A record for the task at 0x2000 of job 1. -/
def recT (f : TaskRec → TaskRec) : TaskRec :=
  f { words := [0x2000, 0x0001000000000000, 7, 0, 0, 0, 0, 0], ctx := 1, pts := 3, idStage := 0, idLogical := 0, mail := none, fault := false,
      tag := 0, site := ⟨0, 0⟩, seq := 5, issuer := some (3, 0), src := some ⟨0, 0⟩ }
def mailT : TaskRec := recT (fun r => { r with mail := some (20, 0) })
def trayT (f : Tray → Tray) : Tray := f ⟨⟨0, 0⟩, 2, 1, 0x2000, 4, 100, [], 0, false⟩
/-- A state with a lane's registers and the queues of the engines, on a platform that is ready, with a shell of 16 MiB. -/
def sQ7 (rs : List (XReg × Word)) (f : Engines → Engines) (pick : List Nat) : State :=
  withPick { sJ rs (jobT id) 1 with
    eng := f Engines.empty, plat := { State.reset.plat with ready := true, clusters := [⟨0, 0⟩, ⟨0, 1⟩] },
    ctxs := [{ bootCtx 1 with launches := [launchT], desc := { (bootCtx 1).desc with shellSize := 2 ^ 24, husk := 0x300000 } }] } pick
def g7 (rs : List (XReg × Word)) : Group := gR rs
def scr : Word := 0xFC00000000000000

theorem wit_QueueWords :
    (∀ rs ∈ [[], [(1, scr)], [(1, scr), (2, 127)], [(1, 0x00640102), (2, 0x2000)], [(1, 0x00010102), (2, 8)]],
      (sQ7 rs id []).runsOne (gR rs) (pR rs) gd 0 ∧ (pR rs).part = []) ∧
    (scr.toNat % 64 = 0 ∧ bitsAt 0x80 7 55 ≠ 0 ∧ bitsAt (0x80 : Word) 62 2 = 0 ∧ bitsAt 0xC000000000000000 62 2 = 3 ∧
      bitsAt 0x4000000000000004 2 60 ≠ 0 ∧ bitsAt 0x4000000000000004 62 2 = 1 ∧ bitsAt 0x8040000000000000 54 8 ≠ 0 ∧
      bitsAt 0x8040000000000000 62 2 = 2) ∧
    ((sQ7 [] id []).postTarget (gR []) 0 127 = .to_ ⟨7, 15⟩ none ∧ (sQ7 [] id []).frontRoom 1 ⟨7, 15⟩ none = true ∧
      (sQ7 [] id []).postTarget (gR []) 0 0x8000000000000001 = .to_ ⟨0, 0⟩ (some (20, 1)) ∧
      (sQ7 [] id []).frontRoom 1 ⟨0, 0⟩ (some (20, 1)) = true ∧ lresOk ((sQ7 [] id []).load16s 3 0 scr 1 4) = true) ∧
    (bitsAt 0x12 4 4 ≠ 0 ∧ bitsAt 0x00640502 8 3 = 5 ∧ bitsAt 0x00640402 8 3 = 4 ∧ bitsAt 0x102 16 16 = 0 ∧ bitsAt 0x00640102 4 4 = 0 ∧
      bitsAt 0x00640102 11 5 = 0 ∧ bitsAt 0x00640102 32 32 = 0 ∧ (0x2000 : Word).toNat % 8 = 0) ∧
    (let t := trayT (fun t => { t with ctx := 7 })
     let u := trayT (fun t => { t with recs := [recT id] })
     let v := trayT (fun t => { t with num := 3 })
     let find (s : State) : Option Tray := s.eng.trays.find? (fun x => x.site == (gR []).site && x.num == 2)
     find (sQ7 [] (fun e => { e with trays := [t] }) []) = some t ∧ t.ctx ≠ 1 ∧
      find (sQ7 [] (fun e => { e with trays := [u] }) []) = some u ∧ u.recs ≠ [] ∧ find (sQ7 [] id []) = none ∧
      (sQ7 [] (fun e => { e with trays := [v] }) []).eng.trays = [v] ∧ v.num ≠ 2 ∧ v.key = 0x2000 ∧ v.key ≠ 0x2008) ∧
    (padAddress (sQ7 [] id []) (gR []) 0 scr 64 = none ∧ bitsAt 16 4 60 ≠ 0 ∧ bitsAt 15 4 60 = 0 ∧
      (sQ7 [] id []).klass? (gR []).cls = some (klassR 2 0) ∧ pickMail 0 ((sQ7 [] id []).mailbox (klassR 2 0)) = none) ∧
    (let s := sQ7 [(1, scr)] (fun e => { e with inbox := [mailT] }) []
     pickMail 0 (s.mailbox (klassR 2 0)) = some ⟨mailT, none⟩ ∧ s.malformed mailT = false ∧
      lresOk ((s.modLane 3 0 (fun y => { y with pts := max y.pts mailT.pts })).store16s 3 0 scr (units16 mailT.words)) = true) := by
  simp only [State.runsOne, State.runs, Group.noStack]
  and_intros <;> decide +kernel

def spillT : Spill := ⟨.rec_ (recT id), 1, ⟨0, 0⟩, 0, 5⟩

theorem wit_RecordsMove :
    (let s := sQ7 [] (fun e => { e with flights := [recT id] }) [5]
     s.noStacks ∧ (recT id).fault = false ∧ s.flightWaits (recT id) = false ∧ s.backOwed (recT id) = false ∧ s.eng.flights.find? (fun y => y.seq == s.arg 0) = some (recT id) ∧ s.ctxTakes 1 = true ∧
      (s.ctx? 1).any (fun c => !s.mem.poisoned (c.rejectsPa ⟨0, 0⟩) 4) = true ∧ (s.spilledHere 1 ⟨0, 0⟩).isEmpty = true ∧
      s.entryFree (recT id) = true ∧ s.classPlace 1 20 1 = .ended ∧ s.classPlace 1 20 0 = .placed ⟨0, 0⟩) ∧
    (let s := sQ7 [] (fun e => { e with flights := [mailT] }) [5]
     s.eng.flights.find? (fun y => y.seq == s.arg 0) = some mailT ∧ s.flightWaits mailT = false ∧ s.backOwed mailT = false ∧
      s.frontHolds 1 mailT.mail = false ∧ (s.spilledHere 1 ⟨0, 0⟩).isEmpty = true ∧ s.entryFree mailT = true) ∧
    (let s := sQ7 [] (fun e => { e with front := [mailT] }) [5]
     s.eng.front.find? (fun y => y.seq == s.arg 0) = some mailT ∧
      s.eng.front.find? (fun y => y.mail == mailT.mail && y.ctx == mailT.ctx) = some mailT) ∧
    (let s := sQ7 [] (fun e => { e with spill := [spillT] }) [0, 0, 0]
     (sortBy (fun y => y.seq) (s.eng.spill.filter (fun y =>
        y.site == ⟨s.arg 0, s.arg 1⟩ && !y.isEvent && s.ctxTakes y.ctx && !(s.ctx? y.ctx).any (fun c => c.saved.isSome)))).head? = some spillT ∧ spillT.item = .rec_ (recT id) ∧
      (s.ctx? 1).any (fun c => (s.slotBad? c spillT).isNone && c.efs.isEmpty) = true ∧ s.sharedUsed ⟨0, 0⟩ < 60) := by
  simp only [State.noStacks, Group.noStack]
  and_intros <;> decide +kernel

def badT : TaskRec := recT (fun r => { r with words := r.words.set 1 0 })

theorem wit_RecordsMove_dispatch :
    ((sQ7 [] (fun e => { e with inbox := [badT] }) [0, 0]).candidates ⟨0, 0⟩ = [.one badT] ∧
      (sQ7 [] (fun e => { e with inbox := [badT] }) [0, 0]).malformed badT = true) ∧
    (let s := sQ7 [] (fun e => { e with inbox := [recT id], trays := [trayT id] }) [0, 0]
     s.candidates ⟨0, 0⟩ = [.one (recT id)] ∧ s.malformed (recT id) = false ∧ s.trayOf? (recT id) = some (trayT id) ∧
      (trayT id).closed s.clk = false) ∧
    (let s := sQ7 [] (fun e => { e with inbox := [recT id] }) [0, 0]
     s.candidates ⟨0, 0⟩ = [.one (recT id)] ∧ s.malformed (recT id) = false ∧ s.trayOf? (recT id) = none ∧
      s.tooLarge (recT id) = false ∧ s.recTurn ⟨0, 0⟩ = true ∧ (recFields (recT id).words).excl = false ∧
      ((s.takeInbox (recT id)).grantHere 1 ⟨0, 0⟩ (s.recScratch [recT id]) [(recT id).size]).isSome = true) ∧
    (let s := { sQ7 [] (fun e => { e with inbox := [recT id] }) [0, 0] with ctxs := [{ bootCtx 1 with launches := [launchT] }] }
     s.candidates ⟨0, 0⟩ = [.one (recT id)] ∧ s.tooLarge (recT id) = true) ∧
    (let t := trayT (fun t => { t with recs := [recT id], deadline := 1000 })
     let s := sQ7 [] (fun e => { e with trays := [t] }) [0, 0, 2]
     s.eng.trays.find? (fun u => u.site == ⟨s.arg 0, s.arg 1⟩ && u.num == s.arg 2) = some t ∧ t.recs ≠ [] ∧ t.deadline ≤ s.clk ∧
      s.mayPlace 1 = true) := by
  and_intros <;> decide +kernel

def decT (launch : Bool) : Decrement := ⟨6, launch, 1, 0x2000, 3, 0, 0⟩
def launchP : Launch := { launchT with unplaced := [1] }
def sPl (pick : List Nat) : State :=
  { sQ7 [] id pick with ctxs := [{ bootCtx 1 with launches := [launchP], desc := { (bootCtx 1).desc with shellSize := 2 ^ 24 } }] }
def gNew : Group := { gR [] with started := false }

theorem wit_PlacementAndCounters :
    ((sPl [0, 1, 20, 0]).mayPlace 1 = true ∧ launchP.waiting = false ∧
      ((sPl [0, 1, 20, 0]).ctx? 1).bind (fun c => c.launch? 20) = some launchP ∧
      (sortNat (launchP.unplaced.filter (fun n => launchP.dieOf n == (sPl [0, 1, 20, 0]).arg 3))).head? = some 1 ∧
      ((sPl []).grantOnDie 1 0 launchP.scratch (List.replicate launchP.gpc launchP.gsize)).any (fun x => (sPl []).classTurn x.1) = true) ∧
    (let t := trayT (fun t => { t with recs := [recT id], full := true })
     let s := sQ7 [] (fun e => { e with trays := [t] }) [1, 0, 0, 2]
     s.headCand ⟨0, 0⟩ = some (.tray t) ∧ t.num = s.arg 3 ∧ s.recTurn ⟨0, 0⟩ = true ∧ (s.startCand ⟨0, 0⟩ (.tray t)).isSome = true) ∧
    (let s := { sQ7 [] id [2] with groups := [gNew] }
     s.klass? (s.arg 0) = some (klassR 2 0) ∧ s.mayPlace (klassR 2 0).ctx = true ∧ s.groups = [gNew] ∧ gNew.cls = 2 ∧ gNew.started = false ∧
      s.imagesOwed gNew = false ∧ s.boundaryOwed (klassR 2 0) = false) ∧
    (∀ launch ∈ [true, false],
      let s := sQ7 [] (fun e => { e with decrements := [decT launch] }) [6]
      s.eng.decrements.find? (fun y => y.idx == s.arg 0 && y.launch == launch) = some (decT launch) ∧ s.ctxRuns 1 = true ∧ (decT launch).held = 0 ∧
        s.cutOff 1 0x2000 = false ∧
        mresVal (s.engTranslate ⟨1, false, 3, ⟨0, 0⟩⟩ 0x2000 needRW) = some 0x202000 ∧
        mresVal ((s.engTranslate ⟨1, false, 3, ⟨0, 0⟩⟩ 0x2000 needRW).2.engRead ⟨1, false, 3, ⟨0, 0⟩⟩ (.glob 0x2000) 8) = some (toBytes 8 0)) := by
  and_intros <;> decide +kernel

/-! Contexts, commands, launches. -/

/-- Context 1 changed, without groups or classes, on a ready platform: function 0 holds all memory and has commands in ring 0. -/
def sC (f : Ctx → Ctx) (pick : List Nat) : State :=
  withPick { State.reset with
    clk := 1000, nextId := 10, ctxs := [f (bootCtx 1)], mem := { MemSys.empty with hbm := bootCells },
    plat := { State.reset.plat with ready := true, dies := [0], clusters := [⟨0, 0⟩, ⟨0, 1⟩] },
    link := { State.reset.link with funcs := [⟨0, 0, 2 ^ 36, 16, [⟨0, 0, 16, 3, 4⟩]⟩, ⟨2, 0, 2 ^ 36, 16, [⟨0, 0, 16, 3, 4⟩]⟩] } } pick
def cC (f : Ctx → Ctx) : Ctx := f (bootCtx 1)
/-- The word of a command record that names the command and context 1 (19 R447). -/
def cmdW (code : Nat) : Nat := code + 0x10000

theorem wit_LifeSteps :
    ((sC id [1]).ctx? ((sC id [1]).arg 0) = some (cC id) ∧ (cC id).st = .running ∧ (cC id).viol = false ∧ (cC id).stopAt = none ∧
      (sC id [1]).workLeft 1 = false) ∧
    (∀ st ∈ [CtxState.running, .resident, .preempting], ∀ sv ∈ [none, some Saved.none_],
      let f (c : Ctx) : Ctx := { c with viol := true, st := st, saved := sv }
      (sC f [1]).ctx? 1 = some (cC f) ∧ (cC f).viol = true) ∧
    (let f (c : Ctx) : Ctx := { c with stopAt := some 900, st := .preempting }
     let s := { sC f [1] with clk := 361000 }
     s.ctx? 1 = some (cC f) ∧ 900 + 3600 * (cC f).desc.saveDl + (cC f).saveWait < s.clk) ∧
    (let f (c : Ctx) : Ctx := { c with st := .killed }
     (sC f [1]).ctx? ((sC f [1]).arg 0) = some (cC f) ∧ (cC f).st = .killed) ∧
    (let f (c : Ctx) : Ctx := { c with stopAt := some 900, st := .preempting }
     (sC f [1]).ctx? 1 = some (cC f) ∧ (sC f [1]).plat.displaced.contains 1 = false ∧ (sC f [1]).boundaryReady 1 = true ∧ (cC f).boundary = false ∧
      900 + 3600 * (cC f).desc.saveDl + (cC f).saveWait = 360900) ∧
    (∀ st ∈ [CtxState.preempting, .faulted],
      let f (c : Ctx) : Ctx := { c with stopAt := some 900, st := st, boundary := true }
      let s := { sC f [1] with clk := 360900 }
      s.ctx? 1 = some (cC f) ∧ s.clk ≤ 900 + 3600 * (cC f).desc.saveDl + (cC f).saveWait ∧ (cC f).stallEnd ≤ s.clk) ∧
    (let s := { sC id [0, 0] with ctxs := [{ bootCtx 1 with num := 0 }], plat := { (sC id []).plat with tests := [⟨.cluster 0 0, 0⟩] },
                                  clk := 3600000, groups := [{ groupT [Lane.zero] with ctx := 0 }] }
     s.ctx? (s.arg 0) = some { bootCtx 1 with num := 0 } ∧ s.plat.tests[s.arg 0]? = some ⟨.cluster 0 0, 0⟩ ∧ 0 + 3600000 ≤ s.clk ∧
      s.arg 1 = s.arg 0 ∧ s.groups.all (fun g => g.site == ⟨0, 0⟩ && g.ctx == s.arg 1) = true) := by
  and_intros <;> decide +kernel

/-- A descriptor at 0x400 that is well formed. -/
def descD : List Host.Cell :=
  [(0x406, 100), (0x40A, 0x10), (0x412, 0x10), (0x419, 0x10), (0x422, 0x10), (0x429, 0x20), (0x432, 0x08), (0x439, 0x30), (0x440, 16)]
def fn0 : Func := ⟨0, 0, 2 ^ 36, 16, [⟨0, 0, 16, 3, 4⟩]⟩
def fn2 : Func := ⟨2, 0, 2 ^ 36, 16, [⟨0, 0, 16, 3, 4⟩]⟩
def sD (f : Ctx → Ctx) (pick : List Nat) : State :=
  { sC f pick with mem := { MemSys.empty with hbm := descD ++ bootCells } }
/-- A load request at 0x1000 for an object at 0x1100 of 64 bytes with its record at 0x1200. -/
def reqD : List Host.Cell := [(0x201001, 0x11), (0x201008, 64), (0x201010, 1), (0x201019, 0x12)]
def objD (st : Nat) : KObj := ⟨1, st, 0x1000, 0x4000, 64, 1, 1, 0, [], [], [(0x4000, 64)], 0⟩

theorem wit_ContextCommands :
    (∀ code ∈ [1, 2, 3, 4, 5, 6, 7, 8, 9, 10, 11, 12, 13, 14], let s := sC id [0, 0, 8, cmdW code]
      s.cmdCode = code ∧ s.cmdCtx = 1 ∧ fieldAt (s.arg 3) 32 32 = 0) ∧
    (∀ code ∈ [2, 3, 4, 5, 6, 7, 8, 9, 10, 11, 12, 13, 14], let s := sC id [0, 0, 8, code + 0x20000]
      s.cmdCode = code ∧ s.cmdCtx = 2 ∧ s.ctx? s.cmdCtx = none) ∧
    ((sC id [0, 0, 8, 1]).plat.ready = true ∧ (sC id [0, 0, 8, 1]).func? ((sC id [0, 0, 8, 1]).arg 0) = some fn0 ∧ fn0.num = 0 ∧
      fn0.ring? ((sC id [0, 0, 8, 1]).arg 1) = some ⟨0, 0, 16, 3, 4⟩ ∧ (3 : Nat) ≠ 4 ∧ (sC id [0, 0, 8, 1]).link.pend = []) ∧
    (∀ p ∈ [0x400, 0x480, 0x401], fn0.holds p 128 = true) ∧
    (descOk fn0 ((sD id [0, 0, 8, 1]).physReadWords 0x400 16).1 = true ∧ descOk fn0 ((sD id [0, 0, 8, 1]).physReadWords 0x480 16).1 = false ∧
      ((sD id []).ctxs.filter (fun c => c.fn == 0)).length < fn0.quota ∧ (sD id []).ctx? 4095 = none ∧ (sD id []).ctx? 1 = some (cC id)) ∧
    (let f (c : Ctx) : Ctx := { c with st := .created, descAddr := 0x400 }
     (sD f []).ctx? 1 = some (cC f) ∧ descOk fn0 ((sD f []).physReadWords (cC f).descAddr 16).1 = true) ∧
    ((cC id).st = .running ∧ (cC id).viol = false ∧ (sC id []).workLeft 1 = false ∧ (sC id []).eng.flights = [] ∧
      (sC id []).eng.front = [] ∧ (sC id []).link.tx = []) ∧
    (let s := { sC id [0, 0, 8, cmdW 7, 0x1000] with mem := { MemSys.empty with hbm := bootCells ++ reqD } }
     s.loadReq (cC id) (s.arg 4) = some ⟨0x1100, 64, 0, 0x1200, 0⟩ ∧ (cC id).objs = []) ∧
    (let f (c : Ctx) : Ctx := { c with objs := [objD 1], launches := [{ launchT with entry := 0x4000 }] }
     (cC f).objs.find? (fun o => o.num == 1 && o.st == 1) = some (objD 1) ∧ (cC id).objs.find? (fun o => o.num == 1 && o.st == 1) = none ∧
      ∃ l ∈ (cC f).launches, (objD 1).codeBase ≤ l.entry ∧ l.entry < (objD 1).codeBase + (objD 1).codeSize ∧ l.left ≠ 0) ∧
    (∃ g ∈ (stT [Lane.zero]).groups, g.ctx = 1 ∧ (objD 1).codeBase - 0x3000 ≤ g.entry.toNat ∧ g.entry.toNat < 0x1000 + (objD 1).codeSize) ∧
    ((sC id []).busyCtx (cC id) = false ∧ (stT [Lane.zero]).busyCtx (bootCtx 1) = true ∧ (sC id []).objInUse (cC id) (objD 1) = false ∧
      (let f (c : Ctx) : Ctx := { c with launches := [{ launchT with entry := 0x4000 }] }
       (sC f []).objInUse (cC f) (objD 1) = true)) := by
  and_intros <;> decide +kernel

/-- A saved context whose shell at 0x1000 begins with the signature and has this CHECK. -/
def shellD (chk : Nat) : List Host.Cell :=
  [(0x1000, 0x5A), (0x1001, 0x53), (0x1002, 0x48), (0x1003, 0x4C)] ++ ((toBytes 8 chk).zipIdx 0x1038).map (fun x => (x.2, x.1)) ++ bootCells
def ctxV : Ctx := { bootCtx 1 with st := .saved, saved := some .none_, desc := { (bootCtx 1).desc with shell := 0x1000 } }
def sV (chk : Nat) : State := { sC (fun _ => ctxV) [0, 0, 8, 1] with mem := { MemSys.empty with hbm := shellD chk } }

/-- A shell without its signature is not valid. -/
theorem wit_ContextCommands_shell :
    (sC (fun _ => ctxV) [0, 0, 8, 1]).ctx? 1 = some ctxV ∧ ((sC (fun _ => ctxV) []).shellValid ctxV .none_).1 = false := by
  exact ⟨by decide +kernel, by
    have h : ((sC (fun _ => ctxV) []).physRead ctxV.desc.shell 4).1 = 0 := by decide +kernel
    simp only [State.shellValid, h]; rfl⟩

theorem wit_ConfigurationCommands :
    (∀ code ∈ [0x09, 0x0A, 0x0B, 0x0C, 0x0D, 0x0E, 0x0F, 0x12, 0x13, 0x14, 0x15, 0x16], let s := sC id [0, 0, 8, cmdW code]
      s.cmdCode = code ∧ s.ctx? s.cmdCtx = some (cC id) ∧ fieldAt (s.arg 3) 32 32 = 0 ∧ (s.func? (cC id).fn).isSome = true) ∧
    (0x16 < (sC id [0, 0, 8, 0x17]).cmdCode ∧ fieldAt ((sC id [0, 0, 8, 0x100000013]).arg 3) 32 32 ≠ 0) ∧
    ((sC id [2, 0, 8, 1]).func? ((sC id [2, 0, 8, 1]).arg 0) = some fn2 ∧ fn2.ring? 0 = some ⟨0, 0, 16, 3, 4⟩ ∧ fn2.num ≠ 0) ∧
    ((∃ p ∈ (sC id []).link.ports, p.num = 47 ∧ p.mcl = false) ∧ isPow2 65536 = true ∧ isPow2 64 = true ∧ isPow2 16 = true ∧
      isPow2 4096 = true ∧ isPow2 24 = false ∧ fn0.holds 0x200000 (2 ^ 21) = true ∧ fn0.holds 0x1000 (16 * 4096) = true) ∧
    (let rs := routesOf [1, 6, 48, 48, 48]
     (∀ r ∈ rs, r.1 < 256 ∧ r.1 ≠ 0 ∧ r.2 ≠ []) ∧ (rs.map (·.1)).Nodup ∧ rs.length = 1) ∧
    (let ps := pairsOf [0, 1, 5, 7]
     ps.find? (fun y => y.1 == (sC id []).link.domIndex) = some (0, 1) ∧ (∀ y ∈ ps, y.1 < 256 ∧ 0 < y.2 ∧ y.2 ≤ 4095) ∧ (ps.map (·.1)).Nodup ∧
      ((sC id []).ctx? 1).isSome = true) ∧
    (let f (c : Ctx) : Ctx := { c with st := .resident, queues := [⟨3, 0, 0x1000, 16, 4, 5⟩] }
     (sC f []).ctx? 1 = some (cC f) ∧ (∃ q ∈ (cC f).queues, q.num = 3 ∧ q.taken ≠ q.written) ∧ ∀ q ∈ (cC f).queues, q.num = 4 → q.taken = q.written) := by
  and_intros <;> decide +kernel

/-! A shell whose CHECK is the one of its bytes is valid, whatever value Config gives that. -/

def chkV : Nat := Config.shellCheck [0, 0, 0]

theorem fromBytes_toBytes8 (n : Nat) : fromBytes (toBytes 8 n) = n % 2 ^ 64 := by
  simp [fromBytes, toBytes, bytesOf, ofBytes, BitVec.toNat_ofNat]
  omega

set_option maxRecDepth 20000 in
theorem shell_check_read (n : Nat) : (((sV n).physRead 0x1000 4).2.physRead 0x1038 8).1 = fromBytes (toBytes 8 n) := by
  with_unfolding_all rfl

theorem wit_ContextCommands_shell_valid : ((sV chkV).shellValid ctxV .none_).1 = true := by
  have h1 : ((sV chkV).physRead 0x1000 4).1 = 0x4C48535A := by decide +kernel
  have h2 := shell_check_read chkV
  have h3 : ((((sV chkV).physRead 0x1000 4).2.physRead 0x1038 8).2.shellBytes 0x1000 0).1 = [0, 0, 0] := by decide +kernel
  have h4 : (((((sV chkV).physRead 0x1000 4).2.physRead 0x1038 8).2.shellBytes 0x1000 0).2.physRead 0x1040 8).1 = 0 := by decide +kernel
  have h5 : ((((((sV chkV).physRead 0x1000 4).2.physRead 0x1038 8).2.shellBytes 0x1000 0).2.physRead 0x1040 8).2.shellZeros 0x1000 0).1 =
    true := by decide +kernel
  rw [fromBytes_toBytes8] at h2
  show ((((sV chkV).physRead 0x1000 4).1 == 0x4C48535A) && ((((sV chkV).physRead 0x1000 4).2.physRead 0x1038 8).1 ==
    Config.shellCheck ((((sV chkV).physRead 0x1000 4).2.physRead 0x1038 8).2.shellBytes 0x1000 0).1 % 2 ^ 64) &&
    sameGeneration (((((sV chkV).physRead 0x1000 4).2.physRead 0x1038 8).2.shellBytes 0x1000 0).2.physRead 0x1040 8).1 0 &&
    ((((((sV chkV).physRead 0x1000 4).2.physRead 0x1038 8).2.shellBytes 0x1000 0).2.physRead 0x1040 8).2.shellZeros 0x1000 0).1) = true
  rw [h1, h2, h3, h4, h5]
  simp [chkV, sameGeneration]

/-! The host, the loader, launches, ports, the transport and the platform. -/

theorem wit_HostAccesses :
    (let s := sC id [2, 0, 2 ^ 32 + 9]
     s.plat.ready = true ∧ s.func? (s.arg 0) = some fn2 ∧ fn2.ring? (s.arg 1) = some ⟨s.arg 1, 0, 16, 3, 4⟩ ∧
      (s.arg 2 + 2 ^ 32 - 3) % 2 ^ 32 ≤ 16 ∧ 16 < ((sC id [2, 0, 20]).arg 2 + 2 ^ 32 - 3) % 2 ^ 32 ∧ s.arg 0 ≠ 1 ∧ (sC id [1]).arg 0 = 1) ∧
    (let s := sC id [0, 0x100, 1, 0, 2]
     let bs : List Byte := (s.pick.drop 2).map (BitVec.ofNat 8)
     s.func? (s.arg 0) = some fn0 ∧ s.arg 1 + bs.length ≤ fn0.size ∧ cellsWf s.mem.hbm = true ∧ fn0.base + s.arg 1 + bs.length ≤ memLimit) ∧
    (let f : Func := ⟨0, memLimit - 1, 2 ^ 20, 1, []⟩
     let s := { sC id [0, 0, 1, 2] with link := { State.reset.link with funcs := [f] } }
     s.func? (s.arg 0) = some f ∧ 0 + 2 ≤ f.size ∧ memLimit < f.base + s.arg 1 + 2) := by
  and_intros <;> decide +kernel

/-- An object at 0x1100 of one word of code (ISYNC), one entry with its symbol and name, and the request at 0x1000 for it. -/
def image : List Host.Cell :=
  [(0x201001, 0x11), (0x201008, 184), (0x201010, 1), (0x201019, 0x12),
   (0x201100, 0x5A), (0x201101, 0x4D), (0x201102, 0x4B), (0x201103, 0x4F), (0x201104, 1), (0x201108, 1), (0x201110, 1), (0x201111, 1),
   (0x201118, 3), (0x20111A, 1), (0x201120, 0x40), (0x201128, 0x88), (0x201140, 1), (0x201141, 3), (0x201148, 0x98), (0x201150, 8),
   (0x201158, 5), (0x201160, 0xA0), (0x201168, 16), (0x201170, 6), (0x201178, 0xB0), (0x201180, 1), (0x20119E, 0xC0), (0x20119F, 0x7C)]
def objL : KObj := ⟨1, 0, 0x1000, 0, 0, 0, 0, 0, [], [], [], 0⟩
def sLd (cells : List Host.Cell) (pick : List Nat) : State :=
  { sC (fun c => { c with objs := [objL] }) pick with mem := { MemSys.empty with hbm := bootCells ++ cells } }

theorem wit_LoadsAndLaunches :
    (let s := sLd reqD [1, 1, 0x4000]
     let c := cC (fun c => { c with objs := [objL] })
     s.ctx? (s.arg 0) = some c ∧ c.objs.find? (fun o => o.num == s.arg 1 && o.st == 0) = some objL ∧
      s.loadReq c objL.image = some ⟨0x1100, 64, 0, 0x1200, 0⟩ ∧ (s.objView c.desc.ptRoot c.num 0x1100 64).verdict = some (1, 0, [])) ∧
    (∀ n ∈ [0, 1], ∀ taken ∈ [0, 16],
      let q : LQueue := ⟨2, 1, 0x1000, 16, taken, taken + 1⟩
      let f (c : Ctx) : Ctx := { c with queues := [q] }
      let s := { sC f [1, 2] with mem := { MemSys.empty with hbm := (if n = 0 then [] else [(0x1008, 8)]) ++ bootCells } }
      s.ctx? (s.arg 0) = some (cC f) ∧ (cC f).queues.find? (fun y => y.num == s.arg 1) = some q ∧ s.takesLaunches (cC f) = true ∧
        q.taken ≠ q.written ∧ (∀ x ∈ s.ctxs, ∀ y ∈ s.offers x, y = (q.prio, (cC f).num, q.num) ∨ q.prio < y.1) ∧
        (∀ i, i < (cC f).ttCount → s.ttReady (cC f) i = true → (s.ttAt (cC f) i).queue ≠ q.num) ∧
        (let rd := (s.serve (q.prio, (cC f).num, q.num)).physReadWords (q.base + 16 * (q.taken % q.entries)) 2
         (rd.1.getD 0 0).toNat % 64 = 0 ∧ (rd.1.getD 1 0).toNat % 8 = 0 ∧
          (s.func? (cC f).fn).any (fun f => f.holds (rd.1.getD 1 0).toNat 8) = true)) ∧
    (∀ bad ∈ ([(0x1000, 1), (0x1008, 1)] : List Host.Cell),
      let f (c : Ctx) : Ctx := { c with queues := [⟨2, 1, 0x1000, 16, 0, 1⟩] }
      let s := { sC f [1, 2] with mem := { MemSys.empty with hbm := [bad] ++ bootCells } }
      let rd := (s.serve (1, 1, 2)).physReadWords 0x1000 2
      (rd.1.getD 0 0).toNat % 64 ≠ 0 ∨ (rd.1.getD 1 0).toNat % 8 ≠ 0) := by
  and_intros <;> decide +kernel

/-- A context with a timetable of one entry: start 0, period 40, EN, with this RULE, on queue 0. -/
def ttCells (rule : Nat) : List Host.Cell :=
  [(0x1008, 40)] ++ (if rule = 0 then [] else [(0x1018, BitVec.ofNat 8 rule)]) ++ [(0x101A, 1)] ++ bootCells
def ttF (run : Option Nat) (held : Bool) (c : Ctx) : Ctx :=
  { c with ttBase := 0x1000, ttCount := 1, tt := [⟨0, 1, run, held⟩], launches := [launchT], queues := [⟨0, 2, 0x8000, 16, 0, 0⟩] }

theorem wit_LoadsAndLaunches_timetable :
    ∀ run ∈ [none, some 20], ∀ held ∈ [false, true], ∀ rule ∈ [0, 1, 2],
      let c := cC (ttF run held)
      let s := { sC (ttF run held) [1, 0] with ptp := 100, mem := { MemSys.empty with hbm := ttCells rule } }
      let x := s.ttAt c 0
      s.ctx? (s.arg 0) = some c ∧ s.takesLaunches c = true ∧ s.arg 1 < c.ttCount ∧ x.on = true ∧ x.rule = rule ∧ x.queue = 0 ∧
        (c.ttEntry 0).held = held ∧ x.start + (c.ttEntry 0).nextK * x.period ≤ s.ptp ∧ x.period ≠ 0 ∧
        c.ttRunning (c.ttEntry 0) = run.isSome ∧ (run = none → s.nextQueue = some (c.prioOf x.queue, c.num, x.queue)) := by
  decide +kernel

theorem wit_LoadsAndLaunches_refused :
    (let c := cC (fun c => { c with objs := [{ objL with image := 0x1008 }] })
     (sLd image [1, 1]).loadReq c 0x1008 = none ∧ c.objs.find? (fun o => o.num == 1 && o.st == 0) = some { objL with image := 0x1008 }) ∧
    fitsSpace [] (2 ^ 56 - 8) [(8, 16)] = false ∧ fitsSpace [0x400000] 0x400000 [(8, 16)] = false := by
  decide +kernel

theorem wit_LoadsAndLaunches_sound :
    let s := sLd image [1, 1, 0x200000, 0, 0, 0x400000]
    let c := cC (fun c => { c with objs := [objL] })
    let o := s.objView c.desc.ptRoot c.num 0x1100 184
    let places := o.places ((s.pick.drop 2).take 3)
    s.loadReq c objL.image = some ⟨0x1100, 184, 0, 0x1200, 0⟩ ∧ o.verdict = none ∧ places = [⟨0x200000, 8, 12, 0⟩] ∧
      fitsSpace ((s.mem.pages c.desc.ptRoot).map (·.1)) 0 (places.map (fun p => (2 ^ (o.sect p.sect).alog, p.size))) = true ∧
      (mapPlaces c.desc.ptRoot places ⟨s, s.pick.drop 5⟩).isSome = true ∧
      0x200000 % 2 ^ (o.sect 0).alog = 0 := by
  decide +kernel

theorem wit_LaunchDoorbells :
    (let w : Word := 0x0001000000032001
     (sC id [0, w.toNat]).ctx? (bitsAt (BitVec.ofNat 64 2) 0 12) = none ∧ bitsAt w 48 16 ≠ 0 ∧
      (sC id [0, w.toNat]).ctx? (bitsAt w 0 12) = some (cC id) ∧ (cC id).fn ≠ 2) ∧
    (∀ n ∈ [20, 21],
      let q : LQueue := ⟨2, 1, 0x1000, 16, 4, 4⟩
      let f (c : Ctx) : Ctx := { c with queues := [q] }
      let w : Word := BitVec.ofNat 64 (1 + 0x2000 + 2 ^ 16 * n)
      (sC f [0, w.toNat]).ctx? (bitsAt w 0 12) = some (cC f) ∧ (cC f).fn = (sC f [0, w.toNat]).arg 0 ∧ bitsAt w 48 16 = 0 ∧
        (cC f).queues.find? (fun y => y.num == bitsAt w 12 4) = some q ∧
        decide (q.entries < (bitsAt w 16 32 + 2 ^ 32 - q.taken) % 2 ^ 32) = decide (n = 21)) := by
  decide +kernel

def portT (f : Port → Port) : Port := f { Port.down 7 with st := .up, lanes := 4 }
def sPt (p : Port) (pick : List Nat) : State :=
  { sC id pick with link := { (sC id []).link with ports := [p], routes := [(9, [7])] } }

theorem wit_PortsAndTime :
    (∀ p ∈ [portT id, portT (fun p => { p with st := .training, dataBad := 4, attempts := 2 }),
        portT (fun p => { p with st := .retraining, dataBad := 2, spareBad := true, mcl := true }), portT (fun p => { p with mcl := true }),
        portT (fun p => { p with st := .degraded, dataBad := 2, lanes := 2 }), portT (fun p => { p with st := .down })],
      p.num < 48 ∧ (sPt p [7]).port? ((sPt p [7]).arg 0) = some p) ∧
    ((portT id).good = 5 ∧ (portT (fun p => { p with dataBad := 1 })).good = 4 ∧ (portT (fun p => { p with dataBad := 2 })).good = 3 ∧
      (portT (fun p => { p with dataBad := 2, spareBad := true })).good = 2 ∧ (portT (fun p => { p with dataBad := 4 })).good = 1 ∧
      (portT id).spare = true ∧ (portT id).carries = true ∧ (portT (fun p => { p with mcl := true })).mcl = true) ∧
    ((sPt (portT (fun p => { p with mcl := true })) [9]).routePort? 9 = some 7 ∧
      (sPt (portT (fun p => { p with mcl := true })) [9]).link.mcl = []) ∧
    (let s := sPt (portT (fun p => { p with mcl := true })) [0, 0, 8, 0x10, 7, 1, 2, 0]
     s.cmdCode = 0x10 ∧ s.arg 7 = 0 ∧ fieldAt (s.arg 3) 32 32 = 0 ∧ (sPt (portT id) [0, 0, 8, 0x11, 7]).cmdCode = 0x11) ∧
    (let l (k : Bool) : State := { sPt (portT id) [5000] with ptp := 4000, link := { (sPt (portT id) []).link with ptpPort := some 7, ptpLocked := k } }
     (l true).ptpUp = true ∧ (l true).ptp ≤ (l true).arg 0 + 1000 ∧ (l true).arg 0 ≤ (l true).ptp + 1000 ∧ (l true).link.ptpLocked = true ∧
      (l false).link.ptpLocked = false ∧
      (l true).clk < (l true).link.ptpSeen + 7200000000 ∧ { l true with clk := 7200000000 }.link.ptpSeen + 7200000000 ≤ 7200000000) ∧
    (let s := sPt (portT (fun p => { p with st := .down })) [0, 0, 8, 0x10, 7, 1, 2, 1]
     s.plat.ready = true ∧ s.func? (s.arg 0) = some fn0 ∧ fn0.ring? (s.arg 1) = some ⟨s.arg 1, 0, 16, 3, 4⟩ ∧ s.link.pend = [] ∧
      s.port? (s.arg 4) = some (portT (fun p => { p with st := .down })) ∧ s.arg 5 < 2 ∧ s.arg 6 < 3 ∧ s.arg 7 = 1) := by
  and_intros <;> decide +kernel

def xcfgT : XCfg := ⟨1, [(1, 0x1000, 64, 3)], 0x2000, 1, 0x3000, 1, 77, [(1, 0x5000, 6)]⟩
def txT : TxMsg :=
  { mid := 30, ctx := 1, die := 1, slotVa := 0x10C0, src := 0x4000, off := 0, len := 4112, peer := 0, landing := 0, ctag := 0, job := 1,
    port := 7, seq := 0, privS := false, pts := 0, site := ⟨1, 0⟩, acq := false, ready := true, addr := 0, fep := 0, rkey := 0,
    acked := [], tries := [], retx := 0, progress := 0, refused := false }
def rxT (f : RxMsg → RxMsg) : RxMsg :=
  f { key := 5, ctx := 1, die := 1, port := 7, landing := 0, off := 0, len := 32, ctag := 0, job := 1, base := 0x4000, got := [],
      refused := false, seen := 900, pts := 0, held := 0, rest := [] }
/-- A send record in the slot at 0x10C0, in the state `st`, and a valid peer; the message is of 4112 bytes. -/
def slotD (st len : Byte) : List Host.Cell :=
  [(0x2010C1, 0x40), (0x2010D0, len), (0x2010D1, 0x10), (0x2010DA, 1), (0x2010DB, st), (0x202018, 1), (0x203008, 32), (0x203011, 1)]
def sX8 (st len : Byte) (pick : List Nat) (tx : List TxMsg) (rx : List RxMsg) : State :=
  { sC id pick with
    jobs := [jobT id], mem := { MemSys.empty with hbm := bootCells ++ slotD st len },
    link := { (sC id []).link with ports := [portT id], xcfg := [xcfgT], tx := tx, rx := rx } }
def exceptVal {α β γ : Type} (x : Except α β × γ) : Option β := match x.1 with | .ok v => some v | .error _ => none

theorem wit_TransportSends :
    let s := sX8 1 16 [1, 1, 7] [] []
    s.ctx? (s.arg 0) = some (cC id) ∧ s.xcfg? (s.arg 0) = some xcfgT ∧
      xcfgT.rings.find? (fun r => r.1 == s.arg 1) = some (s.arg 1, 0x1000, 64, 3) ∧ (cC id).st = .running ∧
      (cC id).viol = false ∧ (cC id).stopAt = none ∧ (s.link.tx.filter (fun m => m.die == s.arg 1)).length < 256 ∧
      s.cutOff 1 0x10C0 = false ∧ s.link.tx = [] ∧ s.link.sends = [] ∧
      s.xHeld 1 (slotRef 0x10C0) = false ∧ s.arg 2 ∈ s.ethPorts (s.arg 1) ∧ s.arg 2 / 6 = s.arg 1 := by
  and_intros <;> decide +kernel

/-- STATE of the slot read, and whether its record is within the limits. -/
def slotOf (s : State) : Option (Nat × Bool) :=
  (exceptVal (s.engGather (xActor 1 1 false s.latest) (.glob 0x10C0) 16 4)).map (fun bs => (fieldAt (fromBytes bs) 216 8, sendOk (fromBytes bs)))

theorem wit_TransportSends_noState : slotOf (sX8 0 16 [1, 1, 7] [] []) = some (0, true) := by
  decide +kernel

theorem wit_TransportSends_slot : slotOf (sX8 1 16 [1, 1, 7] [] []) = some (1, true) := by
  decide +kernel

theorem wit_TransportSends_limits : slotOf (sX8 1 17 [1, 1, 7] [] []) = some (1, false) := by
  decide +kernel

theorem wit_TransportSends_peer :
    let s := sX8 1 16 [1, 1, 7] [] []
    let r := s.engGather (xActor 1 1 false s.latest) (.glob 0x10C0) 16 4
    let w := r.2.engWrite (xActor 1 1 false s.latest) (.glob 0x10DB) [2]
    (match r.1 with | .error _ => false | .ok bs => (match w.1 with
      | .ok _ =>
        let v := fromBytes bs
        let m := txMsg v w.2.nextId 1 1 0x10C0 7 0 1000 none s.latest
        let s3 := w.2.setXcfg { xcfgT with rings := [(1, 0x1000, 64, 4)] }
        let s4 : State := { s3 with nextId := w.2.nextId + 1, link := { s3.link with tx := w.2.link.tx ++ [m], msgSeq := 1 } }
        w.2.jobOpen 1 m.job && fieldAt v 160 16 == 0 && s4.receives 1 && !s4.cutOff 1 0x2000 && !s4.xHeld 1 (srcRef m.mid) &&
          (match (s4.engGather m.actor (.glob 0x2000) 16 2).1 with | .ok b => fieldAt (fromBytes b) 192 64 == 1 | .error _ => false)
      | _ => false)) = true := by
  decide +kernel

theorem wit_TransportSends_packets :
    (∀ i ∈ [0, 1],
      let s := sX8 1 16 [30, i] [txT] []
      s.tx? (s.arg 0) = some txT ∧ s.arg 1 < txT.packets ∧ s.arg 1 ∉ txT.acked ∧ s.xHeld 1 (srcRef 30) = false ∧ txT.ready = true ∧
        s.ethPorts 1 ≠ [] ∧ s.receives 1 = true ∧ s.cutOff 1 (0x4000 + 4096 * s.arg 1) = false ∧ s.arg 3 ≠ 1) ∧
    (sX8 1 16 [30, 0] [{ txT with acked := [1] }] []).tx? 30 = some { txT with acked := [1] } ∧
    (exceptVal ((sX8 1 16 [30, 0] [txT] []).engGather txT.actor (.glob 0x4000) 16 1)).isSome = true ∧
    (exceptVal ((sX8 1 16 [30, 0] [{ txT with acked := [1] }] []).engGather txT.actor (.glob 0x4000) 16 1)).isSome = true ∧
    txT.packets = 2 ∧ xcfgT.pages.find? (fun y => y.1 == 1) = some (1, 0x5000, 6) ∧
    3600 * (6 + 1) ≤ ({ sX8 1 16 [1, 1] [] [] with clk := 25200 } : State).clk := by
  and_intros <;> decide +kernel

theorem wit_TransportReceives :
    (let s (l : Nat) : State := sX8 0 0 ([1, 7, 5, 1, 77, l, 0, 32, 0, 0] ++ List.replicate 32 1) [] []
     s 1 |>.ethPorts 1 |>.contains 7) ∧
    (let s := sX8 0 0 ([1, 7, 5, 1, 77, 1, 0, 32, 0, 0] ++ List.replicate 32 1) [] []
     s.receives 1 = true ∧ (5, 1, 1) ∉ s.link.ended ∧ s.arg 7 % 16 = 0 ∧ s.arg 6 % 16 = 0 ∧ ((s.pick.drop 10).map (BitVec.ofNat 8)).length = min 4096 (s.arg 7 - 4096 * s.arg 9) ∧ 4096 * s.arg 9 < s.arg 7 ∧
      s.link.rx.find? (fun r => r.is 5 1 1) = none ∧ (s.xcfgOf 1).landCount ≤ s.arg 5) ∧
    (let s := sX8 0 0 ([1, 7, 5, 1, 77, 0, 0, 32, 0, 0] ++ List.replicate 32 1) [] [rxT id]
     s.link.rx.find? (fun r => r.is 5 1 1) = some (rxT id) ∧ (rxT id).len = s.arg 7 ∧ (rxT id).rest = [] ∧ s.arg 9 ∉ (rxT id).got ∧
      s.cutOff 1 0x4000 = false ∧ (mresVal (s.engWrite (s.xOwn 1 1) (.glob 0x4000) (List.replicate 16 1))).isSome = true ∧
      (match (s.engWrite (s.xOwn 1 1) (.glob 0x200000) (List.replicate 16 1)).1 with | .pageFault => true | _ => false) = true ∧
      (s.engWrite (s.xOwn 1 1) (.glob 0x200000) (List.replicate 16 1)).2.link.rx = s.link.rx) ∧
    (let r := rxT (fun r => { r with got := [0] })
     let s := sX8 0 0 [5, 1, 1] [] [r]
     s.link.rx.find? (fun r => r.is (s.arg 0) (s.arg 1) (s.arg 2)) = some r ∧ r.packets ≤ r.got.length ∧ s.xHeld 1 (rxRef 5) = false ∧
      r.rest = [] ∧ s.receives 1 = true ∧ s.cutOff 1 0x3000 = false ∧
      (cC id).st = .running ∧ (cC id).viol = false ∧ (cC id).stopAt = none ∧ (cC id).saved = none ∧ (exceptVal (s.landing (s.xcfgOf 1) 1 0)).any (fun la => la.ckind != 3 && la.ckind == 0) = true) ∧
    (let s := { sX8 0 0 [5, 1, 1] [] [rxT id] with clk := 72000900 }
     s.link.rx.find? (fun r => r.is (s.arg 0) (s.arg 1) (s.arg 2)) = some (rxT id) ∧ (rxT id).seen + 72000000 ≤ s.clk ∧
      (rxT id).got.length < (rxT id).packets) := by
  and_intros <;> decide +kernel

theorem wit_TimestampsAndKeys :
    (let s := { stT [{ Lane.zero with pts := 6 }] with pick := [5], clk := 1024 }
     128 * (s.ticks + 1) ≤ s.clk ∧ s.group? 3 = some (groupT [{ Lane.zero with pts := 6 }]) ∧
      64 * (memLimit / 64 - 1) < memLimit) ∧
    ((sC id []).plat.keyOld = none ∧ (sC id []).plat.ready = true ∧ (sC id []).plat.scrubStart = 0 ∧
      (let s := { sC id [] with clk := 12960000000001 * 168, plat := { (sC id []).plat with scrubStart := 1, scrubHours := 1 } }
       s.plat.scrubStart + 12960000000000 * s.plat.scrubHours ≤ s.clk)) ∧
    (let p := { (sC id []).plat with keyOld := some 15, keyCur := 0, scrubNext := [(3, 9)] }
     let s := { sC id [3, 1] with plat := p }
     s.plat.scrubNext.find? (fun x => x.1 == s.arg 0) = some (s.arg 0, 9) ∧ 9 < stackGranules ∧ s.plat.keyOld.isSome = true ∧
      s.arg 0 < 16 ∧ s.arg 1 = 1 ∧ (withPick s [3, 0]).arg 1 ≠ 1) ∧
    (let l := (List.range 16).map (fun k => (k, stackGranules))
     l.length = 16 ∧ ∀ x ∈ l, stackGranules ≤ x.2) := by
  and_intros <;> decide +kernel

theorem wit_PlatformSteps :
    (∀ l ∈ [[0, 0, 0, 0, 1], [1, 0, 0, 0, 1], [2, 0, 0, 0, 1]], unitOf ((sC id l).pick.drop 1) = some (.quad 0 0 1)) ∧
    (let s (t : Nat) : State := { sC id [3, 3, 5, 2] with clk := dayClk, plat := { (sC id []).plat with ueAt := [(PUnit_.channel 5 2, t)] } }
     unitOf ((s 1).pick.drop 1) = some (.channel 5 2) ∧ (s 1).ueRecent (.channel 5 2) = true ∧ (s 0).ueRecent (.channel 5 2) = false) ∧
    (let p := { (sC id []).plat with tests := [⟨PUnit_.quad 0 0 1, 5⟩] }
     { sC id [2, 0, 0, 0, 1] with plat := p }.plat.tests.any (fun t => t.unit_ == PUnit_.quad 0 0 1) = true ∧
      (sC id []).groups.any (unitHolds (.quad 0 0 1)) = false) ∧
    (let s (u : PUnit_) (sp : List PUnit_) : State := { sC id [0, 0, 0, 1] with plat := { (sC id []).plat with retired := [u], spared := sp } }
     unitOf (s (.quad 0 0 1) []).pick = some (.quad 0 0 1) ∧ (s (.quad 0 0 1) []).spareFor (.quad 0 0 1) = true ∧
      (s (.quad 0 0 1) []).vacant (.quad 0 0 1) = true ∧ (s (.quad 0 0 1) [PUnit_.quad 0 0 2]).spareFor (.quad 0 0 1) = false ∧
      unitPartOf (.quad 0 5 1) (.cluster 0 5) = true ∧ unitOf [1, 0, 5] = some (.cluster 0 5) ∧ (s (.cluster 0 5) [PUnit_.cluster 0 1]).spareFor (.cluster 0 5) = false ∧
      unitOf [4, 7, 1] = some (.lane 7 1) ∧ (let x : State := { s (.lane 7 1) [] with
          link := { State.reset.link with ports := [portT (fun p => { p with st := .degraded, dataBad := 4 })] } }
        x.spareFor (.lane 7 1) = false ∧ ∃ q ∈ x.link.ports, q.num = 7 ∧ q.good < 2 ∧ q.st ≠ .down)) ∧
    (let s := { sC id [3, 6, 9, 1, 2, 8, 1, 7] with plat := { (sC id []).plat with
        ready := false, hostUp := true, fusedMin := 6, clusters := (List.range 128).map (fun n => ⟨n / 16, n % 16⟩) } }
     3 ≤ s.arg 0 ∧ s.arg 3 = 1 ∧ s.arg 6 = 1 ∧ s.plat.fusedMin ≤ s.arg 1 ∧ s.plat.fusedMin ≤ s.arg 7 ∧
      ∀ d ∈ List.range 8, ∀ n ∈ List.range 16, s.clusterDone d n = true) ∧
    (let s := { sC id [1, 2, 0] with
        clk := 3600 * 454, plat := { (sC id []).plat with dies := List.range 8, clusters := (List.range 18).map (fun n => ⟨n / 16, n % 16⟩) } }
     s.arg 1 < 16 ∧ 8 ≤ s.plat.dies.length ∧ s.clusterDone (s.arg 0) (s.arg 1) = false ∧
      (∀ d ∈ List.range 8, ∀ n ∈ List.range 16, 16 * d + n < 16 * s.arg 0 + s.arg 1 → s.clusterDone d n = true) ∧
      3600 * (50 * s.arg 0 + 400 + 2 * s.arg 1) ≤ s.clk ∧ s.arg 2 = 0) ∧
    ((sC id [7, 3, 1, 1, 8]).arg 2 = 1 ∧ (sC id [7, 3, 1, 1, 8]).arg 3 = 1 ∧ (sC id []).plat.fusedMin ≤ 7 ∧ (sC id [7, 3, 0]).arg 2 ≠ 1) ∧
    (let s := sC id [0, 1, 1, 1, 1, 1, 1, 1, 1]
     s.plat.ready = true ∧ s.plat.installing = none ∧ (s.pick.drop 4).take 5 = [1, 1, 1, 1, 1] ∧ s.plat.fusedMin ≤ s.arg 3 ∧
      sameGeneration 0 s.plat.dtVersion = true) ∧
    (let s := sC (fun c => { c with st := .saved }) [1]
     ∀ c ∈ s.ctxs, c.st ≠ .preempting ∧ c.st ≠ .running) := by
  and_intros <;> decide +kernel

/-- The next move is the issue of path 4, whose next word stands at physical 0x201000. -/
def sW (w : Nat) : State :=
  let cells := (toBytes 8 w).zipIdx 0x201000 |>.map (fun x => (x.2, x.1)) |>.filter (fun c => c.2 != 0)
  { stT [laneX [(8, 7), (9, 2)]] with agenda := [⟨1, .issue 3 4⟩], mem := { MemSys.empty with hbm := bootCells ++ cells } }
def wordOf (s : State) : Option Word :=
  match s.group? 3 with
  | none => none
  | some g => (g.path? 4).bind (fun p => if g.canIssue p && s.issues g.ctx && decide (p.readyAt ≤ s.clk) && s.turnOk g p && !s.pipeBusy g p && s.fencesReady g p then (match (s.takeFences g p).nextWord g p with | .word w _ => some w | _ => none) else none)

theorem wit_StepRunsTheDecodedWord :
    (sW 0x01C7200900020000).agenda = [⟨1, .issue 3 4⟩] ∧ (sW 0x01C7200900020000).tsHigh = false ∧
    (sW 0x01C7200900020000).tickWithin 1 = false ∧
    wordOf ({ sW 0x01C7200900020000 with agenda := [] }.pass 1) = some 0x01C7200900020000 ∧
    decode 0x01C7200900020000 = .ok (.divn ⟨false, 0⟩ 7 8 9 .w32) ∧
    wordOf ({ sW 0xC000000000000000 with agenda := [] }.pass 1) = some 0xC000000000000000 ∧
    decode 0xC000000000000000 = .error .reservedClass := by
  decide +kernel

theorem wit_DecodingIsExact :
    decode 0x7CC0000000000000 = .ok .isync ∧ 3 * 2 ^ 62 ≤ (0xFFFFFFFFFFFFFFFF : Word).toNat ∧
    0xC0 ≤ (0x3000000000000000 : Word).toNat / 2 ^ 54 ∧ (0x37FFFFFFFFFFFFFF : Word).toNat / 2 ^ 54 < 0xE0 ∧
    decode 0 = .ok (.nop ⟨false, 0⟩) ∧ (0 : Word).toNat / 2 ^ 63 = 0 ∧ (0x0000020000000000 : Word).toNat / 2 ^ 42 = 0 ∧
    (0x0000020000000000 : Word).toNat % 2 ^ 38 = 0 ∧ (0x0000020000000000 : Word).toNat / 2 ^ 38 % 16 = 8 ∧
    (0x02C0000000000000 : Word).toNat / 2 ^ 54 = 0x00B ∧ (0x7FC0000000000000 : Word).toNat / 2 ^ 54 = 0x1FF ∧
    (Instr.divn ⟨true, 7⟩ 63 63 63 .w64).wf = true ∧ (encode (.divn ⟨true, 7⟩ 63 63 63 .w64)).isSome = true := by
  and_intros <;> decide +kernel

def stepOk (s : State) : Bool := match step s with | .next _ => true | _ => false
theorem wit_WatchesStayHeld : stepOk (sW 0x01C7200900020000) = true ∧ stepOk State.reset = true := by
  decide +kernel

/-! Words written out from the layouts and opcode tables of the spec, and the instructions they stand for (03 R73 to R94 and the field tables
of the chapters). -/

/-- Every word of a list decodes to its instruction. -/
def decodesTo (l : List (Word × Instr)) : Bool := l.all (fun x => decode x.1 == .ok x.2)

/-- Modifiers of copy commands: streaming with an acquire at .die, and kept with a release at .sys. -/
def CM1 : CopyMod := ⟨true, .stream, true, false, .die⟩
def CM2 : CopyMod := ⟨false, .keep, false, true, .sys⟩

/-- R89, R110 to R112: d = 60, a = 33, b = 21 and guard (!k3). -/
theorem test_decode_scalar_arithmetic : decodesTo [
    (0x0000000000000000, .nop ⟨false, 0⟩),
    (0x000002C000000000, .nop ⟨true, 3⟩),
    (0x007C86D500038000, .add ⟨true, 3⟩ 60 33 21 .w32 true true),
    (0x00BC86D500048000, .sub ⟨true, 3⟩ 60 33 21 .w16 false true),
    (0x00FC86D500070000, .mull ⟨true, 3⟩ 60 33 21 .w8 true false),
    (0x013C86D500000000, .mulh ⟨true, 3⟩ 60 33 21 .w64),
    (0x017C86D500020000, .mulhn ⟨true, 3⟩ 60 33 21 .w32),
    (0x01BC86D500040000, .div ⟨true, 3⟩ 60 33 21 .w16),
    (0x01FC86D500060000, .divn ⟨true, 3⟩ 60 33 21 .w8),
    (0x023C86D500000000, .rem ⟨true, 3⟩ 60 33 21 .w64),
    (0x027C86D500020000, .remn ⟨true, 3⟩ 60 33 21 .w32),
    (0x02BC86D500050005, .shladd ⟨true, 3⟩ 60 33 21 .w16 true 5)] = true := by
  decide +kernel

/-- R89, R110, R111: the logical words, shifts, rotations and extrema. -/
theorem test_decode_scalar_logic : decodesTo [
    (0x043C86D500000000, .and ⟨true, 3⟩ 60 33 21 .w64 false),
    (0x047C86D500030000, .or ⟨true, 3⟩ 60 33 21 .w32 true),
    (0x04BC86D500040000, .xor ⟨true, 3⟩ 60 33 21 .w16 false),
    (0x04FC86D500070000, .andn ⟨true, 3⟩ 60 33 21 .w8 true),
    (0x053C86D500000000, .orn ⟨true, 3⟩ 60 33 21 .w64 false),
    (0x057C86D500030000, .xnor ⟨true, 3⟩ 60 33 21 .w32 true),
    (0x05BC86D500040000, .shl ⟨true, 3⟩ 60 33 21 .w16 false),
    (0x05FC86D500060000, .shr ⟨true, 3⟩ 60 33 21 .w8),
    (0x063C86D500020000, .sar ⟨true, 3⟩ 60 33 21 .w32),
    (0x067C86D500050000, .rol ⟨true, 3⟩ 60 33 21 .w16 true),
    (0x06BC86D500060000, .ror ⟨true, 3⟩ 60 33 21 .w8 false),
    (0x06FC86D500000000, .min ⟨true, 3⟩ 60 33 21 .w64),
    (0x073C86D500020000, .max ⟨true, 3⟩ 60 33 21 .w32),
    (0x077C86D500040000, .minn ⟨true, 3⟩ 60 33 21 .w16),
    (0x07BC86D500060000, .maxn ⟨true, 3⟩ 60 33 21 .w8)] = true := by
  decide +kernel

/-- R89, R115 to R119, R128: compares, moves, counts, fields and predicates. -/
theorem test_decode_scalar_moves : decodesTo [
    (0x080786D500030005, .cmp ⟨true, 3⟩ 7 33 21 .w32 true .ge),
    (0x087C86D518000000, .sel ⟨true, 3⟩ 60 33 21 6),
    (0x08BC86C000000000, .clz ⟨true, 3⟩ 60 33 .w64),
    (0x08FC86C000020000, .ctz ⟨true, 3⟩ 60 33 .w32),
    (0x093C86C000060000, .popc ⟨true, 3⟩ 60 33 .w8),
    (0x097C86C000050000, .brev ⟨true, 3⟩ 60 33 .w16 true),
    (0x09BC86C000020000, .bswap ⟨true, 3⟩ 60 33 .w32 false),
    (0x09FC86C0000104EC, .bfx ⟨true, 3⟩ 60 33 true 44 19),
    (0x0A3C86D500000FC0, .bfi ⟨true, 3⟩ 60 33 21 0 63),
    (0x0A7C86C000070000, .ext ⟨true, 3⟩ 60 33 .w8 true),
    (0x0ABC86C000000000, .mov ⟨true, 3⟩ 60 33),
    (0x0AC51AC700000004, .kop ⟨true, 3⟩ 5 6 7 .orn),
    (0x0B3C1AC000000000, .kmovToX ⟨true, 3⟩ 60 6),
    (0x0B06F2C000000001, .kmovToK ⟨true, 3⟩ 6 60),
    (0x0B4002C000000000, .yield ⟨true, 3⟩)] = true := by
  decide +kernel

/-- R90, R114: the immediate in bits 37:6, with CMPI's U in bit 3 and condition in bits 2:0. -/
theorem test_decode_immediates : decodesTo [
    (0x403C86E26AF37BC0, .addi ⟨true, 3⟩ 60 33 0x89ABCDEF),
    (0x404786FFFFFFFFCB, .cmpi ⟨true, 3⟩ 7 33 0xFFFFFFFF true .le),
    (0x40BC02E000000040, .movi ⟨true, 3⟩ 60 0x80000001),
    (0x40FC02C48D159E00, .movhi ⟨true, 3⟩ 60 0x12345678),
    (0x413C86DFFFFFFC00, .mullImm ⟨true, 3⟩ 60 33 0x7ffffff0),
    (0x417C86DFFFFFFC40, .andImm ⟨true, 3⟩ 60 33 0x7ffffff1),
    (0x41BC86DFFFFFFC80, .orImm ⟨true, 3⟩ 60 33 0x7ffffff2),
    (0x41FC86DFFFFFFCC0, .xorImm ⟨true, 3⟩ 60 33 0x7ffffff3),
    (0x423C86DFFFFFFD00, .andnImm ⟨true, 3⟩ 60 33 0x7ffffff4),
    (0x427C86C000000FC0, .shlImm ⟨true, 3⟩ 60 33 63),
    (0x42BC86C000000F80, .shrImm ⟨true, 3⟩ 60 33 62),
    (0x42FC86C000000F40, .sarImm ⟨true, 3⟩ 60 33 61),
    (0x433C86C000000F00, .rolImm ⟨true, 3⟩ 60 33 60),
    (0x437C86C000000EC0, .rorImm ⟨true, 3⟩ 60 33 59),
    (0x43BC86FFFFFFFC00, .minImm ⟨true, 3⟩ 60 33 0xfffffff0),
    (0x43FC86FFFFFFFC40, .maxImm ⟨true, 3⟩ 60 33 0xfffffff1),
    (0x443C86FFFFFFFC80, .minnImm ⟨true, 3⟩ 60 33 0xfffffff2),
    (0x447C86FFFFFFFCC0, .maxnImm ⟨true, 3⟩ 60 33 0xfffffff3)] = true := by
  decide +kernel

/-- R76, R89, R137 to R149: rounding in bits 25:23, type in 22:19, source type in 18:15. -/
theorem test_decode_packed_float : decodesTo [
    (0x10C3040210C00000, .ffma ⟨false, 0⟩ 3 1 2 4 .f32 .rne),
    (0x101F46C901400000, .fadd ⟨true, 3⟩ 31 17 9 .f32 .rtz),
    (0x105F46C901C80000, .fsub ⟨true, 3⟩ 31 17 9 .f16 .rup),
    (0x109F46C902500000, .fmul ⟨true, 3⟩ 31 17 9 .bf16 .rdn),
    (0x111F46C97B480000, .ffms ⟨true, 3⟩ 31 17 9 30 .f16 .sr),
    (0x115F46C900500000, .fmin ⟨true, 3⟩ 31 17 9 .bf16),
    (0x119F46C900500000, .fmax ⟨true, 3⟩ 31 17 9 .bf16),
    (0x11DF46C000480000, .fabs ⟨true, 3⟩ 31 17 .f16),
    (0x121F46C000480000, .fneg ⟨true, 3⟩ 31 17 .f16),
    (0x124746C900400017, .fcmp ⟨true, 3⟩ 7 17 9 .f32 .all .ord),
    (0x125F46C900400006, .fcmp ⟨true, 3⟩ 31 17 9 .f32 .vec .un),
    (0x12DF46C000400000, .frcp ⟨true, 3⟩ 31 17 .f32),
    (0x131F46C000400000, .frsq ⟨true, 3⟩ 31 17 .f32),
    (0x139F46C000400000, .fexp2 ⟨true, 3⟩ 31 17 .f32),
    (0x13DF46C000400000, .flog2 ⟨true, 3⟩ 31 17 .f32),
    (0x141F46C002DC0003, .fcvt ⟨true, 3⟩ 31 17 .e4m3 .f32 .rna 3),
    (0x149F46C0F8468003, .funpack ⟨true, 3⟩ 31 17 62 .lg6 3),
    (0x14DF46C900104000, .fdot ⟨true, 3⟩ 31 17 9 .i32 .i8 .dyn true),
    (0x151F46C003450000, .fsum ⟨true, 3⟩ 31 17 .bf16 .sr),
    (0x155F46C000500000, .fclass ⟨true, 3⟩ 31 17 .bf16),
    (0x159F46C000000000, .vmov ⟨true, 3⟩ 31 17),
    (0x15DFF2C000680000, .vbcast ⟨true, 3⟩ 31 60 .lg6),
    (0x163C7EC00020000F, .vextr ⟨true, 3⟩ 60 31 .n8 15),
    (0x165FF2C000180001, .vins ⟨true, 3⟩ 31 60 .i64 1)] = true := by
  decide +kernel

/-- R89, R150, R151: SAT in bit 14. -/
theorem test_decode_packed_integer : decodesTo [
    (0x181F46C900004000, .vadd ⟨true, 3⟩ 31 17 9 .i8 true),
    (0x185F46C900084000, .vsub ⟨true, 3⟩ 31 17 9 .i16 true),
    (0x189F46C900104000, .vmul ⟨true, 3⟩ 31 17 9 .i32 true),
    (0x18DF46C900380000, .vmin ⟨true, 3⟩ 31 17 9 .n64),
    (0x191F46C900300000, .vmax ⟨true, 3⟩ 31 17 9 .n32),
    (0x195F46C900000000, .vand ⟨true, 3⟩ 31 17 9),
    (0x199F46C900000000, .vor ⟨true, 3⟩ 31 17 9),
    (0x19DF46C900000000, .vxor ⟨true, 3⟩ 31 17 9),
    (0x1A1F46C900280000, .vshl ⟨true, 3⟩ 31 17 9 .n16),
    (0x1A5F46C900200000, .vshr ⟨true, 3⟩ 31 17 9 .n8),
    (0x1A9F46C000300000, .vpopc ⟨true, 3⟩ 31 17 .n32),
    (0x1AC746C90010000C, .vcmp ⟨true, 3⟩ 7 17 9 .i32 .any .gt)] = true := by
  decide +kernel

/-- R152 to R159: the operation in bits 2:0, ID in bit 3, V in bit 4, EXCL in bit 5. -/
theorem test_decode_cross_lane : decodesTo [
    (0x1CC5100000300006, .red ⟨false, 0⟩ 5 4 0 0 .n32 .dyn false .minidx false),
    (0x1C3C86D5F830000B, .shfl ⟨true, 3⟩ 60 33 21 62 .n32 .xor true false),
    (0x1C1F46D500000011, .shfl ⟨true, 3⟩ 31 17 21 0 .i8 .up false true),
    (0x1C4616C0F8000000, .voteAny ⟨true, 3⟩ 6 5 62),
    (0x1C4616C0F8000001, .voteAll ⟨true, 3⟩ 6 5 62),
    (0x1C4616C0F8000002, .voteUni ⟨true, 3⟩ 6 5 62),
    (0x1CBC16C0F8000000, .ballot ⟨true, 3⟩ 60 5 62),
    (0x1CFC86D5F9C00008, .red ⟨true, 3⟩ 60 33 21 62 .f32 .rup false .add true),
    (0x1D3C86C0F8284020, .scan ⟨true, 3⟩ 60 33 0 62 .n16 .dyn true .add false true),
    (0x1D4602C0F8000000, .elect ⟨true, 3⟩ 6 62),
    (0x1DBC86C0F8180000, .matchLanes ⟨true, 3⟩ 60 33 62 .i64),
    (0x7ABC86D51BD00000, .exch ⟨true, 3⟩ 60 33 21 6 61 false),
    (0x7A9F7AD51FD00001, .exch ⟨true, 3⟩ 31 30 21 7 61 true)] = true := by
  decide +kernel

/-- R170 to R186: KQ in 25:16, HINT in 11:10 and SEG in 9; the drain's RM, T, SCOPE and CLR. -/
theorem test_decode_tile : decodesTo [
    (0x2002100620010000, .mma 2 4 6 8 1 .normal false),
    (0x2007F814FFFF0A00, .mma 7 62 20 63 1023 .keep true),
    (0x2046000000000000, .mzero 6),
    (0x21C00000000000A5, .mclr 0xA5),
    (0x2105180000000000, .mmov 5 6),
    (0x211F1AC000000035, .mmovTov ⟨true, 3⟩ 31 6 5 true),
    (0x21067EC00000000E, .mmovTom ⟨true, 3⟩ 6 31 3 false),
    (0x223C02C000000000, .mres ⟨true, 3⟩ 60),
    (0x2080F807015D8000, .mdrain 62 7 .e4m3 .rtz .sys true),
    (0x20FCF807FC408000, .mdrainr 60 62 7 63 .f32 .dyn true),
    (0x2140000000000000, .mpass),
    (0x2180000000000000, .mwait),
    (0x2180000000000001, .mwaitAll)] = true := by
  decide +kernel

/-- R308, R309, R323 to R326, R334, R217, R341. -/
theorem test_decode_queue_group_barrier : decodesTo [
    (0x243C86D500000000, .trayCfg ⟨true, 3⟩ 60 33 21),
    (0x247C86D500000000, .inboxqTake ⟨true, 3⟩ 60 33 21),
    (0x247C02C000000001, .inboxqCount ⟨true, 3⟩ 60),
    (0x2480000000000000, .fuse),
    (0x24C0000000000000, .split),
    (0x2504000000000000, .refuse 4),
    (0x2545180000000002, .divqLimit ⟨false, 0⟩ 5 6),
    (0x257C02C000000000, .divqState ⟨true, 3⟩ 60),
    (0x257C02C000000001, .divqJoin ⟨true, 3⟩ 60),
    (0x2580841500000004, .binit ⟨false, 0⟩ 33 21 .pkg),
    (0x25FC840000000001, .barr ⟨false, 0⟩ 60 33 true),
    (0x263C841500000000, .bwait ⟨false, 0⟩ 60 33 21),
    (0x267C86C000000000, .bsync ⟨true, 3⟩ 60 33 false),
    (0x268086C000000000, .bbreak ⟨true, 3⟩ 33),
    (0x26FC86C000000000, .waitm ⟨true, 3⟩ 60 33)] = true := by
  decide +kernel

/-- R362, R384, R405, R406, with the words that those rules give. -/
theorem test_decode_ring_event_job : decodesTo [
    (0x7B86100828000000, .rinj ⟨false, 0⟩ 6 4 8 10),
    (0x2705240000000000, .rrel 5 9),
    (0x27470C0B00000000, .rwait ⟨false, 0⟩ 7 3 11),
    (0x7B7C840000000000, .ratt ⟨false, 0⟩ 60 33),
    (0x7B7C840000000001, .rattDet ⟨false, 0⟩ 60 33),
    (0x7BFC841500000000, .rmap ⟨false, 0⟩ 60 33 21),
    (0x27BC840000000000, .rqryState ⟨false, 0⟩ 60 33),
    (0x27BC840000000001, .rqryInj ⟨false, 0⟩ 60 33),
    (0x27BC840000000002, .rqryRet ⟨false, 0⟩ 60 33),
    (0x27BC840000000003, .rqryEnc ⟨false, 0⟩ 60 33),
    (0x27BC840000000004, .rqryMiss ⟨false, 0⟩ 60 33),
    (0x27BC840000000005, .rqryLost ⟨false, 0⟩ 60 33),
    (0x27C5180700000002, .evcfgPset ⟨false, 0⟩ 5 6 7),
    (0x2845180720000000, .evwr ⟨false, 0⟩ 5 6 7 8),
    (0x7C05080000000000, .evsend ⟨false, 0⟩ 5 2),
    (0x7C460C0400000003, .evadv ⟨false, 0⟩ 6 3 4 .die),
    (0x27FC841500000000, .evcfgBind ⟨false, 0⟩ 60 33 21),
    (0x27FC840000000001, .evcfgFree ⟨false, 0⟩ 60 33),
    (0x283C8415F8000000, .evrd ⟨false, 0⟩ 60 33 21 62),
    (0x283C841500000001, .evrdStat ⟨false, 0⟩ 60 33 21),
    (0x28BC840000000000, .jcntInj ⟨false, 0⟩ 60 33),
    (0x28BC840000000001, .jcntCons ⟨false, 0⟩ 60 33),
    (0x28BC840000000002, .jcntRep ⟨false, 0⟩ 60 33),
    (0x28BC840000000003, .jcntCalls ⟨false, 0⟩ 60 33),
    (0x28FC841500000000, .jrepTake ⟨false, 0⟩ 60 33 21),
    (0x28FC840000000001, .jrepCount ⟨false, 0⟩ 60 33),
    (0x28FC840000000002, .jrepClose ⟨false, 0⟩ 60 33)] = true := by
  decide +kernel

/-- R78, R91, R208, R213: SEG 11, HINT 10:9, SX 8, ORD 7:6, SCOPE 5:3, SIZE 2:0, the offset in 31:12. -/
theorem test_decode_memory : decodesTo [
    (0x6005080000040102, .ld ⟨false, 0⟩ 5 2 0 64 true ⟨false, .normal, .none, .pl⟩ .b32),
    (0x603C86D5FFFFFA5B, .ld ⟨true, 3⟩ 60 33 21 0xFFFFF false ⟨true, .stream, .acq, .die⟩ .b64),
    (0x604086D57FFFF4A8, .st ⟨true, 3⟩ 33 21 0x7FFFF ⟨false, .keep, .rel, .sys⟩ .b8),
    (0x609F86D500010A5C, .ldv ⟨true, 3⟩ 31 33 21 16 ⟨true, .stream, .acq, .die⟩ .b128),
    (0x60C086DF00010091, .stv ⟨true, 3⟩ 33 31 16 ⟨false, .normal, .rel, .cl⟩ .b16),
    (0x613C86D5FFFF80E3, .cas ⟨true, 3⟩ 60 33 21 0xFFFF8 ⟨false, .normal, .ar, .pkg⟩ .b64),
    (0x614086D500080A10, .pref ⟨true, 3⟩ 33 21 128 true .stream .cl),
    (0x618086D500080A18, .clean ⟨true, 3⟩ 33 21 128 true .stream .die),
    (0x61C086D500080A20, .inval ⟨true, 3⟩ 33 21 128 true .stream .pkg),
    (0x620086D500080A10, .mon ⟨true, 3⟩ 33 21 128 true .stream .cl),
    (0x643C86D500000002, .amoAdd ⟨true, 3⟩ 60 33 21 0 ⟨false, .normal, .none, .pl⟩ .b32),
    (0x647C86D50000804B, .amoAnd ⟨true, 3⟩ 60 33 21 8 ⟨false, .normal, .acq, .form⟩ .b64),
    (0x64BC86D500010092, .amoOr ⟨true, 3⟩ 60 33 21 16 ⟨false, .normal, .rel, .cl⟩ .b32),
    (0x64FC86D5000180DB, .amoXor ⟨true, 3⟩ 60 33 21 24 ⟨false, .normal, .ar, .die⟩ .b64),
    (0x653C86D500020022, .amoMin ⟨true, 3⟩ 60 33 21 32 ⟨false, .normal, .none, .pkg⟩ .b32),
    (0x657C86D50002806B, .amoMax ⟨true, 3⟩ 60 33 21 40 ⟨false, .normal, .acq, .sys⟩ .b64),
    (0x65BC86D500030082, .amoMinn ⟨true, 3⟩ 60 33 21 48 ⟨false, .normal, .rel, .pl⟩ .b32),
    (0x65FC86D5000380CB, .amoMaxn ⟨true, 3⟩ 60 33 21 56 ⟨false, .normal, .ar, .form⟩ .b64),
    (0x663C86D500040012, .amoSwap ⟨true, 3⟩ 60 33 21 64 ⟨false, .normal, .none, .cl⟩ .b32)] = true := by
  decide +kernel

/-- R79, R92, R124: the displacement in bits 37:14 and the join in bits 13:0. -/
theorem test_decode_branches : decodesTo [
    (0x700002FFFFFFC000, .br ⟨true, 3⟩ 0xFFFFFF),
    (0x7040008000014009, .brd ⟨false, 2⟩ 5 9),
    (0x708086FFFFFF8000, .jmp ⟨true, 3⟩ 33 0xFFFFFE),
    (0x70FC02DFFFFFC000, .call ⟨true, 3⟩ 60 0x7FFFFF),
    (0x710086C000000000, .ret ⟨true, 3⟩ 33),
    (0x714086C000003FFF, .jind ⟨true, 3⟩ 33 0x3FFF),
    (0x71BC86C000000007, .callind ⟨true, 3⟩ 60 33 7),
    (0x71C0000000000000, .join)] = true := by
  decide +kernel

/-- R218, R225, R215: OP 15:13, ET 12:11, ORDERED 10, SEG 9, HINT 8:7, ACQ 6, REL 5, SCOPE 2:0. -/
theorem test_decode_copies_and_waits : decodesTo [
    (0x783C86D4F80002C3, .get ⟨true, 3⟩ 60 33 20 62 CM1),
    (0x787C86D4F80002C3, .put ⟨true, 3⟩ 60 33 20 62 CM1),
    (0x78BC86D4F80002C3, .send ⟨true, 3⟩ 60 33 20 62 CM1),
    (0x793C86D4F80002C3, .sendv ⟨true, 3⟩ 60 33 20 62 CM1),
    (0x78FC86D4F8004D25, .senda ⟨true, 3⟩ 60 33 20 62 .max .bf16 true CM2),
    (0x794086D500000000, .cwait ⟨true, 3⟩ 33 21),
    (0x794086C000000001, .cwaitZero ⟨true, 3⟩ 33),
    (0x79BC86C000000000, .ctest ⟨true, 3⟩ 60 33),
    (0x79C002C000000004, .fence ⟨true, 3⟩ .pkg)] = true := by
  decide +kernel

/-- R130, R260, R284, R286, R307, R341, R404. -/
theorem test_decode_system : decodesTo [
    (0x7A00000000000000, .exit ⟨false, 0⟩ 0 0 false),
    (0x7A0086C00000000C, .exit ⟨true, 3⟩ 33 4 true),
    (0x7A45080300000000, .post ⟨false, 0⟩ 5 2 3),
    (0x7AFC841500000005, .barx 60 33 21 .sys),
    (0x7B3C841500000004, .quiet 60 33 21 .pkg),
    (0x7C8086D500000003, .iinv ⟨true, 3⟩ 33 21 .die),
    (0x7CC0000000000000, .isync),
    (0x7D0002C00000BEEF, .trap ⟨true, 3⟩ 0xBEEF),
    (0x7D4000000000002A, .scall ⟨false, 0⟩ 0x2A),
    (0x7D80000000000000, .eret),
    (0x7DFC840000000000, .wfi ⟨false, 0⟩ 60 33),
    (0x7E07000000000001, .mfc ⟨false, 0⟩ 7 1),
    (0x7E40840000000001, .mtc ⟨false, 0⟩ 33 1),
    (0x7EBC00000000000B, .rid ⟨false, 0⟩ 60 11)] = true := by
  decide +kernel

/-- R81, R94: SOP 30:24, d 23:18, a 17:12, RF 11, operand 10:0; slot 0 in bits 61:31. -/
theorem test_decode_dual_words : decodesTo [
    (0x808A0C019B187010, .dualWord ⟨.add, 5, 1, .reg 3⟩ ⟨.ldB64, 6, 7, .imm 0x010⟩),
    (0x8000000000000000, .dualWord ⟨.nop, 0, 0, .imm 0⟩ ⟨.nop, 0, 0, .imm 0⟩),
    (0x81104BFFB0000000, .dualWord ⟨.sub, 8, 9, .imm 0x7ff⟩ ⟨.br, 0, 0, .imm 0x0⟩),
    (0x81904BFF300007FF, .dualWord ⟨.mull, 8, 9, .imm 0x7fe⟩ ⟨.br, 0, 0, .imm 0x7ff⟩),
    (0x82104BFEB00007FE, .dualWord ⟨.and, 8, 9, .imm 0x7fd⟩ ⟨.br, 0, 0, .imm 0x7fe⟩),
    (0x82904BFE300007FD, .dualWord ⟨.or, 8, 9, .imm 0x7fc⟩ ⟨.br, 0, 0, .imm 0x7fd⟩),
    (0x83104BFDB00007FC, .dualWord ⟨.xor, 8, 9, .imm 0x7fb⟩ ⟨.br, 0, 0, .imm 0x7fc⟩),
    (0x83904BFD300007FB, .dualWord ⟨.andn, 8, 9, .imm 0x7fa⟩ ⟨.br, 0, 0, .imm 0x7fb⟩),
    (0x85904BFCB00007FA, .dualWord ⟨.min, 8, 9, .imm 0x7f9⟩ ⟨.br, 0, 0, .imm 0x7fa⟩),
    (0x86104BFC300007F9, .dualWord ⟨.max, 8, 9, .imm 0x7f8⟩ ⟨.br, 0, 0, .imm 0x7f9⟩),
    (0x86904BFBB00007F8, .dualWord ⟨.minn, 8, 9, .imm 0x7f7⟩ ⟨.br, 0, 0, .imm 0x7f8⟩),
    (0x87104BFB300007F7, .dualWord ⟨.maxn, 8, 9, .imm 0x7f6⟩ ⟨.br, 0, 0, .imm 0x7f7⟩),
    (0x8410481F8F0C0802, .dualWord ⟨.shl, 8, 9, .imm 63⟩ ⟨.mov, 3, 0, .reg 2⟩),
    (0x8490481F0F0C0802, .dualWord ⟨.shr, 8, 9, .imm 62⟩ ⟨.mov, 3, 0, .reg 2⟩),
    (0x8510481E8F0C0802, .dualWord ⟨.sar, 8, 9, .imm 61⟩ ⟨.mov, 3, 0, .reg 2⟩),
    (0x8000000010009821, .dualWord ⟨.nop, 0, 0, .imm 0⟩ ⟨.cmpEq, 0, 9, .reg 33⟩),
    (0x8000000011049821, .dualWord ⟨.nop, 0, 0, .imm 0⟩ ⟨.cmpNe, 1, 9, .reg 33⟩),
    (0x8000000012089821, .dualWord ⟨.nop, 0, 0, .imm 0⟩ ⟨.cmpLtI, 2, 9, .reg 33⟩),
    (0x80000000130C9821, .dualWord ⟨.nop, 0, 0, .imm 0⟩ ⟨.cmpGeI, 3, 9, .reg 33⟩),
    (0x8000000014109821, .dualWord ⟨.nop, 0, 0, .imm 0⟩ ⟨.cmpLtN, 4, 9, .reg 33⟩),
    (0x8000000015149821, .dualWord ⟨.nop, 0, 0, .imm 0⟩ ⟨.cmpGeN, 5, 9, .reg 33⟩),
    (0x8C08480000000000, .dualWord ⟨.ldN8, 4, 9, .imm 0⟩ ⟨.nop, 0, 0, .imm 0⟩),
    (0x8C88480400000000, .dualWord ⟨.ldN16, 4, 9, .imm 8⟩ ⟨.nop, 0, 0, .imm 0⟩),
    (0x8D08480800000000, .dualWord ⟨.ldN32, 4, 9, .imm 16⟩ ⟨.nop, 0, 0, .imm 0⟩),
    (0x8D88480C00000000, .dualWord ⟨.ldB64, 4, 9, .imm 24⟩ ⟨.nop, 0, 0, .imm 0⟩),
    (0x8E08481000000000, .dualWord ⟨.ldI8, 4, 9, .imm 32⟩ ⟨.nop, 0, 0, .imm 0⟩),
    (0x8E88481400000000, .dualWord ⟨.ldI16, 4, 9, .imm 40⟩ ⟨.nop, 0, 0, .imm 0⟩),
    (0x8F08481800000000, .dualWord ⟨.ldI32, 4, 9, .imm 48⟩ ⟨.nop, 0, 0, .imm 0⟩),
    (0x90084BFC0F0C0400, .dualWord ⟨.stB8, 4, 9, .imm 0x7F8⟩ ⟨.mov, 3, 0, .imm 0x400⟩),
    (0x90884BFC0F0C0400, .dualWord ⟨.stB16, 4, 9, .imm 0x7F8⟩ ⟨.mov, 3, 0, .imm 0x400⟩),
    (0x91084BFC0F0C0400, .dualWord ⟨.stB32, 4, 9, .imm 0x7F8⟩ ⟨.mov, 3, 0, .imm 0x400⟩),
    (0x91884BFC0F0C0400, .dualWord ⟨.stB64, 4, 9, .imm 0x7F8⟩ ⟨.mov, 3, 0, .imm 0x400⟩),
    (0x94384C0F00000000, .dualWord ⟨.vaddI32, 28, 9, .reg 30⟩ ⟨.nop, 0, 0, .imm 0⟩),
    (0x94B84C0F00000000, .dualWord ⟨.vsubI32, 28, 9, .reg 30⟩ ⟨.nop, 0, 0, .imm 0⟩),
    (0x95384C0F00000000, .dualWord ⟨.faddF32, 28, 9, .reg 30⟩ ⟨.nop, 0, 0, .imm 0⟩),
    (0x95B84C0F00000000, .dualWord ⟨.fmulF32, 28, 9, .reg 30⟩ ⟨.nop, 0, 0, .imm 0⟩)] = true := by
  decide +kernel

/-- R143 to R145: FSQRT and FPACK with a rounding mode, FSEL with a predicate of elements. -/
theorem test_decode_rounded : decodesTo [
    (0x135F46C002400000, .fsqrt ⟨true, 3⟩ 31 17 .f32 .rdn),
    (0x145F46C9F8E00000, .fpack ⟨true, 3⟩ 31 17 9 62 .e5m2 .rne 0),
    (0x129F46C978400000, .fsel ⟨true, 3⟩ 31 17 9 30 .f32)] = true := by
  decide +kernel

/-! ## Well-formedness: an ill-formed term for each check, refused, and words that the decoder rejects by name. -/

/-- Every instruction of a list is ill formed. -/
def allIll (l : List Instr) : Bool := l.all (fun i => !i.wf)

/-- Every instruction of a list is well formed. -/
def allWf (l : List Instr) : Bool := l.all (·.wf)

def M0 : MMod := ⟨false, .normal, .none, .pl⟩

/-- A never-true guard (03 R74), the bit fields and the byte swap of 05 R118, R119. -/
theorem test_wf_scalar : allIll [.nop ⟨true, 0⟩, .add ⟨true, 0⟩ 1 2 3 .w64 false false, .bswap gd 1 2 .w8 false,
    .bfx gd 1 2 false 60 4, .bfi gd 1 2 3 63 1] = true ∧
    allWf [.nop ⟨true, 1⟩, .bswap gd 1 2 .w16 false, .bfx gd 1 2 false 60 3, .bfi gd 1 2 3 0 63] = true := by
  decide +kernel

/-- Types, parts and destinations of the packed floating words (06 R137 to R149). -/
theorem test_wf_float : allIll [.fadd gd 1 2 3 .i8 .dyn, .fsub gd 1 2 3 .e4m3 .dyn, .fmul gd 1 2 3 .lg6 .dyn,
    .ffma gd 1 2 3 4 .i32 .dyn, .ffms gd 1 2 3 4 .e5m2 .dyn, .fmin gd 1 2 3 .n8, .fmax gd 1 2 3 .lg6, .fabs gd 1 2 .i64,
    .fneg gd 1 2 .n64, .fclass gd 1 2 .e4m3, .fcmp gd 32 1 2 .f32 .vec .eq, .fcmp gd 8 1 2 .f32 .any .eq,
    .fcmp gd 1 2 3 .i32 .vec .eq, .frcp gd 1 2 .i8, .frsq gd 1 2 .e5m2, .fexp2 gd 1 2 .lg6, .flog2 gd 1 2 .i16,
    .fsqrt gd 1 2 .e4m3 .dyn, .fcvt gd 1 2 .i32 .i16 .dyn 0, .fcvt gd 1 2 .f32 .f32 .dyn 0, .fcvt gd 1 2 .bf16 .f32 .dyn 2,
    .fpack gd 1 2 3 4 .f32 .dyn 0, .fpack gd 1 2 3 4 .bf16 .dyn 1, .fpack gd 1 2 3 4 .e4m3 .dyn 2, .funpack gd 1 2 3 .f32 0,
    .funpack gd 1 2 3 .bf16 2, .funpack gd 1 2 3 .lg6 4, .fdot gd 1 2 3 .f32 .f32 .dyn false, .fdot gd 1 2 3 .f32 .bf16 .dyn true,
    .fdot gd 1 2 3 .i32 .i8 .rne false, .fdot gd 1 2 3 .i32 .i16 .dyn false, .fsum gd 1 2 .e4m3 .dyn] = true ∧
    allWf [.fcmp gd 31 1 2 .f32 .vec .eq, .fcmp gd 7 1 2 .f32 .any .eq, .fcvt gd 1 2 .bf16 .f32 .dyn 1,
      .fpack gd 1 2 3 4 .e4m3 .dyn 1, .funpack gd 1 2 3 .lg6 3, .fdot gd 1 2 3 .i32 .i8 .dyn true] = true := by
  decide +kernel

/-- Types, elements and register kinds of the packed integer and cross-lane words (06 R150 to R162). -/
theorem test_wf_packed : allIll [.vextr gd 1 2 .i64 2, .vins gd 1 2 .f32 4, .vadd gd 1 2 3 .f32 false, .vsub gd 1 2 3 .f16 false,
    .vmul gd 1 2 3 .bf16 false, .vmin gd 1 2 3 .e4m3, .vmax gd 1 2 3 .e5m2, .vshl gd 1 2 3 .lg6, .vshr gd 1 2 3 .f32,
    .vpopc gd 1 2 .f32, .vcmp gd 32 1 2 .i8 .vec .eq, .vcmp gd 8 1 2 .i8 .all .eq, .vcmp gd 1 2 3 .f32 .vec .eq,
    .shfl gd 1 2 3 4 .i32 .idx false true, .shfl gd 32 2 3 4 .i8 .idx false true, .shfl gd 1 32 3 4 .i8 .idx false true,
    .shfl gd 1 2 3 4 .f32 .idx false false, .matchLanes gd 1 2 3 .f16, .red gd 1 2 0 4 .f32 .dyn false .and true,
    .red gd 1 2 0 4 .i64 .dyn false .minidx true, .red gd 1 2 0 4 .bf16 .dyn false .add true,
    .red gd 1 2 0 4 .i32 .rne false .add true, .red gd 1 2 0 4 .f32 .dyn true .add true, .red gd 1 2 0 4 .i32 .dyn true .min true,
    .red gd 1 2 3 4 .i32 .dyn false .add false, .scan gd 1 2 0 4 .i32 .dyn false .maxidx true false,
    .scan gd 1 2 3 4 .i32 .dyn false .add false false, .exch gd 32 1 2 3 4 true, .exch gd 1 32 2 3 4 true] = true ∧
    allWf [.vextr gd 1 2 .i64 1, .vins gd 1 2 .f32 3, .shfl gd 63 63 3 4 .i64 .idx false false, .exch gd 63 63 2 3 4 false,
      .red gd 1 2 0 4 .n32 .dyn false .minidx false, .red gd 1 2 3 4 .f32 .sr false .add true] = true := by
  decide +kernel

/-- Register pairs, sizes, scopes and selectors (07 R170, R179, 08 R205, R218, 09 R243, 14 R341, 16 R384, 17 R404, 18). -/
theorem test_wf_units : allIll [.mma 1 3 2 4 0 .normal false, .mma 1 2 3 4 0 .normal false, .mdrain 3 1 .f32 .dyn .pl false,
    .mdrain 2 1 .i32 .dyn .pl false, .mdrainr 1 3 1 2 .f32 .dyn false, .mdrainr 1 2 1 2 .lg6 .dyn false,
    .ld gd 1 2 3 0 false M0 .b128, .st gd 1 2 0 M0 .b128, .cas gd 1 2 3 0 M0 .b8, .cas gd 1 2 3 0 M0 .b128,
    .amoAdd gd 1 2 3 0 M0 .b16, .amoSwap gd 1 2 3 0 M0 .b8, .get gd 1 2 3 4 CM1, .put gd 1 2 5 4 CM1, .send gd 1 2 7 4 CM1,
    .senda gd 1 2 3 4 .add .f32 false CM1, .sendv gd 1 2 4 3 CM1, .sendv gd 1 2 3 4 CM1, .sendv gd 1 2 4 0 CM1,
    .exit gd 1 5 false, .exit gd 1 0 false, .exit gd 0 0 true, .barx 1 2 3 .cl, .quiet 1 2 3 .form, .evadv gd 1 2 3 .pl,
    .rinj gd 1 2 3 4, .mfc gd 1 16, .mtc gd 1 16, .rid gd 1 12] = true ∧
    allWf [.ldv gd 1 2 3 0 M0 .b128, .stv gd 1 2 0 M0 .b128, .exit gd 0 0 false, .exit gd 1 4 true, .barx 1 2 3 .die,
      .quiet 1 2 3 .cl, .evadv gd 1 2 3 .cl, .mfc gd 1 15, .rid gd 1 11] = true := by
  decide +kernel

/-- Dual words (03 R75, R82, R84): register kinds, reserved fields and the four rules of pairing. -/
theorem test_wf_dual : allIll [.dualWord ⟨.cmpEq, 8, 1, .imm 0⟩ ⟨.nop, 0, 0, .imm 0⟩,
    .dualWord ⟨.nop, 0, 0, .imm 0⟩ ⟨.faddF32, 1, 32, .reg 2⟩, .dualWord ⟨.nop, 1, 0, .imm 0⟩ ⟨.nop, 0, 0, .imm 0⟩,
    .dualWord ⟨.mov, 5, 1, .imm 0⟩ ⟨.nop, 0, 0, .imm 0⟩, .dualWord ⟨.shl, 5, 1, .imm 64⟩ ⟨.nop, 0, 0, .imm 0⟩,
    .dualWord ⟨.faddF32, 1, 2, .imm 0⟩ ⟨.nop, 0, 0, .imm 0⟩, .dualWord ⟨.nop, 0, 0, .imm 0⟩ ⟨.br, 0, 1, .imm 0⟩,
    .dualWord ⟨.add, 5, 4, .imm 1⟩ ⟨.add, 9, 4, .imm 1⟩, .dualWord ⟨.add, 5, 4, .imm 1⟩ ⟨.add, 6, 9, .imm 1⟩,
    .dualWord ⟨.add, 5, 10, .imm 1⟩ ⟨.add, 6, 4, .imm 1⟩, .dualWord ⟨.ldB64, 5, 4, .imm 0⟩ ⟨.stB64, 6, 8, .imm 8⟩,
    .dualWord ⟨.br, 0, 0, .imm 1⟩ ⟨.nop, 0, 0, .imm 0⟩] = true ∧
    allWf [.dualWord ⟨.add, 5, 4, .imm 1⟩ ⟨.add, 6, 8, .imm 1⟩, .dualWord ⟨.nop, 0, 0, .imm 0⟩ ⟨.br, 0, 0, .imm 0x7FF⟩] = true := by
  decide +kernel

/-- The order of 03 R85: class, opcode, guard, registers, reserved fields; 03, worked example 2:
slot 0 reads x2 in the bank of slot 1's destination x6. -/
theorem test_decode_errors : decode 0xC000000000000000 = .error .reservedClass ∧ decode (0x00B <<< 54) = .error .unassigned ∧
    decode (0x0C0 <<< 54) = .error .profileAbsent ∧ decode (0x001 <<< 54 ||| 8 <<< 38) = .error .badGuard ∧
    decode (0x00B <<< 54 ||| 8 <<< 38) = .error .unassigned ∧ decode (0x020 <<< 54 ||| 8 <<< 48) = .error .badRegister ∧
    decode (0x001 <<< 54 ||| 1) = .error .reservedField ∧
    decode (2 <<< 62 ||| 0x01141802 <<< 31 ||| 0x1B187010) = .error .pairing := by
  decide +kernel

/-! ## Single steps, from the spec's worked examples and rules. -/

/-- The group after a word executed as an instruction. -/
def after (s : State) (w : Word) : Option Group :=
  match decode w with
  | .ok i => (match exec i s with | .next t => t.group? 3 | _ => none)
  | .error _ => none

/-- A register of a lane after a word. -/
def xAfter (s : State) (w : Word) (i : Nat) (r : XReg) : Option Word := (after s w).map (fun h => (h.lane i).rx r)

/-- 05, worked example 1: DIVN.n32 and REMN.n32 of 100 by 0. -/
def LDiv : List Lane := [laneX [(8, 0xFFFFFFFF00000064), (9, 0x300000000)]]
theorem test_divn : xAfter (stT LDiv) 0x01C7200900020000 0 7 = some 0xFFFFFFFF := by
  decide +kernel
theorem test_remn : xAfter (stT LDiv) 0x0247200900020000 0 7 = some 0x64 := by
  decide +kernel

/-- 05 R111, R112: SUB.n32.sat clamps 3 − 5 at 0, and ADD.i8 wraps 127 + 1 to −128. -/
theorem test_sub_sat : xAfter (stT [laneX [(8, 3), (9, 5)]]) 0x0087200900038000 0 7 = some 0 := by
  decide +kernel
theorem test_add_wraps : xAfter (stT [laneX [(8, 127), (9, 1)]]) 0x0047200900060000 0 7 = some 0xFFFFFFFFFFFFFF80 := by
  decide +kernel

/-- 05, worked example 3: lanes 0 and 2 pass k2 and go to 0x30 beyond the BRD, lanes 1 and 3 go on, and the join's mask is 0b1111. -/
def LB3 : List Lane := [(laneX []).wk 2 true, laneX [], (laneX []).wk 2 true, laneX []]
theorem test_brd : (after (stT LB3) 0x7040008000014009).map (fun h =>
    (h.paths.map (fun p => (p.lanes, p.pc)), h.joins.map (fun j => (j.addr, j.mask)))) =
    some ([([0, 2], 0x1028), ([1, 3], 0x1008)], [(0x1048, [0, 1, 2, 3])]) := by
  decide +kernel

/-- 06, worked example 1 under the guard k1, which fails in lane 1: lane 6 has exited. -/
def red8 : List Lane := ([9, 2, 7, 4, 12, 4, 30, 5].zipIdx).map (fun x =>
  { (laneX [(4, x.1)]).wk 1 (x.2 != 1) with exited := x.2 == 6 })
theorem test_red_minidx : (after (stT red8) 0x1CC5104000300006).map (fun h =>
    (List.range 8).map (fun i => ((h.lane i).rx 5, (h.lane i).rk 7))) = some [(0x300000004, true), (0, false), (0x300000004, true),
      (0x300000004, true), (0x300000004, true), (0x300000004, true), (0, false), (0x300000004, true)] := by
  decide +kernel

/-- 02 R62: the generator's start and its first draws, computed by hand from the rule; 02, worked example 1: a draw of 0x9C40 rounds
0x3F808000 up, 0x1234 down, and 0xC000 is the least that rounds 0x3F804000 up. -/
theorem test_generator : srSeed 0x123456789ABCDEF0 2045 = 0xECCA874874E3E07C ∧ (List.range 5).map (srDrawAt 0 0x123456789ABCDEF0) = [0x5DF4, 0x6F81, 0xBF6F, 0x7A01, 0x79A6] := by
  decide +kernel
theorem test_stochastic_rounding : (convert .f32 .bf16 .sr 0x9C40 0x3F808000).1 = 0x3F81 ∧
    (convert .f32 .bf16 .sr 0x1234 0x3F808000).1 = 0x3F80 ∧ (convert .f32 .bf16 .sr 0xBFFF 0x3F804000).1 = 0x3F80 ∧
    (convert .f32 .bf16 .sr 0xC000 0x3F804000).1 = 0x3F81 := by
  decide +kernel

/-- 02, worked example 2: a group of LOG6 products, scaled by 2. -/
theorem test_log6_group : (accStep (0, Fl.none) (groupValue .lg6 .lg6 ([(0x15, 0x2E), (0x15, 0x15)] ++ List.replicate 14 (0, 0x15)) (some 0x80)
    (some 0x7F))).1 = 0x40FE6768 := by
  decide +kernel

/-- 08, worked example 1: LD.i32 sign-extends. -/
def LLd : List Lane := [laneX [(2, 0xFC00000000000000)]]
theorem test_ld_i32 : xAfter (withPad (stT LLd) [(64, 0xFE), (65, 0xFF), (66, 0xFF), (67, 0x80)]) 0x6005080000040102 0 5 =
    some 0xFFFFFFFF80FFFFFE := by
  decide +kernel

/-- 14, worked example 1: P1's BSYNC registers, and P0's is the last arrival of GEN 0. -/
def LBs : List Lane := [laneX [(10, 0xFC00000000000040)]]
def barW (n : Nat) : List Host.Cell := ((toBytes 8 n).zipIdx).filterMap (fun b => if b.1 = 0 then none else some (64 + b.2, b.1))
theorem test_bsync_last : xAfter (withPad (stT LBs) (barW 0x0004000000020003)) 0x2645280000000000 0 5 = some 0x00100001 := by
  decide +kernel

/-- 16, worked example 1: the delivery of tick 2, which fires, and that of tick 3, which finds the accumulator refractory. -/
def psEx : Machine.PSet := ⟨0x7FFF, 2, 0x3F800000, 0, 1, 0, 0, 0⟩
theorem test_delivery_fires : (let r := deliverTo psEx ⟨0, 0, true, 0, 1, 0x3F400000, 0⟩ 2 0x3F400000
    (r.acc, r.fired)) = (⟨1, 2, true, 0, 2, 0, 0⟩, some 0x3F900000) := by
  decide +kernel
theorem test_delivery_refractory : (deliverTo psEx ⟨1, 2, true, 0, 2, 0, 0⟩ 3 0x3F000000).acc = ⟨1, 1, true, 0, 3, 0, 0⟩ := by
  decide +kernel

/-- 18, worked example 1: the walk of 0x0000_4000_1A60_0340. -/
def walkMem : MemSys := { MemSys.empty with hbm :=
  [(0x1000000080, 0x01), (0x1000000082, 0x02), (0x1000000084, 0x10), (0x1000020008, 0x01), (0x1000020009, 0x04), (0x100002000A, 0x04),
   (0x100002000C, 0x10), (0x1000040698, 0x17), (0x100004069A, 0x60), (0x100004069B, 0x40),
   (0x100004069C, 0x23)] }
theorem test_walk : (match walkMem.translate 0x1000000000 0 1 false 0x40001A600340 needR 0 with
    | (.ok r, _, _) => some r.1 | _ => none) = some 0x2340600340 := by
  decide +kernel

/-- 03 R85, 10 R253: a class-3 word is ILLEGAL_INSTRUCTION with subcode RESERVED_CLASS. -/
theorem test_reserved_class : (match step ((stT [laneX []]).withFetchWord 64 0xC000000000000000) with
    | .next t => (t.group? 3).map (fun h => ((h.lane 0).tcause, (h.lane 0).privS)) | _ => none) = some (0x0101, true) := by
  decide +kernel

/-- 13, worked example 1 after step 2: DIVQ.state in lane 2, whose path is live beside lane 3's, with {0, 1} on the stack. -/
def gDiv : Group := { groupT L4 with
  joins := [⟨7, 0x2000, [0, 1, 2, 3]⟩], dlim := 4,
  paths := [{ pathT L4 with lanes := [2], joins := [7] }, { pathT L4 with pid := 5, lanes := [3], joins := [7] },
    { pathT L4 with pid := 6, lanes := [0, 1], joins := [7], stacked := some 1, slotAddr := 0xFC00000000003FF0 }] }
theorem test_divq_state : xAfter { stT L4 with groups := [gDiv] } 0x2548000000000000 2 8 = some 0x0008000000043108 := by
  decide +kernel

/-- 02 R53, 06 R138: 2^24 + 1 is a tie in FP32 and goes to the even 2^24, and −1 + 1 is +0. -/
theorem test_fadd_tie : ((after (stT [((laneX []).wv 1 0x0000000000000000BF8000004B800000).wv 2 0x00000000000000003F8000003F800000])
    0x1003040200C00000).map (fun h => ((h.lane 0).rv 3).toNat % 2 ^ 64)) = some 0x4B800000 := by
  decide +kernel

/-- 06 R150: VADD.i8.sat clamps each element. -/
theorem test_vadd_sat : (after (stT [((laneX []).wv 17 0x7F80).wv 9 0x01FF]) 0x181F440900004000).map (fun h => (h.lane 0).rv 31) =
    some 0x7F80 := by
  decide +kernel

end Sys2Proof.Tests
end

section
/-!
SETTLED. What one move of the machine comes to: which move a step makes (log 1), what the issue of a path that may issue is
(12 R306), and what running its word is (03 R85, R86). From these, O55.
-/

namespace Sys2Proof.Machine

open Sys2Proof

/-- The move on top of the agenda is the one to make. -/
theorem State.choose_of_agenda {s : State} {m : Sched} {rest : List Sched} (h : s.agenda = m :: rest) :
    s.choose = some (m, rest) := by
  simp only [State.choose, h]

/-- With neither a rebase nor a tick due, a step is the move on top of the agenda, after the clk that stand before it, and what it
wakes. -/
theorem step_of_agenda {s : State} {m : Sched} {rest : List Sched} (hm : s.agenda = m :: rest) (hts : s.tsHigh = false)
    (htick : s.tickWithin m.dt = false) :
    step s = wake (({ s with agenda := rest }.pass m.dt).makeMove m.move) := by
  simp only [step, State.tick, State.choose_of_agenda hm, hts, htick, Bool.false_eq_true, if_false]

/-- A path may issue in this clk exactly when nothing of context, path, result, pipeline, fence or turn keeps it. -/
theorem State.mayIssue_iff (s : State) (g : Group) (p : Path) :
    s.mayIssue g p = true ↔ s.issues g.ctx = true ∧ g.canIssue p = true ∧ p.readyAt ≤ s.clk ∧ s.pipeBusy g p = false ∧
      s.fencesReady g p = true ∧ s.turnOk g p = true := by
  simp only [State.mayIssue, Bool.and_eq_true, Bool.not_eq_true', decide_eq_true_eq, and_assoc]

/-- The issue of a path that may issue and has its next word: the word is run once the path has moved on. -/
theorem State.issue_of_word {s s1 : State} {gid pid : Nat} {g : Group} {p : Path} {w : Word} (hg : s.group? gid = some g)
    (hp : g.path? pid = some p) (hmay : s.mayIssue g p = true) (hw : (s.takeFences g p).nextWord g p = .word w s1) :
    s.issue gid pid = conclude g p w ((s1.issued gid pid).runWord gid pid p w) := by
  simp only [State.issue, hg, hp, hmay, hw, Bool.not_true, Bool.false_eq_true, if_false]

/-- A word that decodes runs as the meaning of its instruction at the path. -/
theorem State.runWord_of_decodes {w : Word} {i : Instr} (h : decode w = .ok i) (s : State) (gid pid : Nat) (p : Path) :
    s.runWord gid pid p w = exec i { s with curG := gid, curP := pid } := by
  simp only [State.runWord, h]

/-- A word that the decoder refuses traps in every lane of the path, with the number of the check and the word. -/
theorem State.runWord_of_refused {w : Word} {e : DecodeError} (h : decode w = .error e) (s : State) (gid pid : Nat) (p : Path) :
    s.runWord gid pid p w =
      .next ((s.takeTraps gid p.pc (p.lanes.map (fun l => (l, ⟨1, e.code, w, false⟩)))).settle gid) := by
  simp only [State.runWord, h, allLanes, decodeTrap]

/-- Settles O55: the step is the move of the agenda, the move is the issue of the path, and the issue runs the word, which
either decodes or is refused. -/
theorem stepRunsTheDecodedWord : Obligations.StepRunsTheDecodedWord := by
  unfold Obligations.StepRunsTheDecodedWord
  intro s s1 dt gid pid rest g p w hagenda hts htick s0 hg hp hctx hcan hready hturn hpipe hfence hword at_
  have hmay : s0.mayIssue g p = true := (s0.mayIssue_iff g p).2 ⟨hctx, hcan, hready, hpipe, hfence, hturn⟩
  have hstep : step s = wake (conclude g p w (at_.runWord gid pid p w)) :=
    calc step s = wake (s0.issue gid pid) := step_of_agenda hagenda hts htick
      _ = wake (conclude g p w (at_.runWord gid pid p w)) := by rw [State.issue_of_word hg hp hmay hword]
  constructor
  · intro i hdecodes
    rw [hstep, State.runWord_of_decodes hdecodes]
  · intro e hrefused
    rw [hstep, State.runWord_of_refused hrefused]

end Sys2Proof.Machine
end

section
/-!
SETTLED. The integer words that go through a product or a quotient (05 R112, R113): division in the words of R113, and the four
division words and two high products as register words. From these, O2.
-/

namespace Sys2Proof.Machine

open Sys2Proof

/-- A word whose meaning is a register word with the function `f`, given by its values, acts by it. -/
theorem ActsBy.of_regWord {o : State → Out} {gd : Guard} {f f' : Lane → Lane} (ho : ∀ s, o s = regWord gd f s)
    (hf : ∀ x, f x = f' x) : ActsBy o gd f' := by
  obtain rfl : o = regWord gd f := funext ho
  obtain rfl : f = f' := funext hf
  exact regWord_actsBy gd f

/-! Division (05 R113). -/

/-- The condition of signed overflow as a test of `divRem` and as a proposition. -/
theorem signedOverflow_iff (a b m : Int) (sgn : Bool) :
    (sgn && decide (a = m) && decide (b = -1)) = true ↔ sgn = true ∧ a = m ∧ b = -1 := by
  simp only [Bool.and_eq_true, decide_eq_true_eq, and_assoc]

/-- The quotient: all ones for a zero divisor, the dividend at signed overflow, else rounded towards zero. -/
theorem divRem_fst (a b : Int) (w : Nat) (sgn : Bool) :
    (divRem a b w sgn).1 =
      if b = 0 then 2 ^ w - 1
      else if sgn = true ∧ a = -(2 ^ (w - 1)) ∧ b = -1 then -(2 ^ (w - 1)) else Int.tdiv a b := by
  simp only [divRem, signedOverflow_iff, apply_ite Prod.fst]

/-- The remainder: the dividend for a zero divisor, 0 at signed overflow, else what the quotient leaves. -/
theorem divRem_snd (a b : Int) (w : Nat) (sgn : Bool) :
    (divRem a b w sgn).2 =
      if b = 0 then a
      else if sgn = true ∧ a = -(2 ^ (w - 1)) ∧ b = -1 then 0 else a - Int.tdiv a b * b := by
  simp only [divRem, signedOverflow_iff, apply_ite Prod.snd]

/-- Settles O2: each of the six is a register word, whose value is the product's by definition and the quotient's or the
remainder's by the cases of R113. -/
theorem highProductsAndDivision : Obligations.HighProductsAndDivision := by
  unfold Obligations.HighProductsAndDivision
  intro g d a b w val quo rem
  have hdiv (sgn : Bool) (x : Lane) : x.wx d (aluDiv (x.rx a) (x.rx b) w.bits sgn) = val sgn (quo sgn) x := by
    simp only [aluDiv, divRem_fst, val, quo]
  have hrem (sgn : Bool) (x : Lane) : x.wx d (aluRem (x.rx a) (x.rx b) w.bits sgn) = val sgn (rem sgn) x := by
    simp only [aluRem, divRem_snd, val, rem]
  exact ⟨.of_regWord (fun _ => rfl) (fun _ => rfl), .of_regWord (fun _ => rfl) (fun _ => rfl),
    .of_regWord (fun _ => rfl) (hdiv true), .of_regWord (fun _ => rfl) (hdiv false),
    .of_regWord (fun _ => rfl) (hrem true), .of_regWord (fun _ => rfl) (hrem false)⟩

end Sys2Proof.Machine
end

section
/-!
SETTLED. The scalar and packed words that act on the registers of their active lanes: each meaning is a register word (05) or a
packed floating word (06) with the function that its statement names. From these, O1 and O3 to O8.
-/

namespace Sys2Proof.Machine

open Sys2Proof

/-- Settles O1: each is a register word, whose value is R111's result of the exact value by definition. -/
theorem sumsAndProducts : Obligations.SumsAndProducts := by
  unfold Obligations.SumsAndProducts
  intro g d a b w u sat sh imm
  refine ⟨?_, ?_, ?_, ?_, ?_, ?_⟩ <;> exact .of_regWord (fun _ => rfl) (fun _ => rfl)

/-! The 64-bit patterns that the immediate forms keep (05 R114). -/

/-- The two's complement pattern of a 64-bit word is the word's own. -/
theorem intBits_toNat (v : Word) : intBits 64 (v.toNat : Int) = v.toNat := by
  have := v.isLt
  unfold intBits
  omega

/-- Reading a 64-bit pattern as a signed number and storing it again changes nothing. -/
theorem ofInt_sextInt (v : Word) : BitVec.ofInt 64 (sextInt 64 v.toNat) = v := by
  have := v.isLt
  apply BitVec.eq_of_toNat_eq
  unfold sextInt
  rw [BitVec.toNat_ofInt]
  split <;> omega

/-- A 64-bit result that is a word already is stored as it is. -/
theorem storeRes_toNat (v : Word) : storeRes (v.toNat : Int) 64 true false = v := by
  simp only [storeRes, Bool.false_eq_true, if_false, if_true, intBits_toNat, ofInt_sextInt]

/-- The immediate forms of the logical words are the operation on the 64-bit words. -/
theorem aluBits_wide (f : Word → Word → Word) (a b : Word) : aluBits f a b 64 false = f a b := storeRes_toNat _

/-- Settles O3: each is a register word; an immediate form has width 64, where the result of R111 is the word itself. -/
theorem logicalWordsAndExtrema : Obligations.LogicalWordsAndExtrema := by
  unfold Obligations.LogicalWordsAndExtrema
  constructor
  · intro g d a b w u imm val wide
    have hwide (f : Word → Word → Word) (x : Lane) :
        x.wx d (aluBits f (x.rx a) (simm imm) 64 false) = wide f x := congrArg (x.wx d) (aluBits_wide f _ _)
    exact ⟨.of_regWord (fun _ => rfl) (fun _ => rfl), .of_regWord (fun _ => rfl) (fun _ => rfl),
      .of_regWord (fun _ => rfl) (fun _ => rfl), .of_regWord (fun _ => rfl) (fun _ => rfl),
      .of_regWord (fun _ => rfl) (fun _ => rfl), .of_regWord (fun _ => rfl) (fun _ => rfl),
      .of_regWord (fun _ => rfl) (hwide _), .of_regWord (fun _ => rfl) (hwide _),
      .of_regWord (fun _ => rfl) (hwide _), .of_regWord (fun _ => rfl) (hwide _)⟩
  · intro g d a b w imm val wide
    refine ⟨?_, ?_, ?_, ?_, ?_, ?_, ?_, ?_⟩ <;> exact .of_regWord (fun _ => rfl) (fun _ => rfl)

/-- Settles O4: each is a register word with the product or quotient of its statement. -/
theorem shiftsAndRotations : Obligations.ShiftsAndRotations := by
  unfold Obligations.ShiftsAndRotations
  intro g d a b w u k n rot low
  refine ⟨?_, ?_, ?_, ?_, ?_, ?_, ?_, ?_, ?_, ?_⟩ <;> exact .of_regWord (fun _ => rfl) (fun _ => rfl)

/-- Settles O5: the words are register words, and the laws of x0, k0 and of reading after a write are those of a thread's registers. -/
theorem comparesPredicatesAndConstants : Obligations.ComparesPredicatesAndConstants := by
  unfold Obligations.ComparesPredicatesAndConstants
  constructor
  · intro g d k1 k2 x0 a b w u c op imm
    refine ⟨?_, ?_, ?_, ?_, ?_, ?_⟩ <;> exact .of_regWord (fun _ => rfl) (fun _ => rfl)
  · intro x d r e q w b
    exact ⟨x.rx_zero, x.rk_zero, x.wx_zero w, x.wk_zero b, x.rx_wx_same d w, x.rx_wx_other d r w, x.rk_wk_same e b,
      x.rk_wk_other e q b⟩

/-- Settles O6: each is a register word; NOP's function is the identity. -/
theorem movesCountsAndFields : Obligations.MovesCountsAndFields := by
  unfold Obligations.MovesCountsAndFields
  intro g d a b w u pos len imm low
  refine ⟨?_, ?_, ?_, ?_, ?_, ?_, ?_, ?_, ?_, ?_, ?_, ?_⟩ <;> exact .of_regWord (fun _ => rfl) (fun _ => rfl)

/-- Settles O7: each packed word without flags is a register word on the vector registers. -/
theorem packedWordsWithoutFlags : Obligations.PackedWordsWithoutFlags := by
  unfold Obligations.PackedWordsWithoutFlags
  intro g d a b c xd xa m t sat i r hi dk kd cc
  refine ⟨?_, ?_, ?_, ?_, ?_, ?_, ?_, ?_, ?_, ?_, ?_, ?_, ?_, ?_, ?_, ?_, ?_, ?_, ?_, ?_⟩ <;>
    exact .of_regWord (fun _ => rfl) (fun _ => rfl)

/-- A word whose meaning is a packed floating word with the function `f`, given by its values, acts by it. -/
theorem ActsByFl.of_fpWord {o : State → Out} {gd : Guard} {f f' : Lane → Lane × Fl} (ho : ∀ s, o s = fpWord gd f s)
    (hf : ∀ x, f x = f' x) : ActsByFl o gd f' := by
  obtain rfl : o = fpWord gd f := funext ho
  obtain rfl : f = f' := funext hf
  exact fpWord_actsByFl gd f

/-- Settles O8: each is a packed floating word with its elementwise result; FCMP's destination is the one that KD names. -/
theorem packedFloatWordsAndCompares : Obligations.PackedFloatWordsAndCompares := by
  unfold Obligations.PackedFloatWordsAndCompares
  constructor
  · intro g d a b c xc t st rm sat p put
    refine ⟨?_, ?_, ?_, ?_, ?_, ?_, ?_, ?_, ?_, ?_, ?_, ?_, ?_, ?_, ?_, ?_, ?_, ?_, ?_⟩ <;>
      exact .of_fpWord (fun _ => rfl) (fun _ => rfl)
  · intro g d a b t kd c
    exact .of_fpWord (fun _ => rfl) (fun _ => by cases kd <;> rfl)

/-- Settles O9: each reads its group and units into a register of its active lanes. -/
theorem wordsThatReadUnits : Obligations.WordsThatReadUnits := by
  unfold Obligations.WordsThatReadUnits
  intro g d a sel
  refine ⟨?_, ?_, ?_, ?_, ?_, ?_, ?_, ?_, ?_, ?_, ?_, ?_, ?_, ?_, ?_⟩ <;> exact .of_eq (fun _ => rfl)

end Sys2Proof.Machine
end

section
/-!
SETTLED. The decoder and the encoder (03 R70 to R95): the fields of a word written from the encoding tables read back as they
  were
written, so the candidate of its opcode is the instruction; the decoder refuses a word that its candidate does not account for.
From these, O56, O57 and O58.
-/

namespace Sys2Proof

/-! The code of each operand as a bounded number, and the operand that the decoder reads from it. -/

def IntW.fin (w : IntW) : Fin 4 := ⟨w.code, by cases w <;> decide⟩
def Ty.fin (t : Ty) : Fin 14 := ⟨t.code, by cases t <;> decide⟩
def Rm.fin (r : Rm) : Fin 7 := ⟨r.code, by cases r <;> decide⟩
def Cond.fin (c : Cond) : Fin 6 := ⟨c.code, by cases c <;> decide⟩
def FCond.fin (c : FCond) : Fin 8 := ⟨c.code, by cases c <;> decide⟩
def CmpDest.fin (k : CmpDest) : Fin 3 := ⟨k.code, by cases k <;> decide⟩
def KopOp.fin (o : KopOp) : Fin 8 := ⟨o.code, by cases o <;> decide⟩
def Scope.fin (s : Scope) : Fin 6 := ⟨s.code, by cases s <;> decide⟩
def MSize.fin (s : MSize) : Fin 5 := ⟨s.code, by cases s <;> decide⟩
def Hint.fin (t : Hint) : Fin 3 := ⟨t.code, by cases t <;> decide⟩
def Order.fin (o : Order) : Fin 4 := ⟨o.code, by cases o <;> decide⟩
def ShflMode.fin (m : ShflMode) : Fin 4 := ⟨m.code, by cases m <;> decide⟩
def RedOp.fin (o : RedOp) : Fin 8 := ⟨o.code, by cases o <;> decide⟩
def SendOp.fin (o : SendOp) : Fin 3 := ⟨o.code, by cases o <;> decide⟩
def SendTy.fin (t : SendTy) : Fin 3 := ⟨t.code, by cases t <;> decide⟩
def bitFin (b : Bool) : Fin 2 := ⟨b.toNat, by cases b <;> decide⟩
def Guard.fin (g : Guard) : Fin 16 := ⟨g.code, by have := g.k.isLt; have := g.neg.toNat_lt; unfold Guard.code; omega⟩

theorem IntW.code_fin (w : IntW) : w.code = w.fin.val := rfl
theorem Ty.code_fin (t : Ty) : t.code = t.fin.val := rfl
theorem Rm.code_fin (r : Rm) : r.code = r.fin.val := rfl
theorem Cond.code_fin (c : Cond) : c.code = c.fin.val := rfl
theorem FCond.code_fin (c : FCond) : c.code = c.fin.val := rfl
theorem CmpDest.code_fin (k : CmpDest) : k.code = k.fin.val := rfl
theorem KopOp.code_fin (o : KopOp) : o.code = o.fin.val := rfl
theorem Scope.code_fin (s : Scope) : s.code = s.fin.val := rfl
theorem MSize.code_fin (s : MSize) : s.code = s.fin.val := rfl
theorem Hint.code_fin (t : Hint) : t.code = t.fin.val := rfl
theorem Order.code_fin (o : Order) : o.code = o.fin.val := rfl
theorem ShflMode.code_fin (m : ShflMode) : m.code = m.fin.val := rfl
theorem RedOp.code_fin (o : RedOp) : o.code = o.fin.val := rfl
theorem SendOp.code_fin (o : SendOp) : o.code = o.fin.val := rfl
theorem SendTy.code_fin (t : SendTy) : t.code = t.fin.val := rfl
theorem toNat_bitFin (b : Bool) : b.toNat = (bitFin b).val := rfl
theorem Guard.code_fin (g : Guard) : g.code = g.fin.val := rfl

theorem IntW.ofCode_fin (w : IntW) : IntW.ofCode w.fin.val = w := by cases w <;> rfl
theorem Ty.ofCode_fin (t : Ty) : (Ty.ofCode t.fin.val).getD .i8 = t := by cases t <;> rfl
theorem Rm.ofCode_fin (r : Rm) : (Rm.ofCode r.fin.val).getD .dyn = r := by cases r <;> rfl
theorem Cond.ofCode_fin (c : Cond) : (Cond.ofCode c.fin.val).getD .eq = c := by cases c <;> rfl
theorem FCond.ofCode_fin (c : FCond) : FCond.ofCode c.fin.val = c := by cases c <;> rfl
theorem CmpDest.ofCode_fin (k : CmpDest) : (CmpDest.ofCode k.fin.val).getD .vec = k := by cases k <;> rfl
theorem KopOp.ofCode_fin (o : KopOp) : KopOp.ofCode o.fin.val = o := by cases o <;> rfl
theorem Scope.ofCode_fin (s : Scope) : (Scope.ofCode s.fin.val).getD .pl = s := by cases s <;> rfl
theorem MSize.ofCode_fin (s : MSize) : (MSize.ofCode s.fin.val).getD .b8 = s := by cases s <;> rfl
theorem Hint.ofCode_fin (t : Hint) : (Hint.ofCode t.fin.val).getD .normal = t := by cases t <;> rfl
theorem Order.ofCode_fin (o : Order) : Order.ofCode o.fin.val = o := by cases o <;> rfl
theorem ShflMode.ofCode_fin (m : ShflMode) : ShflMode.ofCode m.fin.val = m := by cases m <;> rfl
theorem RedOp.ofCode_fin (o : RedOp) : RedOp.ofCode o.fin.val = o := by cases o <;> rfl
theorem SendOp.ofCode_fin (o : SendOp) : (SendOp.ofCode o.fin.val).getD .add = o := by cases o <;> rfl
theorem SendTy.ofCode_fin (t : SendTy) : (SendTy.ofCode t.fin.val).getD .f32 = t := by cases t <;> rfl
theorem bit_ofCode (b : Bool) : ((bitFin b).val == 1) = b := by cases b <;> rfl
theorem toX_val (x : Fin 64) : toX x.val = x := Fin.ext (Nat.mod_eq_of_lt x.isLt)
theorem toV_val (x : VReg) : toV x.val = x := Fin.ext (Nat.mod_eq_of_lt x.isLt)
theorem toK_val (x : Fin 8) : toK x.val = x := Fin.ext (Nat.mod_eq_of_lt x.isLt)
theorem toFin16_val (x : Fin 16) : toFin16 x.val = x := Fin.ext (Nat.mod_eq_of_lt x.isLt)
theorem toFin256_val (x : Fin 256) : toFin256 x.val = x := Fin.ext (Nat.mod_eq_of_lt x.isLt)
theorem toFin1024_val (x : Fin 1024) : toFin1024 x.val = x := Fin.ext (Nat.mod_eq_of_lt x.isLt)
theorem Full.guard_fin (op d a low : Nat) (g : Guard) : (Full.mk op d a g.fin.val low).guard = g := by
  obtain ⟨n, k⟩ := g
  have : k.val < 8 := k.isLt
  cases n <;> simp [Full.guard, Guard.fin, Guard.code, toK, Fin.ext_iff] <;> omega

/-! Reading a field of a sum of fields, the highest first. -/

/-- A field that lies below the first term is read from the rest. -/
theorem fieldAt_below {x k r lo w : Nat} (h : lo + w ≤ k) : fieldAt (x * 2 ^ k + r) lo w = fieldAt r lo w := by
  obtain ⟨j, rfl⟩ := Nat.exists_eq_add_of_le h
  have e : x * 2 ^ (lo + w + j) = 2 ^ lo * (2 ^ w * (x * 2 ^ j)) := by ring
  unfold fieldAt
  rw [e, Nat.mul_add_div (Nat.two_pow_pos lo), Nat.mul_add_mod]

/-- A field that the first term holds is that term's number. -/
theorem fieldAt_first {x k r w : Nat} (hx : x < 2 ^ w) (hr : r < 2 ^ k) : fieldAt (x * 2 ^ k + r) k w = x := by
  unfold fieldAt
  rw [Nat.mul_comm, Nat.mul_add_div (Nat.two_pow_pos k), Nat.div_eq_of_lt hr, Nat.add_zero, Nat.mod_eq_of_lt hx]

theorem fieldAt_only {x k w : Nat} (hx : x < 2 ^ w) : fieldAt (x * 2 ^ k) k w = x :=
  fieldAt_first (r := 0) hx (Nat.two_pow_pos k)

theorem fieldAt_zero {x w : Nat} (hx : x < 2 ^ w) : fieldAt x 0 w = x := by
  simpa [fieldAt] using Nat.mod_eq_of_lt hx

theorem fieldAt_only_below {x k lo w : Nat} (h : lo + w ≤ k) : fieldAt (x * 2 ^ k) lo w = 0 := by
  rw [← Nat.add_zero (x * 2 ^ k), fieldAt_below h]
  simp [fieldAt]

/-! The modifier of format M lies in bits 11 to 3, around the bits of SX and the size (03 R78). -/

theorem MMod.code_fin (m : MMod) : m.code =
    (bitFin m.seg).val * 2 ^ 11 + (m.hint.fin.val * 2 ^ 9 + (m.ord.fin.val * 2 ^ 6 + m.scope.fin.val * 2 ^ 3)) := by
  rw [← Nat.add_assoc, ← Nat.add_assoc]; rfl

section
variable (sg x : Fin 2) (h : Fin 3) (o : Fin 4) (sc : Fin 6) (sz : Fin 5)

theorem fieldAt_size :
  fieldAt (sz.val + (sg.val * 2 ^ 11 + (h.val * 2 ^ 9 + (o.val * 2 ^ 6 + sc.val * 2 ^ 3)))) 0 3 = sz.val := by
  unfold fieldAt; omega

theorem fieldAt_sx :
    fieldAt (x.val * 2 ^ 8 + (sz.val + (sg.val * 2 ^ 11 + (h.val * 2 ^ 9 + (o.val * 2 ^ 6 + sc.val * 2 ^ 3))))) 8 1 = x.val
      := by
  unfold fieldAt; omega

/-- The modifier's four fields are read from a number that has them, whatever stands between. -/
theorem MMod.ofCode_eq {n : Nat} {m : MMod} (hs : fieldAt n 11 1 = (bitFin m.seg).val) (hh : fieldAt n 9 2 = m.hint.fin.val)
    (ho : fieldAt n 6 2 = m.ord.fin.val) (hc : fieldAt n 3 3 = m.scope.fin.val) : MMod.ofCode n = m := by
  simp only [MMod.ofCode, hs, hh, ho, hc, bit_ofCode, Hint.ofCode_fin, Order.ofCode_fin, Scope.ofCode_fin]

end

theorem MMod.ofCode_sx (x : Fin 2) (sz : Fin 5) (m : MMod) :
    MMod.ofCode (x.val * 2 ^ 8 + (sz.val + ((bitFin m.seg).val * 2 ^ 11 + (m.hint.fin.val * 2 ^ 9 +
      (m.ord.fin.val * 2 ^ 6 + m.scope.fin.val * 2 ^ 3))))) = m := by
  apply MMod.ofCode_eq <;> (unfold fieldAt; omega)

theorem MMod.ofCode_fin (sz : Fin 5) (m : MMod) :
    MMod.ofCode (sz.val + ((bitFin m.seg).val * 2 ^ 11 + (m.hint.fin.val * 2 ^ 9 +
      (m.ord.fin.val * 2 ^ 6 + m.scope.fin.val * 2 ^ 3)))) = m := by
  simpa using MMod.ofCode_sx 0 sz m

/-- The flags of a copy command, as a sum of fields. -/
theorem CopyMod.code_fin (m : CopyMod) : m.code =
    (bitFin m.seg).val * 2 ^ 9 + (m.hint.fin.val * 2 ^ 7 + ((bitFin m.acq).val * 2 ^ 6 + ((bitFin m.rel).val * 2 ^ 5 +
      m.scope.fin.val))) := by
  rw [← Nat.add_assoc, ← Nat.add_assoc, ← Nat.add_assoc]; rfl

/-- What the encoder puts into a word's fields, its candidate gives back. -/
def Full.candFor (f : Full) (i : Instr) (w : Word) (c : Option Cand) : Prop :=
  f.word = w ∧ (f.op < 512 ∧ f.d < 64 ∧ f.a < 64 ∧ f.g < 16 ∧ f.low < 2 ^ 38) ∧
    f.g = (i.guard?.map Guard.code).getD 0 ∧ c = some ⟨false, i⟩

theorem decide_le_false {k n : Nat} {_ : Decidable (k ≤ n)} (h : n < k) : decide (k ≤ n) = false := decide_eq_false (by omega)

/-- The selector of a comparison's destination agrees with its register (06 R140). -/
theorem kdBad_of_dest {op d a g low : Nat} {kd : CmpDest} (hd :
  (match kd with | .vec => decide (d < 32) | _ => decide (d < 8)) = true)
    (h : fieldAt low 3 2 = kd.fin.val) : kdBad ⟨op, d, a, g, low⟩ = false := by
  unfold kdBad Full.at_
  simp only [h]
  cases kd <;> simp only [decide_eq_true_eq] at hd <;> exact decide_eq_false (by omega)

/-! The candidate of an encoded word, format by format (03 R89 to R93): each field is read from the sum by its place, and is the operand's
own number. -/

theorem encA0_cand {i : Instr} {w : Word} (h : encA0 i = some w) : ∃ f : Full, (f.op < 0x40) ∧ f.candFor i w (candA0 f) := by
  unfold encA0 at h
  cases i <;> dsimp only at h <;> simp only [reduceCtorEq, Option.some.injEq, Nat.add_assoc, Guard.code_fin, IntW.code_fin,
    Cond.code_fin, KopOp.code_fin, toNat_bitFin] at h
  all_goals
    refine ⟨_, by dsimp only; omega, h, by dsimp only; omega, rfl, ?_⟩
    simp (disch := omega) only [candA0, Full.at_, fieldAt_below, fieldAt_first, fieldAt_only, fieldAt_zero, decide_le_false,
      Bool.or_false, Full.guard_fin, toX_val, toK_val, IntW.ofCode_fin, Cond.ofCode_fin, KopOp.ofCode_fin, bit_ofCode]

theorem encA1_cand {i : Instr} {w : Word} (h : encA1 i = some w) (hl : i.limits = true) : ∃ f : Full,
  (0x40 ≤ f.op ∧ f.op < 0x80) ∧ f.candFor i w (candA1 f) := by
  unfold encA1 at h
  cases i <;> dsimp only at h <;> simp only [reduceCtorEq, Option.some.injEq, Nat.add_assoc, Guard.code_fin, Ty.code_fin,
    Rm.code_fin, Cond.code_fin, FCond.code_fin, CmpDest.code_fin, ShflMode.code_fin, RedOp.code_fin, toNat_bitFin] at h
  all_goals
    refine ⟨_, by dsimp only; omega, h, by dsimp only; omega, rfl, ?_⟩
    simp (disch := omega) only [candA1, Full.at_, fieldAt_below, fieldAt_first, fieldAt_only, fieldAt_only_below,
      fieldAt_zero, decide_le_false, Bool.or_false, Full.guard_fin, toX_val, toV_val, toK_val, toFin16_val, Ty.ofCode_fin,
      Rm.ofCode_fin, Cond.ofCode_fin, FCond.ofCode_fin, CmpDest.ofCode_fin, ShflMode.ofCode_fin, RedOp.ofCode_fin, bit_ofCode]
  case fcmp g d a b t kd c =>
    have hl : (t.isPacked && _) = true := hl
    simp only [Bool.and_eq_true] at hl
    rw [kdBad_of_dest (kd := kd) hl.2 (by simp (disch := omega) only [fieldAt_below, fieldAt_first])]; rfl
  case vcmp g d a b t kd c =>
    have hl : (t.isInt && _) = true := hl
    simp only [Bool.and_eq_true] at hl
    rw [kdBad_of_dest (kd := kd) hl.2 (by simp (disch := omega) only [fieldAt_below, fieldAt_first])]; rfl
  case shfl g d a b c t mode id v =>
    have hbad : (v && (decide (32 ≤ d.val) || decide (32 ≤ a.val))) = false := by
      have hl : (if v then t == .i8 && decide (d.val < 32) && decide (a.val < 32) else t.isInt) = true := hl
      cases v <;> simp_all
    rw [hbad]

set_option maxRecDepth 2000 in
theorem encA2_cand {i : Instr} {w : Word} (h : encA2 i = some w) : ∃ f : Full,
  (0x80 ≤ f.op ∧ f.op < 0xC0) ∧ f.candFor i w (candA2 f) := by
  unfold encA2 at h
  cases i <;> dsimp only at h <;> simp only [reduceCtorEq, Option.some.injEq, Nat.add_assoc, Guard.code_fin, Ty.code_fin,
    Rm.code_fin, Scope.code_fin, Hint.code_fin, toNat_bitFin] at h
  all_goals
    refine ⟨_, by dsimp only; omega, h, by dsimp only; omega, rfl, ?_⟩
    simp (disch := omega) only [candA2, Full.at_, fieldAt_below, fieldAt_first, fieldAt_only, fieldAt_only_below,
      fieldAt_zero, decide_le_false, Bool.or_false, Full.guard_fin, toX_val, toV_val, toK_val, toFin256_val, toFin1024_val,
      Ty.ofCode_fin, Rm.ofCode_fin, Scope.ofCode_fin, Hint.ofCode_fin, bit_ofCode]

theorem encI_cand {i : Instr} {w : Word} (h : encI i = some w) : ∃ f : Full,
  (0x100 ≤ f.op ∧ f.op < 0x180) ∧ f.candFor i w (candI f) := by
  unfold encI at h
  cases i <;> dsimp only at h <;> simp only [reduceCtorEq, Option.some.injEq, Nat.add_assoc, Guard.code_fin, Cond.code_fin,
    toNat_bitFin] at h
  all_goals
    refine ⟨_, by dsimp only; omega, h, by dsimp only; omega, rfl, ?_⟩
    simp (disch := omega) only [candI, Full.at_, fieldAt_below, fieldAt_first, fieldAt_only, fieldAt_zero, decide_le_false,
      Full.guard_fin, toX_val, toK_val, BitVec.ofNat_toNat, BitVec.setWidth_eq, Cond.ofCode_fin, bit_ofCode]

theorem encM_cand {i : Instr} {w : Word} (h : encM i = some w) : ∃ f : Full,
  (0x180 ≤ f.op ∧ f.op < 0x1C0) ∧ f.candFor i w (candM f) := by
  unfold encM at h
  cases i <;> dsimp only at h <;> simp only [reduceCtorEq, Option.some.injEq, Nat.add_assoc, Guard.code_fin, Scope.code_fin,
    MSize.code_fin, Hint.code_fin, MMod.code_fin, toNat_bitFin] at h
  all_goals
    refine ⟨_, by dsimp only; omega, h, by dsimp only; omega, rfl, ?_⟩
    simp (disch := omega) only [candM, Full.at_, fieldAt_below, fieldAt_first, fieldAt_only, fieldAt_zero, decide_le_false,
      Full.guard_fin, toX_val, toV_val, BitVec.ofNat_toNat, BitVec.setWidth_eq, Scope.ofCode_fin, MSize.ofCode_fin,
      Hint.ofCode_fin, bit_ofCode, MMod.ofCode_fin, MMod.ofCode_sx, fieldAt_size, fieldAt_sx]

theorem encB_cand {i : Instr} {w : Word} (h : encB i = some w) : ∃ f : Full,
  (0x1C0 ≤ f.op ∧ f.op < 0x1E0) ∧ f.candFor i w (candB f) := by
  unfold encB at h
  cases i <;> dsimp only at h <;> simp only [reduceCtorEq, Option.some.injEq, Guard.code_fin] at h
  all_goals
    refine ⟨_, by dsimp only; omega, h, by dsimp only; omega, rfl, ?_⟩
    simp (disch := omega) only [candB, Full.at_, fieldAt_below, fieldAt_first, fieldAt_only, fieldAt_zero, Full.guard_fin,
      toX_val, BitVec.ofNat_toNat, BitVec.setWidth_eq]

theorem encX_cand {i : Instr} {w : Word} (h : encX i = some w) (hl : i.limits = true) : ∃ f : Full,
  (0x1E0 ≤ f.op) ∧ f.candFor i w (candX f) := by
  unfold encX at h
  cases i <;> dsimp only at h <;> simp only [reduceCtorEq, Option.some.injEq, Nat.add_assoc, Guard.code_fin, Scope.code_fin,
    SendOp.code_fin, SendTy.code_fin, CopyMod.code_fin, toNat_bitFin] at h
  all_goals
    refine ⟨_, by dsimp only; omega, h, by dsimp only; omega, rfl, ?_⟩
    simp (disch := omega) only [candX, Full.at_, fieldAt_below, fieldAt_first, fieldAt_only, fieldAt_only_below,
      fieldAt_zero, decide_le_false, Full.guard_fin, toX_val, toV_val, toK_val, BitVec.ofNat_toNat, BitVec.setWidth_eq,
      Scope.ofCode_fin, Hint.ofCode_fin, SendOp.ofCode_fin, SendTy.ofCode_fin, bit_ofCode, CopyMod.ofCode]
  case exch g d a b p s v =>
    have hbad : (v && (decide (32 ≤ d.val) || decide (32 ≤ a.val))) = false := by
      have hl : (!v || (decide (d.val < 32) && decide (a.val < 32))) = true := hl
      cases v <;> simp_all
    rw [hbad]; rfl
  all_goals rw [decide_le_false (of_decide_eq_true hl)]

/-! Full words. -/

/-- The fields of a full word are those it was made of. -/
theorem Full.of_word {f : Full} (ho : f.op < 512) (hd : f.d < 64) (ha : f.a < 64) (hg : f.g < 16) (hl : f.low < 2 ^ 38) :
    Full.of f.word = f ∧ fieldAt f.word.toNat 62 2 < 2 := by
  obtain ⟨op, d, a, g, low⟩ := f
  simp only at ho hd ha hg hl
  have hw : (Full.mk op d a g low).word.toNat = op * 2 ^ 54 + (d * 2 ^ 48 + (a * 2 ^ 42 + (g * 2 ^ 38 + low))) := by
    simp only [Full.word, BitVec.toNat_ofNat]
    omega
  refine ⟨?_, by rw [hw]; unfold fieldAt; omega⟩
  simp (disch := omega) only [Full.of, hw, fieldAt_below, fieldAt_first, fieldAt_zero]

/-- A word of class 0 or 1 is decoded as a full word (03 R70). -/
theorem decode_full {w : Word} (h : fieldAt w.toNat 62 2 < 2) : decode w = decodeFull w := by
  unfold decode
  split
  on_goal -1 => rfl
  all_goals omega

/-- The code of a guard that a well-formed instruction may have is not that of k0 negated. -/
theorem guardCode_ne {i : Instr} (h : i.guardOk = true) : (i.guard?.map Guard.code).getD 0 ≠ 8 := by
  unfold Instr.guardOk at h
  cases hg : i.guard? with
  | none => simp
  | some g =>
    obtain ⟨n, k⟩ := g
    rw [hg] at h
    intro hc
    cases n with
    | false => simp [Guard.code] at hc; omega
    | true =>
      have hk : k = 0 := by simpa [Guard.code] using hc
      simp [hk] at h

/-- A word whose fields give back its instruction decodes to it. -/
theorem decode_of_cand {i : Instr} {w : Word} {f : Full} (hwf : i.wf = true) (he : encode i = some w)
    (hop : ¬(0xC0 ≤ f.op ∧ f.op < 0xE0)) (hf : f.candFor i w (cand f)) : decode w = .ok i := by
  obtain ⟨rfl, ⟨ho, hd, ha, hg, hl⟩, hguard, hc⟩ := hf
  obtain ⟨hof, hcls⟩ := Full.of_word ho hd ha hg hl
  have hg8 : f.g ≠ 8 := by
    simp only [Instr.wf, Bool.and_eq_true] at hwf
    rw [hguard]
    exact guardCode_ne hwf.1
  have hex : exact i f.word = true := by simp [exact, hwf, he]
  rw [decode_full hcls]
  simp only [decodeFull, hof, hop, if_false, hc, hg8, Bool.false_eq_true, hex, if_true]

theorem orElse_some {α : Type} {a b : Option α} {w : α} (h : (a <|> b) = some w) : a = some w ∨ b = some w := by
  cases a with
  | none => exact .inr h
  | some x => exact .inl h

/-- An instruction that has a word has it from one of the encoder's formats. -/
theorem encode_cases {i : Instr} {w : Word} (h : encode i = some w) :
    encA0 i = some w ∨ encA1 i = some w ∨ encA2 i = some w ∨ encI i = some w ∨ encM i = some w ∨ encB i = some w ∨
      encX i = some w ∨ encDual i = some w :=
  (orElse_some h).imp_right fun h => (orElse_some h).imp_right fun h => (orElse_some h).imp_right fun h =>
    (orElse_some h).imp_right fun h => (orElse_some h).imp_right fun h => (orElse_some h).imp_right fun h => orElse_some h

/-! Dual words (03 R81). -/

def SOp.fin (o : SOp) : Fin 128 := ⟨o.code, by cases o <;> decide⟩
theorem SOp.code_fin (o : SOp) : o.code = o.fin.val := rfl
theorem SOp.ofCode_fin (o : SOp) : SOp.ofCode o.fin.val = some o := by cases o <;> rfl

def SOpnd.fin (s : SOpnd) : Fin 4096 := ⟨s.bits, by cases s <;> simp only [SOpnd.bits] <;> omega⟩

theorem Slot.bits_fin (s : Slot) : s.bits = s.op.fin.val * 2 ^ 24 + (s.d.val * 2 ^ 18 + (s.a.val * 2 ^ 12 + s.s.fin.val)) := by
  rw [← Nat.add_assoc, ← Nat.add_assoc]; rfl

theorem Slot.bits_lt (s : Slot) : s.bits < 2 ^ 31 := by rw [s.bits_fin]; omega

/-- The second operand of a slot is read from its twelve bits. -/
theorem SOpnd.ofBits (s : SOpnd) : (if fieldAt s.bits 11 1 = 1 then SOpnd.reg (toX (fieldAt s.bits 0 6))
    else .imm (BitVec.ofNat 11 (fieldAt s.bits 0 11))) = s := by
  cases s with
  | imm v =>
    have h : fieldAt v.toNat 11 1 ≠ 1 := by unfold fieldAt; omega
    have h0 : fieldAt v.toNat 0 11 = v.toNat := fieldAt_zero v.isLt
    simp only [SOpnd.bits, h, if_false, h0, BitVec.ofNat_toNat, BitVec.setWidth_eq]
  | reg r =>
    have h : fieldAt (2 ^ 11 + r.val) 11 1 = 1 := by unfold fieldAt; omega
    have h6 : fieldAt (2 ^ 11 + r.val) 0 6 = r.val := by unfold fieldAt; omega
    simp only [SOpnd.bits, h, if_true, h6, toX_val]

/-- A slot is read from its bits. -/
theorem slotOf_bits (s : Slot) : slotOf s.op s.bits = s ∧ SOp.ofCode (fieldAt s.bits 24 7) = some s.op := by
  have h11 : fieldAt s.bits 11 1 = fieldAt s.s.fin.val 11 1 := by
    rw [s.bits_fin]; simp (disch := omega) only [fieldAt_below]
  have h0 : fieldAt s.bits 0 11 = fieldAt s.s.fin.val 0 11 := by
    rw [s.bits_fin]; simp (disch := omega) only [fieldAt_below]
  have h6 : fieldAt s.bits 0 6 = fieldAt s.s.fin.val 0 6 := by
    rw [s.bits_fin]; simp (disch := omega) only [fieldAt_below]
  have hs := s.s.ofBits
  constructor
  · simp only [slotOf, h11, h0, h6]
    rw [show s.s.fin.val = s.s.bits from rfl, hs, s.bits_fin]
    simp (disch := omega) only [fieldAt_below, fieldAt_first, toX_val]
  · rw [s.bits_fin]
    simp (disch := omega) only [fieldAt_first, SOp.ofCode_fin]

theorem dualBits_toNat (s0 s1 : Slot) : (dualBits s0 s1).toNat = 1 * 2 ^ 63 + (s0.bits * 2 ^ 31 + s1.bits) := by
  have b0 := s0.bits_lt
  have b1 := s1.bits_lt
  generalize hx : s0.bits = x at b0
  generalize hy : s1.bits = y at b1
  simp only [dualBits, BitVec.toNat_ofNat, hx, hy]
  omega

/-- A word of class 2 is decoded as a dual word (03 R70). -/
theorem decode_dual {w : Word} (h : fieldAt w.toNat 62 2 = 2) : decode w = decodeDual w := by
  unfold decode; simp only [h]

/-- The decoder of dual words gives two slots that keep the limits back from the word of their bits. -/
theorem decodeDual_of_bits {w : Word} {s0 s1 : Slot} (h0 : fieldAt w.toNat 31 31 = s0.bits) (h1 :
  fieldAt w.toNat 0 31 = s1.bits)
    (hw : (dualBits s0 s1 != w) = false)
    (hl : (!s0.badReg && !s1.badReg && s0.fieldsOk && s1.fieldsOk && pairOk s0 s1) = true) :
    decodeDual w = .ok (.dualWord s0 s1) := by
  simp only [Bool.and_eq_true, Bool.not_eq_true'] at hl
  obtain ⟨⟨⟨⟨r0, r1⟩, f0⟩, f1⟩, hp⟩ := hl
  simp only [decodeDual, h0, h1, (slotOf_bits s0).2, (slotOf_bits s1).2, (slotOf_bits s0).1, (slotOf_bits s1).1,
    r0, r1, f0, f1, hp, hw, Bool.or_self, Bool.not_true, Bool.false_eq_true, if_false]

/-- A dual word that keeps the limits decodes to its slots. -/
theorem decode_dualBits {s0 s1 : Slot} (hl : (Instr.dualWord s0 s1).limits = true) :
    decode (dualBits s0 s1) = .ok (.dualWord s0 s1) := by
  have b0 := s0.bits_lt
  have b1 := s1.bits_lt
  have hcls : fieldAt (dualBits s0 s1).toNat 62 2 = 2 := by rw [dualBits_toNat]; unfold fieldAt; omega
  have h0 : fieldAt (dualBits s0 s1).toNat 31 31 = s0.bits := by
    rw [dualBits_toNat]; simp (disch := omega) only [fieldAt_below, fieldAt_first]
  have h1 : fieldAt (dualBits s0 s1).toNat 0 31 = s1.bits := by
    rw [dualBits_toNat]; simp (disch := omega) only [fieldAt_below, fieldAt_zero]
  rw [decode_dual hcls]
  exact decodeDual_of_bits h0 h1 (bne_self_eq_false _) hl

/-- Settles O57: by the format that encodes the instruction, whose fields its opcode's candidate reads back. -/
theorem decodeInvertsEncode : Obligations.DecodeInvertsEncode := by
  unfold Obligations.DecodeInvertsEncode
  intro i w hwf he
  have hl : i.limits = true := by
    simp only [Instr.wf, Bool.and_eq_true] at hwf; exact hwf.2
  have full {f : Full} (c : Option Cand) (hf : f.candFor i w c) (hop : ¬(0xC0 ≤ f.op ∧ f.op < 0xE0)) (hc : cand f = c) :
      decode w = .ok i := decode_of_cand hwf he hop (hc ▸ hf)
  rcases encode_cases he with h | h | h | h | h | h | h | h
  · obtain ⟨f, hr, hf⟩ := encA0_cand h
    exact full _ hf (by omega) (by simp only [cand, hr, if_true])
  · obtain ⟨f, hr, hf⟩ := encA1_cand h hl
    exact full _ hf (by omega) (by simp (disch := omega) only [cand, if_pos, if_neg])
  · obtain ⟨f, hr, hf⟩ := encA2_cand h
    exact full _ hf (by omega) (by simp (disch := omega) only [cand, if_pos, if_neg])
  · obtain ⟨f, hr, hf⟩ := encI_cand h
    exact full _ hf (by omega) (by simp (disch := omega) only [cand, if_pos, if_neg])
  · obtain ⟨f, hr, hf⟩ := encM_cand h
    exact full _ hf (by omega) (by simp (disch := omega) only [cand, if_pos, if_neg])
  · obtain ⟨f, hr, hf⟩ := encB_cand h
    exact full _ hf (by omega) (by simp (disch := omega) only [cand, if_pos, if_neg])
  · obtain ⟨f, hr, hf⟩ := encX_cand h hl
    exact full _ hf (by omega) (by simp (disch := omega) only [cand, if_neg])
  · unfold encDual at h
    split at h
    · cases h; exact decode_dualBits hl
    · cases h

end Sys2Proof
end

section
/-!
SETTLED. What the decoder accepts and what it refuses (03 R75, R85, R88 to R93): an accepted word is its instruction's own,
  an opcode has
a candidate whatever the guard, and the opcodes without an assignment have none. From these, O56 and O58.
-/

namespace Sys2Proof

/-- The words of a slot pair that the decoder accepts are well formed and the word's own. -/
theorem decodeDual_ok {w : Word} {i : Instr} (h : decodeDual w = .ok i) : i.wf = true ∧ encode i = some w := by
  simp only [decodeDual] at h
  split at h
  · split at h
    · cases h
    · split at h
      · cases h
      · split at h
        · cases h
        · rename_i hr hf hp
          cases h
          simp only [Bool.or_eq_true, Bool.not_eq_true', bne_iff_ne, not_or, Bool.not_eq_false, Bool.not_eq_true, ne_eq,
            Decidable.not_not] at hr hf hp
          obtain ⟨⟨f0, f1⟩, hw⟩ := hf
          refine ⟨?_, congrArg some hw⟩
          simp [Instr.wf, Instr.guardOk, Instr.guard?, Instr.limits, hr.1, hr.2, f0, f1, hp]
  · split at h <;> cases h

theorem decodeFull_ok {w : Word} {i : Instr} (h : decodeFull w = .ok i) : i.wf = true ∧ encode i = some w := by
  simp only [decodeFull] at h
  split at h
  · cases h
  · split at h
    · cases h
    · split at h
      · cases h
      · split at h
        · cases h
        · split at h
          · rename_i hx
            cases h
            simpa [exact] using hx
          · cases h

/-! Whether an opcode has a candidate does not depend on the guard. -/

theorem candA0_guard (f : Full) (g : Nat) : (candA0 { f with g := g }).isSome = (candA0 f).isSome := by
  unfold candA0; dsimp only
  split <;> simp_all only [Option.isSome_some]

theorem candA1_guard (f : Full) (g : Nat) : (candA1 { f with g := g }).isSome = (candA1 f).isSome := by
  unfold candA1; dsimp only
  split <;> simp_all only [Option.isSome_some]

theorem candA2_guard (f : Full) (g : Nat) : (candA2 { f with g := g }).isSome = (candA2 f).isSome := by
  unfold candA2; dsimp only
  split <;> simp_all only [Option.isSome_some]

theorem candI_guard (f : Full) (g : Nat) : (candI { f with g := g }).isSome = (candI f).isSome := by
  unfold candI; dsimp only
  split <;> simp_all only [Option.isSome_some]

theorem candM_guard (f : Full) (g : Nat) : (candM { f with g := g }).isSome = (candM f).isSome := by
  unfold candM; dsimp only
  split <;> simp_all only [Option.isSome_some]

theorem candB_guard (f : Full) (g : Nat) : (candB { f with g := g }).isSome = (candB f).isSome := by
  unfold candB; dsimp only
  split <;> simp_all only [Option.isSome_some]

theorem candX_guard (f : Full) (g : Nat) : (candX { f with g := g }).isSome = (candX f).isSome := by
  unfold candX; dsimp only
  split <;> simp_all only [Option.isSome_some]

theorem cand_guard (f : Full) (g : Nat) : (cand { f with g := g }).isSome = (cand f).isSome := by
  simp only [cand, apply_ite Option.isSome, candA0_guard, candA1_guard, candA2_guard, candI_guard, candM_guard, candB_guard,
    candX_guard]

/-! The opcodes without an assignment have no candidate. -/

theorem candA0_none {f : Full} (h : (0x00B ≤ f.op ∧ f.op ≤ 0x00F) ∨ f.op = 0x01F ∨ (0x02E ≤ f.op ∧ f.op ≤ 0x03F)) :
    candA0 f = none := by
  unfold candA0
  split
  on_goal -1 => rfl
  all_goals omega

theorem candA1_none {f : Full} (h :
  (0x05A ≤ f.op ∧ f.op ≤ 0x05F) ∨ (0x06C ≤ f.op ∧ f.op ≤ 0x06F) ∨ (0x077 ≤ f.op ∧ f.op ≤ 0x07F)) :
    candA1 f = none := by
  unfold candA1
  split
  on_goal -1 => rfl
  all_goals omega

theorem candA2_none {f : Full} (h :
  (0x089 ≤ f.op ∧ f.op ≤ 0x08F) ∨ (0x0A4 ≤ f.op ∧ f.op ≤ 0x0BF) ∨ (0x0E0 ≤ f.op ∧ f.op ≤ 0x0FF)) :
    candA2 f = none := by
  unfold candA2
  split
  on_goal -1 => rfl
  all_goals omega

theorem candI_none {f : Full} (h : (0x112 ≤ f.op ∧ f.op ≤ 0x17F)) :
    candI f = none := by
  unfold candI
  split
  on_goal -1 => rfl
  all_goals omega

theorem candM_none {f : Full} (h : (0x189 ≤ f.op ∧ f.op ≤ 0x18F) ∨ (0x199 ≤ f.op ∧ f.op ≤ 0x1BF)) :
    candM f = none := by
  unfold candM
  split
  on_goal -1 => rfl
  all_goals omega

theorem candB_none {f : Full} (h : (0x1C8 ≤ f.op ∧ f.op ≤ 0x1DF)) :
    candB f = none := by
  unfold candB
  split
  on_goal -1 => rfl
  all_goals omega

theorem candX_none {f : Full} (h : (0x1FB ≤ f.op ∧ f.op ≤ 0x1FF)) :
    candX f = none := by
  unfold candX
  split
  on_goal -1 => rfl
  all_goals omega

/-- A word of an opcode outside zw.wide that has no candidate is refused as unassigned. -/
theorem decode_unassigned {w : Word} (hop : w.toNat / 2 ^ 54 < 512) (hw : ¬(0xC0 ≤ w.toNat / 2 ^ 54 ∧ w.toNat / 2 ^ 54 < 0xE0))
    (hc : ∀ f : Full, f.op = w.toNat / 2 ^ 54 → cand f = none) : decode w = .error .unassigned := by
  have hcls : fieldAt w.toNat 62 2 < 2 := by unfold fieldAt; omega
  have he : (Full.of w).op = w.toNat / 2 ^ 54 := by simp only [Full.of, fieldAt]; omega
  rw [decode_full hcls]
  simp only [decodeFull, he, hw, if_false, hc _ he]

/-- Settles O56: acceptance by the decoder's last check; the refusals by the checks that stand before it. -/
theorem decodingIsExact : Obligations.DecodingIsExact := by
  unfold Obligations.DecodingIsExact
  refine ⟨fun w i h => ?_, fun w h => ?_, fun w h1 h2 => ?_, fun w => ?_, fun w v i hv h hhi hlo hg => ?_⟩
  · unfold decode at h
    split at h
    · cases h
    · exact decodeDual_ok h
    · exact decodeFull_ok h
  · have hcls : fieldAt w.toNat 62 2 = 3 := by unfold fieldAt; omega
    unfold decode; simp only [hcls]
  · have hcls : fieldAt w.toNat 62 2 < 2 := by unfold fieldAt; omega
    have he : (Full.of w).op = w.toNat / 2 ^ 54 := by simp only [Full.of, fieldAt]; omega
    rw [decode_full hcls]
    simp only [decodeFull, he, h1, h2, and_self, if_true]
  · intro op h
    refine decode_unassigned (by omega) (by omega) (fun f hf => ?_)
    change f.op = op at hf
    unfold cand
    split
    · exact candA0_none (by omega)
    split
    · exact candA1_none (by omega)
    split
    · exact candA2_none (by omega)
    split
    · exact candI_none (by omega)
    split
    · exact candM_none (by omega)
    split
    · exact candB_none (by omega)
    · exact candX_none (by omega)
  · have hcv : fieldAt v.toNat 62 2 < 2 := by unfold fieldAt; omega
    have hcw : fieldAt w.toNat 62 2 < 2 := by unfold fieldAt; omega
    have hf : Full.of w = { Full.of v with g := 8 } := by
      simp only [Full.of, fieldAt, Full.mk.injEq]; omega
    rw [decode_full hcv] at h
    rw [decode_full hcw]
    simp only [decodeFull] at h ⊢
    have hs := cand_guard (Full.of v) 8
    rw [hf]
    split at h
    · cases h
    · rename_i hop
      cases hc : cand (Full.of v) with
      | none => rw [hc] at h; cases h
      | some c =>
        rw [hc, Option.isSome_some] at hs
        obtain ⟨c', hc'⟩ := Option.isSome_iff_exists.mp hs
        simp only [hop, if_false, hc', if_true]

/-- Settles O58: each word is the one that the encoder gives its instruction, which decodes to it. -/
theorem someWordsDecode : Obligations.SomeWordsDecode := by
  unfold Obligations.SomeWordsDecode
  exact ⟨decodeInvertsEncode _ _ rfl rfl, decodeInvertsEncode _ _ rfl rfl, decodeInvertsEncode _ _ rfl rfl,
    decodeInvertsEncode _ _ rfl rfl⟩

end Sys2Proof
end

section
/-!
SETTLED. Watches (08 R216): marking the lost watches leaves none that stands on a line its pipeline does not hold, since it changes
nothing that the holding of a line depends on; every step ends so. From these, O59; and O60, the state after reset.
-/

namespace Sys2Proof.Machine

open Sys2Proof

/-- A lane whose watch, where it has been lost, is marked so. -/
def State.markLane (s : State) (g : Group) (x : Lane × Nat) : Lane :=
  match x.1.watch with
  | some w =>
    if w.fired.isNone && s.watchLost g x.2 x.1 w then { x.1 with watch := some { w with fired := some .lost } }
    else x.1
  | none => x.1

/-- A group whose lanes' lost watches are marked. -/
def State.markGroup (s : State) (g : Group) : Group := { g with lanes := g.lanes.zipIdx.map (s.markLane g) }

theorem State.markLost_groups (s : State) : s.markLost.groups = s.groups.map s.markGroup := rfl

/-- Marking a lane changes its watch alone. -/
theorem State.markLane_eq (s : State) (g : Group) (x : Lane × Nat) :
    s.markLane g x = { x.1 with watch := (s.markLane g x).watch } := by
  unfold State.markLane
  cases hw : x.1.watch with
  | none => simp only [← hw]
  | some w => dsimp only; split <;> simp only [← hw]

/-- A marked lane's watch that has not fired is the lane's own, and not lost. -/
theorem State.markLane_held {s : State} {g : Group} {x : Lane × Nat} {w : Watch} (h : (s.markLane g x).watch = some w)
    (hf : w.fired = none) : s.watchLost g x.2 x.1 w = false := by
  unfold State.markLane at h
  cases hw : x.1.watch with
  | none => rw [hw] at h; dsimp only at h; rw [hw] at h; cases h
  | some v =>
    rw [hw] at h
    dsimp only at h
    split at h
    · cases h; cases hf
    · rename_i hn
      rw [hw] at h
      cases h
      simpa [hf] using hn

@[simp] theorem State.markGroup_size (s : State) (g : Group) : (s.markGroup g).size = g.size := by
  simp [State.markGroup, Group.size]

/-- The pipeline that serves an address is the same whatever the watches of the group's lanes. -/
theorem State.holder_marked (s : State) (g : Group) (l va : Nat) :
    (s.markLost.req (s.markGroup g) l va).holder = (s.req g l va).holder := by
  simp only [State.req, Req.holder, State.markGroup_size]
  rfl

/-- Whether a watch is lost does not depend on the watches of the group's lanes. -/
theorem State.watchLost_marked (s : State) (g : Group) (x : Lane × Nat) (w : Watch) :
    s.markLost.watchLost (s.markGroup g) x.2 (s.markLane g x) w = s.watchLost g x.2 x.1 w := by
  unfold State.watchLost
  have hp : (s.markLane g x).pts = x.1.pts := by rw [State.markLane_eq]
  simp only [State.holder_marked, State.markLost_mem, hp]
  rfl

/-- After the lost watches are marked, each watch that has not fired stands on a held line. -/
theorem State.watchesHeld_markLost (s : State) : s.markLost.watchesHeld := by
  intro g hg x hx w hw hf
  rw [State.markLost_groups, List.mem_map] at hg
  obtain ⟨g0, -, rfl⟩ := hg
  obtain ⟨l, i⟩ := x
  have hi : (g0.lanes.zipIdx.map (s.markLane g0))[i]? = some l := List.mem_zipIdx_iff_getElem?.mp hx
  obtain ⟨y, hy, rfl⟩ := by simpa only [List.getElem?_map, Option.map_eq_some_iff] using hi
  have hyi : y.2 = i := by
    rw [List.getElem?_zipIdx, Option.map_eq_some_iff] at hy
    obtain ⟨z, -, rfl⟩ := hy
    exact Nat.zero_add i
  subst hyi
  rw [s.watchLost_marked g0 y w]
  exact State.markLane_held hw hf

/-- What follows a move ends by marking the lost watches. -/
theorem State.watchesHeld_wakeAll (s : State) : s.wakeAll.watchesHeld := State.watchesHeld_markLost _

theorem watchesHeld_of_wake {o : Out} {t : State} (h : wake o = .next t) : t.watchesHeld := by
  cases o with
  | next s =>
    simp only [wake, Host.Outcome.next.injEq] at h
    exact h ▸ s.watchesHeld_wakeAll
  | fault r => simp only [wake, reduceCtorEq] at h
  | refused r => simp only [wake, reduceCtorEq] at h

/-- Settles O59: whichever way a step goes, it ends in what follows a move. -/
theorem watchesStayHeld : Obligations.WatchesStayHeld := by
  unfold Obligations.WatchesStayHeld
  intro s t h
  simp only [step, State.tick] at h
  split at h
  · exact watchesHeld_of_wake h
  · split at h
    · split at h
      · exact watchesHeld_of_wake h
      · exact Host.Outcome.next.inj h ▸ State.watchesHeld_wakeAll _
    · split at h
      · exact watchesHeld_of_wake h
      · exact watchesHeld_of_wake h

/-- Settles O60: the state after reset is a literal, without groups, objects or messages. -/
theorem resetState : Obligations.ResetState := by
  unfold Obligations.ResetState
  refine ⟨rfl, ?_, rfl, rfl, rfl, rfl, rfl, rfl, fun _ => rfl, rfl, rfl, rfl, rfl, rfl, fun _ => ⟨rfl, rfl⟩, rfl, rfl, rfl, rfl,
    rfl, rfl, rfl, rfl⟩
  intro g hg
  cases hg

end Sys2Proof.Machine
end

section
/-!
SETTLED. What a word of one active lane leaves, and the control registers.
-/

namespace Sys2Proof.Machine

open Sys2Proof

/-! A word whose one active lane completes. -/

/-- The one active lane completes in the state `u`: the path goes on, and nothing else of `u` changes. -/
theorem laneWord_ok {s u : State} {g g' : Group} {p : Path} {gd : Guard} {l : Nat} {f : State → Nat → Nat → LRes Unit}
    (h : s.runsOne g p gd l) (hf : f s g.gid l = .ok () u) (hu : u.group? g.gid = some g') (hn : g'.noStack) :
    ∃ t, laneWord gd f s = .next t ∧ t.group? g.gid = some (g'.goOn p.pid (p.pc + 8)) ∧
      (∀ n i, t.lane n i = u.lane n i) ∧ (∀ n, n ≠ g.gid → t.group? n = u.group? n) ∧ t = { u with groups := t.groups } :=
  ⟨_, laneWord_one h hf hu hn, State.group?_modGroup_same hu _ (fun x => Group.goOn_gid x _ _),
    fun n i => State.lane_goOn u g.gid p.pid n i _,
    fun n hne => State.group?_modGroup_other u g.gid n _ (fun x => Group.goOn_gid x _ _) hne, rfl⟩

/-- A group that differs from g in lanes alone goes on as g does. -/
theorem Group.goOn_stepsTo {g g' : Group} (p : Path) (h : g' = { g with lanes := g'.lanes }) :
    g.stepsTo p (g'.goOn p.pid (p.pc + 8)) := by
  refine ⟨?_, fun hw => ?_⟩
  · rw [Group.goOn_eq, h]
  · exact Group.goOn_one g' p _ (by rw [h]; exact hw)

/-- The one active lane becomes `f` of itself in a state whose groups are those before. -/
theorem laneWord_modLane {s u : State} {g : Group} {p : Path} {gd : Guard} {l : Nat} {F : State → Nat → Nat → LRes Unit}
    {f : Lane → Lane} (h : s.runsOne g p gd l) (hf : F s g.gid l = .ok () (u.modLane g.gid l f)) (hu : u.groups = s.groups) :
    ∃ t h', laneWord gd F s = .next t ∧ t.group? g.gid = some h' ∧ g.stepsTo p h' ∧ t.lane g.gid l = f (g.lane l) ∧
      OtherLanes s t g.gid l ∧ (∀ n, n ≠ g.gid → t.group? n = s.group? n) ∧ t = { u with groups := t.groups } := by
  have hgr : ∀ n, u.group? n = s.group? n := fun n => by unfold State.group?; rw [hu]
  have hln : ∀ n i, u.lane n i = s.lane n i := fun n i => by unfold State.lane; rw [hgr]
  have hg : u.group? g.gid = some g := (hgr _).trans h.group
  have hg' : (u.modLane g.gid l f).group? g.gid = some (g.modLane l f) := State.group?_modGroup_same hg _ (fun _ => rfl)
  obtain ⟨t, e, ht, hlanes, hother, heq⟩ := laneWord_ok h hf hg' h.1.2
  refine ⟨t, _, e, ht, Group.goOn_stepsTo p rfl, ?_, fun n i hni => ?_, fun n hne => ?_, heq⟩
  · rw [hlanes, State.lane_modLane_same _ _ _ _ _ hg h.2.2, State.lane_of_group? hg]
  · rw [hlanes, State.lane_modLane_other _ _ _ _ _ _ hni, hln]
  · rw [hother n hne, ← hgr]
    exact State.group?_modGroup_other u g.gid n _ (fun _ => rfl) hne

/-- A privileged word of a path whose lanes are all at S does what it does. -/
theorem needS_of_S {s : State} {g : Group} {p : Path} (i : Instr) (f : State → Out) (h : s.current = some (g, p))
    (hS : ∀ l ∈ p.lanes, (g.lane l).privS = true) : needS i f s = f s := by
  have : p.lanes.filter (fun l => !(g.lane l).privS) = [] := List.filter_eq_nil_iff.mpr fun l hl => by simp [hS l hl]
  unfold needS
  rw [h]
  simp only [this]

theorem levelOf_other {sel : Nat} (i : Instr) (f : State → Out) (h : sel ≠ 0x0D) : levelOf sel i f = f := if_neg h

theorem levelOf_of_S {s : State} {g : Group} {p : Path} (sel : Nat) (i : Instr) (f : State → Out) (h : s.current = some (g, p))
    (hS : sel = 0x0D → ∀ l ∈ p.lanes, (g.lane l).privS = true) : levelOf sel i f s = f s := by
  unfold levelOf
  split
  · exact needS_of_S i f h (hS ‹_›)
  · rfl

/-! Control registers. -/

/-- Settles O10: the one lane completes with the register's value. -/
theorem controlRegisterReads : Obligations.ControlRegisterReads := by
  intro g d sel s h p l hr hS hM
  have hf : s.mfcLane h.gid l d sel.val = .ok () (s.modLane h.gid l (fun x => x.wx d (s.mfcValue h l sel.val))) := by
    unfold State.mfcLane
    rw [hr.group]
    by_cases h1 : sel.val = 1
    · have hany : h.mmas.any (fun m => !m.reading) = false :=
        List.any_eq_false.mpr fun m hm => by simp [List.all_eq_true.mp (hM h1) m hm]
      simp [hany]
    · simp [h1]
  obtain ⟨t, -, e, -, -, hl, ho, -, heq⟩ := laneWord_modLane hr (F := fun s gid l => s.mfcLane gid l d sel.val) hf rfl
  exact ⟨t, (levelOf_of_S _ _ _ hr.1.1 hS).trans e, hl, ho, heq⟩

theorem State.modGroup_id (s : State) (gid : Nat) {f : Group → Group} (hf : ∀ g ∈ s.groups, g.gid = gid → f g = g) :
    s.modGroup gid f = s := by
  have : updWhere (fun g => g.gid == gid) f s.groups = s.groups := by
    unfold updWhere
    conv_rhs => rw [← List.map_id s.groups]
    refine List.map_congr_left fun g hg => ?_
    by_cases hgid : g.gid = gid
    · simp [hgid, hf g hg hgid]
    · simp [hgid]
  unfold State.modGroup
  rw [this]

theorem State.modLane_id (s : State) (gid l : Nat) : s.modLane gid l (fun x => x) = s :=
  State.modGroup_id s gid fun g _ _ => by
    unfold Group.modLane
    rw [show (fun x : Lane => x) = id from rfl, List.modify_id]

theorem State.ctx?_modCtx_same {s : State} {n : Nat} {c : Ctx} (h : s.ctx? n = some c) (f : Ctx → Ctx)
    (hf : ∀ c, (f c).num = c.num) : (s.modCtx n f).ctx? n = some (f c) := by
  have hn : c.num = n := by simpa using List.find?_some h
  refine (find?_updWhere (fun c : Ctx => c.num) n n f hf s.ctxs).trans ?_
  rw [show s.ctxs.find? (fun x => x.num == n) = some c from h]
  simp [hn]

theorem Ctx.clOf_setCl (c : Ctx) (site : Site) (n : Nat) : (c.setCl site n).clOf site = n := by
  simp [Ctx.clOf, Ctx.setCl]

/-- A lane after MTC of a register of its own at U. -/
def Lane.mtcAtU (sel : Nat) (w : Word) (x : Lane) : Lane :=
  if sel = 0 then { x with fpctl := fpctlWrite x.fpctl w }
  else if sel = 1 then { x with fpflags := w &&& 0x3F }
  else if sel = 9 then { x with srstate := w }
  else if sel = 0x0A then { x with kstack := w &&& ~~~(15#64) }
  else x

/-- A lane after MTC of a register of its own at S. -/
def Lane.mtcAtS (sel : Nat) (w : Word) (x : Lane) : Lane :=
  if sel = 0 then { x with fpctl := fpctlWrite x.fpctl w }
  else if sel = 1 then { x with fpflags := w &&& 0x3F }
  else if sel = 4 then { x with tcause := w.truncate 16 }
  else if sel = 5 then { x with tval := w }
  else if sel = 6 then { x with tepc := w }
  else if sel = 7 then { x with tlanes := w.truncate 32 }
  else if sel = 9 then { x with srstate := w }
  else if sel = 0x0A then { x with kstack := w &&& ~~~(15#64) }
  else x

theorem State.mtcLane_atU {s : State} {g : Group} {gid l : Nat} (hg : s.group? gid = some g) (hU : (g.lane l).privS = false)
    (sel : Nat) (w : Word) : s.mtcLane gid l sel w = s.modLane gid l (Lane.mtcAtU sel w) := by
  have hsame : ∀ f : Lane → Lane, (∀ x, f x = x) → s = s.modLane gid l f := fun f hf => by
    rw [funext hf]; exact (State.modLane_id s gid l).symm
  unfold State.mtcLane
  simp only [hg, hU]
  split
  case h_1 | h_2 | h_9 | h_10 => rfl
  case h_3 | h_4 | h_5 | h_6 | h_7 | h_8 | h_11 => exact hsame _ fun x => rfl
  case h_12 h0 h1 _ _ _ _ _ _ h9 hA _ =>
    exact hsame _ fun x => by rw [Lane.mtcAtU, if_neg h0, if_neg h1, if_neg h9, if_neg hA]

/-- What MTC at S writes beyond its lane: MRP of the group, TVEC and CLFLAGS of the context. -/
def Group.mtcAtS (sel : Nat) (w : Word) (g : Group) : Group :=
  { g with mrp := if sel = 8 then w.truncate 32 &&& 0x1FFFF else g.mrp }

def Ctx.mtcAtS (sel : Nat) (w : Word) (site : Site) (c : Ctx) : Ctx :=
  if sel = 3 then { c with tvec := w &&& ~~~(7#64) }
  else if sel = 0x0D then c.setCl site ((BitVec.ofNat 6 (c.clOf site) &&& ~~~(w.truncate 6)).toNat)
  else c

theorem State.modCtx_id (s : State) (n : Nat) {f : Ctx → Ctx} (hf : ∀ c, f c = c) : s.modCtx n f = s := by
  have : updWhere (fun c => c.num == n) f s.ctxs = s.ctxs := by simp [updWhere, hf]
  unfold State.modCtx
  rw [this]

theorem State.mtcLane_atS {s : State} {g : Group} {gid l : Nat} (hg : s.group? gid = some g) (hS : (g.lane l).privS = true)
    (sel : Nat) (w : Word) : s.mtcLane gid l sel w =
      ((s.modCtx g.ctx (Ctx.mtcAtS sel w g.site)).modGroup gid (Group.mtcAtS sel w)).modLane gid l (Lane.mtcAtS sel w) := by
  have hlane : ∀ (u : State) (f : Lane → Lane), (∀ x, f x = x) → u.modLane gid l f = u := fun u f hf => by
    rw [funext hf]; exact State.modLane_id u gid l
  have hctx : sel ≠ 3 → sel ≠ 0x0D → s.modCtx g.ctx (Ctx.mtcAtS sel w g.site) = s := fun h3 hD =>
    State.modCtx_id s _ fun c => by simp [Ctx.mtcAtS, h3, hD]
  have hmrp : ∀ u : State, sel ≠ 8 → u.modGroup gid (Group.mtcAtS sel w) = u := fun u h8 =>
    State.modGroup_id u gid fun g _ _ => by simp [Group.mtcAtS, h8]
  unfold State.mtcLane
  simp only [hg, hS, if_true]
  split
  case h_1 | h_2 | h_4 | h_5 | h_6 | h_7 | h_9 | h_10 =>
    rw [hctx (by decide) (by decide), hmrp _ (by decide)]; rfl
  case h_3 =>
    rw [hmrp _ (by decide), hlane _ (Lane.mtcAtS _ w) fun x => rfl]; rfl
  case h_11 =>
    rw [hmrp _ (by decide), hlane _ (Lane.mtcAtS _ w) fun x => rfl]; rfl
  case h_8 =>
    rw [hctx (by decide) (by decide), hlane _ (Lane.mtcAtS _ w) fun x => rfl]; rfl
  case h_12 h0 h1 h3 h4 h5 h6 h7 h8 h9 hA hD =>
    rw [hctx h3 hD, hmrp _ h8, hlane]
    exact fun x => by
      rw [Lane.mtcAtS, if_neg h0, if_neg h1, if_neg h4, if_neg h5, if_neg h6, if_neg h7, if_neg h9, if_neg hA]

theorem Ctx.mtcAtS_num (sel : Nat) (w : Word) (site : Site) (c : Ctx) : (c.mtcAtS sel w site).num = c.num := by
  unfold Ctx.mtcAtS Ctx.setCl
  split_ifs <;> rfl

/-- Of a context MTC at S changes TVEC and CLFLAGS. -/
theorem Ctx.mtcAtS_eq (sel : Nat) (w : Word) (site : Site) (c : Ctx) :
    c.mtcAtS sel w site =
        { c with tvec := if sel = 3 then w &&& ~~~(7#64) else c.tvec, clflags := (c.mtcAtS sel w site).clflags } ∧
      (c.mtcAtS sel w site).clOf site =
        if sel = 0x0D then (BitVec.ofNat 6 (c.clOf site) &&& ~~~(w.truncate 6)).toNat else c.clOf site := by
  unfold Ctx.mtcAtS
  by_cases h3 : sel = 3
  · subst h3; exact ⟨rfl, rfl⟩
  · by_cases hD : sel = 0x0D
    · subst hD; exact ⟨rfl, Ctx.clOf_setCl c site _⟩
    · simp [h3, hD]

/-- Settles O11: at U the lane alone changes; at S also MRP, TVEC and CLFLAGS. -/
theorem controlRegisterWrites : Obligations.ControlRegisterWrites := by
  constructor
  · intro g a sel s h p l hr hU hsel w
    have hw : (s.lane h.gid l).rx a = w := by rw [State.lane_of_group? hr.group]
    obtain ⟨t, -, e, -, -, hl, ho, -, heq⟩ := laneWord_modLane hr
      (F := fun s gid l => .ok () (s.mtcLane gid l sel.val ((s.lane gid l).rx a)))
      (congrArg (LRes.ok ()) ((congrArg _ hw).trans (State.mtcLane_atU hr.group hU sel.val w))) rfl
    exact ⟨t, (congrFun (levelOf_other _ _ hsel) s).trans e, ho, heq, hl⟩
  · intro g a sel s h p l c hr hS hl hc w
    have hw : (s.lane h.gid l).rx a = w := by rw [State.lane_of_group? hr.group]
    let u := (s.modCtx h.ctx (Ctx.mtcAtS sel w h.site)).modGroup h.gid (Group.mtcAtS sel w)
    have hu : u.group? h.gid = some (h.mtcAtS sel w) := State.group?_modGroup_same (s := s.modCtx h.ctx _) hr.group _ fun _ => rfl
    have hg : (u.modLane h.gid l (Lane.mtcAtS sel w)).group? h.gid = some ((h.mtcAtS sel w).modLane l (Lane.mtcAtS sel w)) :=
      State.group?_modGroup_same hu _ fun _ => rfl
    have hf : LRes.ok () (s.mtcLane h.gid l sel.val ((s.lane h.gid l).rx a)) = .ok () (u.modLane h.gid l (Lane.mtcAtS sel w)) :=
      congrArg (LRes.ok ()) ((congrArg _ hw).trans (State.mtcLane_atS hr.group (hS l hl) sel.val w))
    obtain ⟨t, e, ht, hlanes, -, heq⟩ := laneWord_ok hr
      (f := fun s gid l => .ok () (s.mtcLane gid l sel.val ((s.lane gid l).rx a))) hf hg hr.1.2
    have hctx : t.ctx? h.ctx = some (c.mtcAtS sel w h.site) := by
      rw [heq]
      exact State.ctx?_modCtx_same hc _ (Ctx.mtcAtS_num sel w h.site)
    refine ⟨t, _, (levelOf_of_S _ _ _ hr.1.1 fun _ => hS).trans e, fun n i hni => ?_, by rw [heq]; rfl, ?_, ?_, hctx,
      (Ctx.mtcAtS_eq sel w h.site c).1, (Ctx.mtcAtS_eq sel w h.site c).2⟩
    · rw [hlanes, State.lane_modLane_other _ _ _ _ _ _ hni]
      show u.lane n i = _
      unfold State.lane
      rw [show u.group? n = (s.group? n).map (fun g => if g.gid = h.gid then g.mtcAtS sel w else g) from
        State.group?_modGroup (s.modCtx h.ctx _) h.gid n _ fun _ => rfl]
      cases s.group? n with
      | none => rfl
      | some g => simp only [Option.map_some]; split <;> rfl
    · rw [hlanes, State.lane_modLane_same _ _ _ _ _ hu hr.2.2, State.lane_of_group? hu]
      rfl
    · rw [ht]
      exact congrArg some (by rw [Group.goOn_eq]; rfl)

end Sys2Proof.Machine
end

section
/-!
SETTLED. Loads, stores and atomics of a scratchpad of the lane's class.
-/

namespace Sys2Proof.Machine

open Sys2Proof

/-! What a lane owes after a store. -/

theorem Lane.seeStore_fenceOwed (l : Lane) (a : LineAt) (ts : Nat) (w : Nat → Nat) :
    (l.seeStore a ts w).fenceOwed = l.fenceOwed := by
  have hwx : ∀ (x : Lane) (d : XReg) (v : Word), (x.wx d v).fenceOwed = x.fenceOwed := fun x d v => by
    unfold Lane.wx; split_ifs <;> rfl
  have h1 : (match l.watch with
      | some w => if w.at_ = a && w.fired.isNone then { l with watch := some { w with fired := some .store } } else l
      | none => l).fenceOwed = l.fenceOwed := by
    split
    · split <;> rfl
    · rfl
  unfold Lane.seeStore
  dsimp only
  split
  · split
    · split
      · split
        · exact (hwx _ _ _).trans h1
        · exact h1
      · exact h1
    · exact h1
  · exact h1

theorem State.fenceOwed_fireWatches (s : State) (a : LineAt) (ts n i : Nat) :
    ((s.fireWatches a ts).lane n i).fenceOwed = (s.lane n i).fenceOwed := by
  unfold State.lane
  rw [s.group?_fireWatches a ts n]
  cases s.group? n with
  | none => rfl
  | some g =>
    simp only [Option.map_some]
    unfold Group.lane
    by_cases hi : i < g.lanes.length
    · simp [List.getD_eq_getElem?_getD, hi, Lane.seeStore_fenceOwed]
    · simp [List.getD_eq_getElem?_getD, hi]

theorem Lane.acquired_fenceOwed (x : Lane) (m : MMod) :
    (x.acquired m).fenceOwed = if m.ord == .acq || m.ord == .ar then some m.scope else x.fenceOwed := by
  unfold Lane.acquired
  cases m.ord <;> rfl

/-- What a store to a scratchpad leaves the lane to owe (08 R209). -/
theorem fenceOwed_of_store_pad {s : State} {g : Guard} {h : Group} {p : Path} {l : Nat} {A : Word} {m : MMod} {bs : List Byte}
    {pd : Pad} (F : State → Nat → Nat → LRes Unit) (hF : F s h.gid l = s.laneStore h.gid l m A bs)
    (hr : s.runsOne h p g l) {i o : Nat} (hs : h.padAt l A = some (i, o)) (ha : A.toNat % bs.length = 0)
    (hp : s.pad? h.cls i = some pd) (hb : o + bs.length ≤ pd.size)
    (hf : m.ord.releases = true → s.fenceReady h.gid l = true)
    (h1 : s.storeHeld h l (.pad h.cls i o) bs.length = false)
    (h2 : s.drainHeld h (.pad h.cls i o) bs.length = false) {t : State} (ht : laneWord g F s = .next t) :
    (t.lane h.gid l).fenceOwed =
      if m.ord == .acq || m.ord == .ar then some m.scope else ((s.opened h.gid l m).lane h.gid l).fenceOwed := by
  have hg := hr.group
  obtain ⟨φ, -, hg0, -, -, -⟩ := State.opened_spec (l := l) (m := m) hg
  obtain ⟨pv, hp0⟩ := State.opened_own (h := h) (l := l) (m := m) hp
  have k1 := (State.storeHeld_opened (m := m) (loc := .pad h.cls i o) (n := bs.length) (l := l) (f := φ) hg).trans h1
  have k2 := (State.drainHeld_opened (m := m) (loc := .pad h.cls i o) (n := bs.length) (l := l) (f := φ) hg).trans h2
  have hopen := State.ordOpen_ok hf
  generalize s.opened h.gid l m = s0 at *
  have hstore := State.store_pad (s := s0) (g := h.modLane l φ) (pd := { pd with prev := pv }) hg0 hs ha hp0 hb k1 k2
  generalize (Pad.store { pd with prev := pv } ((h.modLane l φ).writer l i) o ((h.modLane l φ).lane l).pts bs) = r at hstore
  let a : LineAt := .pad h.cls i (o / 128)
  let s1 := s0.modPad h.cls i (fun _ => r.2)
  let s3 := (s1.fireWatches a r.1).setPts h.gid l r.1
  let s4 := s3.noteSend h.gid l A bs
  have e : F s h.gid l = .ok () (s4.modLane h.gid l (fun y => y.acquired m)) := by
    rw [hF]; unfold State.laneStore
    rw [hopen]; simp only [LRes.bind]
    rw [hstore]
    rfl
  obtain ⟨g2, hg2, hn2, -, hz2⟩ := State.noStack_fireWatches (a := a) (ts := r.1)
    (show s1.group? h.gid = some (h.modLane l φ) from hg0) (show (h.modLane l φ).noStack from hr.1.2)
  have hl2 : l < g2.size := by rw [hz2, Group.modLane_size]; exact hr.2.2
  have hg3 : s3.group? h.gid = some (g2.modLane l (fun y => { y with pts := r.1 })) := State.group?_modGroup_same hg2 _ (fun _ => rfl)
  have hg4 : s4.group? h.gid = some (g2.modLane l (fun y => { y with pts := r.1 })) := by
    refine Eq.trans ?_ hg3
    unfold State.group?; rw [State.noteSend_groups]
  have hg5 : (s4.modLane h.gid l (fun y => y.acquired m)).group? h.gid = some _ := State.group?_modGroup_same hg4 _ (fun _ => rfl)
  rw [Host.Outcome.next.inj (ht.symm.trans (laneWord_one hr e hg5 hn2)), State.lane_goOn,
    State.lane_modLane_same _ _ _ _ _ hg4 (by simpa using hl2), Lane.acquired_fenceOwed, State.lane_of_group? hg4,
    Group.lane_modLane_same _ _ _ hl2]
  rw [show ({ g2.lane l with pts := r.1 } : Lane).fenceOwed = (s0.lane h.gid l).fenceOwed from
    (congrArg Lane.fenceOwed (State.lane_of_group? hg2 l).symm).trans (State.fenceOwed_fireWatches s1 a r.1 h.gid l)]

/-- A store of a number's n bytes to a scratchpad: what its bytes, its lane and the other lanes are after it. -/
theorem laneWord_storeNat_pad {s : State} {g : Guard} {h : Group} {p : Path} {l : Nat} {A : Word} {m : MMod} {n v : Nat}
    {pd : Pad} (F : State → Nat → Nat → LRes Unit) (hF : F s h.gid l = s.laneStore h.gid l m A (toBytes n v))
    (hr : s.runsOne h p g l) {i o : Nat} (hs : h.padAt l A = some (i, o)) (ha : A.toNat % n = 0)
    (hp : s.pad? h.cls i = some pd) (hb : o + n ≤ pd.size)
    (hf : m.ord.releases = true → s.fenceReady h.gid l = true)
    (h1 : s.storeHeld h l (.pad h.cls i o) n = false)
    (h2 : s.drainHeld h (.pad h.cls i o) n = false) (hwf : cellsWf pd.bytes = true) :
    ∃ t pd', laneWord g F s = .next t ∧ t.mem = s.mem ∧
      t.pad? h.cls i = some pd' ∧ cellsWf pd'.bytes = true ∧
      (∀ k, k < n → cellAt pd'.bytes (o + k) = BitVec.ofNat 8 (v / 256 ^ k)) ∧
      (∀ k, k < o ∨ o + n ≤ k → cellAt pd'.bytes k = cellAt pd.bytes k) ∧
      (∀ k j, ¬(k = h.cls ∧ j = i) → (t.pad? k j).map (·.bytes) = (s.pad? k j).map (·.bytes)) ∧
      (t.lane h.gid l).pts = max ((s.opened h.gid l m).lane h.gid l).pts ((pd.tsOf (o / 128)).rts + 1) ∧
      ((t.lane h.gid l).fenceOwed = if m.ord == .acq || m.ord == .ar then some m.scope else
        ((s.opened h.gid l m).lane h.gid l).fenceOwed) ∧
      (∀ n j, (s.lane n j).wait = none → SameRegs (s.lane n j) (t.lane n j)) := by
  have hlen := toBytes_length n v
  rw [← hlen] at ha hb h1 h2
  obtain ⟨t, pd', e, hmem, hpd, hbytes, hpads, hpts, hregs⟩ := laneWord_store_pad F hF hr hs ha hp hb hf h1 h2
  refine ⟨t, pd', e, hmem, hpd, hbytes ▸ cellsWf_cellsWrite _ _ _ hwf, fun k hk => ?_, fun k hk => ?_, hpads, hpts,
    fenceOwed_of_store_pad F hF hr hs ha hp hb hf h1 h2 e, hregs⟩
  · have hk' : k < (toBytes n v).length := hlen.symm ▸ hk
    rw [hbytes, cellAt_cellsWrite_same _ _ _ _ hwf hk', toBytes_get]
  · rw [hbytes, cellAt_cellsWrite_other _ _ _ _ hwf (hlen.symm ▸ hk)]

/-- Settles O12: a load is the Laws' one, a store writes the number's bytes. -/
theorem scratchLoadsAndStores : Obligations.ScratchLoadsAndStores := by
  constructor
  · intro g d dv a b off sx m sz s h p l i o pd A loc hr hs ha hp hb hf h1 h2 x after
    have hA : (s.lane h.gid l).addrIndexed a b off = A := by rw [State.lane_of_group? hr.group]
    have load := fun f : Nat → Lane → Lane => laneWord_load_pad f
      (fun s gid l => s.laneLoad gid l m ((s.lane gid l).addrIndexed a b off) sz.bytes f) (by rw [hA]) hr hs ha hp hb hf h1 h2
    exact ⟨load fun v x => x.wx d (loadValue sx sz.bytes v), load fun v x => x.wv dv (BitVec.ofNat 128 v)⟩
  · intro g a b bv off m sz s h p l i o pd A loc hr hs ha hp hb hf h1 h2 hwf Done
    have hl := State.lane_of_group? hr.group l
    exact ⟨laneWord_storeNat_pad (fun s gid l => s.laneStore gid l m ((s.lane gid l).addrData a off)
        (toBytes sz.bytes ((s.lane gid l).rx b).toNat)) (by rw [hl]) hr hs ha hp hb hf h1 h2 hwf,
      laneWord_storeNat_pad (fun s gid l => s.laneStore gid l m ((s.lane gid l).addrData a off)
        (toBytes sz.bytes ((s.lane gid l).rv bv).toNat)) (by rw [hl]) hr hs ha hp hb hf h1 h2 hwf⟩

/-! Atomics. -/

theorem SameRegs.rx {a b : Lane} (h : SameRegs a b) (r : XReg) : b.rx r = a.rx r := by
  obtain ⟨hx, hsx, -, -, -, -, -, -, -, -, -, -, -, hS, -⟩ := h
  simp only [Lane.rx, hx, hsx, hS]

/-- What each of the atomic words is: an atomic by the lane that writes by a function of the old value. -/
theorem exec_atomicWords {g : Guard} {d a b : XReg} {off : BitVec 20} {m : MMod} {sz : MSize} {s : State} {gid l old : Nat}
    {x : Instr × Option Nat} (hx : x ∈ atomicWords g d a b off m sz (((s.lane gid l).rx b).toNat % 2 ^ (8 * sz.bytes))
      (((s.lane gid l).rx d).toNat % 2 ^ (8 * sz.bytes)) old) :
    ∃ (F : State → Nat → Nat → LRes Unit) (f : Nat → Option Nat), exec x.1 s = laneWord g F s ∧ f old = x.2 ∧
      F s gid l = s.laneAtomic gid l m ((s.lane gid l).addrData a off) sz.bytes d f := by
  have amo : ∀ (op : Nat → Nat → Nat → Nat) (i : Instr), (∀ s, exec i s = amoWord op g d a b off m sz s) →
      ∃ (F : State → Nat → Nat → LRes Unit) (f : Nat → Option Nat), exec i s = laneWord g F s ∧
        f old = some (op (8 * sz.bytes) old (((s.lane gid l).rx b).toNat % 2 ^ (8 * sz.bytes)) % 2 ^ (8 * sz.bytes)) ∧
        F s gid l = s.laneAtomic gid l m ((s.lane gid l).addrData a off) sz.bytes d f :=
    fun op i hi => ⟨_, _, hi s, rfl, rfl⟩
  unfold atomicWords at hx
  simp only [List.mem_cons, List.not_mem_nil, or_false] at hx
  rcases hx with rfl | rfl | rfl | rfl | rfl | rfl | rfl | rfl | rfl | rfl
  · exact amo (fun _ x y => x + y) _ fun _ => rfl
  · exact amo (fun _ x y => Nat.land x y) _ fun _ => rfl
  · exact amo (fun _ x y => Nat.lor x y) _ fun _ => rfl
  · exact amo (fun _ x y => Nat.xor x y) _ fun _ => rfl
  · exact amo (fun w x y => if sextInt w y < sextInt w x then y else x) _ fun _ => rfl
  · exact amo (fun w x y => if sextInt w x < sextInt w y then y else x) _ fun _ => rfl
  · exact amo (fun _ x y => min x y) _ fun _ => rfl
  · exact amo (fun _ x y => max x y) _ fun _ => rfl
  · exact amo (fun _ _ y => y) _ fun _ => rfl
  · let F : State → Nat → Nat → LRes Unit := fun s gid l =>
      s.laneAtomic gid l m ((s.lane gid l).addrData a off) sz.bytes d fun old =>
        if old = ((s.lane gid l).rx d).toNat % 2 ^ (8 * sz.bytes) then
          some (((s.lane gid l).rx b).toNat % 2 ^ (8 * sz.bytes)) else none
    exact ⟨F, _, rfl, rfl, rfl⟩

/-- Settles O13: every atomic word is the Laws' atomic of a scratchpad. -/
theorem scratchAtomics : Obligations.ScratchAtomics := by
  intro g d a b off m sz s h p l i o pd A n old hr hpl hf hw x hx
  obtain ⟨hs, ha, hp, hb, h1, h2, h3⟩ := hpl
  have hl := State.lane_of_group? hr.group l
  rw [← hl] at hx
  obtain ⟨F, f, e, hv, hF⟩ := exec_atomicWords hx
  obtain ⟨t, pd', y, et, hmem, hpd, hbytes, hpads, hy, hlane, hother⟩ :=
    laneWord_rmw_pad (A := A) f F (by rw [hF, hl]) hr hs ha hp hb hf h1 h2 h3 hw
  have hrx : ∀ r, (t.lane h.gid l).rx r = (y.wx d (BitVec.ofNat 64 old)).rx r := fun r => by
    rw [hlane]; exact (Lane.acquired_spec _ m).1.rx r
  refine ⟨t, pd', e.trans et, hmem, hpd, by rw [← hv]; exact hbytes, hpads, ?_, fun r hrd => ?_, hother⟩
  · rw [hrx]
    by_cases hd : d = 0
    · subst hd; simp
    · rw [Lane.rx_wx_same _ _ _ hd, if_neg hd]
  · rw [hrx, Lane.rx_wx_other _ _ _ _ hrd, hy.rx]

end Sys2Proof.Machine
end

section
/-!
SETTLED. Traps: the path and the lane of a trap at U, what a word of one lane leaves that traps, and violations.
-/

namespace Sys2Proof.Machine

open Sys2Proof

/-! What settling leaves of a path alone. -/

/-- Of an undivided group's path settling changes at most what it is held after. -/
theorem Group.tidy_alone {g : Group} {p : Path} (h : g.paths = [p]) (hl : p.lanes ≠ []) :
    ∃ a, g.tidy = g.withPaths [{ p with after := a }] := by
  have hf : ({ g with paths := g.paths.filter (fun p => !p.lanes.isEmpty || p.stacked.isSome) } : Group) = g := by
    have : g.paths.filter (fun p => !p.lanes.isEmpty || p.stacked.isSome) = g.paths := by
      rw [h]; simp [hl]
    rw [this]
  have hm : g.mergeOnce = none := by
    unfold Group.mergeOnce
    rw [h]
    simp
  have ha : g.mergeAll 32 = g := by
    unfold Group.mergeAll; rw [hm]
  unfold Group.tidy Group.withPaths
  rw [hf, ha]
  unfold Group.clearAfter
  rw [h]
  simp only [List.map_cons, List.map_nil]
  split
  · exact ⟨p.after, rfl⟩
  · split
    · exact ⟨none, rfl⟩
    · split
      · exact ⟨p.after, rfl⟩
      · exact ⟨none, rfl⟩

/-- Settling drops the paths that no lane is left on. -/
theorem Group.tidy_dropEmpty {g : Group} {es : List Path} {q : Path} (h : g.paths = es ++ [q])
    (he : ∀ e ∈ es, e.lanes = [] ∧ e.stacked = none) (hq : q.lanes ≠ []) : g.tidy = (g.withPaths [q]).tidy := by
  have hnil : es.filter (fun p => !p.lanes.isEmpty || p.stacked.isSome) = [] :=
    List.filter_eq_nil_iff.mpr fun e hmem => by simp [he e hmem]
  unfold Group.tidy Group.withPaths
  rw [h, List.filter_append, hnil]
  simp [hq]

theorem Group.pathOf?_one {g : Group} {p : Path} {l : Nat} (h : g.paths = [p]) (hl : l ∈ p.lanes) : g.pathOf? l = some p := by
  simp [Group.pathOf?, h, hl]

/-! A trap at U (10 R252 to R254). -/

/-- The lane that takes a trap. -/
def Lane.trapped (pc : Word) (ti : TrapInfo) (x : Lane) : Lane :=
  { x with tcause := BitVec.ofNat 16 (ti.cause + 256 * ti.sub), tval := ti.tval,
           tepc := ((if ti.next then pc + 8 else pc) &&& ~~~(7#64)), privS := true, wait := none }

/-- A path that stands at no word any more. -/
def Path.restarted (p : Path) : Path := { p with halted := none, waiting := false, election := [], part := [], awaits := none }

/-- An undivided group after lane l has taken a trap at U, `n` being the number of the lane's new path. -/
def Group.trapAt (h : Group) (p : Path) (l n : Nat) (tv pc : Word) (ti : TrapInfo) : Group :=
  if p.alone || h.size = 1 then
    { h with paths := [{ p with pc := tv }.restarted], lanes := (h.lanes.modify l (Lane.trapped pc ti)).map Lane.interrupt }
  else
    { h with
      paths := [{ p with lanes := p.lanes.filter (· ≠ l), election := p.election.filter (fun e => e.lane != l) },
        (soloPath n p l tv).restarted],
      lanes := (h.lanes.modify l (fun x => { x with reason := 3, owed := 0 }.trapped pc ti)).map Lane.interrupt }

@[simp] theorem Group.trapAt_gid (h : Group) (p : Path) (l n : Nat) (tv pc : Word) (ti : TrapInfo) :
    (h.trapAt p l n tv pc ti).gid = h.gid := by
  unfold Group.trapAt; split <;> rfl

theorem Group.trapAt_eq (h : Group) (p : Path) (l n : Nat) (tv pc : Word) (ti : TrapInfo) :
    h.trapAt p l n tv pc ti =
      { h with lanes := (h.trapAt p l n tv pc ti).lanes, paths := (h.trapAt p l n tv pc ti).paths } := by
  unfold Group.trapAt; split <;> rfl

/-- A lane taken off its path: onto a path of its own, or where it was alone to the new address. -/
theorem State.soloLane_group {s : State} {h : Group} {p : Path} {l : Nat} {pc : Word} {r o : Nat} (hg : s.group? h.gid = some h)
    (hp : h.paths = [p]) (hl : l ∈ p.lanes) :
    ∃ f : Group → Group, (∀ g, (f g).gid = g.gid) ∧
      s.soloLane h.gid l pc r o = { s with nextId := (s.soloLane h.gid l pc r o).nextId }.modGroup h.gid f ∧
      f h = if p.alone || h.size = 1 then { h with paths := [{ p with pc := pc }] } else
        { h with
          paths := [{ p with lanes := p.lanes.filter (· ≠ l), election := p.election.filter (fun e => e.lane != l) }, soloPath s.nextId p l pc],
          lanes := h.lanes.modify l (fun x => { x with reason := r, owed := o }) } := by
  unfold State.soloLane
  rw [hg]
  simp only [Group.pathOf?_one hp hl]
  split
  · refine ⟨_, fun g => ?_, rfl, ?_⟩
    · rfl
    · unfold Group.modPath; rw [hp]; simp [updWhere]
  · refine ⟨_, fun g => ?_, rfl, ?_⟩
    · rfl
    · unfold Group.modPath Group.modLane; rw [hp]; simp [updWhere, State.fresh]

/-- Taking a trap at U: the group after it, and nothing else but the next free number. -/
theorem State.takeTrap_atU {s : State} {h : Group} {p : Path} {l : Nat} {pc : Word} {ti : TrapInfo} (hg : s.group? h.gid = some h)
    (hp : h.paths = [p]) (hl : l ∈ p.lanes) (h1 : p.alone = true ∨ h.size = 1 → p.lanes = [l]) (hU : (h.lane l).privS = false) :
    (s.takeTrap h.gid l pc ti).group? h.gid = some (h.trapAt p l s.nextId (tvecOf s h.ctx) pc ti) ∧
      (∀ n, n ≠ h.gid → (s.takeTrap h.gid l pc ti).group? n = s.group? n) ∧
      s.takeTrap h.gid l pc ti = { s with groups := (s.takeTrap h.gid l pc ti).groups, nextId := (s.takeTrap h.gid l pc ti).nextId } := by
  obtain ⟨f, hf, e, hfh⟩ := State.soloLane_group (pc := tvecOf s h.ctx) (r := 3) (o := 0) hg hp hl
  unfold State.takeTrap
  rw [hg]
  simp only [hU, Bool.false_eq_true, if_false]
  generalize s.soloLane h.gid l (tvecOf s h.ctx) 3 0 = u at e
  let s' : State := { s with nextId := u.nextId }
  have hu : u.group? h.gid = some (f h) := by rw [e]; exact State.group?_modGroup_same (s := s') hg f hf
  have huo : ∀ n, n ≠ h.gid → u.group? n = s.group? n := fun n hn => by
    rw [e]; exact State.group?_modGroup_other s' _ _ f hf hn
  have hu1 := State.group?_modGroup_same hu (fun g : Group => { g with
    paths := updWhere (fun p => p.lanes == [l])
      (fun p => { p with halted := none, waiting := false, election := [], part := [], awaits := none }) g.paths }) fun _ => rfl
  have hu2 := State.group?_modGroup_same hu1 (fun g => g.modLane l (Lane.trapped pc ti)) fun _ => rfl
  have hu3 := State.group?_modGroup_same hu2 (fun g => { g with lanes := g.lanes.map Lane.interrupt }) fun _ => rfl
  refine ⟨hu3.trans ?_, fun n hn => ?_, ?_⟩
  · rw [hfh]
    unfold Group.trapAt
    split
    · rename_i h2
      have : p.lanes = [l] := h1 (by simpa using h2)
      simp [updWhere, Group.modLane, Path.restarted, this]
    · have hne : p.lanes.filter (fun x => !decide (x = l)) ≠ [l] := fun hc => by
        have : l ∈ p.lanes.filter (fun x => !decide (x = l)) := hc ▸ List.mem_singleton_self l
        simp at this
      simp [updWhere, Group.modLane, Path.restarted, soloPath, hne, List.modify_modify_eq, Function.comp_def]
  · refine Eq.trans (State.group?_modGroup_other _ _ _ _ (fun _ => rfl) hn) ?_
    refine Eq.trans (State.group?_modGroup_other _ _ _ _ (fun _ => rfl) hn) ?_
    exact Eq.trans (State.group?_modGroup_other _ _ _ _ (fun _ => rfl) hn) (huo n hn)
  · rw [e]; rfl

theorem Lane.interrupt_of_wait_none {x : Lane} (h : x.wait = none) : x.interrupt = x := by
  unfold Lane.interrupt; rw [h]

theorem Lane.interrupt_regs (x : Lane) : SameRegs x x.interrupt := by
  unfold Lane.interrupt
  split
  · split
    · exact ⟨rfl, rfl, rfl, rfl, rfl, rfl, rfl, rfl, rfl, rfl, rfl, rfl, rfl, rfl, rfl⟩
    · exact ⟨rfl, rfl, rfl, rfl, rfl, rfl, rfl, rfl, rfl, rfl, rfl, rfl, rfl, rfl, rfl⟩
    · exact SameRegs.refl x
  · exact SameRegs.refl x

/-- A lane of a group whose lanes have all been mapped. -/
theorem Group.lane_map {g g' : Group} {f : Lane → Lane} (h : g'.lanes = g.lanes.map f) {i : Nat} (hi : i < g.size) :
    g'.lane i = f (g.lane i) := by
  have hi' : i < g.lanes.length := hi
  unfold Group.lane
  rw [h]
  simp [List.getD_eq_getElem?_getD, hi']

/-- The lane that trapped, and every other. -/
theorem Group.trapAt_lane {h : Group} (p : Path) {l : Nat} (n : Nat) (tv pc : Word) (ti : TrapInfo) (hl : l < h.size) :
    (∃ r o, (h.trapAt p l n tv pc ti).lane l = Lane.trapped pc ti { h.lane l with reason := r, owed := o } ∧
      (p.alone = false → h.size ≠ 1 → r = 3)) ∧
    ∀ i, i ≠ l → SameRegs (h.lane i) ((h.trapAt p l n tv pc ti).lane i) := by
  have key : ∀ (g : Group) (f : Lane → Lane), g.lanes = (h.lanes.modify l f).map Lane.interrupt →
      ((f (h.lane l)).wait = none → g.lane l = f (h.lane l)) ∧ ∀ i, i ≠ l → SameRegs (h.lane i) (g.lane i) := by
    intro g f hgl
    have hm : g.lanes = (h.modLane l f).lanes.map Lane.interrupt := hgl
    refine ⟨fun hw => ?_, fun i hi => ?_⟩
    · rw [Group.lane_map hm (by simpa using hl), Group.lane_modLane_same _ _ _ hl, Lane.interrupt_of_wait_none hw]
    · by_cases hs : i < h.size
      · rw [Group.lane_map hm (by simpa using hs), Group.lane_modLane_other _ _ _ _ hi]
        exact Lane.interrupt_regs _
      · have hs' : h.lanes.length ≤ i := Nat.le_of_not_lt hs
        unfold Group.lane
        rw [hgl]
        simp only [List.getD_eq_getElem?_getD, List.getElem?_eq_none hs', List.getElem?_map,
          List.getElem?_eq_none (show (h.lanes.modify l f).length ≤ i by simpa using hs'), Option.map_none, Option.getD_none]
        exact SameRegs.refl _
  unfold Group.trapAt
  split
  · rename_i hc
    obtain ⟨k1, k2⟩ := key { h with
      paths := [{ p with pc := tv }.restarted], lanes := (h.lanes.modify l (Lane.trapped pc ti)).map Lane.interrupt } _ rfl
    refine ⟨⟨(h.lane l).reason, (h.lane l).owed, k1 rfl, fun ha hs => ?_⟩, k2⟩
    simp [ha, hs] at hc
  · obtain ⟨k1, k2⟩ := key { h with
      paths := [{ p with lanes := p.lanes.filter (· ≠ l), election := p.election.filter (fun e => e.lane != l) },
        (soloPath n p l tv).restarted],
      lanes := (h.lanes.modify l (fun x => { x with reason := 3, owed := 0 }.trapped pc ti)).map Lane.interrupt } _ rfl
    exact ⟨⟨3, 0, k1 rfl, fun _ _ => rfl⟩, k2⟩

theorem Group.trapAt_size (h : Group) (p : Path) (l n : Nat) (tv pc : Word) (ti : TrapInfo) :
    (h.trapAt p l n tv pc ti).size = h.size := by
  unfold Group.trapAt Group.size
  split <;> simp

/-- The path of the lane that trapped. -/
theorem Group.trapAt_pathOf {h : Group} {p : Path} {l : Nat} (n : Nat) (tv pc : Word) (ti : TrapInfo)
    (h1 : p.alone = true ∨ h.size = 1 → p.lanes = [l]) :
    ∃ q, (h.trapAt p l n tv pc ti).pathOf? l = some q ∧ q.lanes = [l] ∧ q.pc = tv := by
  unfold Group.trapAt
  split
  · rename_i hc
    have hl : p.lanes = [l] := h1 (by simpa using hc)
    exact ⟨{ p with pc := tv }.restarted, Group.pathOf?_one rfl (by simp [Path.restarted, hl]), hl, rfl⟩
  · exact ⟨(soloPath n p l tv).restarted, by simp [Group.pathOf?, Path.restarted, soloPath], rfl, rfl⟩

/-- A state in whose group the lane has taken the trap, whatever has become of the paths besides. -/
theorem TrapTaken.of_group {s t : State} {h H : Group} {p : Path} {l : Nat} {pc : Word} {ti : TrapInfo} {q : Path} {n : Nat}
    (hH : t.group? h.gid = some H) (hl : l < h.size) (hlanes : H.lanes = (h.trapAt p l n (tvecOf s h.ctx) pc ti).lanes)
    (hq : H.pathOf? l = some q) (hql : q.lanes = [l]) (hqp : q.pc = tvecOf s h.ctx) : TrapTaken s t h l pc ti := by
  obtain ⟨⟨r, o, e, -⟩, -⟩ := Group.trapAt_lane p n (tvecOf s h.ctx) pc ti hl
  have e' : H.lane l = Lane.trapped pc ti { h.lane l with reason := r, owed := o } := by
    rw [← e]; unfold Group.lane; rw [hlanes]
  exact ⟨H, q, hH, hq, hql, hqp, by rw [e']; rfl, by rw [e']; rfl, by rw [e']; rfl, by rw [e']; rfl, by rw [e']; rfl, by rw [e']; rfl,
    by rw [e']; rfl, by rw [e']; rfl, by rw [e']; rfl, by rw [e']; rfl, by rw [e']; rfl, by rw [e']; rfl, by rw [e']; rfl, by rw [e']; rfl⟩

theorem State.lane_takeTrap_self {s : State} {h : Group} {p : Path} {l : Nat} {pc : Word} {ti : TrapInfo} (hg : s.group? h.gid = some h)
    (hp : h.paths = [p]) (hl : l ∈ p.lanes) (h1 : p.alone = true ∨ h.size = 1 → p.lanes = [l]) (hU : (h.lane l).privS = false) (i : Nat) :
    (s.takeTrap h.gid l pc ti).lane h.gid i = (h.trapAt p l s.nextId (tvecOf s h.ctx) pc ti).lane i :=
  State.lane_of_group? (State.takeTrap_atU hg hp hl h1 hU).1 i

/-- A violation while the context runs: the fault fields name it. -/
theorem State.ctx?_violate {s : State} {c : Ctx} {n cause sub master site : Nat} {addr : Word} (hc : s.ctx? n = some c)
    (hst : c.st = .running) (hv : c.viol = false) :
    (s.violate n cause sub master addr site).ctx? n = some { c with
      viol := true, faultCause := cause, faultSub := sub, faultMaster := master, faultAddr := addr, faultSite := site } := by
  unfold State.violate
  refine (State.ctx?_modCtx_same hc _ fun c => ?_).trans ?_
  · split
    · split <;> rfl
    · split <;> rfl
    · split <;> rfl
    · split <;> rfl
    · rfl
  · simp only [hst, hv, Bool.false_eq_true, if_false]

/-- A lane taken off its path and frozen there. -/
theorem State.soloLane_freeze {s : State} {h : Group} {p : Path} {l : Nat} {pc : Word} {r o : Nat} (hg : s.group? h.gid = some h)
    (hp : h.paths = [p]) (hn : p.pid ≠ s.nextId) (hl : l ∈ p.lanes) (hs : l < h.size)
    (h1 : p.alone = true ∨ h.size = 1 → p.lanes = [l]) :
    ∃ h' q, ((s.soloLane h.gid l pc r o).freezeLane h.gid l).group? h.gid = some h' ∧ h'.pathOf? l = some q ∧ q.frozen = true ∧
      q.lanes = [l] ∧ SameRegs (h.lane l) (h'.lane l) ∧
      ((s.soloLane h.gid l pc r o).freezeLane h.gid l).ctxs = s.ctxs := by
  obtain ⟨f, hf, e, hfh⟩ := State.soloLane_group (pc := pc) (r := r) (o := o) hg hp hl
  have hu : (s.soloLane h.gid l pc r o).group? h.gid = some (f h) := by
    rw [e]; exact State.group?_modGroup_same (s := { s with nextId := _ }) hg f hf
  have hctx : (s.soloLane h.gid l pc r o).ctxs = s.ctxs := by rw [e]; rfl
  generalize s.soloLane h.gid l pc r o = u at hu hctx
  obtain ⟨q, hq, hql, hlane, hfreeze⟩ : ∃ q, (f h).pathOf? l = some q ∧ q.lanes = [l] ∧ SameRegs (h.lane l) ((f h).lane l) ∧
      ((f h).modPath q.pid (fun p => { p with frozen := true })).pathOf? l = some { q with frozen := true } := by
    rw [hfh]
    split
    · rename_i hc
      have hl1 : p.lanes = [l] := h1 (by simpa using hc)
      exact ⟨{ p with pc := pc }, Group.pathOf?_one rfl (by simp [hl1]), hl1, SameRegs.refl _,
        Group.pathOf?_one (Group.modPath_one _ _ rfl _) (by simp [hl1])⟩
    · refine ⟨soloPath s.nextId p l pc, by simp [Group.pathOf?, soloPath], rfl, ?_, by
        simp [Group.pathOf?, Group.modPath, updWhere, soloPath, hn]⟩
      have : SameRegs (h.lane l) ((h.modLane l (fun x => { x with reason := r, owed := o })).lane l) := by
        rw [Group.lane_modLane_same _ _ _ hs]
        exact ⟨rfl, rfl, rfl, rfl, rfl, rfl, rfl, rfl, rfl, rfl, rfl, rfl, rfl, rfl, rfl⟩
      exact this
  refine ⟨(f h).modPath q.pid (fun p => { p with frozen := true }), { q with frozen := true }, ?_, hfreeze, rfl, hql, hlane, ?_⟩
  · unfold State.freezeLane
    rw [hu]
    simp only [hq]
    exact State.group?_modGroup_same hu _ fun _ => rfl
  · unfold State.freezeLane
    rw [hu]
    simp only [hq]
    exact hctx

/-- Settles O22: the trap at U and the violation at S, each by what it makes of the one path of the group. -/
theorem trapEntryAndViolations : Obligations.TrapEntryAndViolations := by
  constructor
  · intro s h p l pc ti hg hw _ hl hs h1 hU
    obtain ⟨hG, hother, heq⟩ := State.takeTrap_atU (pc := pc) (ti := ti) hg hw.1 hl h1 hU
    obtain ⟨q, hq, hql, hqp⟩ := Group.trapAt_pathOf (h := h) s.nextId (tvecOf s h.ctx) pc ti h1
    obtain ⟨⟨r, o, hlane, hr⟩, hlanes⟩ := Group.trapAt_lane p s.nextId (tvecOf s h.ctx) pc ti hs
    refine ⟨TrapTaken.of_group hG hs rfl hq hql hqp, fun i hi => ?_, hother, by rw [heq], by rw [heq], fun ha hz _ => ?_⟩
    · rw [State.lane_of_group? hG]; exact hlanes i hi
    · refine ⟨_, { p with lanes := p.lanes.filter (· ≠ l), election := p.election.filter (fun e => e.lane != l) }, hG, ?_, rfl, rfl, ?_⟩
      · have hc : ¬((p.alone || decide (h.size = 1)) = true) := by simp [ha]; omega
        unfold Group.trapAt
        rw [if_neg hc]
        exact List.mem_cons_self
      · rw [hlane]
        exact hr ha (by omega)
  · intro s h p l pc ti c hg hw hn hl hs h1 hS hc hst hv
    have hcv := State.ctx?_violate (cause := ti.cause) (sub := ti.sub) (master := 0) (addr := ti.tval)
      (site := siteWord h.site (h.pipeOf l)) hc hst hv
    obtain ⟨h', q, hG, hq, hfr, hql, hregs, hctx⟩ := State.soloLane_freeze
      (s := s.violate h.ctx ti.cause ti.sub 0 ti.tval (siteWord h.site (h.pipeOf l))) (pc := pc) (r := 3) (o := 0) hg hw.1 hn hl hs h1
    have e : s.takeTrap h.gid l pc ti =
        ((s.violate h.ctx ti.cause ti.sub 0 ti.tval (siteWord h.site (h.pipeOf l))).soloLane h.gid l pc 3 0).freezeLane h.gid l := by
      unfold State.takeTrap
      rw [hg]
      simp only [hS, if_true]
    rw [e]
    have hcx := (congrArg (List.find? (fun x : Ctx => x.num == h.ctx)) hctx).trans hcv
    exact ⟨_, h', q, hcx, rfl, rfl, rfl, rfl, rfl, rfl, hG, hq, hfr, hql, hregs⟩

end Sys2Proof.Machine
end

section
/-!
SETTLED. Words of an undivided group's one lane that trap: the address checks, and the trap words and ERET.
-/

namespace Sys2Proof.Machine

open Sys2Proof

/-! A word whose one lane traps. -/

/-- Every path of the group but the last is an empty one, numbered `pid`; the last holds lane l alone and stands at `pc`. -/
def Group.leftAt (H : Group) (l pid : Nat) (pc : Word) : Prop :=
  ∃ es q, H.paths = es ++ [q] ∧ (∀ e ∈ es, e.lanes = [] ∧ e.stacked = none ∧ e.pid = pid) ∧ q.lanes = [l] ∧ q.pc = pc ∧
    q.stacked = none ∧ (es ≠ [] → q.pid ≠ pid)

theorem Group.leftAt.noStack {H : Group} {l pid : Nat} {pc : Word} (h : H.leftAt l pid pc) : H.noStack := by
  obtain ⟨es, q, hp, he, -, -, hq, -⟩ := h
  intro p hmem
  rw [hp] at hmem
  rcases List.mem_append.mp hmem with h1 | h1
  · exact (he p h1).2.1
  · rw [List.mem_singleton.mp h1]; exact hq

theorem Group.leftAt.path?_empty {H : Group} {l pid : Nat} {pc : Word} (h : H.leftAt l pid pc) {e : Path} (hp : H.path? pid = some e)
    (hl : l ∉ e.lanes) : e.lanes = [] ∧ e.stacked = none := by
  obtain ⟨es, q, hps, he, hql, -⟩ := h
  have hm := List.mem_of_find?_eq_some hp
  rw [hps] at hm
  rcases List.mem_append.mp hm with h1 | h1
  · exact ⟨(he e h1).1, (he e h1).2.1⟩
  · rw [List.mem_singleton.mp h1, hql] at hl
    exact absurd (List.mem_singleton_self l) hl

/-- Settling leaves the path of the lane. -/
theorem Group.leftAt.tidy {H : Group} {l pid : Nat} {pc : Word} (h : H.leftAt l pid pc) :
    ∃ q, H.tidy = H.withPaths [q] ∧ q.lanes = [l] ∧ q.pc = pc ∧ q.stacked = none := by
  obtain ⟨es, q, hp, he, hl, hpc, hst, -⟩ := h
  have hne : q.lanes ≠ [] := by simp [hl]
  obtain ⟨a, e⟩ := Group.tidy_alone (g := H.withPaths [q]) rfl hne
  exact ⟨{ q with after := a }, (Group.tidy_dropEmpty hp (fun x hx => ⟨(he x hx).1, (he x hx).2.1⟩) hne).trans e, hl, hpc, hst⟩

theorem Group.leftAt.tidy_leftAt {H : Group} {l pid : Nat} {pc : Word} (h : H.leftAt l pid pc) : H.tidy.leftAt l pid pc := by
  obtain ⟨q, e, hl, hpc, hst⟩ := h.tidy
  exact ⟨[], q, by rw [e]; rfl, by simp, hl, hpc, hst, by simp⟩

/-- What the empty path does besides leaves the lane's path alone. -/
theorem Group.leftAt.modPath {H : Group} {l pid : Nat} {pc : Word} (h : H.leftAt l pid pc) (hne : ∃ e, H.path? pid = some e ∧ l ∉ e.lanes)
    (f : Path → Path) (hf : ∀ p, (f p).lanes = p.lanes ∧ (f p).stacked = p.stacked ∧ (f p).pid = p.pid) :
    (H.modPath pid f).leftAt l pid pc := by
  obtain ⟨es, q, hp, he, hl, hpc, hst, hq⟩ := h
  have hes : es ≠ [] := by
    rintro rfl
    obtain ⟨e, h1, h2⟩ := hne
    have hm := List.mem_of_find?_eq_some h1
    rw [hp] at hm
    rw [List.mem_singleton.mp hm, hl] at h2
    exact h2 (List.mem_singleton_self l)
  refine ⟨es.map (fun p => if p.pid == pid then f p else p), q, ?_, fun e hmem => ?_, hl, hpc, hst, fun _ => hq hes⟩
  · have := hq hes
    simp [Group.modPath, updWhere, hp, this]
  · obtain ⟨x, hx, rfl⟩ := List.mem_map.mp hmem
    obtain ⟨h1, h2, h3⟩ := he x hx
    split
    · exact ⟨(hf x).1.trans h1, (hf x).2.1.trans h2, (hf x).2.2.trans h3⟩
    · exact ⟨h1, h2, h3⟩

theorem Group.trapAt_path? (h : Group) (p : Path) (l n : Nat) (tv pc : Word) (ti : TrapInfo) :
    ∃ q, (h.trapAt p l n tv pc ti).path? p.pid = some q := by
  unfold Group.trapAt
  split
  · exact ⟨_, by simp [Group.path?, Path.restarted]; rfl⟩
  · exact ⟨_, by simp [Group.path?]; rfl⟩

/-- The group of one lane that has taken a trap. -/
theorem Group.trapAt_leftAt {h : Group} {p : Path} {l n : Nat} {tv pc : Word} {ti : TrapInfo} (hl : p.lanes = [l])
    (hs : p.stacked = none) (hn : p.pid ≠ n) : (h.trapAt p l n tv pc ti).leftAt l p.pid tv := by
  unfold Group.trapAt
  split
  · exact ⟨[], _, rfl, by simp, hl, rfl, hs, by simp⟩
  · refine ⟨[{ p with lanes := p.lanes.filter (· ≠ l), election := p.election.filter (fun e => e.lane != l) }],
      (soloPath n p l tv).restarted, rfl, ?_, rfl, rfl, rfl, fun _ => Ne.symm hn⟩
    intro e he
    rw [List.mem_singleton.mp he]
    exact ⟨by simp [hl], hs, rfl⟩

/-- What a trap leaves of the state: the lane at its handler, and nothing else changed. -/
def TrapLeft (s t : State) (h : Group) (l : Nat) (pc : Word) (ti : TrapInfo) : Prop :=
  TrapTaken s t h l pc ti ∧ t.mem = s.mem ∧ t.classes = s.classes ∧ (∀ n, n ≠ h.gid → t.group? n = s.group? n) ∧
    ∀ n i, ¬(n = h.gid ∧ i = l) → SameRegs (s.lane n i) (t.lane n i)

theorem State.undivided.group {s : State} {h : Group} {p : Path} (hs : s.undivided h p) : s.group? h.gid = some h := by
  obtain ⟨⟨hc, -⟩, -⟩ := hs
  have := (State.current_some hc).1
  rwa [← (State.current_some hc).2.2.1] at this

theorem State.undivided.stacked {s : State} {h : Group} {p : Path} (hs : s.undivided h p) : p.stacked = none := by
  obtain ⟨⟨-, hn⟩, hp, -⟩ := hs
  exact hn p (by simp [hp])

theorem State.single.group {s : State} {h : Group} {p : Path} {l : Nat} (hs : s.single h p l) : s.group? h.gid = some h := hs.1.group

theorem State.single.lt {s : State} {h : Group} {p : Path} {l : Nat} (hs : s.single h p l) : l < h.size := by
  obtain ⟨⟨-, -, hlive, -⟩, hl, -⟩ := hs
  have : l ∈ h.liveLanes := by rw [← hlive, hl]; exact List.mem_singleton_self l
  exact List.mem_range.mp (List.mem_of_mem_filter this)

/-- The one lane takes its trap. -/
theorem State.single.takeTrap {s : State} {h : Group} {p : Path} {l : Nat} (hs : s.single h p l) (hU : (h.lane l).privS = false)
    (ti : TrapInfo) :
    let H := h.trapAt p l s.nextId (tvecOf s h.ctx) p.pc ti
    let u := s.takeTrap h.gid l p.pc ti
    u.group? h.gid = some H ∧ H.leftAt l p.pid (tvecOf s h.ctx) ∧ (∀ n, n ≠ h.gid → u.group? n = s.group? n) ∧ u.mem = s.mem ∧
      u.classes = s.classes := by
  have hg := hs.group
  have hst := hs.1.stacked
  obtain ⟨⟨hr, hp, -, -, hpid, -⟩, hl, -⟩ := hs
  obtain ⟨hG, hother, heq⟩ := State.takeTrap_atU (pc := p.pc) (ti := ti) hg hp (by simp [hl]) (fun _ => hl) hU
  exact ⟨hG, Group.trapAt_leftAt hl hst hpid, hother, by rw [heq], by rw [heq]⟩

/-- The guard holds in the one lane: it is active. -/
theorem State.single.active {s : State} {h : Group} {p : Path} {l : Nat} (hs : s.single h p l) {g : Guard}
    (hgd : guardHolds g (h.lane l) = true) : h.active p g = [l] := by
  obtain ⟨-, hl, -⟩ := hs
  simp [Group.active, hl, hgd]

/-- After the trap of the one lane, and whatever was done to the path it left, the group settles. -/
theorem State.trapLeft_settle {s u : State} {h H : Group} {p : Path} {l : Nat} {pc : Word} {ti : TrapInfo} (hs : s.single h p l)
    (hu : u.group? h.gid = some H) (hH : H.leftAt l p.pid (tvecOf s h.ctx))
    (hlanes : H.lanes = (h.trapAt p l s.nextId (tvecOf s h.ctx) pc ti).lanes) (hother : ∀ n, n ≠ h.gid → u.group? n = s.group? n)
    (hmem : u.mem = s.mem) (hcls : u.classes = s.classes) :
    TrapLeft s (u.settle h.gid) h l pc ti ∧ (u.settle h.gid).group? h.gid = some H.tidy := by
  obtain ⟨q, e, hql, hqp, -⟩ := hH.tidy
  rw [State.settle_noStack u h.gid H hu hH.noStack]
  have hG := State.group?_modGroup_same hu Group.tidy Group.tidy_gid
  have hlt' : H.tidy.lanes = (h.trapAt p l s.nextId (tvecOf s h.ctx) pc ti).lanes := (Group.tidy_lanes H).trans hlanes
  have hg := hs.group
  have hlt := hs.lt
  refine ⟨⟨TrapTaken.of_group hG hlt hlt' ?_ hql hqp, hmem, hcls,
    fun n hn => (State.group?_modGroup_other u _ n _ Group.tidy_gid hn).trans (hother n hn), fun n i hni => ?_⟩, hG⟩
  · rw [e]; exact Group.pathOf?_one rfl (by simp [hql])
  · by_cases hn : n = h.gid
    · subst hn
      have hi : i ≠ l := fun hi => hni ⟨rfl, hi⟩
      rw [State.lane_of_group? hG, State.lane_of_group? hg,
        show H.tidy.lane i = (h.trapAt p l s.nextId (tvecOf s h.ctx) pc ti).lane i from by unfold Group.lane; rw [hlt']]
      exact (Group.trapAt_lane p s.nextId (tvecOf s h.ctx) pc ti hlt).2 i hi
    · unfold State.lane
      rw [State.group?_modGroup_other u _ n _ Group.tidy_gid hn, hother n hn]
      exact SameRegs.refl _

/-- The trap, settled at once. -/
theorem State.single.trap_settle {s : State} {h : Group} {p : Path} {l : Nat} (hs : s.single h p l) (hU : (h.lane l).privS = false)
    (ti : TrapInfo) : TrapLeft s ((s.takeTrap h.gid l p.pc ti).settle h.gid) h l p.pc ti := by
  obtain ⟨hG, hH, hother, hmem, hcls⟩ := hs.takeTrap hU ti
  exact (State.trapLeft_settle hs hG hH rfl hother hmem hcls).1

/-- The trap, and then the empty path it left goes on by `f` before all settles. -/
theorem State.single.trap_modPath {s : State} {h : Group} {p : Path} {l : Nat} (hs : s.single h p l) (hU : (h.lane l).privS = false)
    (ti : TrapInfo) (hne : ∃ e, (h.trapAt p l s.nextId (tvecOf s h.ctx) p.pc ti).path? p.pid = some e ∧ l ∉ e.lanes)
    (f : Path → Path) (hf : ∀ p, (f p).lanes = p.lanes ∧ (f p).stacked = p.stacked ∧ (f p).pid = p.pid) :
    TrapLeft s (((s.takeTrap h.gid l p.pc ti).modPath h.gid p.pid f).settle h.gid) h l p.pc ti ∧
      (((s.takeTrap h.gid l p.pc ti).modPath h.gid p.pid f).settle h.gid).group? h.gid =
        some ((h.trapAt p l s.nextId (tvecOf s h.ctx) p.pc ti).modPath p.pid f).tidy := by
  obtain ⟨hG, hH, hother, hmem, hcls⟩ := hs.takeTrap hU ti
  exact State.trapLeft_settle hs (State.group?_modGroup_same hG _ fun _ => rfl) (hH.modPath hne f hf) rfl
    (fun n hn => (State.group?_modGroup_other _ _ _ (fun g => g.modPath p.pid f) (fun _ => rfl) hn).trans (hother n hn)) hmem hcls

/-- A word whose one active lane traps at U. -/
theorem laneWord_trap {s : State} {h : Group} {p : Path} {l : Nat} {gd : Guard} {F : State → Nat → Nat → LRes Unit} {ti : TrapInfo}
    (hs : s.single h p l) (hgd : guardHolds gd (h.lane l) = true) (hU : (h.lane l).privS = false) (hF : F s h.gid l = .trap ti) :
    ∃ t, laneWord gd F s = .next t ∧ TrapLeft s t h l p.pc ti := by
  have hc : s.current = some (h, p) := hs.1.1.1
  unfold laneWord
  rw [hc]
  simp only [hs.active hgd, laneFold_trap (fun s l => F s h.gid l) l s ti hF]
  refine ⟨_, rfl, ?_⟩
  unfold State.finish
  simp only [Bool.false_eq_true, if_false, List.isEmpty_cons, List.isEmpty_nil, Bool.false_and, Bool.not_true, State.takeTraps,
    List.foldl_cons, List.foldl_nil, (hs.takeTrap hU ti).1]
  split
  · exact hs.trap_settle hU ti
  · rename_i q hq
    split
    · exact hs.trap_settle hU ti
    · rename_i hno
      exact (hs.trap_modPath hU ti ⟨q, hq, fun hmem => hno (List.any_eq_true.mpr ⟨l, hmem, by simp⟩)⟩
        (fun q => { q with pc := p.pc + 8, part := [] }) fun _ => ⟨rfl, rfl, rfl⟩).1

/-- A privileged word of a lane at U. -/
theorem needS_trap {s : State} {h : Group} {p : Path} {l : Nat} (hs : s.single h p l) (hU : (h.lane l).privS = false) (i : Instr)
    (f : State → Out) : ∃ t, needS i f s = .next t ∧ TrapLeft s t h l p.pc ⟨8, 0, (encode i).getD 0, false⟩ := by
  have hc : s.current = some (h, p) := hs.1.1.1
  have hf : p.lanes.filter (fun l => !(h.lane l).privS) = [l] := by
    obtain ⟨-, hl, -⟩ := hs
    simp [hl, hU]
  unfold needS
  rw [hc]
  simp only [hf]
  exact ⟨_, rfl, hs.trap_settle hU _⟩

/-- The addresses of an access, each with the trap that its checks answer (08 R207). -/
theorem resolve_checks {s : State} {h : Group} {l : Nat} {A : Word} {n : Nat} {ti : TrapInfo}
    (hc : resolve s h l A n n = .error ti) (hg : s.group? h.gid = some h) (bs : List Byte) (hn : n = bs.length) (rm : Bool)
    (f : Nat → Option Nat) : s.load h.gid l A n 1 = .trap ti ∧ s.store h.gid l A bs = .trap ti ∧ s.rmw h.gid l A n rm f = .trap ti := by
  subst hn
  refine ⟨?_, ?_, ?_⟩
  · unfold State.load; simp only [hg, hc]
  · unfold State.store; simp only [hg, hc]
  · unfold State.rmw; simp only [hg, hc]

theorem resolve_space {s : State} {h : Group} {l : Nat} {A : Word} {n : Nat} (h0 : A.toNat / 2 ^ 56 ≠ 0) (h1 : A.toNat / 2 ^ 56 ≠ 0xFC)
    (h2 : A.toNat / 2 ^ 56 ≠ 0xFD) : resolve s h l A n n = .error ⟨4, 1, A, false⟩ := by
  unfold resolve
  simp only [h0, h1, h2, if_false]

theorem resolve_unaligned {s : State} {h : Group} {l : Nat} {A : Word} {n : Nat} (h0 : A.toNat / 2 ^ 56 = 0) (ha : A.toNat % n ≠ 0) :
    resolve s h l A n n = .error ⟨2, 0, A, false⟩ := by
  unfold resolve
  simp only [h0, ha, if_true, if_false]

/-- An address in a scratchpad space is checked against the scratchpad it names. -/
theorem resolve_inPad {s : State} {h : Group} {l : Nat} {A : Word} {n i o : Nat} (hs : h.padAt l A = some (i, o)) :
    resolve s h l A n n = match s.pad? h.cls i with
      | none => .error ⟨5, 0, A, false⟩
      | some p => if o + n ≤ p.size then (if A.toNat % n = 0 then .ok (.pad h.cls i o) else .error ⟨2, 0, A, false⟩)
          else .error ⟨4, 2, A, false⟩ := by
  unfold Group.padAt at hs
  unfold resolve
  by_cases h1 : A.toNat / 2 ^ 56 = 0xFC
  · rw [if_pos h1] at hs
    obtain ⟨rfl, rfl⟩ := Prod.mk.inj (Option.some.inj hs)
    simp only [h1]
    rfl
  · rw [if_neg h1] at hs
    by_cases h2 : A.toNat / 2 ^ 56 = 0xFD
    · rw [if_pos h2] at hs
      obtain ⟨rfl, rfl⟩ := Prod.mk.inj (Option.some.inj hs)
      simp only [h2]
      rfl
    · rw [if_neg h2] at hs; cases hs

/-- Settles O15: the checks one after the other, and the trap that the one lane of LD or ST takes. -/
theorem addressChecks : Obligations.AddressChecks := by
  constructor
  · intro s h l A bs pd i o rm f n Checked hg
    have checked : ∀ {ti}, resolve s h l A n n = .error ti → Checked ti := fun hc => resolve_checks hc hg bs rfl rm f
    refine ⟨fun h0 h1 h2 => checked (resolve_space h0 h1 h2), fun hs hp => ⟨fun hlt => checked ?_, fun hle ha => checked ?_⟩,
      fun h0 ha => checked (resolve_unaligned h0 ha), fun hs hp => checked ?_⟩
    · rw [resolve_inPad hs, hp]; simp [Nat.not_le.mpr hlt]
    · rw [resolve_inPad hs, hp]; simp [hle, ha]
    · rw [resolve_inPad hs, hp]
  · intro g d a b off sx m sz s h p l w ti hs hgd hU hrel hw
    have hl : s.lane h.gid l = h.lane l := State.lane_of_group? hs.group l
    have hopen : s.ordOpen h.gid l m = .ok () s := by
      rw [State.ordOpen_ok (by simp [hrel])]
      simp [State.opened, hrel]
    have left : ∀ F, F s h.gid l = .trap ti → exec w s = laneWord g F s → ∃ t, exec w s = .next t ∧ TrapTaken s t h l p.pc ti ∧
        t.mem = s.mem ∧ SamePads s t ∧ ∀ n i, ¬(n = h.gid ∧ i = l) → SameRegs (s.lane n i) (t.lane n i) := by
      intro F hF he
      obtain ⟨t, e, htrap, hmem, hcls, -, hregs⟩ := laneWord_trap hs hgd hU hF
      exact ⟨t, he.trans e, htrap, hmem, fun k m => by unfold State.pad? State.klass?; rw [hcls], hregs⟩
    rcases hw with ⟨rfl, hld⟩ | ⟨rfl, hst⟩
    · refine left (fun s gid l => s.laneLoad gid l m ((s.lane gid l).addrIndexed a b off) sz.bytes
        (fun v x => x.wx d (loadValue sx sz.bytes v))) ?_ rfl
      simp only [State.laneLoad, hopen, LRes.bind, hl, hld]
    · refine left (fun s gid l => s.laneStore gid l m ((s.lane gid l).addrData a off)
        (toBytes sz.bytes ((s.lane gid l).rx b).toNat)) ?_ rfl
      simp only [State.laneStore, hopen, LRes.bind, hl, hst]

/-! TRAP, SCALL and the privileged words at U, ERET at S. -/

theorem partFold_trap (f : State → Nat → LRes Unit) (l : Nat) (s : State) (t : TrapInfo) (h : f s l = .trap t) :
    partFold f [l] s = (⟨s, [(l, t)], [], false⟩, []) := by simp [partFold, h]

theorem State.single.toDo {s : State} {h : Group} {p : Path} {l : Nat} (hs : s.single h p l) {g : Guard}
    (hgd : guardHolds g (h.lane l) = true) : h.toDo p g = [l] := by
  have hpart : p.part = [] := hs.2.2
  simp [Group.toDo, hs.active hgd, hpart]

/-- A path that goes on after its wait. -/
def Path.woken (p : Path) : Path := { p with waiting := false, pc := p.pc + 8, part := [] }

theorem Group.modPath_modPath (g : Group) (pid : Nat) (f k : Path → Path) (hf : ∀ p, (f p).pid = p.pid) :
    (g.modPath pid f).modPath pid k = g.modPath pid (k ∘ f) := by
  simp only [Group.modPath, updWhere, List.map_map]
  congr 1
  refine List.map_congr_left fun x _ => ?_
  by_cases hx : x.pid = pid <;> simp [hx, hf]

theorem State.modPath_modPath (s : State) (gid pid : Nat) (f k : Path → Path) (hf : ∀ p, (f p).pid = p.pid) :
    (s.modPath gid pid f).modPath gid pid k = s.modPath gid pid (k ∘ f) := by
  unfold State.modPath
  rw [State.modGroup_modGroup s gid (fun g => g.modPath pid f) _ fun _ => rfl]
  congr 1
  funext g
  exact Group.modPath_modPath g pid f k hf

/-- A path without a lane does not wait. -/
theorem State.parkPath_empty {s : State} {g : Group} {q : Path} {gid pid : Nat} (hg : s.group? gid = some g) (hq : g.path? pid = some q)
    (hl : q.lanes = []) (hs : q.stacked = none) : s.parkPath gid pid = (s.modPath gid pid Path.woken).settle gid := by
  have hpid : q.pid = pid := by simpa using List.find?_some hq
  have h1 : (s.modPath gid pid (fun p => { p with waiting := true })).group? gid =
      some (g.modPath pid (fun p => { p with waiting := true })) := State.group?_modGroup_same hg (fun g => g.modPath pid (fun p => { p with waiting := true })) fun _ => rfl
  have h2 : (g.modPath pid (fun p => { p with waiting := true })).path? pid = some { q with waiting := true } := by
    rw [Group.path?_modPath g pid pid (fun p => { p with waiting := true }) fun _ => rfl, hq]
    simp [hpid]
  have h3 : (s.modPath gid pid (fun p => { p with waiting := true })).modPath gid pid Path.woken = s.modPath gid pid Path.woken :=
    State.modPath_modPath s gid pid _ Path.woken fun _ => rfl
  rw [← h3]
  unfold State.parkPath State.wakePath
  simp only [h1, h2, hl, hs]
  simp
  rfl

/-- A word whose lanes may wait, and whose one active lane traps at U. -/
theorem parkWord_trap {s : State} {h : Group} {p : Path} {l : Nat} {gd : Guard} {F : State → Nat → Nat → LRes Unit} {ti : TrapInfo}
    (hs : s.single h p l) (hgd : guardHolds gd (h.lane l) = true) (hU : (h.lane l).privS = false) (hF : F s h.gid l = .trap ti) :
    ∃ t, parkWord gd F s = .next t ∧ TrapLeft s t h l p.pc ti := by
  have hc : s.current = some (h, p) := hs.1.1.1
  unfold parkWord
  rw [hc]
  simp only [hs.toDo hgd, partFold_trap (fun s l => F s h.gid l) l s ti hF]
  refine ⟨_, rfl, ?_⟩
  obtain ⟨hG, hH, -⟩ := hs.takeTrap hU ti
  simp only [State.takeTraps, List.foldl_cons, List.foldl_nil, hG]
  split
  · exact hs.trap_settle hU ti
  · rename_i hno
    obtain ⟨q, hq⟩ := Group.trapAt_path? h p l s.nextId (tvecOf s h.ctx) p.pc ti
    have hlq : l ∉ q.lanes := fun hmem => hno (by simp [hq]; exact hmem)
    obtain ⟨hql, hqs⟩ := hH.path?_empty hq hlq
    rw [State.parkPath_empty hG hq hql hqs]
    obtain ⟨⟨-, hmem, hcls, hothers, -⟩, hG'⟩ := hs.trap_modPath hU ti ⟨q, hq, hlq⟩ Path.woken fun _ => ⟨rfl, rfl, rfl⟩
    exact (State.trapLeft_settle hs hG' (hH.modPath ⟨q, hq, hlq⟩ Path.woken fun _ => ⟨rfl, rfl, rfl⟩).tidy_leftAt (Group.tidy_lanes _)
      hothers hmem hcls).1

/-- Settling a group whose one path has lanes. -/
theorem State.settle_one {u : State} {gid : Nat} {g : Group} {q : Path} (hu : u.group? gid = some g) (hp : g.paths = [q])
    (hl : q.lanes ≠ []) (hs : q.stacked = none) :
    ∃ a, (u.settle gid).group? gid = some (g.withPaths [{ q with after := a }]) ∧
      (∀ n, n ≠ gid → (u.settle gid).group? n = u.group? n) ∧ u.settle gid = { u with groups := (u.settle gid).groups } := by
  obtain ⟨a, e⟩ := Group.tidy_alone hp hl
  have hn : g.noStack := fun p hmem => by rw [hp] at hmem; rw [List.mem_singleton.mp hmem]; exact hs
  rw [State.settle_noStack u gid g hu hn]
  exact ⟨a, (State.group?_modGroup_same hu _ Group.tidy_gid).trans (congrArg some e),
    fun n hne => State.group?_modGroup_other u gid n _ Group.tidy_gid hne, rfl⟩

/-- Lanes of groups that agree but in the group `gid`. -/
theorem State.lane_of_other {s t : State} {gid : Nat} (h : ∀ n, n ≠ gid → t.group? n = s.group? n) {n : Nat} (hn : n ≠ gid) (i : Nat) :
    t.lane n i = s.lane n i := by
  unfold State.lane; rw [h n hn]

/-- An undivided group's control word with one target: it goes there. -/
theorem State.control_one {s : State} {h : Group} {p : Path} {gid : Nat} {pc : Word} {fall join : Option Word} (hg : s.group? gid = some h)
    (hp : h.paths = [p]) (hl : p.lanes ≠ []) (hs : p.stacked = none) (old : Word) :
    ∃ a, (s.control gid p.pid old [] [⟨p.lanes, pc, []⟩] join fall).group? gid =
        some (h.withPaths [{ p with pc := pc, election := [], after := a }]) ∧
      (∀ n, n ≠ gid → (s.control gid p.pid old [] [⟨p.lanes, pc, []⟩] join fall).group? n = s.group? n) ∧
      s.control gid p.pid old [] [⟨p.lanes, pc, []⟩] join fall =
        { s with groups := (s.control gid p.pid old [] [⟨p.lanes, pc, []⟩] join fall).groups } := by
  let f (q : Path) : Path := { q with pc := pc, election := [], lanes := p.lanes }
  have hd : s.divide gid p.pid [⟨p.lanes, pc, []⟩] join = .done (s.modPath gid p.pid f) := by
    unfold State.divide
    rw [hg]
    simp only [Group.path?, hp, List.find?_cons, BEq.rfl]
    rfl
  have hG : (s.modPath gid p.pid f).group? gid = some (h.modPath p.pid f) := State.group?_modGroup_same hg _ fun _ => rfl
  have e : s.control gid p.pid old [] [⟨p.lanes, pc, []⟩] join fall = (s.modPath gid p.pid f).settle gid := by
    unfold State.control
    simp only [State.takeTraps, List.foldl_nil, hd]
  rw [e]
  obtain ⟨a, h1, h2, h3⟩ := State.settle_one hG (Group.modPath_one h p hp f) hl hs
  exact ⟨a, h1, fun n hn => (h2 n hn).trans (State.group?_modGroup_other s gid n _ (fun _ => rfl) hn), by rw [h3]; rfl⟩

/-- Settles O23: each word at U is a trap of the one lane; ERET at S is a control word to its TEPC. -/
theorem trapWordsAndEret : Obligations.TrapWordsAndEret := by
  constructor
  · intro g code d a s h p l hs hU
    have taken : ∀ {o : State → Out} {ti : TrapInfo}, (∃ t, o s = .next t ∧ TrapLeft s t h l p.pc ti) →
        ∃ t, o s = .next t ∧ TrapTaken s t h l p.pc ti := fun ⟨t, e, ht⟩ => ⟨t, e, ht.1⟩
    have hUl : (s.lane h.gid l).privS = false := by rw [State.lane_of_group? hs.group]; exact hU
    refine ⟨fun hgd => ⟨taken (o := execTrap g code) (laneWord_trap hs hgd hU rfl), ?_⟩,
      taken (o := execEret) (needS_trap hs hU _ _), taken (o := execWfi g d a) (needS_trap hs hU _ _),
      taken (o := execMfc g d 0x0D) (needS_trap hs hU _ _), taken (o := execMtc g a 0x0D) (needS_trap hs hU _ _)⟩
    exact taken (o := execScall g code) (parkWord_trap hs hgd hU (if_pos (by simp [hUl])))
  · intro s h p l hs hS hlev hspace
    have hlt := hs.lt
    have hg := hs.group
    have hst := hs.1.stacked
    obtain ⟨⟨⟨hc, -⟩, hp, -, hne, -, -, hh, hwt, -⟩, hl, -⟩ := hs
    have hE : (h.lane l).eretTrap ((encode .eret).getD 0) = none := by
      unfold Lane.eretTrap
      rw [if_neg (by omega), if_neg (by simpa [Lane.eretPc] using hspace)]
    let F : Group → Group := fun h => { h with lanes := (h.lanes.zipIdx).map (fun x => if [l].contains x.2 then x.1.eret else x.1) }
    have e : execEret s = .next ((s.modGroup h.gid F).control h.gid p.pid p.pc [] [⟨p.lanes, (h.lane l).eretPc, []⟩] none none) := by
      unfold execEret
      rw [needS_of_S .eret _ hc fun i hi => ?_]
      · simp only [hc, hl, List.filterMap_cons, List.filterMap_nil, List.filter_cons, List.filter_nil, hE]
        rfl
      · rw [hl] at hi; rw [List.mem_singleton.mp hi]; exact hS
    have hF : (s.modGroup h.gid F).group? h.gid = some (F h) := State.group?_modGroup_same hg F fun _ => rfl
    obtain ⟨a, hG, hother, heq⟩ := State.control_one (pc := (h.lane l).eretPc) (fall := none) (join := none) hF hp hne hst p.pc
    have hlane : ∀ i, (F h).lane i = if i = l then (h.lane i).eret else h.lane i := fun i => by
      by_cases hi : i < h.lanes.length
      · simp [Group.lane, F, List.getD_eq_getElem?_getD, hi]
      · have : i ≠ l := fun hil => hi (hil ▸ hlt)
        simp [Group.lane, F, List.getD_eq_getElem?_getD, hi, this]
    have htl : ∀ i, ((s.modGroup h.gid F).control h.gid p.pid p.pc [] [⟨p.lanes, (h.lane l).eretPc, []⟩] none none).lane h.gid i =
        if i = l then (h.lane i).eret else h.lane i := fun i => (State.lane_of_group? hG i).trans (hlane i)
    refine ⟨_, e, ⟨{ p with pc := (h.lane l).eretPc, election := [], after := a }, congrArg (Option.map (·.paths)) hG, rfl, rfl, hh, hwt⟩,
      ?_, ?_, ?_, ?_, by rw [heq]; rfl, fun n i hni => ?_⟩
    · rw [htl, if_pos rfl]
      exact decide_eq_decide.mpr ⟨fun _ => by omega, fun _ => by omega⟩
    · rw [htl, if_pos rfl]; rfl
    · rw [htl, if_pos rfl]; rfl
    · rw [htl, if_pos rfl]; rfl
    · by_cases hn : n = h.gid
      · subst hn
        rw [htl, if_neg fun hi => hni ⟨rfl, hi⟩, State.lane_of_group? hg]
      · rw [State.lane_of_other hother hn]
        exact State.lane_of_other (fun n hn => State.group?_modGroup_other s h.gid n F (fun _ => rfl) hn) hn i

end Sys2Proof.Machine
end

section
/-!
SETTLED. Parked paths: what a wait, its end and a wake leave of the groups, and the returns of parked lanes.
-/

namespace Sys2Proof.Machine

open Sys2Proof

/-! A path that parks and a path that wakes, in a group without stacked paths. -/

/-- The path may go on: it waits, and none of its lanes does. -/
def Group.canWake (g : Group) (pid : Nat) : Bool :=
  (g.path? pid).any (fun p => p.waiting && p.stacked.isNone && p.lanes.all (fun l => (g.lane l).wait.isNone))

/-- The group after a path of it has gone on. -/
def Group.wake (g : Group) (pid : Nat) : Group := (g.modPath pid Path.woken).tidy

@[simp] theorem Group.wake_gid (g : Group) (pid : Nat) : (g.wake pid).gid = g.gid := Group.tidy_gid _
@[simp] theorem Group.wake_lanes (g : Group) (pid : Nat) : (g.wake pid).lanes = g.lanes := Group.tidy_lanes _

theorem Group.wake_eq (g : Group) (pid : Nat) : g.wake pid = g.withPaths (g.wake pid).paths := Group.tidy_eq _

theorem Group.noStack_wake {g : Group} (h : g.noStack) (pid : Nat) : (g.wake pid).noStack :=
  Group.noStack_tidy _ (Group.noStack_modPath g h pid Path.woken fun _ => rfl)

theorem State.wakePath_of_none {s : State} {gid : Nat} (pid : Nat) (hg : s.group? gid = none) : s.wakePath gid pid = s := by
  unfold State.wakePath; rw [hg]

theorem State.wakePath_of_not {s : State} {gid pid : Nat} {g : Group} (hg : s.group? gid = some g) (hc : g.canWake pid = false) :
    s.wakePath gid pid = s := by
  unfold State.wakePath
  unfold Group.canWake at hc
  rw [hg]
  cases hp : g.path? pid with
  | none => simp only [hp]
  | some p =>
    rw [hp, Option.any_some] at hc
    simp only [hp, hc, Bool.false_eq_true, if_false]

theorem State.wakePath_of_canWake {s : State} {gid pid : Nat} {g : Group} (hg : s.group? gid = some g) (hn : g.noStack)
    (hc : g.canWake pid = true) : s.wakePath gid pid = s.modGroup gid (fun g => g.wake pid) := by
  unfold State.wakePath
  unfold Group.canWake at hc
  rw [hg]
  cases hp : g.path? pid with
  | none => rw [hp] at hc; cases hc
  | some p =>
    rw [hp, Option.any_some] at hc
    simp only [hp, hc, if_true]
    have hg' : (s.modPath gid pid Path.woken).group? gid = some (g.modPath pid Path.woken) := State.group?_modGroup_same hg _ fun _ => rfl
    refine (State.settle_noStack _ gid _ hg' (Group.noStack_modPath g hn pid Path.woken fun _ => rfl)).trans ?_
    exact State.modGroup_modGroup s gid (fun g => g.modPath pid Path.woken) _ fun _ => rfl

/-- What waits and wakes keep: every group with its lanes' number and all but its lanes and paths, and no path on a stack. -/
def Keeps (s t : State) : Prop :=
  t.noStacks ∧ ∀ n, (s.group? n = none → t.group? n = none) ∧ ∀ g, s.group? n = some g →
    ∃ g', t.group? n = some g' ∧ g'.size = g.size ∧ g' = { g with lanes := g'.lanes, paths := g'.paths }

theorem Keeps.refl {s : State} (h : s.noStacks) : Keeps s s := ⟨h, fun _ => ⟨id, fun g hg => ⟨g, hg, rfl, rfl⟩⟩⟩

theorem Keeps.trans {s t u : State} (h : Keeps s t) (k : Keeps t u) : Keeps s u := by
  refine ⟨k.1, fun n => ⟨fun hn => (k.2 n).1 ((h.2 n).1 hn), fun g hg => ?_⟩⟩
  obtain ⟨g1, h1, hz1, he1⟩ := (h.2 n).2 g hg
  obtain ⟨g2, h2, hz2, he2⟩ := (k.2 n).2 g1 h1
  refine ⟨g2, h2, hz2.trans hz1, ?_⟩
  rw [he2, he1]

/-- An update of one group's lanes and paths that keeps their number, and stacks nothing. -/
theorem Keeps.modGroup {s : State} (h : s.noStacks) (gid : Nat) (f : Group → Group)
    (hf : ∀ g, (f g).size = g.size ∧ f g = { g with lanes := (f g).lanes, paths := (f g).paths } ∧ (g.noStack → (f g).noStack)) :
    Keeps s (s.modGroup gid f) := by
  have hgid : ∀ g, (f g).gid = g.gid := fun g => by rw [(hf g).2.1]
  refine ⟨fun g hg => ?_, fun n => ⟨fun hn => ?_, fun g hg => ?_⟩⟩
  · obtain ⟨g0, h0, rfl⟩ := List.mem_map.mp hg
    split
    · exact (hf g0).2.2 (h g0 h0)
    · exact h g0 h0
  · rw [State.group?_modGroup s gid n f hgid, hn]; rfl
  · rw [State.group?_modGroup s gid n f hgid, hg, Option.map_some]
    split
    · exact ⟨_, rfl, (hf g).1, (hf g).2.1⟩
    · exact ⟨g, rfl, rfl, rfl⟩

theorem State.noStacks.group {s : State} (h : s.noStacks) {n : Nat} {g : Group} (hg : s.group? n = some g) : g.noStack :=
  h g (List.mem_of_find?_eq_some hg)

theorem Keeps.wake {s : State} (h : s.noStacks) (gid pid : Nat) : Keeps s (s.modGroup gid (fun g => g.wake pid)) :=
  Keeps.modGroup h gid _ fun g => ⟨by unfold Group.size; rw [Group.wake_lanes], by rw [Group.wake_eq]; rfl, fun hn => Group.noStack_wake hn pid⟩

theorem State.wakePath_frame {s : State} (h : s.noStacks) (gid pid : Nat) :
    Keeps s (s.wakePath gid pid) ∧ SameLanes s (s.wakePath gid pid) ∧ (∀ n, n ≠ gid → (s.wakePath gid pid).group? n = s.group? n) ∧
      s.wakePath gid pid = { s with groups := (s.wakePath gid pid).groups } := by
  cases hg : s.group? gid with
  | none =>
    rw [State.wakePath_of_none pid hg]
    exact ⟨Keeps.refl h, fun _ _ => rfl, fun _ _ => rfl, rfl⟩
  | some g =>
    cases hc : g.canWake pid with
    | false =>
      rw [State.wakePath_of_not hg hc]
      exact ⟨Keeps.refl h, fun _ _ => rfl, fun _ _ => rfl, rfl⟩
    | true =>
      rw [State.wakePath_of_canWake hg (h.group hg) hc]
      refine ⟨Keeps.wake h gid pid, fun n i => ?_, fun n hn => State.group?_modGroup_other s gid n _ (fun g => Group.wake_gid g pid) hn, rfl⟩
      unfold State.lane
      rw [State.group?_modGroup s gid n _ fun g => Group.wake_gid g pid]
      cases s.group? n with
      | none => rfl
      | some g =>
        simp only [Option.map_some]
        split
        · unfold Group.lane; rw [Group.wake_lanes]
        · rfl

/-! Wakes of several paths. -/

theorem State.wakePaths_frame {s : State} (h : s.noStacks) (l : List (Nat × Nat)) :
    let t := l.foldl (fun s x => s.wakePath x.1 x.2) s
    Keeps s t ∧ SameLanes s t ∧ t = { s with groups := t.groups } := by
  induction l generalizing s with
  | nil => exact ⟨Keeps.refl h, fun _ _ => rfl, rfl⟩
  | cons x r ih =>
    obtain ⟨h1, h2, -, h3⟩ := State.wakePath_frame h x.1 x.2
    obtain ⟨k1, k2, k3⟩ := ih h1.1
    refine ⟨h1.trans k1, fun n i => (k2 n i).trans (h2 n i), ?_⟩
    rw [List.foldl_cons]
    generalize r.foldl (fun s x => s.wakePath x.1 x.2) (s.wakePath x.1 x.2) = t at k3
    rw [k3, h3]

/-- The one path of a group has gone on: it stands at the next word. -/
def Group.wokenFrom (g : Group) (p : Path) : Prop := ∃ a, g.paths = [{ p.woken with after := a }]

theorem Group.wokenFrom.canWake {g : Group} {p : Path} (h : g.wokenFrom p) (pid : Nat) : g.canWake pid = false := by
  obtain ⟨a, e⟩ := h
  by_cases hpid : p.pid = pid
  · simp [Group.canWake, Group.path?, e, Path.woken, hpid]
  · simp [Group.canWake, Group.path?, e, Path.woken, hpid]

theorem Group.wake_one {g : Group} {p : Path} (hp : g.paths = [p]) (hl : p.lanes ≠ []) : (g.wake p.pid).wokenFrom p := by
  obtain ⟨a, e⟩ := Group.tidy_alone (Group.modPath_one g p hp Path.woken) hl
  exact ⟨a, by unfold Group.wake; rw [e]; rfl⟩

theorem Group.canWake_one {g : Group} {p : Path} (hp : g.paths = [p]) (hw : p.waiting = true) (hs : p.stacked = none)
    (hl : ∀ l ∈ p.lanes, (g.lane l).wait = none) : g.canWake p.pid = true := by
  simp [Group.canWake, Group.path?, hp, hw, hs]
  exact hl

/-- A path that has gone on already is left alone by further wakes. -/
theorem State.wakePaths_woken {s : State} (h : s.noStacks) {n : Nat} {g : Group} {p : Path} (hg : s.group? n = some g)
    (hw : g.wokenFrom p) (l : List (Nat × Nat)) : (l.foldl (fun s x => s.wakePath x.1 x.2) s).group? n = some g := by
  induction l generalizing s with
  | nil => exact hg
  | cons x r ih =>
    refine ih (State.wakePath_frame h x.1 x.2).1.1 ?_
    by_cases hx : n = x.1
    · subst hx; exact (congrArg (State.group? · x.1) (State.wakePath_of_not hg (hw.canWake x.2))).trans hg
    · exact ((State.wakePath_frame h x.1 x.2).2.2.1 n hx).trans hg

/-- The one path of a group, none of whose lanes waits any more, goes on when its turn comes. -/
theorem State.wakePaths_one {s : State} (h : s.noStacks) {n : Nat} {g : Group} {p : Path} (hg : s.group? n = some g) (hp : g.paths = [p])
    (hne : p.lanes ≠ []) (hw : p.waiting = true) (hs : p.stacked = none) (hl : ∀ l ∈ p.lanes, (g.lane l).wait = none)
    {l : List (Nat × Nat)} (hmem : (n, p.pid) ∈ l) :
    ∃ g', (l.foldl (fun s x => s.wakePath x.1 x.2) s).group? n = some g' ∧ g'.wokenFrom p := by
  induction l generalizing s with
  | nil => cases hmem
  | cons x r ih =>
    have hfr := State.wakePath_frame h x.1 x.2
    by_cases hx : x = (n, p.pid)
    · subst hx
      refine ⟨g.wake p.pid, State.wakePaths_woken hfr.1.1 ?_ (Group.wake_one hp hne) r, Group.wake_one hp hne⟩
      rw [State.wakePath_of_canWake hg (h.group hg) (Group.canWake_one hp hw hs hl)]
      exact State.group?_modGroup_same hg _ fun g => Group.wake_gid g p.pid
    · refine ih hfr.1.1 ?_ ((List.mem_cons.mp hmem).resolve_left (Ne.symm hx))
      by_cases hn : n = x.1
      · have hpid : x.2 ≠ p.pid := fun hc => hx (Prod.ext hn.symm hc)
        subst hn
        have hno : g.canWake x.2 = false := by simp [Group.canWake, Group.path?, hp, Ne.symm hpid]
        exact (congrArg (State.group? · x.1) (State.wakePath_of_not hg hno)).trans hg
      · exact (hfr.2.2.1 n hn).trans hg

/-! The end of waits that a selection picks. -/

/-- The lane after a wake that picks it or passes it by. -/
def wakeLane (sel : Group → Nat → Lane → Wait → Option (Lane → Lane)) (g : Group) (l : Nat) (x : Lane) : Lane :=
  match x.wait with
  | none => x
  | some w =>
    match sel g l x w with
    | none => x
    | some h => { h x with wait := none }

def Group.wakeSel (sel : Group → Nat → Lane → Wait → Option (Lane → Lane)) (g : Group) : Group :=
  { g with lanes := (g.lanes.zipIdx).map (fun x => wakeLane sel g x.2 x.1) }

def State.wakeSel (s : State) (sel : Group → Nat → Lane → Wait → Option (Lane → Lane)) : State :=
  { s with groups := s.groups.map (Group.wakeSel sel) }

theorem State.wakeLanes_eq (s : State) (sel : Group → Nat → Lane → Wait → Option (Lane → Lane)) :
    s.wakeLanes sel = ((s.wakeSel sel).groups.flatMap (fun g => (g.paths.filter (·.waiting)).map (fun p => (g.gid, p.pid)))).foldl
      (fun s x => s.wakePath x.1 x.2) (s.wakeSel sel) := rfl

theorem State.group?_wakeSel (s : State) (sel : Group → Nat → Lane → Wait → Option (Lane → Lane)) (n : Nat) :
    (s.wakeSel sel).group? n = (s.group? n).map (Group.wakeSel sel) := by
  unfold State.wakeSel State.group?
  rw [List.find?_map]
  rfl

theorem Group.lane_wakeSel (sel : Group → Nat → Lane → Wait → Option (Lane → Lane)) (g : Group) {l : Nat} (hl : l < g.size) :
    (g.wakeSel sel).lane l = wakeLane sel g l (g.lane l) := by
  have hl' : l < g.lanes.length := hl
  simp [Group.wakeSel, Group.lane, List.getD_eq_getElem?_getD, hl']

theorem Keeps.wakeSel {s : State} (h : s.noStacks) (sel : Group → Nat → Lane → Wait → Option (Lane → Lane)) : Keeps s (s.wakeSel sel) := by
  refine ⟨fun g hg => ?_, fun n => ⟨fun hn => ?_, fun g hg => ?_⟩⟩
  · obtain ⟨g0, h0, rfl⟩ := List.mem_map.mp hg
    exact h g0 h0
  · rw [State.group?_wakeSel, hn]; rfl
  · rw [State.group?_wakeSel, hg]
    exact ⟨_, rfl, by simp [Group.wakeSel, Group.size], rfl⟩

/-- What a wake of picked lanes leaves: each picked lane without its wait, the others as they were. -/
theorem State.wakeLanes_frame {s : State} (h : s.noStacks) (sel : Group → Nat → Lane → Wait → Option (Lane → Lane)) :
    Keeps s (s.wakeLanes sel) ∧ s.wakeLanes sel = { s with groups := (s.wakeLanes sel).groups } ∧
      ∀ n g l, s.group? n = some g → l < g.size → (s.wakeLanes sel).lane n l = wakeLane sel g l (g.lane l) := by
  rw [State.wakeLanes_eq]
  have hk := Keeps.wakeSel h sel
  obtain ⟨k1, k2, k3⟩ := State.wakePaths_frame hk.1
    ((s.wakeSel sel).groups.flatMap (fun g => (g.paths.filter (·.waiting)).map (fun p => (g.gid, p.pid))))
  refine ⟨hk.trans k1, k3, fun n g l hg hl => ?_⟩
  rw [k2 n l, State.lane_of_group? ((State.group?_wakeSel s sel n).trans (congrArg _ hg)), Group.lane_wakeSel sel g hl]

/-- The one path of a group all of whose lanes are picked goes on. -/
theorem State.wakeLanes_one {s : State} (h : s.noStacks) (sel : Group → Nat → Lane → Wait → Option (Lane → Lane)) {g : Group} {p : Path}
    (hg : s.group? g.gid = some g) (hp : g.paths = [p]) (hne : p.lanes ≠ []) (hw : p.waiting = true)
    (hl : ∀ l ∈ p.lanes, l < g.size ∧ (wakeLane sel g l (g.lane l)).wait = none) :
    ∃ g', (s.wakeLanes sel).group? g.gid = some g' ∧ g'.wokenFrom p := by
  rw [State.wakeLanes_eq]
  have hg' : (s.wakeSel sel).group? g.gid = some (g.wakeSel sel) := (State.group?_wakeSel s sel g.gid).trans (congrArg _ hg)
  have hs : p.stacked = none := h.group hg p (by simp [hp])
  refine State.wakePaths_one (Keeps.wakeSel h sel).1 hg' hp hne hw hs (fun l hmem => ?_) ?_
  · rw [Group.lane_wakeSel sel g (hl l hmem).1]; exact (hl l hmem).2
  · refine List.mem_flatMap.mpr ⟨g.wakeSel sel, List.mem_of_find?_eq_some hg', ?_⟩
    have hp' : (g.wakeSel sel).paths = [p] := hp
    simp [hp', hw]
    rfl

/-- A group whose one path has gone on stays so in further wakes. -/
theorem State.wakeLanes_woken {s : State} (h : s.noStacks) (sel : Group → Nat → Lane → Wait → Option (Lane → Lane)) {n : Nat} {g : Group}
    {p : Path} (hg : s.group? n = some g) (hw : g.wokenFrom p) : (s.wakeLanes sel).group? n = some (g.wakeSel sel) := by
  rw [State.wakeLanes_eq]
  exact State.wakePaths_woken (Keeps.wakeSel h sel).1 ((State.group?_wakeSel s sel n).trans (congrArg _ hg))
    (show (g.wakeSel sel).wokenFrom p from hw) _

/-! The returns of WFI and WAITM (08 R217, 10 R264). -/

/-- The one lane of a group has returned with a value, and its path has gone on. -/
def Returned (s t : State) (h : Group) (p : Path) (l : Nat) (d : XReg) (v : Word) : Prop :=
  ∃ q, (t.lane h.gid l).rx d = v ∧ (t.lane h.gid l).wait = none ∧ (t.group? h.gid).map (·.paths) = some [q] ∧ q.pc = p.pc + 8 ∧
    q.waiting = false ∧ t.mem = s.mem

/-- A wake that picks the one lane of a group and writes its result. -/
theorem State.wakeLanes_returns {s : State} (hn : s.noStacks) {h : Group} {p : Path} {l : Nat} {w : Wait} {v : Word}
    {sel : Group → Nat → Lane → Wait → Option (Lane → Lane)} {k : Lane → Lane} (hg : s.group? h.gid = some h) (hp : h.paths = [p])
    (hl : p.lanes = [l]) (hw : p.waiting = true) (hlt : l < h.size) (hwait : (h.lane l).wait = some w)
    (hsel : sel h l (h.lane l) w = some k) (hv : (k (h.lane l)).rx w.d = v) :
    Returned s (s.wakeLanes sel) h p l w.d v ∧ ∃ g', (s.wakeLanes sel).group? h.gid = some g' ∧ g'.wokenFrom p := by
  have hpick : wakeLane sel h l (h.lane l) = { k (h.lane l) with wait := none } := by
    unfold wakeLane; simp only [hwait, hsel]
  obtain ⟨g', hG, a, hpaths⟩ := State.wakeLanes_one hn sel hg hp (by simp [hl]) hw fun i hi => by
    rw [hl] at hi
    rw [List.mem_singleton.mp hi, hpick]
    exact ⟨hlt, rfl⟩
  obtain ⟨-, heq, hlanes⟩ := State.wakeLanes_frame hn sel
  refine ⟨⟨{ p.woken with after := a }, ?_, ?_, by rw [hG, ← hpaths]; rfl, rfl, rfl, by rw [heq]⟩, g', hG, a, hpaths⟩
  · rw [hlanes _ h l hg hlt, hpick]; exact hv
  · rw [hlanes _ h l hg hlt, hpick]

/-- The one lane of a group, parked in WFI, returns with its code. -/
theorem State.wfiReturn_returns {s : State} (hn : s.noStacks) {h : Group} {p : Path} {l : Nat} {w : Wait} (hg : s.group? h.gid = some h)
    (hp : h.paths = [p]) (hl : p.lanes = [l]) (hw : p.waiting = true) (hlt : l < h.size) (hwait : (h.lane l).wait = some w)
    (hd : w.d ≠ 0) (hk : w.kind = .wfi) :
    Returned s (s.wfiReturn h.gid p.pid) h p l w.d (BitVec.ofNat 64 (wfiCode s.clk w)) ∧
      ∃ g', (s.wfiReturn h.gid p.pid).group? h.gid = some g' ∧ g'.wokenFrom p :=
  State.wakeLanes_returns hn (k := fun y => y.wx w.d (BitVec.ofNat 64 (wfiCode s.clk w))) hg hp hl hw hlt hwait
    (by simp [Group.path?, hp, hl, hk, WaitKind.isWfi]) (Lane.rx_wx_same _ _ _ hd)

/-- The one lane of a group, parked in WAITM, returns with its cause. -/
theorem State.waitmReturn_returns {s : State} (hn : s.noStacks) {h : Group} {p : Path} {l : Nat} {w : Wait} (hg : s.group? h.gid = some h)
    (hp : h.paths = [p]) (hl : p.lanes = [l]) (hw : p.waiting = true) (hlt : l < h.size) (hwait : (h.lane l).wait = some w)
    (hd : w.d ≠ 0) (hk : w.kind = .waitm) :
    Returned s (s.waitmReturn h.gid p.pid) h p l w.d (BitVec.ofNat 64 ((waitmCause s.clk (h.lane l) w).getD 4)) :=
  (State.wakeLanes_returns hn (k := fun y => { y.wx w.d (BitVec.ofNat 64 ((waitmCause s.clk (h.lane l) w).getD 4)) with watch := none })
    hg hp hl hw hlt hwait (by simp [Group.path?, hp, hl, hk, WaitKind.isWaitm]) (Lane.rx_wx_same _ _ _ hd)).1

/-- Marking lost watches leaves the numbers, lanes' waits and paths of every group, and the lanes whose watch has fired. -/
theorem State.markLost_group {s : State} {n : Nat} {g : Group} (hg : s.group? n = some g) : s.markLost.group? n = some (s.markGroup g) := by
  unfold State.group?
  rw [State.markLost_groups, List.find?_map]
  exact congrArg (Option.map s.markGroup) hg

theorem State.markGroup_lane (s : State) (g : Group) {l : Nat} (hl : l < g.size) : (s.markGroup g).lane l = s.markLane g (g.lane l, l) := by
  have hl' : l < g.lanes.length := hl
  simp [State.markGroup, Group.lane, List.getD_eq_getElem?_getD, hl']

theorem State.markLane_fired {s : State} {g : Group} {x : Lane × Nat} {w : Watch} (hw : x.1.watch = some w) (hf : w.fired ≠ none) :
    s.markLane g x = x.1 := by
  have : w.fired.isNone = false := by simpa [Option.isSome_iff_ne_none] using hf
  unfold State.markLane
  simp [hw, this]

theorem State.markLost_noStacks {s : State} (h : s.noStacks) : s.markLost.noStacks := by
  intro g hg
  rw [State.markLost_groups] at hg
  obtain ⟨g0, h0, rfl⟩ := List.mem_map.mp hg
  exact h g0 h0

/-- Settles O26: each return is a wake that picks the one lane. -/
theorem parkedLanesReturn : Obligations.ParkedLanesReturn := by
  intro s h p l w x hg hn hp hl hw hlt hwait hi hd hgid Returns
  have hpo : h.pathOf? l = some p := Group.pathOf?_one hp (by simp [hl])
  -- WATCH_FIRE marks the lost watches first, which leaves this lane as it is
  have fires : ∀ c, w.kind = .waitm → l = s.arg 1 → (h.lane l).watch = some x → x.fired ≠ none →
      waitmCause s.clk (h.lane l) w = some c → Returns .watchFire (BitVec.ofNat 64 c) := by
    intro c hk hl1 hx hf hc
    have hm : (s.markGroup h).lane l = h.lane l := by rw [State.markGroup_lane s h hlt, State.markLane_fired hx hf]
    have hG := State.markLost_group hg
    obtain ⟨q, h1, h2, h3, h4⟩ := State.waitmReturn_returns (State.markLost_noStacks hn) (h := s.markGroup h) hG hp hl hw (by simpa using hlt)
      (by rw [hm]; exact hwait) hd hk
    have hpo' : (s.markGroup h).pathOf? l = some p := hpo
    have hfs : x.fired.isSome = true := Option.isSome_iff_ne_none.mpr hf
    have e : execWatchFire s = .next (s.markLost.waitmReturn h.gid p.pid) := by
      unfold execWatchFire
      simp only [← hgid, ← hl1, hG, hm, hwait, hpo', hk, hx, WaitKind.isWaitm, Option.all_some, hfs, Bool.and_self, if_true]
    rw [hm, State.markLost_clk, hc] at h1
    exact ⟨_, q, e, h1, h2, h3, h4⟩
  have unchanged : ∀ {t : State} {g' : Group}, t.noStacks → t.group? h.gid = some g' → l < g'.size → (g'.lane l).wait = none →
      (t.waitmReturn h.gid p.pid).lane h.gid l = t.lane h.gid l := fun ht hG hlt hwait => by
    refine ((State.wakeLanes_frame ht _).2.2 _ _ l hG hlt).trans ?_
    rw [State.lane_of_group? hG]
    unfold wakeLane
    simp only [hwait]
  refine ⟨fun hk hl1 hu => ?_, fun hk hp1 hu => ?_, fun hk hl1 hx hf => ?_, fun hk hl1 hx hf => ?_, fun hk hl1 hx hf hu => ?_⟩
  · obtain ⟨n, hun, hle⟩ := hu
    have hcode : wfiCode s.clk w = 2 := by simp [wfiCode, hi, hun, hle]
    obtain ⟨⟨q, h1, h2⟩, -⟩ := State.wfiReturn_returns hn hg hp hl hw hlt hwait hd hk
    have e : execWfiTimeout s = .next (s.wfiReturn h.gid p.pid) := by
      unfold execWfiTimeout
      simp only [← hgid, ← hl1, hg, hwait, hpo, hk, hcode, WaitKind.isWfi]
      rfl
    rw [hcode] at h1
    exact ⟨_, q, e, h1, h2⟩
  · have hcode : wfiCode s.clk w = 4 := by simp [wfiCode, hi, hu]
    obtain ⟨⟨q, h1, h2, h3, h4, h5, h6⟩, g', hG, hwk⟩ := State.wfiReturn_returns hn hg hp hl hw hlt hwait hd hk
    have hn1 : (s.wfiReturn h.gid p.pid).noStacks := (State.wakeLanes_frame hn _).1.1
    have hlt' : l < g'.size := by
      obtain ⟨g1, k1, k2, -⟩ := ((State.wakeLanes_frame hn _).1.2 h.gid).2 h hg
      rw [Option.some.inj (hG.symm.trans k1), k2]; exact hlt
    have hwait' : (g'.lane l).wait = none := by rw [← State.lane_of_group? hG]; exact h2
    rw [hcode] at h1
    refine ⟨(s.wfiReturn h.gid p.pid).waitmReturn h.gid p.pid, q, ?_, ?_, ?_, ?_, h4, h5, ?_⟩
    · show execSpuriousReturn s = _
      unfold execSpuriousReturn
      rw [← hgid, ← hp1]
    · rw [unchanged hn1 hG hlt' hwait']; exact h1
    · rw [unchanged hn1 hG hlt' hwait']; exact h2
    · rw [hG] at h3
      exact (congrArg (Option.map (·.paths)) (State.wakeLanes_woken hn1 _ hG hwk)).trans h3
    · exact (congrArg State.mem (State.wakeLanes_frame hn1 _).2.1).trans h6
  · exact fires 0 hk hl1 hx (by simp [hf]) (by obtain ⟨_, _⟩ := x; cases hf; simp [waitmCause, hi, hx])
  · exact fires 1 hk hl1 hx (by simp [hf]) (by obtain ⟨_, _⟩ := x; cases hf; simp [waitmCause, hi, hx])
  · obtain ⟨n, hun, hle⟩ := hu
    have hc : waitmCause s.clk (h.lane l) w = some 2 := by obtain ⟨_, _⟩ := x; cases hf; simp [waitmCause, hi, hx, hun, hle]
    obtain ⟨q, h1, h2⟩ := State.waitmReturn_returns hn hg hp hl hw hlt hwait hd hk
    have e : execWaitmTimeout s = .next (s.waitmReturn h.gid p.pid) := by
      unfold execWaitmTimeout
      simp only [← hgid, ← hl1, hg, hwait, hpo, hk, hun, hle, WaitKind.isWaitm, Option.any_some, decide_true, Bool.and_self, if_true]
    rw [hc] at h1
    exact ⟨_, q, e, h1, h2⟩

end Sys2Proof.Machine
end

section
/-!
SETTLED. The system words: words whose lanes may wait, and the instruction cache words.
-/

namespace Sys2Proof.Machine

open Sys2Proof

/-! Parking a path (13 R327). -/

/-- A path that waits at its word. -/
def Path.parked (p : Path) : Path := { p with waiting := true }

theorem State.modPath_group {s : State} {gid : Nat} {g : Group} (hg : s.group? gid = some g) (pid : Nat) (f : Path → Path) :
    (s.modPath gid pid f).group? gid = some (g.modPath pid f) := State.group?_modGroup_same hg _ fun _ => rfl

theorem State.modPath_other (s : State) (gid pid : Nat) (f : Path → Path) {n : Nat} (hn : n ≠ gid) :
    (s.modPath gid pid f).group? n = s.group? n := State.group?_modGroup_other s gid n _ (fun _ => rfl) hn

/-- A path one of whose lanes waits stays at its word. -/
theorem State.parkPath_waits {s : State} {gid l : Nat} {g : Group} {p : Path} (hg : s.group? gid = some g) (hp : g.paths = [p])
    (hl : l ∈ p.lanes) (hw : (g.lane l).wait ≠ none) : s.parkPath gid p.pid = s.modPath gid p.pid Path.parked := by
  refine State.wakePath_of_not (State.modPath_group hg p.pid Path.parked) ?_
  have h1 := Group.modPath_one g p hp Path.parked
  have h2 : (g.modPath p.pid Path.parked).path? p.pid = some p.parked := by simp [Group.path?, h1, Path.parked]
  unfold Group.canWake
  rw [h2, Option.any_some, Bool.and_eq_false_iff]
  exact .inr (List.all_eq_false.mpr ⟨l, hl, by
    rw [show (g.modPath p.pid Path.parked).lane l = g.lane l from rfl]
    simpa [Option.isNone_iff_eq_none] using hw⟩)

/-- A path none of whose lanes waits goes on. -/
theorem State.parkPath_goes {s : State} {gid : Nat} {g : Group} {p : Path} (hg : s.group? gid = some g) (hp : g.paths = [p])
    (hne : p.lanes ≠ []) (hs : p.stacked = none) (hw : ∀ l ∈ p.lanes, (g.lane l).wait = none) :
    ∃ a, (s.parkPath gid p.pid).group? gid = some (g.withPaths [{ p.woken with after := a }]) ∧
      (∀ n, n ≠ gid → (s.parkPath gid p.pid).group? n = s.group? n) ∧
      s.parkPath gid p.pid = { s with groups := (s.parkPath gid p.pid).groups } := by
  have hg1 := State.modPath_group hg p.pid Path.parked
  have h1 := Group.modPath_one g p hp Path.parked
  have hn : (g.modPath p.pid Path.parked).noStack := fun q hq => by rw [h1] at hq; rw [List.mem_singleton.mp hq]; exact hs
  have hc : (g.modPath p.pid Path.parked).canWake p.pid = true := Group.canWake_one (p := p.parked) h1 rfl hs hw
  have e : s.parkPath gid p.pid = (s.modPath gid p.pid Path.parked).modGroup gid (fun g => g.wake p.pid) :=
    State.wakePath_of_canWake hg1 hn hc
  rw [e]
  obtain ⟨a, ha⟩ := Group.wake_one (g := g.modPath p.pid Path.parked) h1 hne
  refine ⟨a, (State.group?_modGroup_same hg1 _ fun g => Group.wake_gid g p.pid).trans ?_, fun n hn => ?_, rfl⟩
  · rw [Group.wake_eq, show (g.modPath p.pid Path.parked).wake p.pid = (g.modPath p.pid Path.parked).wake p.parked.pid from rfl, ha]
    rfl
  · exact (State.group?_modGroup_other _ _ _ _ (fun g => Group.wake_gid g p.pid) hn).trans (State.modPath_other s gid p.pid _ hn)

theorem partFold_ok (f : State → Nat → LRes Unit) (l : Nat) (s u : State) (h : f s l = .ok () u) :
    partFold f [l] s = (⟨u, [], [], false⟩, [l]) := by simp [partFold, h]

/-- A word whose lanes may wait, and whose one active lane has done its part. -/
theorem parkWord_ok {s u : State} {h : Group} {p : Path} {l : Nat} {gd : Guard} {F : State → Nat → Nat → LRes Unit}
    (hc : s.current = some (h, p)) (htd : h.toDo p gd = [l]) (hF : F s h.gid l = .ok () u) :
    parkWord gd F s = .next (u.parkPath h.gid p.pid) := by
  unfold parkWord
  rw [hc]
  simp only [htd, partFold_ok (fun s l => F s h.gid l) l s u hF]
  rfl

/-- The one lane registers and its path parks. -/
theorem parkWord_registers {s u : State} {h : Group} {p : Path} {l : Nat} {gd : Guard} {F : State → Nat → Nat → LRes Unit} {w : Wait}
    (hs : s.single h p l) (hgd : guardHolds gd (h.lane l) = true) (hF : F s h.gid l = .ok () (u.modLane h.gid l (fun x => x.startWait w)))
    (hu : u.groups = s.groups) :
    ∃ t, parkWord gd F s = .next t ∧ t.lane h.gid l = { h.lane l with wait := some w } ∧
      (t.group? h.gid).map (·.paths) = some [p.parked] ∧ OtherLanes s t h.gid l ∧ t = { u with groups := t.groups } := by
  have hg : u.group? h.gid = some h := by unfold State.group?; rw [hu]; exact hs.group
  have hlt := hs.lt
  have hg1 : (u.modLane h.gid l (fun x => x.startWait w)).group? h.gid = some (h.modLane l (fun x => x.startWait w)) :=
    State.group?_modGroup_same hg _ fun _ => rfl
  have hl1 : (h.modLane l (fun x => x.startWait w)).lane l = { h.lane l with wait := some w } := Group.lane_modLane_same h l _ hlt
  have htd := hs.toDo hgd
  obtain ⟨⟨⟨hc, -⟩, hp, -⟩, hl, -⟩ := hs
  have e := State.parkPath_waits hg1 hp (l := l) (by simp [hl]) (by rw [hl1]; simp)
  have hG := State.modPath_group hg1 p.pid Path.parked
  refine ⟨_, parkWord_ok hc htd hF, ?_, ?_, fun n i hni => ?_, ?_⟩
  · rw [e, State.lane_of_group? hG]; exact hl1
  · rw [e, hG]
    exact congrArg some (Group.modPath_one _ p hp Path.parked)
  · have h1 : s.lane n i = u.lane n i := by unfold State.lane State.group?; rw [hu]
    rw [e, h1, ← State.lane_modLane_other u h.gid l n i (fun x => x.startWait w) hni]
    by_cases hn : n = h.gid
    · subst hn
      rw [State.lane_of_group? hG, State.lane_of_group? hg1]
      rfl
    · exact State.lane_of_other (fun n hn => State.modPath_other _ _ _ _ hn) hn i
  · rw [e]; rfl

/-- The one lane has done its part and does not wait: its path goes on. -/
theorem parkWord_goes {s u : State} {h g : Group} {p : Path} {l : Nat} {gd : Guard} {F : State → Nat → Nat → LRes Unit}
    (hs : s.single h p l) (hgd : guardHolds gd (h.lane l) = true) (hF : F s h.gid l = .ok () u) (hg : u.group? h.gid = some g)
    (hp : g.paths = [p]) (hw : (g.lane l).wait = none) :
    ∃ t a, parkWord gd F s = .next t ∧ t.group? h.gid = some (g.withPaths [{ p.woken with after := a }]) ∧
      (∀ n, n ≠ h.gid → t.group? n = u.group? n) ∧ t = { u with groups := t.groups } := by
  have htd := hs.toDo hgd
  have hst := hs.1.stacked
  obtain ⟨⟨⟨hc, -⟩, -⟩, hl, -⟩ := hs
  obtain ⟨a, h1, h2, h3⟩ := State.parkPath_goes hg hp (by simp [hl]) hst fun i hi => by
    rw [hl] at hi; rw [List.mem_singleton.mp hi]; exact hw
  exact ⟨_, a, parkWord_ok hc htd hF, h1, h2, h3⟩

/-! SCALL and WFI at S, IINV and ISYNC (10 R258, R264, 11 R284, R286). -/

@[simp] theorem MemSys.recalls_hbm (m : MemSys) (cs : List Copy) : (cs.foldl (fun m c => m.recall c.pline) m).hbm = m.hbm := by
  induction cs generalizing m with
  | nil => rfl
  | cons c t ih => simp [ih]

/-- IINV changes no byte, and of the context's lines it names here none stays in an instruction cache. -/
theorem MemSys.iinv_spec (m : MemSys) (ctx : Nat) (lines : Nat → Bool) (here : Nat → Nat → Nat → Bool) :
    (m.iinv ctx lines here).hbm = m.hbm ∧
      ∀ i ∈ (m.iinv ctx lines here).icache, i.ctx = ctx → lines i.vline = true → here i.die i.cluster i.pipe = false := by
  refine ⟨MemSys.recalls_hbm m _, fun i hi hc hl => ?_⟩
  have := (List.mem_filter.mp hi).2
  simpa [hc, hl] using this

/-- The state of IINV in one lane. -/
def State.iinvMem (s : State) (h : Group) (l : Nat) (a b : XReg) (scope : Scope) : MemSys :=
  s.mem.iinv h.ctx (fun i => inLines ((h.lane l).rx a).toNat ((h.lane l).rx b).toNat i &&
    (s.ctx? h.ctx).any (fun c => (s.mem.walk c.desc.ptRoot h.site.die h.ctx (128 * i) (h.lane l).pts).1.isSome))
    (fun d c p => h.within l scope d c p)

theorem State.iinvLane_ok {s : State} {h : Group} {l : Nat} {a b : XReg} (scope : Scope) (hg : s.group? h.gid = some h)
    (ha : ((h.lane l).rx a).toNat / 2 ^ 56 = 0) (hb : ((h.lane l).rx b).toNat / 2 ^ 32 = 0) :
    s.iinvLane h.gid l a b scope = .ok () (s.setMem (s.iinvMem h l a b scope)) := by
  unfold State.iinvLane State.iinvMem
  simp only [hg, ha, hb, ne_eq, not_true_eq_false, if_false]

/-- SCALL in one lane. -/
def State.scallLane (code : BitVec 16) (s : State) (gid l : Nat) : LRes Unit :=
  if !(s.lane gid l).privS then .trap ⟨0x0A, 0, code.zeroExtend 64, true⟩
  else if 1 ≤ code.toNat ∧ code.toNat ≤ 4 then
    .ok () (s.modLane gid l (fun x => x.startWait ⟨.scall code.toNat, 1, none, s.clk, false⟩))
  else .ok () (s.modLane gid l (fun x => x.wx 1 (-1)))

theorem execScall_eq (g : Guard) (code : BitVec 16) : execScall g code = parkWord g (State.scallLane code) := rfl

/-- SCALL at S of a code that the firmware does not know. -/
theorem scall_unknown {g : Guard} {code : BitVec 16} {s : State} {h : Group} {p : Path} {l : Nat} (hs : s.single h p l)
    (hgd : guardHolds g (h.lane l) = true) (hS : (h.lane l).privS = true) (hcode : code.toNat = 0 ∨ 4 < code.toNat)
    (hw : (h.lane l).wait = none) :
    ∃ t, execScall g code s = .next t ∧ GoesTo t h p (p.pc + 8) ∧ (t.lane h.gid l).rx 1 = -1 := by
  have hg := hs.group
  have hl1 := Group.lane_modLane_same h l (fun x => x.wx 1 (-1)) hs.lt
  have hF : State.scallLane code s h.gid l = .ok () (s.modLane h.gid l (fun x => x.wx 1 (-1))) := by
    unfold State.scallLane
    rw [State.lane_of_group? hg, if_neg (by simp [hS]), if_neg (by omega)]
  obtain ⟨-, hp, -, -, -, -, hh, -⟩ := id hs.1
  obtain ⟨t, k, e, hG, -, -⟩ := parkWord_goes hs hgd hF (State.group?_modGroup_same hg _ fun _ => rfl) hp
    (by rw [hl1, Lane.wait_wx]; exact hw)
  refine ⟨t, e, ⟨{ p.woken with after := k }, congrArg (Option.map (·.paths)) hG, rfl, rfl, hh, rfl⟩, ?_⟩
  rw [State.lane_of_group? hG]
  exact (congrArg (Lane.rx · 1) hl1).trans (Lane.rx_wx_same _ 1 _ (by decide))

/-- SCALL at S of a code that the firmware knows. -/
theorem scall_known {g : Guard} {code : BitVec 16} {s : State} {h : Group} {p : Path} {l : Nat} (hs : s.single h p l)
    (hgd : guardHolds g (h.lane l) = true) (hS : (h.lane l).privS = true) (h1 : 1 ≤ code.toNat) (h4 : code.toNat ≤ 4) :
    ∃ t, execScall g code s = .next t ∧
      t.lane h.gid l = { h.lane l with wait := some ⟨.scall code.toNat, 1, none, s.clk, false⟩ } ∧
      ∃ q, (t.group? h.gid).map (·.paths) = some [q] ∧ q.pc = p.pc ∧ q.waiting = true := by
  have hF : State.scallLane code s h.gid l =
      .ok () (s.modLane h.gid l (fun x => x.startWait ⟨.scall code.toNat, 1, none, s.clk, false⟩)) := by
    unfold State.scallLane
    rw [State.lane_of_group? hs.group, if_neg (by simp [hS]), if_pos ⟨h1, h4⟩]
  obtain ⟨t, e, hlane, hpaths, -⟩ := parkWord_registers hs hgd hF rfl
  exact ⟨t, e, hlane, _, hpaths, rfl, rfl⟩

/-- The one active lane of a group registers on a wait and its path parks. -/
theorem State.register_one {s : State} {h : Group} {p : Path} {l : Nat} {gd : Guard} (hg : s.group? h.gid = some h) (hp : h.paths = [p])
    (hl : p.lanes = [l]) (hlt : l < h.size) (hgd : guardHolds gd (h.lane l) = true) (mk : Lane → Wait) :
    let t := s.register h p gd mk
    t.lane h.gid l = { h.lane l with wait := some (mk (h.lane l)) } ∧ (t.group? h.gid).map (·.paths) = some [p.parked] := by
  have hg1 : (s.modGroup h.gid (fun g => g.mapActive p gd (fun l => l.startWait (mk l)))).group? h.gid = some _ :=
    State.group?_modGroup_same hg _ fun _ => rfl
  have hl1 : (h.mapActive p gd (fun l => l.startWait (mk l))).lane l = { h.lane l with wait := some (mk (h.lane l)) } := by
    rw [Group.lane_mapActive _ _ _ _ _ hlt, if_pos (by simp [hl, hgd])]; rfl
  have e := State.parkPath_waits hg1 (p := p) hp (l := l) (by simp [hl]) (by rw [hl1]; simp)
  have hG := State.modPath_group hg1 p.pid Path.parked
  refine ⟨?_, ?_⟩
  · unfold State.register
    rw [e, State.lane_of_group? hG]; exact hl1
  · unfold State.register
    rw [e, hG]
    exact congrArg some (Group.modPath_one _ p hp Path.parked)

/-- WFI at S. -/
theorem wfi_parks {g : Guard} {d a : XReg} {s : State} {h : Group} {p : Path} {l : Nat} (hs : s.single h p l)
    (hgd : guardHolds g (h.lane l) = true) (hS : (h.lane l).privS = true) :
    ∃ t, execWfi g d a s = .next t ∧
      t.lane h.gid l = { h.lane l with wait := some ⟨.wfi, d, deadline s.clk ((h.lane l).rx a), s.clk, false⟩ } ∧
      ∃ q, (t.group? h.gid).map (·.paths) = some [q] ∧ q.pc = p.pc ∧ q.waiting = true := by
  have hg := hs.group
  have hlt := hs.lt
  obtain ⟨⟨⟨hc, -⟩, hp, -⟩, hl, -⟩ := hs
  obtain ⟨h1, h2⟩ := State.register_one hg hp hl hlt hgd (fun l => ⟨.wfi, d, deadline s.clk (l.rx a), s.clk, false⟩)
  refine ⟨_, ?_, h1, _, h2, rfl, rfl⟩
  unfold execWfi
  rw [needS_of_S _ _ hc fun i hi => by rw [hl] at hi; rw [List.mem_singleton.mp hi]; exact hS]
  simp only [hc]

/-- ISYNC empties the fetch buffer of the path. -/
theorem isync_goes {s : State} {h : Group} {p : Path} {l : Nat} (hs : s.single h p l) :
    ∃ t q, execIsync s = .next t ∧ (t.group? h.gid).map (·.paths) = some [q] ∧ q.pc = p.pc + 8 ∧ q.fbuf = [] ∧ SameLanes s t := by
  have hg := hs.group
  have hst := hs.1.stacked
  obtain ⟨⟨⟨hc, -⟩, hp, -⟩, hl, -⟩ := hs
  let drop (x : Group) : Group := if x.site == h.site then
      { x with paths := x.paths.map (fun q => if x.fetchPipe q = h.fetchPipe p then { q with fbuf := [] } else q) }
    else x
  let u : State := { s with groups := s.groups.map drop }
  have hgu : ∀ n, u.group? n = (s.group? n).map drop := fun n => by
    have hd : ∀ x : Group, (drop x).gid = x.gid := fun x => by unfold drop; split <;> rfl
    unfold State.group?
    rw [List.find?_map]
    simp only [Function.comp_def, hd]
  have hu : u.group? h.gid = some (h.withPaths [{ p with fbuf := [] }]) := by
    rw [hgu, hg]
    simp [drop, hp, Group.withPaths]
  have hul : ∀ n i, u.lane n i = s.lane n i := fun n i => by
    unfold State.lane
    rw [hgu]
    cases s.group? n with
    | none => rfl
    | some x => simp only [Option.map_some, drop]; split <;> rfl
  have hG := State.modPath_group hu p.pid (fun q => { q with pc := p.pc + 8, part := [] })
  obtain ⟨a, h1, h2, -⟩ := State.settle_one hG (Group.modPath_one (h.withPaths [{ p with fbuf := [] }]) { p with fbuf := [] } rfl _)
    (by simp [hl]) hst
  have e : execIsync s = .next ((u.goTo h.gid p.pid (p.pc + 8)).settle h.gid) := by
    unfold execIsync
    simp only [hc]
    rfl
  refine ⟨_, _, e, congrArg (Option.map (·.paths)) h1, rfl, rfl, fun n i => ?_⟩
  rw [← hul]
  by_cases hn : n = h.gid
  · subst hn
    exact (State.lane_of_group? h1 i).trans (State.lane_of_group? hu i).symm
  · exact State.lane_of_other (fun n hn => (h2 n hn).trans (State.modPath_other _ _ _ _ hn)) hn i

/-- An undivided group's path that goes on. -/
theorem Group.goOn_alone {g : Group} {p : Path} (hp : g.paths = [p]) (hne : p.lanes ≠ []) (pc : Word) :
    ∃ a, (g.goOn p.pid pc).paths = [{ p with pc := pc, part := [], after := a }] := by
  obtain ⟨a, e⟩ := Group.tidy_alone (Group.modPath_one g p hp (fun q => { q with pc := pc, part := [] })) hne
  exact ⟨a, by unfold Group.goOn; rw [e]; rfl⟩

theorem State.single.runsOne {s : State} {h : Group} {p : Path} {l : Nat} {gd : Guard} (hs : s.single h p l)
    (hgd : guardHolds gd (h.lane l) = true) : s.runsOne h p gd l := ⟨hs.1.1, hs.active hgd, hs.lt⟩

/-- The one active lane of an undivided group completes: the path goes on, neither halted nor waiting. -/
theorem State.undivided.goesTo {s t : State} {h g' : Group} {p : Path} (hs : s.undivided h p) (hp : g'.paths = [p]) {pc : Word}
    (hG : t.group? h.gid = some (g'.goOn p.pid pc)) : GoesTo t h p pc := by
  obtain ⟨-, -, -, hne, -, -, hh, hwt, -⟩ := hs
  obtain ⟨a, e⟩ := Group.goOn_alone hp hne pc
  exact ⟨{ p with pc := pc, part := [], after := a }, by rw [hG, Option.map_some, e], rfl, rfl, hh, hwt⟩

/-- IINV at a scope that no acknowledgement is waited for. -/
theorem iinv_near {g : Guard} {a b : XReg} {scope : Scope} {s : State} {h : Group} {p : Path} {l : Nat} (hs : s.single h p l)
    (hgd : guardHolds g (h.lane l) = true) (ha : ((h.lane l).rx a).toNat / 2 ^ 56 = 0) (hb : ((h.lane l).rx b).toNat / 2 ^ 32 = 0)
    (hsc : scope.wide = false) :
    ∃ t, execIinv g a b scope s = .next t ∧ GoesTo t h p (p.pc + 8) ∧ SameLanes s t ∧ t.mem = s.iinvMem h l a b scope := by
  let u := s.setMem (s.iinvMem h l a b scope)
  have hu : u.modLane h.gid l (fun x => x.wx 0 (BitVec.ofNat 64 0)) = u := by
    rw [show (fun x : Lane => x.wx 0 (BitVec.ofNat 64 0)) = fun x => x from funext fun x => Lane.wx_zero x _]
    exact State.modLane_id u h.gid l
  obtain ⟨t, e, hG, hlanes, -, heq⟩ := laneWord_ok (u := u) (g' := h) (hs.runsOne hgd)
    (f := fun s gid l => ((s.iinvLane gid l a b scope).bind (fun _ t => .ok 0 t)).bind
      (fun v t => .ok () (t.modLane gid l (fun x => x.wx 0 (BitVec.ofNat 64 v)))))
    (by rw [State.iinvLane_ok scope hs.group ha hb]; exact congrArg (LRes.ok ()) hu) hs.group hs.1.1.2
  refine ⟨t, ?_, hs.1.goesTo hs.1.2.1 hG, hlanes, by rw [heq]; rfl⟩
  unfold execIinv scopedWord
  simp only [hsc]
  exact e

/-- IINV at a scope whose acknowledgements are waited for. -/
theorem iinv_wide {g : Guard} {a b : XReg} {scope : Scope} {s : State} {h : Group} {p : Path} {l : Nat} (hs : s.single h p l)
    (hgd : guardHolds g (h.lane l) = true) (ha : ((h.lane l).rx a).toNat / 2 ^ 56 = 0) (hb : ((h.lane l).rx b).toNat / 2 ^ 32 = 0)
    (hsc : scope.wide = true) :
    ∃ t, execIinv g a b scope s = .next t ∧ Parked t h p ∧ t.mem = s.iinvMem h l a b scope ∧ t.freeN = s.freeN + 1 ∧
      t.lane h.gid l = { h.lane l with
        wait := some ⟨.ack 0, 0, some (s.clk + 1 + Config.freeValue s.freeN % 4096), s.clk, false⟩ } := by
  let at_ := s.clk + 1 + Config.freeValue s.freeN % 4096
  have hs1 : s.free.2.single h p l := hs
  obtain ⟨t, e, hlane, hpaths, -, heq⟩ := parkWord_registers (s := s.free.2) (u := s.free.2.setMem (s.free.2.iinvMem h l a b scope))
    (w := ⟨.ack 0, 0, some at_, s.clk, false⟩) hs1 hgd
    (F := fun s gid l => ((s.iinvLane gid l a b scope).bind (fun _ t => .ok 0 t)).bind (fun v t =>
      .ok () (t.modLane gid l (fun x => x.startWait ⟨.ack v, 0, some at_, s.clk, false⟩))))
    (by rw [State.iinvLane_ok scope hs1.group ha hb]; rfl) rfl
  refine ⟨t, ?_, ⟨_, hpaths, rfl, rfl, rfl⟩, by rw [heq]; rfl, by rw [heq]; rfl, hlane⟩
  unfold execIinv scopedWord
  simp only [hsc]
  exact e

/-- Settles O24: the words park or go on by the rules of waits; IINV is its filter of the instruction caches. -/
theorem systemWords : Obligations.SystemWords := by
  intro g code d a b scope s h p l hs
  refine ⟨scall_unknown hs, scall_known hs, wfi_parks hs, fun hgd ha hb => ?_, isync_goes hs⟩
  intro Dropped
  obtain ⟨hbytes, hcache⟩ := MemSys.iinv_spec s.mem h.ctx (fun i => inLines ((h.lane l).rx a).toNat ((h.lane l).rx b).toNat i &&
    (s.ctx? h.ctx).any (fun c => (s.mem.walk c.desc.ptRoot h.site.die h.ctx (128 * i) (h.lane l).pts).1.isSome))
    (fun d c p => h.within l scope d c p)
  have dropped : ∀ t : State, t.mem = s.iinvMem h l a b scope → Dropped t := fun t ht => by
    refine ⟨by rw [ht]; exact hbytes, fun i hi hctx hin hmap => ?_⟩
    rw [ht] at hi
    exact hcache i hi hctx (by simp only [hin, hmap, Bool.and_self])
  refine ⟨fun hsc => ?_, fun hsc => ?_⟩
  · obtain ⟨t, e, hgo, hlanes, hmem⟩ := iinv_near hs hgd ha hb hsc
    exact ⟨t, e, hgo, hlanes, dropped t hmem⟩
  · obtain ⟨t, e, hpark, hmem, hfree, hlane⟩ := iinv_wide hs hgd ha hb hsc
    exact ⟨t, e, hpark, dropped t hmem, hfree, hlane⟩

end Sys2Proof.Machine
end

section
/-!
SETTLED. The firmware's completions of SCALL: engine faults acknowledged, violations, and the death of a context.
-/

namespace Sys2Proof.Machine

open Sys2Proof

/-! What accesses by engines leave of the contexts and of the groups. -/

theorem foldl_ctxs {α : Type} {f : State → α → State} (hf : ∀ s a, (f s a).ctxs = s.ctxs) (l : List α) (s : State) :
    (l.foldl f s).ctxs = s.ctxs := by
  induction l generalizing s with
  | nil => rfl
  | cons a r ih => exact (ih (f s a)).trans (hf s a)

theorem State.engPage_ctxs (s : State) (a : Actor) (va need : Nat) : (s.engPage a va need).2.2.ctxs = s.ctxs := by
  unfold State.engPage
  split
  · rfl
  · split
    · rfl
    · dsimp only
      split <;> rfl

theorem State.engRead_ctxs (s : State) (a : Actor) (loc : Loc) (n : Nat) : (s.engRead a loc n).2.ctxs = s.ctxs := by
  unfold State.engRead
  cases loc with
  | glob va =>
    have h := s.engPage_ctxs a va needR
    dsimp only
    split
    next hp =>
      rw [hp] at h
      split
      · exact h
      · split
        · exact h
        · exact h
    next hp => rw [hp] at h; exact h
    next hp => rw [hp] at h; exact h
    next hp => rw [hp] at h; exact h
  | pad k m off =>
    dsimp only
    split
    · rfl
    · split <;> rfl

theorem State.engWrite_ctxs (s : State) (a : Actor) (loc : Loc) (bs : List Byte) : (s.engWrite a loc bs).2.ctxs = s.ctxs := by
  unfold State.engWrite
  cases loc with
  | glob va =>
    have h := s.engPage_ctxs a va needW
    dsimp only
    split
    next hp =>
      rw [hp] at h
      split <;> exact h
    next hp => rw [hp] at h; exact h
    next hp => rw [hp] at h; exact h
    next hp => rw [hp] at h; exact h
  | pad k m off =>
    dsimp only
    split
    · rfl
    · split <;> rfl

/-- A context's number stays where it is looked up. -/
theorem State.ctx?_of_ctxs {s t : State} (h : t.ctxs = s.ctxs) (n : Nat) : t.ctx? n = s.ctx? n := by
  unfold State.ctx?; rw [h]

theorem State.ctx?_modCtx_other {s : State} {n m : Nat} (f : Ctx → Ctx) (hf : ∀ c, (f c).num = c.num) (h : m ≠ n) :
    (s.modCtx n f).ctx? m = s.ctx? m := by
  refine (find?_updWhere (fun c : Ctx => c.num) n m f hf s.ctxs).trans ?_
  unfold State.ctx?
  cases hc : s.ctxs.find? (fun x => x.num == m) with
  | none => rfl
  | some c =>
    have : c.num = m := by simpa using List.find?_some hc
    rw [Option.map_some, if_neg (by omega)]

theorem Keeps.of_groups {s t : State} (h : s.noStacks) (e : t.groups = s.groups) : Keeps s t := by
  have hg : ∀ n, t.group? n = s.group? n := fun n => by unfold State.group?; rw [e]
  exact ⟨fun g hmem => h g (e ▸ hmem), fun n => ⟨fun hn => (hg n).trans hn, fun g hs => ⟨g, (hg n).trans hs, rfl, rfl⟩⟩⟩

theorem Keeps.fireWatches {s : State} (h : s.noStacks) (a : LineAt) (ts : Nat) : Keeps s (s.fireWatches a ts) := by
  refine ⟨fun g hg => ?_, fun n => ⟨fun hn => ?_, fun g hg => ?_⟩⟩
  · obtain ⟨g0, h0, rfl⟩ := List.mem_map.mp hg
    exact h g0 h0
  · rw [State.group?_fireWatches, hn]; rfl
  · rw [State.group?_fireWatches, hg]
    exact ⟨_, rfl, by simp [Group.size], rfl⟩

theorem Keeps.physWrite {s : State} (h : s.noStacks) (pa : Nat) (bs : List Byte) : Keeps s (s.physWrite pa bs) :=
  Keeps.trans (Keeps.of_groups (t := s.setMem (s.mem.homeWrite pa 0 bs).2) h rfl) (Keeps.fireWatches h _ _)

theorem State.physWrite_ctxs (s : State) (pa : Nat) (bs : List Byte) : (s.physWrite pa bs).ctxs = s.ctxs := by
  unfold State.physWrite State.physWriteAt
  rfl

theorem State.physWriteWords_keeps {s : State} (h : s.noStacks) (pa : Nat) (ws : List Word) :
    Keeps s (s.physWriteWords pa ws) ∧ (s.physWriteWords pa ws).ctxs = s.ctxs := by
  induction ws generalizing s pa with
  | nil => exact ⟨Keeps.refl h, rfl⟩
  | cons w r ih =>
    have h1 := Keeps.physWrite h pa (toBytes 8 w.toNat)
    obtain ⟨k1, k2⟩ := ih h1.1 (pa + 8)
    have h2 := State.physWrite_ctxs s pa (toBytes 8 w.toNat)
    rw [State.physWriteWords]
    generalize s.physWrite pa (toBytes 8 w.toNat) = u at h1 h2 k1 k2
    exact ⟨h1.trans k1, k2.trans h2⟩

/-! Engine faults (10 R256 to R258). -/

theorem State.wakeWfi_spec {s : State} (h : s.noStacks) (n : Nat) (site : Option Site) (code : Nat) :
    Keeps s (s.wakeWfi n site code) ∧ (s.wakeWfi n site code).ctxs = s.ctxs := by
  obtain ⟨h1, h2, -⟩ := State.wakeLanes_frame h (fun g _ _ w =>
    if w.kind.isWfi && g.ctx == n && (site.isNone || site == some g.site) then
      some (fun l => l.wx w.d (BitVec.ofNat 64 (if w.intr then 3 else code)))
    else none)
  exact ⟨h1, (congrArg State.ctxs h2).trans rfl⟩

theorem State.sendWake_spec {s : State} (h : s.noStacks) (r : TaskRec) (n : Nat) :
    Keeps s ((s.sendRecord r).wakeWfi n none 1) ∧ ((s.sendRecord r).wakeWfi n none 1).ctxs = s.ctxs := by
  have hk : Keeps s (s.sendRecord r) := Keeps.of_groups h rfl
  obtain ⟨k1, k2⟩ := State.wakeWfi_spec hk.1 n none 1
  exact ⟨hk.trans k1, k2⟩

/-- Writing the record of the oldest fault: the context's faults keep their tags. -/
theorem State.pumpFaults_spec {s : State} (h : s.noStacks) {n : Nat} {c : Ctx} (hc : s.ctx? n = some c) :
    Keeps s (s.pumpFaults n) ∧ ∃ es, (s.pumpFaults n).ctx? n = some { c with efs := es } ∧ ∀ x ∈ es, ∃ y ∈ c.efs, x.tag = y.tag := by
  unfold State.pumpFaults
  rw [hc]
  dsimp only
  split
  · exact ⟨Keeps.refl h, c.efs, hc, fun x hx => ⟨x, hx, rfl⟩⟩
  · rename_i e he
    split
    · exact ⟨Keeps.refl h, c.efs, hc, fun x hx => ⟨x, hx, rfl⟩⟩
    · obtain ⟨k1, k2⟩ := State.physWriteWords_keeps h (c.desc.efRing + 32 * (e.n % c.desc.efCount))
        [BitVec.ofNat 64 e.addr, BitVec.ofNat 64 (e.kind + 256 * e.cause + 2 ^ 16 * e.sub + 2 ^ 32 * e.tag), BitVec.ofNat 64 e.site, 0]
      generalize State.physWriteWords s _ _ = u at k1 k2
      let mark (c : Ctx) : Ctx := { c with efs := updWhere (fun x => x.n == e.n) (fun x => { x with written := true }) c.efs }
      have hu : (u.modCtx n mark).ctx? n = some (mark c) := State.ctx?_modCtx_same ((State.ctx?_of_ctxs k2 n).trans hc) _ fun _ => rfl
      have hum : (u.modCtx n mark).noStacks := k1.1
      refine ⟨?_, (mark c).efs, ?_, fun x hx => ?_⟩
      · exact k1.trans (Keeps.trans (Keeps.of_groups (t := u.modCtx n mark) k1.1 rfl) (State.sendWake_spec hum _ n).1)
      · exact (State.ctx?_of_ctxs (State.sendWake_spec hum _ n).2 n).trans hu
      · obtain ⟨y, hy, rfl⟩ := List.mem_map.mp hx
        exact ⟨y, hy, by split <;> rfl⟩

/-- An acknowledged fault is gone, and the context is otherwise as it was. -/
theorem State.ackFault_spec {s : State} (h : s.noStacks) {n : Nat} {c : Ctx} (hc : s.ctx? n = some c) (tag : Nat) (resume : Bool) :
    Keeps s (s.ackFault n tag resume) ∧ ∃ es, (s.ackFault n tag resume).ctx? n = some { c with efs := es } ∧ ∀ x ∈ es, x.tag ≠ tag := by
  have key : ∀ u : State, u.groups = s.groups → u.ctx? n = some { c with efs := c.efs.filter (fun e => e.tag != tag) } →
      Keeps s (u.pumpFaults n) ∧ ∃ es, (u.pumpFaults n).ctx? n = some { c with efs := es } ∧ ∀ x ∈ es, x.tag ≠ tag := by
    intro u hu hcu
    have hk := Keeps.of_groups h hu
    obtain ⟨k1, es, k2, k3⟩ := State.pumpFaults_spec hk.1 hcu
    refine ⟨hk.trans k1, es, k2, fun x hx => ?_⟩
    obtain ⟨y, hy, e⟩ := k3 x hx
    rw [e]
    simpa using (List.mem_filter.mp hy).2
  have hc1 := State.ctx?_modCtx_same hc (fun c => { c with efs := c.efs.filter (fun e => e.tag != tag) }) fun _ => rfl
  unfold State.ackFault
  cases resume with
  | true => exact key _ rfl hc1
  | false => exact key _ rfl hc1

/-! The end of a call (10 R258). -/

/-- The end of a lane's wait: the lane has its result, and nothing but paths changes besides. -/
theorem State.endWait_spec {s : State} (h : s.noStacks) {n l : Nat} {g : Group} (hg : s.group? n = some g) (hl : l < g.size)
    (f : Lane → Lane) :
    (s.endWait n l f).lane n l = { f (g.lane l) with wait := none } ∧ Keeps s (s.endWait n l f) ∧ (s.endWait n l f).ctxs = s.ctxs := by
  let u := s.modLane n l (fun x => { f x with wait := none })
  have hk : Keeps s u := Keeps.modGroup h n _ fun g => ⟨Group.modLane_size g l _, rfl, fun hn => hn⟩
  have hlane : u.lane n l = { f (g.lane l) with wait := none } := by
    rw [State.lane_modLane_same s n l g _ hg hl, State.lane_of_group? hg]
  unfold State.endWait
  rw [hg]
  dsimp only
  cases g.pathOf? l with
  | none => exact ⟨hlane, hk, rfl⟩
  | some p =>
    obtain ⟨k1, k2, -, k3⟩ := State.wakePath_frame hk.1 n p.pid
    exact ⟨(k2 n l).trans hlane, hk.trans k1, by dsimp only; rw [k3]; rfl⟩

theorem State.freezeLane_spec (s : State) (n l : Nat) : SameLanes s (s.freezeLane n l) ∧ (s.freezeLane n l).ctxs = s.ctxs := by
  have key : ∀ pid (f : Path → Path), SameLanes s (s.modPath n pid f) := fun pid f m i => by
    unfold State.lane State.modPath
    rw [State.group?_modGroup s n m (fun g => g.modPath pid f) fun _ => rfl]
    cases s.group? m with
    | none => rfl
    | some g => simp only [Option.map_some]; split <;> rfl
  unfold State.freezeLane
  split
  · exact ⟨fun _ _ => rfl, rfl⟩
  · split
    · exact ⟨fun _ _ => rfl, rfl⟩
    · exact ⟨key _ _, rfl⟩

/-! The death of a context (10 R273). -/

theorem State.barxBreak_ctxs (s : State) (i : BarxInst) : (s.barxBreak i false).ctxs = s.ctxs :=
  foldl_ctxs (fun s p => by unfold State.sendNotice; split <;> rfl) (i.partners.zipIdx) (s.dropInst i)

theorem State.breakWords_ctxs (s : State) (n : Nat) : (s.breakWords n).ctxs = s.ctxs := by
  unfold State.breakWords
  refine foldl_ctxs (fun s x => ?_) _ s
  dsimp only
  split
  · rfl
  · split <;> rfl

theorem State.breakInsts_ctxs (s : State) (n : Nat) : (s.breakInsts n).ctxs = s.ctxs :=
  foldl_ctxs (fun s i => State.barxBreak_ctxs s i) _ s

theorem State.dropWork_ctxs (s : State) (n : Nat) : (s.dropWork n).ctxs = s.ctxs := by
  have h : ((s.breakWords n).breakInsts n).ctxs = s.ctxs := (State.breakInsts_ctxs _ n).trans (State.breakWords_ctxs s n)
  unfold State.dropWork
  generalize (s.breakWords n).breakInsts n = u at h
  exact h

theorem State.freePlaces_ctxs (s : State) (n : Nat) : (s.freePlaces n).ctxs = s.ctxs := rfl

theorem State.abortLoad_ctxs (s : State) (n : Nat) (o : KObj) : (s.abortLoad n o).ctxs = s.ctxs := by
  unfold State.abortLoad
  dsimp only
  have h := State.engRead_ctxs s ⟨n, true, s.latest, ⟨0, 0⟩⟩ (.glob (o.image + 24)) 8
  split
  · rename_i hr
    rw [hr] at h
    exact (foldl_ctxs (fun s x => State.engWrite_ctxs s _ _ _) _ _).trans h
  · rename_i hr
    rw [hr] at h
    exact h

/-- A context that exists is killed, and none of its groups is left. -/
theorem State.killCtx_spec {s : State} {n : Nat} {c : Ctx} (hc : s.ctx? n = some c) :
    (∃ c', (s.killCtx n).ctx? n = some c' ∧ c'.st = .killed) ∧ ∀ x ∈ (s.killCtx n).groups, x.ctx ≠ n := by
  obtain ⟨c1, h1⟩ : ∃ c1, (s.abortLoads n).ctx? n = some c1 := by
    unfold State.abortLoads
    rw [hc]
    dsimp only
    have hu := State.ctx?_of_ctxs (foldl_ctxs (fun s o => State.abortLoad_ctxs s n o) (c.objs.filter (fun o => o.st == 0)) s) n
    generalize (c.objs.filter (fun o => o.st == 0)).foldl (fun s o => s.abortLoad n o) s = u at hu
    rw [hc] at hu
    exact ⟨_, State.ctx?_modCtx_same (s := { u with link := _ }) hu _ fun _ => rfl⟩
  have h2 : (((s.abortLoads n).dropWork n).freePlaces n).ctx? n = some c1 :=
    (State.ctx?_of_ctxs ((State.freePlaces_ctxs _ n).trans (State.dropWork_ctxs _ n)) n).trans h1
  have h3 : ∀ x ∈ (((s.abortLoads n).dropWork n).freePlaces n).groups, x.ctx ≠ n := fun x hx => by
    simpa using (List.mem_filter.mp hx).2
  unfold State.killCtx
  dsimp only
  generalize ((s.abortLoads n).dropWork n).freePlaces n = u at h2 h3
  exact ⟨⟨_, State.ctx?_modCtx_same h2 _ fun _ => rfl, rfl⟩, h3⟩

/-- Settles O25: each call is the acknowledgement, violation or kill it asks for, then the end of the lane's wait. -/
theorem firmwareCalls : Obligations.FirmwareCalls := by
  intro s g l c hgid hla hg hn hl hc hst hv
  have ends : ∀ {u : State}, Keeps s u → ∀ f : Lane → Lane, (∃ g', u.group? g.gid = some g' ∧
      (u.endWait g.gid l f).lane g.gid l = { f (g'.lane l) with wait := none }) ∧ (u.endWait g.gid l f).ctxs = u.ctxs := fun hk f => by
    obtain ⟨g', hG, hz, -⟩ := (hk.2 g.gid).2 g hg
    obtain ⟨h1, -, h2⟩ := State.endWait_spec hk.1 hG (hz ▸ hl) f
    exact ⟨⟨g', hG, h1⟩, h2⟩
  have one : ∀ (x : Lane) (v : Word), (x.wx 1 v).rx 1 = v := fun x v => Lane.rx_wx_same x 1 v (by decide)
  refine ⟨fun i hi hf => ?_, fun e hcall hf => ?_, fun e hcall hf => ?_, fun hcall => ?_, fun hcall => ?_⟩
  · have he : ∀ i, i = Instr.engineResume ∧ s.calling g.gid l 1 = some g ∨ i = .engineAbort ∧ s.calling g.gid l 2 = some g →
        exec i s = .next (s.endWait g.gid l (fun x => x.wx 1 1)) := by
      rintro i (⟨rfl, hcall⟩ | ⟨rfl, hcall⟩)
      · show execEngineResume s = _
        unfold execEngineResume
        simp only [← hgid, ← hla, hcall, hf]
      · show execEngineAbort s = _
        unfold execEngineAbort
        simp only [← hgid, ← hla, hcall, hf]
    exact ⟨_, he i hi, (State.endWait_spec hn hg hl _).1⟩
  · obtain ⟨hk, es, hcx, htag⟩ := State.ackFault_spec hn hc e.tag true
    have he : exec .engineResume s = .next ((s.ackFault g.ctx e.tag true).endWait g.gid l (fun x => x.wx 1 0)) := by
      show execEngineResume s = _
      unfold execEngineResume
      simp only [← hgid, ← hla, hcall, hf]
    obtain ⟨⟨g', -, h1⟩, h3⟩ := ends hk (fun x => x.wx 1 0)
    exact ⟨_, _, he, by rw [h1]; exact one _ 0, by rw [h1], (State.ctx?_of_ctxs h3 _).trans hcx, htag, hv⟩
  · have hkv : Keeps s (s.violate g.ctx e.cause e.sub e.kind (BitVec.ofNat 64 e.addr) e.site) := Keeps.of_groups hn rfl
    obtain ⟨hk, es, hcx, htag⟩ := State.ackFault_spec hkv.1 (State.ctx?_violate hc hst hv) e.tag false
    have he : exec .engineAbort s = .next ((((s.violate g.ctx e.cause e.sub e.kind (BitVec.ofNat 64 e.addr) e.site).ackFault
        g.ctx e.tag false).endWait g.gid l (fun x => x.wx 1 0)).freezeLane g.gid l) := by
      show execEngineAbort s = _
      unfold execEngineAbort
      simp only [← hgid, ← hla, hcall, hf]
    obtain ⟨⟨g', -, h1⟩, h3⟩ := ends (hkv.trans hk) (fun x => x.wx 1 0)
    obtain ⟨k1, k2⟩ := State.freezeLane_spec (((s.violate g.ctx e.cause e.sub e.kind (BitVec.ofNat 64 e.addr) e.site).ackFault
        g.ctx e.tag false).endWait g.gid l (fun x => x.wx 1 0)) g.gid l
    exact ⟨_, _, he, by rw [k1, h1]; exact one _ 0, (State.ctx?_of_ctxs (k2.trans h3) _).trans hcx, htag, rfl, rfl, rfl, rfl, rfl⟩
  · have hkv : Keeps s (s.violate g.ctx 0 0 0 ((g.lane l).rx 1) (siteWord g.site (g.pipeOf l))) := Keeps.of_groups hn rfl
    have he : exec .ctxFault s = .next (((s.violate g.ctx 0 0 0 ((g.lane l).rx 1) (siteWord g.site (g.pipeOf l))).endWait g.gid l
        (fun x => x.wx 1 0)).freezeLane g.gid l) := by
      show execCtxFault s = _
      unfold execCtxFault
      simp only [← hgid, ← hla, hcall]
    obtain ⟨h1, -, h3⟩ := State.endWait_spec hkv.1 (show (s.violate g.ctx 0 0 0 _ _).group? g.gid = some g from hg) hl (fun x => x.wx 1 0)
    obtain ⟨k1, k2⟩ := State.freezeLane_spec ((s.violate g.ctx 0 0 0 ((g.lane l).rx 1) (siteWord g.site (g.pipeOf l))).endWait g.gid l
        (fun x => x.wx 1 0)) g.gid l
    exact ⟨_, _, he, (k1 _ _).trans h1, (State.ctx?_of_ctxs (k2.trans h3) _).trans (State.ctx?_violate hc hst hv), rfl, rfl, rfl⟩
  · have he : exec .ctxKill s = .next (s.killCtx g.ctx) := by
      show execCtxKill s = _
      unfold execCtxKill
      simp only [← hgid, ← hla, hcall]
    obtain ⟨⟨c', h1, h2⟩, h3⟩ := State.killCtx_spec hc
    exact ⟨_, c', he, h1, h2, h3⟩

end Sys2Proof.Machine
end

section
/-!
SETTLED. Cache hints.
-/

namespace Sys2Proof.Machine

open Sys2Proof

/-! Hints (08 R214). -/

@[simp] theorem MemSys.toHbm_hbm (m : MemSys) (n : Nat) : (m.toHbm n).hbm = m.hbm := rfl

theorem prefLine_hbm (m : MemSys) (r : Req) (va pa perm : Nat) : (prefLine m r va pa perm).hbm = m.hbm := by
  unfold prefLine
  split
  · rfl
  · split
    · rfl
    · exact MemSys.l1Fill_hbm m r va pa perm

theorem cleanLine_hbm (scope : Scope) (m : MemSys) (r : Req) (va pa : Nat) : (cleanLine scope m r va pa).hbm = m.hbm := by
  have h : (if m.copies.any (fun c => r.isMine va c && c.owned) then m.recall (pa / 128) else m).hbm = m.hbm := by
    split
    · exact MemSys.recall_hbm m _
    · rfl
  unfold cleanLine
  generalize (if m.copies.any (fun c => r.isMine va c && c.owned) then m.recall (pa / 128) else m) = m1 at h
  dsimp only
  split
  · exact h
  · exact h

theorem invalLine_hbm (scope : Scope) (m : MemSys) (r : Req) (va pa : Nat) : (invalLine scope m r va pa).hbm = m.hbm :=
  cleanLine_hbm scope m r va pa

/-- The memory that a hint's translation leaves holds the same bytes. -/
theorem State.hintLine_hbm {s : State} {gid l pa perm p : Nat} {A : Word} {r : Req} {m : MemSys}
    (h : s.hintLine gid l A = some (r, pa, perm, p, m)) : m.hbm = s.mem.hbm := by
  unfold State.hintLine at h
  split at h
  · cases h
  · dsimp only at h
    split at h
    · cases h
    · split at h
      · rename_i g _ _ _ _ _ _ ht
        have hm := congrArg (fun x => x.2.2.hbm) ht
        dsimp only at hm
        rw [MemSys.translate_hbm] at hm
        cases h
        exact hm.symm
      · cases h

/-- What a hint leaves: the lane but for PTS, the bytes, and every other lane. -/
def HintQuiet (s t : State) (h : Group) (p : Path) (l : Nat) : Prop :=
  ∃ h', t.mem.hbm = s.mem.hbm ∧ t.classes = s.classes ∧ OtherLanes s t h.gid l ∧
    t.lane h.gid l = { h.lane l with pts := (t.lane h.gid l).pts } ∧ t.group? h.gid = some h' ∧ h.stepsTo p h'

/-- A hint that changes no byte. -/
theorem hintWord_quiet {f : MemSys → Req → Nat → Nat → Nat → MemSys} (hf : ∀ m r va pa perm, (f m r va pa perm).hbm = m.hbm)
    {g : Guard} {a b : XReg} {off : BitVec 20} {s : State} {h : Group} {p : Path} {l : Nat} (hr : s.runsOne h p g l) :
    ∃ t, hintWord f g a b off s = .next t ∧ HintQuiet s t h p l := by
  let A := (s.lane h.gid l).addrIndexed a b off
  have key : ∀ (u : State) (k : Lane → Lane), u.groups = s.groups → u.classes = s.classes → u.mem.hbm = s.mem.hbm →
      (∀ x, k x = { x with pts := (k x).pts }) →
      (match s.hintLine h.gid l A with
        | none => LRes.ok () s
        | some (r, pa, perm, p, m) => .ok () ((s.setMem (f m { r with pts := p } A.toNat pa perm)).setPts h.gid l p)) =
        .ok () (u.modLane h.gid l k) →
      ∃ t, hintWord f g a b off s = .next t ∧ HintQuiet s t h p l := by
    intro u k hu hcls hmem hk e
    obtain ⟨t, h', et, hG, hst, hl, ho, -, heq⟩ := laneWord_modLane hr (F := fun s gid l =>
      let addr := (s.lane gid l).addrIndexed a b off
      match s.hintLine gid l addr with
      | none => .ok () s
      | some (r, pa, perm, p, m) => .ok () ((s.setMem (f m { r with pts := p } addr.toNat pa perm)).setPts gid l p)) e hu
    exact ⟨t, et, h', by rw [heq]; exact hmem, by rw [heq]; exact hcls, ho, by rw [hl]; exact hk _, hG, hst⟩
  cases hh : s.hintLine h.gid l A with
  | none =>
    refine key s (fun x => x) rfl rfl rfl (fun _ => rfl) ?_
    rw [hh, State.modLane_id]
  | some y =>
    obtain ⟨r, pa, perm, q, m⟩ := y
    refine key (s.setMem (f m { r with pts := q } A.toNat pa perm)) (fun x => { x with pts := q }) rfl rfl
      ((hf _ _ _ _ _).trans (State.hintLine_hbm hh)) (fun _ => rfl) ?_
    rw [hh]
    rfl

/-- INVAL of a readable line leaves no copy of it with the pipeline. -/
theorem inval_drops {g : Guard} {a b : XReg} {off : BitVec 20} {scope : Scope} {s : State} {h : Group} {p : Path} {l pa perm pt : Nat}
    {mem' : MemSys} {A : Word} (hA : A = (h.lane l).addrIndexed a b off) (hr : s.runsOne h p g l) (h0 : A.toNat / 2 ^ 56 = 0)
    (hfar : s.far h.ctx A.toNat = false)
    (ht : s.mem.translate (s.req h l A.toNat).ptRoot (s.req h l A.toNat).die (s.req h l A.toNat).ctx (s.req h l A.toNat).privS A.toNat
      needR (s.req h l A.toNat).pts = (.ok (pa, perm), pt, mem')) :
    ∃ t, hintWord (fun m r va pa _ => invalLine scope m r va pa) g a b off s = .next t ∧ t.mem.l1Copy (s.req h l A.toNat) A.toNat = none := by
  have hl : (s.lane h.gid l).addrIndexed a b off = A := by rw [State.lane_of_group? hr.group, hA]
  have hh : s.hintLine h.gid l A = some (s.req h l A.toNat, pa, perm, pt, mem') := by
    unfold State.hintLine
    simp only [hr.group, h0, hfar, ht]
    rfl
  let r' : Req := { s.req h l A.toNat with pts := pt }
  obtain ⟨t, -, et, -, -, -, -, -, heq⟩ := laneWord_modLane hr (u := s.setMem (invalLine scope mem' r' A.toNat pa))
    (f := fun x => { x with pts := pt }) (F := fun s gid l =>
      let addr := (s.lane gid l).addrIndexed a b off
      match s.hintLine gid l addr with
      | none => .ok () s
      | some (r, pa, perm, p, m) => .ok () ((s.setMem (invalLine scope m { r with pts := p } addr.toNat pa)).setPts gid l p))
    (by dsimp only; rw [hl, hh]; rfl) rfl
  refine ⟨t, et, ?_⟩
  rw [heq]
  refine List.find?_eq_none.mpr fun c hc => ?_
  have hd : (!r'.isMine A.toNat c) = true := (List.mem_filter.mp hc).2
  have hm : r'.isMine A.toNat c = (s.req h l A.toNat).isMine A.toNat c := rfl
  simpa [hm] using hd

/-- Settles O16: the three hints are quiet, and INVAL drops the copy. -/
theorem cacheHints : Obligations.CacheHints := by
  constructor
  · intro g a b off seg hint scope s h p l hr Quiet
    have quiet : ∀ {i : Instr} {o : State → Out}, exec i s = o s → (∃ t, o s = .next t ∧ HintQuiet s t h p l) → Quiet i := by
      rintro i o e ⟨t, et, h', h1, h2, h3, h4, h5, h6⟩
      exact ⟨t, h', e.trans et, h1, h2, h3, h4, h5, h6⟩
    exact ⟨quiet (o := hintWord _ g a b off) rfl (hintWord_quiet prefLine_hbm hr),
      quiet (o := hintWord _ g a b off) rfl (hintWord_quiet (fun m r va pa _ => cleanLine_hbm scope m r va pa) hr),
      quiet (o := hintWord _ g a b off) rfl (hintWord_quiet (fun m r va pa _ => invalLine_hbm scope m r va pa) hr)⟩
  · intro g a b off seg hint scope s h p l pa perm pt mem' A r hr h0 hfar ht
    exact inval_drops rfl hr h0 hfar ht

end Sys2Proof.Machine
end

section
/-!
SETTLED. Fences, watches and completion words.
-/

namespace Sys2Proof.Machine

open Sys2Proof

/-! FENCE (08 R215). -/

/-- The lane after a FENCE of its group. -/
def Lane.fenced (acq : Nat) (x : Lane) : Lane := { x with pts := max x.pts (max x.cmdPts acq), fenceOwed := none }

/-- New earlier bytes of a scratchpad change no byte of it. -/
theorem samePads_modPrev (s : State) (k m : Nat) (f : List OldByte → List OldByte) :
    SamePads s (s.modPad k m (fun p => { p with prev := f p.prev })) := by
  intro k' m'
  by_cases h : k' = k ∧ m' = m
  · obtain ⟨rfl, rfl⟩ := h
    cases hp : s.pad? k' m' with
    | none =>
      have : (s.modPad k' m' (fun p => { p with prev := f p.prev })).pad? k' m' = none := by
        unfold State.pad? at hp ⊢
        unfold State.modPad
        rw [s.klass?_modKlass k' k' (fun c => { c with pads := c.pads.modify m' (fun p => { p with prev := f p.prev }) }) (fun _ => rfl)]
        cases hc : s.klass? k' with
        | none => rfl
        | some c =>
          rw [hc] at hp
          simp only [Option.map_some, State.kid_of_klass? hc, if_true]
          simpa using hp
      rw [this]
    | some p => rw [State.pad?_modPad_same s k' m' p _ hp]; rfl
  · rw [State.pad?_modPad_other _ _ _ _ _ _ h]

theorem State.fenced_eq {s : State} {h : Group} (hg : s.group? h.gid = some h) (l : Nat) (sc : Scope) :
    ∃ u, s.fenced h.gid l sc = u.modLane h.gid l (Lane.fenced h.acqPts) ∧ u.groups = s.groups ∧ SamePads s u ∧
      u = { s with classes := u.classes } := by
  unfold State.fenced
  rw [hg]
  dsimp only
  split
  · split
    · exact ⟨s, rfl, rfl, fun _ _ => rfl, rfl⟩
    · exact ⟨s.modPad h.cls (h.member l) (fun p =>
        { p with prev := p.prev.filter (fun o => !scopeJoins sc o.site o.pipe o.gid h.site (h.pipeOf l) h.gid) }), rfl, rfl,
        samePads_modPrev s _ _ _, rfl⟩
  · exact ⟨s, rfl, rfl, fun _ _ => rfl, rfl⟩

/-- FENCE of a lane whose engine commands are done. -/
theorem fence_done {g : Guard} {scope : Scope} {s : State} {h : Group} {p : Path} {l : Nat} (hr : s.runsOne h p g l)
    (hf : s.fenceReady h.gid l = true) :
    ∃ t h', execFence g scope s = .next t ∧ t.group? h.gid = some h' ∧ h.stepsTo p h' ∧
      h'.lane l = { h.lane l with pts := max (h.lane l).pts (max (h.lane l).cmdPts h.acqPts), fenceOwed := none } ∧
      OtherLanes s t h.gid l ∧ SamePads s t ∧ t = { s with groups := t.groups, classes := t.classes } := by
  obtain ⟨u, e, hu, hpads, hue⟩ := State.fenced_eq hr.group l scope
  obtain ⟨t, h', et, hG, hst, hl, ho, -, heq⟩ := laneWord_modLane hr (F := fun s gid l => s.fenceLane gid l scope)
    (by unfold State.fenceLane; rw [if_pos hf, e]) hu
  refine ⟨t, h', et, hG, hst, by rw [← State.lane_of_group? hG]; exact hl, ho, fun k m => ?_, ?_⟩
  · rw [← hpads k m, heq]; rfl
  · generalize u.classes = cs at hue
    rw [heq, hue]

/-! MON and WAITM (08 R216, R217). -/

/-- MON of the lane's own scratchpad arms its watch. -/
theorem mon_arms {g : Guard} {a b : XReg} {off : BitVec 20} {seg : Bool} {hint : Hint} {scope : Scope} {s : State} {h : Group} {p : Path}
    {l : Nat} {pd : Pad} {A : Word} (hA : A = (h.lane l).addrIndexed a b off) (hr : s.runsOne h p g l) (hs : A.toNat / 2 ^ 56 = 0xFC)
    (hp : s.pad? h.cls (h.member l) = some pd) (hlt : A.toNat % 2 ^ 56 < pd.size) :
    ∃ t, exec (.mon g a b off seg hint scope) s = .next t ∧ t.mem = s.mem ∧ t.classes = s.classes ∧ OtherLanes s t h.gid l ∧
      t.lane h.gid l = { h.lane l with watch := some ⟨.pad h.cls (h.member l) (A.toNat % 2 ^ 56 / 128), none⟩ } := by
  have hl : (s.lane h.gid l).addrIndexed a b off = A := by rw [State.lane_of_group? hr.group, hA]
  have hres : resolve s h l A 1 1 = .ok (.pad h.cls (h.member l) (A.toNat % 2 ^ 56)) :=
    resolve_pad (by unfold Group.padAt; rw [if_pos hs]) (Nat.mod_one _) hp hlt
  obtain ⟨t, -, et, -, -, hlane, ho, -, heq⟩ := laneWord_modLane hr (u := s)
    (F := fun s gid l => s.monitor gid l ((s.lane gid l).addrIndexed a b off))
    (f := fun x => { x with watch := some ⟨.pad h.cls (h.member l) (A.toNat % 2 ^ 56 / 128), none⟩ })
    (by rw [hl]; unfold State.monitor; simp only [hr.group, hres]; rfl) rfl
  exact ⟨t, et, by rw [heq], by rw [heq], ho, hlane⟩

/-- What a group's one active lane registers on, and its parked path. -/
theorem State.register_eq {s : State} {h : Group} {p : Path} {l : Nat} {gd : Guard} (hg : s.group? h.gid = some h) (hp : h.paths = [p])
    (hl : p.lanes = [l]) (hlt : l < h.size) (hgd : guardHolds gd (h.lane l) = true) (mk : Lane → Wait) :
    s.register h p gd mk = s.modGroup h.gid (fun g => (g.mapActive p gd (fun l => l.startWait (mk l))).modPath p.pid Path.parked) ∧
      ((h.mapActive p gd (fun l => l.startWait (mk l))).modPath p.pid Path.parked).lane l =
        { h.lane l with wait := some (mk (h.lane l)) } := by
  have hg1 : (s.modGroup h.gid (fun g => g.mapActive p gd (fun l => l.startWait (mk l)))).group? h.gid = some _ :=
    State.group?_modGroup_same hg _ fun _ => rfl
  have hl1 : (h.mapActive p gd (fun l => l.startWait (mk l))).lane l = { h.lane l with wait := some (mk (h.lane l)) } := by
    rw [Group.lane_mapActive _ _ _ _ _ hlt, if_pos (by simp [hl, hgd])]; rfl
  refine ⟨?_, hl1⟩
  unfold State.register
  rw [State.parkPath_waits hg1 (p := p) hp (l := l) (by simp [hl]) (by rw [hl1]; simp)]
  exact State.modGroup_modGroup s h.gid (fun g => g.mapActive p gd (fun l => l.startWait (mk l))) _ fun _ => rfl

theorem State.runsOne.guard {s : State} {g : Group} {p : Path} {gd : Guard} {l : Nat} (h : s.runsOne g p gd l) :
    guardHolds gd (g.lane l) = true := by
  obtain ⟨-, ha, -⟩ := h
  have : l ∈ g.active p gd := by rw [ha]; exact List.mem_singleton_self l
  exact (List.mem_filter.mp this).2

/-- A register written under another wait. -/
theorem Lane.done_wx (x : Lane) (d : XReg) (v : Word) (w : Option Wait) (u : Option Watch) :
    { ({ x with wait := w } : Lane).wx d v with watch := u, wait := none } = { x.wx d v with watch := u, wait := none } := by
  unfold Lane.wx
  split_ifs <;> rfl

/-- WAITM whose watch has fired returns at once, with cause STORE. -/
theorem waitm_fired {g : Guard} {d a : XReg} {s : State} {h : Group} {p : Path} {l : Nat} {at_ : LineAt} (hr : s.runsOne h p g l)
    (hl : p.lanes = [l]) (hp : h.paths = [p]) (hn : s.noStacks) (hw : (h.lane l).watch = some ⟨at_, some .store⟩) :
    ∃ t, exec (.waitm g d a) s = .next t ∧ t.mem = s.mem ∧ (t.lane h.gid l).watch = none ∧ (t.lane h.gid l).wait = none ∧
      (d ≠ 0 → (t.lane h.gid l).rx d = 0) := by
  have hgd := hr.guard
  have hlt := hr.2.2
  let mk : Lane → Wait := fun l => ⟨.waitm, d, deadline s.clk (l.rx a), s.clk, false⟩
  let h0 := s.markGroup h
  have hG0 : s.markLost.group? h0.gid = some h0 := State.markLost_group hr.group
  have hm : h0.lane l = h.lane l := by rw [State.markGroup_lane s h hlt, State.markLane_fired hw (by simp)]
  obtain ⟨e1, hl1⟩ := State.register_eq (gd := g) hG0 (p := p) hp hl (by simpa [h0] using hlt) (by rw [hm]; exact hgd) mk
  let f : Group → Group := fun g' => (g'.mapActive p g (fun l => l.startWait (mk l))).modPath p.pid Path.parked
  have hk : Keeps s.markLost (s.markLost.modGroup h.gid f) := Keeps.modGroup (State.markLost_noStacks hn) _ f fun x =>
    ⟨by simp [f, Group.size, Group.mapActive, Group.modPath], rfl, fun hx => Group.noStack_modPath _ (fun q hq => hx q hq) _ _ fun _ => rfl⟩
  have hG1 : (s.markLost.modGroup h.gid f).group? h.gid = some (f h0) := State.group?_modGroup_same hG0 f fun _ => rfl
  have hl1' : (f h0).lane l = { h.lane l with wait := some (mk (h.lane l)) } := by rw [← hm]; exact hl1
  have hcause : waitmCause s.clk { h.lane l with wait := some (mk (h.lane l)) } (mk (h.lane l)) = some 0 := by
    simp [waitmCause, mk, hw]
  have hcause' : waitmCause (s.markLost.modGroup h.gid f).clk { h.lane l with wait := some (mk (h.lane l)) } (mk (h.lane l)) = some 0 := by
    rw [State.modGroup_clk, State.markLost_clk]; exact hcause
  have e : exec (.waitm g d a) s = .next ((s.markLost.modGroup h.gid f).waitmReturn h.gid p.pid) := by
    show execWaitm g d a s = _
    unfold execWaitm
    rw [hr.1.1]
    have e1' : s.markLost.register h p g (fun l => ⟨.waitm, d, deadline s.clk (l.rx a), s.clk, false⟩) = s.markLost.modGroup h.gid f := e1
    generalize s.markLost.modGroup h.gid f = s1 at *
    simp only [e1', hG1, hl, List.any_cons, List.any_nil, hl1', hcause', Option.isSome_some, Bool.true_or, if_true]
  have hlt1 : l < (f h0).size := by
    have : (f h0).size = h.size := by simp [f, h0, Group.size, Group.mapActive, Group.modPath, State.markGroup]
    rw [this]; exact hlt
  have hin : ((f h0).path? p.pid).any (fun p => p.lanes.contains l) = true := by
    have hpaths : (f h0).paths = [p.parked] := Group.modPath_one (h0.mapActive p g _) p hp Path.parked
    have : (f h0).path? p.pid = some p.parked := by simp [Group.path?, hpaths, Path.parked]
    simp [this, Path.parked, hl]
  obtain ⟨-, heq, hlanes⟩ := State.wakeLanes_frame hk.1 (fun g' l x w =>
    if g'.gid == h.gid && (g'.path? p.pid).any (fun p => p.lanes.contains l) && w.kind.isWaitm then
      some (fun y => { y.wx w.d (BitVec.ofNat 64 ((waitmCause (s.markLost.modGroup h.gid f).clk x w).getD 4)) with watch := none })
    else none)
  have hlast : ((s.markLost.modGroup h.gid f).waitmReturn h.gid p.pid).lane h.gid l =
      { (h.lane l).wx d 0 with watch := none, wait := none } := by
    refine (hlanes h.gid (f h0) l hG1 hlt1).trans ?_
    have hgid : ((f h0).gid == h.gid) = true := beq_self_eq_true _
    unfold wakeLane
    rw [hl1']
    simp only [hgid, hin, mk, WaitKind.isWaitm, Bool.and_self, if_true]
    rw [show waitmCause (s.markLost.modGroup h.gid f).clk _ _ = some 0 from hcause']
    exact Lane.done_wx _ _ _ _ _
  refine ⟨_, e, ?_, by rw [hlast], by rw [hlast], fun hd => by rw [hlast]; exact Lane.rx_wx_same _ _ _ hd⟩
  exact (congrArg State.mem heq).trans rfl

/-! Completion words (08 R225). -/

/-- Two changes of one lane. -/
theorem State.modLane_modLane (s : State) (gid l : Nat) (f k : Lane → Lane) :
    (s.modLane gid l f).modLane gid l k = s.modLane gid l (fun x => k (f x)) := by
  refine (State.modGroup_modGroup s gid (fun g => g.modLane l f) (fun g => g.modLane l k) fun _ => rfl).trans ?_
  refine congrArg (s.modGroup gid) (funext fun g => ?_)
  unfold Group.modLane
  simp only [Function.comp_apply, List.modify_modify_eq]
  rfl

/-- A completion word in the lane's own scratchpad is read: its bytes, and the lane but for PTS. -/
theorem State.readCompletion {s : State} {h : Group} {l : Nat} {A : Word} {pd : Pad} (hg : s.group? h.gid = some h)
    (hs : A.toNat / 2 ^ 56 = 0xFC) (ha : A.toNat % 8 = 0) (hp : s.pad? h.cls (h.member l) = some pd) (hb : A.toNat % 2 ^ 56 + 8 ≤ pd.size)
    (h1 : s.loadHeld (.pad h.cls (h.member l) (A.toNat % 2 ^ 56)) 8 = false)
    (h2 : s.drainHeld h (.pad h.cls (h.member l) (A.toNat % 2 ^ 56)) 8 = false) :
    ∃ s1 u pt, s.load h.gid l A 8 1 = .ok (fromBytes (cellsRead pd.bytes (A.toNat % 2 ^ 56) 8)) s1 ∧
      s1.seeCompletion h.gid l A = u.modLane h.gid l (fun x => { x with pts := pt }) ∧ u.groups = s.groups ∧ SamePads s u := by
  have hl := State.load_pad (gid := h.gid) (l := l) (sub := 1) hg (by unfold Group.padAt; rw [if_pos hs]) ha hp hb h1 h2
  let r := pd.load (A.toNat % 2 ^ 56) 8 (h.lane l).pts
  let s0 := s.modPad h.cls (h.member l) (fun _ => r.2.2)
  have hg1 : (s0.setPts h.gid l r.2.1).group? h.gid = some (h.modLane l (fun x => { x with pts := r.2.1 })) :=
    State.group?_modGroup_same (show s0.group? h.gid = some h from hg) _ fun _ => rfl
  refine ⟨s0.setPts h.gid l r.2.1, s0.modPad h.cls (h.member l) (fun p => { p with prev := [] }), r.2.1, hl, ?_, rfl, fun k m => ?_⟩
  · have hobs : (s0.setPts h.gid l r.2.1).observeAll h.gid l A = s0.setPts h.gid l r.2.1 := by
      have h0 : (decide (A.toNat / 2 ^ 56 ≠ 0) || (s0.setPts h.gid l r.2.1).eng.observed.isEmpty) = true := by rw [hs]; rfl
      unfold State.observeAll
      rw [hg1]
      exact if_pos h0
    unfold State.seeCompletion
    rw [hg1]
    dsimp only
    rw [hobs]
    rfl
  · exact (samePads_modPrev s0 _ _ (fun _ => []) k m).trans (samePads_setTs hp _ k m)

/-- The lanes of the one lane's path still to do at a word. -/
theorem Group.toDo_one {h : Group} {p : Path} {l : Nat} {gd : Guard} (ha : h.active p gd = [l]) :
    h.toDo p gd = if p.part.contains l then [] else [l] := by
  unfold Group.toDo
  rw [ha]
  cases hc : p.part.contains l <;> simp only [List.filter, hc] <;> rfl

/-- A path whose one lane's part of the word is done, or is done now without a wait, goes on. -/
theorem parkWord_passes {s u : State} {h : Group} {p : Path} {l : Nat} {gd : Guard} {F : State → Nat → Nat → LRes Unit} {f : Lane → Lane}
    (hr : s.runsOne h p gd l) (hl : p.lanes = [l]) (hp : h.paths = [p]) (hw : (h.lane l).wait = none)
    (hF : F s h.gid l = .ok () (u.modLane h.gid l f)) (hu : u.groups = s.groups) (hf : ∀ x, (f x).wait = x.wait) :
    ∃ t q, parkWord gd F s = .next t ∧ (t.group? h.gid).map (·.paths) = some [q] ∧ q.pc = p.pc + 8 ∧ q.waiting = false := by
  have hst : p.stacked = none := hr.1.2 p (by simp [hp])
  have hg : u.group? h.gid = some h := by unfold State.group?; rw [hu]; exact hr.group
  have hg1 : (u.modLane h.gid l f).group? h.gid = some (h.modLane l f) := State.group?_modGroup_same hg _ fun _ => rfl
  have htd := Group.toDo_one hr.2.1
  cases hc : p.part.contains l with
  | true =>
    rw [hc, if_pos rfl] at htd
    obtain ⟨a, k1, -, -⟩ := State.parkPath_goes hr.group hp (by simp [hl]) hst fun i hi => by
      rw [hl] at hi; rw [List.mem_singleton.mp hi]; exact hw
    refine ⟨_, { p.woken with after := a }, ?_, by rw [k1]; rfl, rfl, rfl⟩
    unfold parkWord
    rw [hr.1.1]
    simp only [htd, partFold]
    rfl
  | false =>
    rw [hc, if_neg (by simp)] at htd
    obtain ⟨a, k1, -, -⟩ := State.parkPath_goes hg1 (p := p) hp (by simp [hl]) hst fun i hi => by
      rw [hl] at hi; rw [List.mem_singleton.mp hi, Group.lane_modLane_same h l _ hr.2.2, hf]; exact hw
    exact ⟨_, { p.woken with after := a }, parkWord_ok hr.1.1 htd hF, by rw [k1]; rfl, rfl, rfl⟩

/-- A CWAIT whose word is read goes on or registers by the word's value. -/
theorem State.cwaitLane_of_load {s s1 : State} {gid l v : Nat} {A mask : Word} {zero : Bool} (h : s.load gid l A 8 1 = .ok v s1) :
    s.cwaitLane gid l A mask zero = if cwaitDone zero mask (BitVec.ofNat 64 v) then .ok () (s1.seeCompletion gid l A)
      else .ok () (s.modLane gid l (fun x => x.startWait ⟨.cwait A mask zero, 0, none, s.clk, false⟩)) := by
  unfold State.cwaitLane
  rw [h]
  rfl

/-- Settles O17: FENCE, MON, WAITM, CTEST and CWAIT in turn. -/
theorem fencesWatchesAndCompletionWords : Obligations.FencesWatchesAndCompletionWords := by
  refine ⟨fun g scope s h p l hr => ⟨fence_done hr, fun hf => ?_⟩,
    fun g d a b off seg hint scope s h p l pd => ?_, ?_⟩
  · exact laneWord_hold (f := fun s gid l => s.fenceLane gid l scope) hr (by unfold State.fenceLane; rw [hf]; rfl)
  · intro A o hr
    exact ⟨fun hs hp hlt => mon_arms rfl hr hs hp hlt, fun hl hp hn hw => waitm_fired hr hl hp hn hw⟩
  intro g d a b s h p l pd A o v hr hs ha hp hb h1 h2
  obtain ⟨s1, u, pt, hload, hsee, hu, hpads⟩ := State.readCompletion hr.group hs ha hp hb h1 h2
  have hA : ∀ r, (s.lane h.gid l).rx r = (h.lane l).rx r := fun r => by rw [State.lane_of_group? hr.group]
  refine ⟨?_, fun hl hp' hwt hw hv => ?_, fun hl hp' hwt hw hv => ?_, fun hl hp' hwt hpart hv => ?_⟩
  · obtain ⟨t, -, et, -, -, hlane, ho, -, heq⟩ := laneWord_modLane hr (u := u)
      (F := fun s gid l => (s.load gid l ((s.lane gid l).rx a) 8 1).bind (fun v s1 =>
        .ok () ((s1.seeCompletion gid l ((s.lane gid l).rx a)).modLane gid l (fun x => x.wx d (BitVec.ofNat 64 v)))))
      (f := fun x => { x with pts := pt }.wx d v) (by
        rw [hA, hload]
        simp only [LRes.bind]
        rw [hsee]
        exact congrArg (LRes.ok ()) (State.modLane_modLane u h.gid l _ _)) hu
    refine ⟨t, et, fun hd => by rw [hlane]; exact Lane.rx_wx_same _ _ _ hd, ho, fun k m => ?_⟩
    rw [← hpads k m, heq]; rfl
  · refine parkWord_passes (F := fun s gid l => s.cwaitLane gid l ((s.lane gid l).rx a) ((s.lane gid l).rx b) false) hr hl hp' hw
      (f := fun x => { x with pts := pt }) ?_ hu fun _ => rfl
    rw [hA, hA, State.cwaitLane_of_load hload, if_pos (show cwaitDone false _ v = true from beq_iff_eq.mpr hv), hsee]
  · refine parkWord_passes (F := fun s gid l => s.cwaitLane gid l ((s.lane gid l).rx a) 0 true) hr hl hp' hw
      (f := fun x => { x with pts := pt }) ?_ hu fun _ => rfl
    rw [hA, State.cwaitLane_of_load hload, if_pos (show cwaitDone true 0 v = true from beq_iff_eq.mpr hv), hsee]
  · have hF : s.cwaitLane h.gid l ((s.lane h.gid l).rx a) 0 true =
        .ok () (s.modLane h.gid l (fun x => x.startWait ⟨.cwait A 0 true, 0, none, s.clk, false⟩)) := by
      rw [hA, State.cwaitLane_of_load hload, if_neg (show ¬ cwaitDone true 0 v = true from fun e => hv (beq_iff_eq.mp e))]
    have htd := Group.toDo_one hr.2.1
    rw [hpart, if_neg (by simp)] at htd
    have hg1 : (s.modLane h.gid l (fun x => x.startWait ⟨.cwait A 0 true, 0, none, s.clk, false⟩)).group? h.gid = some (h.modLane l _) :=
      State.group?_modGroup_same hr.group _ fun _ => rfl
    have hl1 := Group.lane_modLane_same h l (fun x => x.startWait ⟨.cwait A 0 true, 0, none, s.clk, false⟩) hr.2.2
    have e := State.parkPath_waits hg1 (p := p) hp' (l := l) (by simp [hl]) (by rw [hl1]; exact Option.some_ne_none _)
    have hG := State.modPath_group hg1 p.pid Path.parked
    refine ⟨_, p.parked, parkWord_ok (F := fun s gid l => s.cwaitLane gid l ((s.lane gid l).rx a) 0 true) hr.1.1 htd hF, ?_, rfl, rfl, ?_⟩
    · rw [e, hG]
      exact congrArg some (Group.modPath_one _ p hp' Path.parked)
    · rw [e, State.lane_of_group? hG]
      exact congrArg Lane.wait hl1

end Sys2Proof.Machine
end

section
/-!
SETTLED. What reads and writes of memory by engines, the firmware and the host leave of the machine.
-/

namespace Sys2Proof.Machine

open Sys2Proof

/-- A group apart from its lanes' contents, and a class apart from its scratchpads' contents. -/
def Group.outline (g : Group) : Nat × Group := (g.size, { g with lanes := [] })
def Klass.outline (k : Klass) : Nat × Klass := (k.pads.length, { k with pads := [] })

/-- Nothing has changed but memory, scratchpads, what a store that fires watches writes to lanes, and the count of free values. -/
structure MemOnly (s t : State) : Prop where
  rest : t = { s with groups := t.groups, classes := t.classes, mem := t.mem, freeN := t.freeN }
  groups : t.groups.map Group.outline = s.groups.map Group.outline
  classes : t.classes.map Klass.outline = s.classes.map Klass.outline

namespace MemOnly

theorem refl (s : State) : MemOnly s s := ⟨rfl, rfl, rfl⟩

theorem trans {s t u : State} (h : MemOnly s t) (k : MemOnly t u) : MemOnly s u :=
  ⟨by rw [k.rest, h.rest], k.groups.trans h.groups, k.classes.trans h.classes⟩

theorem ctxs {s t : State} (h : MemOnly s t) : t.ctxs = s.ctxs := by rw [h.rest]
theorem link {s t : State} (h : MemOnly s t) : t.link = s.link := by rw [h.rest]
theorem plat {s t : State} (h : MemOnly s t) : t.plat = s.plat := by rw [h.rest]
theorem eng {s t : State} (h : MemOnly s t) : t.eng = s.eng := by rw [h.rest]
theorem clk {s t : State} (h : MemOnly s t) : t.clk = s.clk := by rw [h.rest]
theorem nextId {s t : State} (h : MemOnly s t) : t.nextId = s.nextId := by rw [h.rest]
theorem pick {s t : State} (h : MemOnly s t) : t.pick = s.pick := by rw [h.rest]

theorem ctx? {s t : State} (h : MemOnly s t) (n : Nat) : t.ctx? n = s.ctx? n := State.ctx?_of_ctxs h.ctxs n

theorem setMem (s : State) (m : MemSys) : MemOnly s (s.setMem m) := ⟨rfl, rfl, rfl⟩

theorem fireWatches (s : State) (a : LineAt) (ts : Nat) : MemOnly s (s.fireWatches a ts) := by
  refine ⟨rfl, ?_, rfl⟩
  refine (List.map_map ..).trans (List.map_congr_left fun g _ => ?_)
  simp [Group.outline, Group.size]

theorem modPad (s : State) (k m : Nat) (f : Pad → Pad) : MemOnly s (s.modPad k m f) := by
  refine ⟨rfl, rfl, ?_⟩
  refine (List.map_map ..).trans (List.map_congr_left fun c _ => ?_)
  simp only [Function.comp_apply]
  split
  · simp [Klass.outline]
  · rfl

theorem foldl {α : Type} {f : State → α → State} (hf : ∀ s a, MemOnly s (f s a)) (l : List α) (s : State) : MemOnly s (l.foldl f s) := by
  induction l generalizing s with
  | nil => exact refl s
  | cons a r ih => exact (hf s a).trans (ih (f s a))

end MemOnly

theorem State.engPage_memOnly (s : State) (a : Actor) (va need : Nat) : MemOnly s (s.engPage a va need).2.2 := by
  unfold State.engPage
  split
  · exact .refl s
  · split
    · exact ⟨rfl, rfl, rfl⟩
    · dsimp only
      split <;> exact .setMem s _

theorem State.engRead_memOnly (s : State) (a : Actor) (loc : Loc) (n : Nat) : MemOnly s (s.engRead a loc n).2 := by
  unfold State.engRead
  cases loc with
  | glob va =>
    have h := s.engPage_memOnly a va needR
    dsimp only
    split
    next hp =>
      rw [hp] at h
      split
      · exact h
      · split
        · exact h
        · exact h.trans (.setMem _ _)
    next hp => rw [hp] at h; exact h
    next hp => rw [hp] at h; exact h
    next hp => rw [hp] at h; exact h
  | pad k m off =>
    dsimp only
    split
    · exact .refl s
    · split
      · exact .modPad s k m _
      · exact .refl s

theorem State.engWrite_memOnly (s : State) (a : Actor) (loc : Loc) (bs : List Byte) : MemOnly s (s.engWrite a loc bs).2 := by
  unfold State.engWrite
  cases loc with
  | glob va =>
    have h := s.engPage_memOnly a va needW
    dsimp only
    split
    next hp =>
      rw [hp] at h
      split
      · exact h
      · exact (h.trans (.setMem _ _)).trans (.fireWatches _ _ _)
    next hp => rw [hp] at h; exact h
    next hp => rw [hp] at h; exact h
    next hp => rw [hp] at h; exact h
  | pad k m off =>
    dsimp only
    split
    · exact .refl s
    · split
      · exact (MemOnly.modPad s k m _).trans (.fireWatches _ _ _)
      · exact .refl s

theorem State.physRead_memOnly (s : State) (pa n : Nat) : MemOnly s (s.physRead pa n).2 := .setMem s _

theorem State.physReadWords_memOnly (s : State) (pa n : Nat) : MemOnly s (s.physReadWords pa n).2 := by
  induction n generalizing s pa with
  | zero => exact .refl s
  | succ n ih => exact (s.physRead_memOnly pa 8).trans (ih _ _)

theorem State.physWriteAt_memOnly (s : State) (pts pa : Nat) (bs : List Byte) : MemOnly s (s.physWriteAt pts pa bs).2 :=
  (MemOnly.setMem s _).trans (.fireWatches _ _ _)

theorem State.physWrite_memOnly (s : State) (pa : Nat) (bs : List Byte) : MemOnly s (s.physWrite pa bs) := s.physWriteAt_memOnly 0 pa bs

theorem State.physWriteWords_memOnly (s : State) (pa : Nat) (ws : List Word) : MemOnly s (s.physWriteWords pa ws) := by
  induction ws generalizing s pa with
  | nil => exact .refl s
  | cons w r ih => exact (s.physWrite_memOnly pa _).trans (ih _ _)

end Sys2Proof.Machine
end

section
/-!
SETTLED. Host commands: what a command that answers at once, or later, leaves of the machine.
-/

namespace Sys2Proof.Machine

open Sys2Proof

/-! The status of a command (19 R447). -/

/-- The command at the head of its ring that a step carries: its ring, and that it may run. -/
structure State.commandAt (s : State) (fn : Func) (q : CmdRing) : Prop where
  ready : s.plat.ready = true
  func : s.func? (s.arg 0) = some fn
  ring : fn.ring? (s.arg 1) = some q
  queued : q.head ≠ q.tail
  pend : s.link.pend = []

/-- A command's CMD is known and its reserved bytes are zero. -/
def State.cmdSound (s : State) : Bool := s.cmdCode != 0 && decide (s.cmdCode ≤ 0x16) && decide (fieldAt (s.arg 3) 32 32 = 0)

/-- What a command comes to before its status is owed. -/
def State.cmdOut (s : State) (only0 : Bool) (f : State → Func → CmdOut) (fn : Func) : CmdOut :=
  if !s.cmdSound then .now 6 0 s else if only0 && fn.num != 0 then .now 5 0 s else f s fn

/-- A ring's head after its command is taken. -/
def CmdRing.taken (n : Nat) (x : CmdRing) : CmdRing := if x.num = n then { x with head := (x.head + 1) % 2 ^ 32 } else x

/-- What a state becomes when a command is taken and its status is written, or waits. -/
structure CommandEnds (s u t : State) (fn : Func) (q : CmdRing) (dma : List (Nat × Nat × Nat)) (pend : List PendCmd) : Prop where
  link : t.link = { u.link with
    funcs := updWhere (fun y => y.num == fn.num) (fun y => { y with rings := y.rings.map (CmdRing.taken q.num) }) u.link.funcs,
    dma := u.link.dma ++ dma, pend := pend }
  rest : t = { u with link := t.link, freeN := t.freeN }

/-- The state with the command of a ring taken. -/
def State.taking (t : State) (fn : Func) (n : Nat) : State := { t with link := { t.link with
  funcs := updWhere (fun y => y.num == fn.num) (fun y => { y with rings := y.rings.map (CmdRing.taken n) }) t.link.funcs } }

/-- The state with a command's status owed, and those written that may be. -/
def State.owing (t : State) (p : PendCmd) : State := { t with link := { t.link with pend := t.link.pend ++ [p] } }.flushCmds

theorem State.command_eq {s : State} {fn : Func} {q : CmdRing} (h : s.commandAt fn q) {cmd : Nat} {only0 : Bool} {f : State → Func → CmdOut}
    (hc : s.cmdCode = 0 ∨ 0x16 < s.cmdCode ∨ s.cmdCode = cmd) :
    s.command cmd only0 f = .next (match s.cmdOut only0 f fn with
      | .now st res t => (t.taking fn q.num).owing ⟨fn.num, q.num, s.arg 2, some (st % 256 + 256 * (res % 2 ^ 56)), 0, 0, 0⟩
      | .later k c o t => (t.taking fn q.num).owing ⟨fn.num, q.num, s.arg 2, none, k, c, o⟩
      | .idle => s) := by
  obtain ⟨hready, hfn, hq, hne, -⟩ := h
  have hk : ((s.cmdCode != 0 && decide (s.cmdCode ≤ 0x16)) && s.cmdCode != cmd) = false := by
    rcases hc with h | h | h
    · simp [h]
    · have : ¬ s.cmdCode ≤ 22 := by omega
      simp [this]
    · simp [h]
  have e : (if !(s.cmdCode != 0 && decide (s.cmdCode ≤ 0x16)) || decide (fieldAt (s.arg 3) 32 32 ≠ 0) then CmdOut.now 6 0 s
      else if only0 && fn.num != 0 then CmdOut.now 5 0 s else f s fn) = s.cmdOut only0 f fn := by
    unfold State.cmdOut State.cmdSound
    by_cases h0 : fieldAt (s.arg 3) 32 32 = 0 <;> simp [h0]
  unfold State.command
  simp only [hfn, hq, hready, hk]
  rw [if_neg (by simpa using hne), e]
  generalize s.cmdOut only0 f fn = o
  cases o <;> rfl

/-- A command that answers at once: its status is the one word written by DMA. -/
theorem State.command_now {s u : State} {fn : Func} {q : CmdRing} (h : s.commandAt fn q) {cmd st res : Nat} {only0 : Bool}
    {f : State → Func → CmdOut} (hc : s.cmdCode = 0 ∨ 0x16 < s.cmdCode ∨ s.cmdCode = cmd) (hf : s.cmdOut only0 f fn = .now st res u)
    (hu : u.link.pend = []) :
    ∃ t, s.command cmd only0 f = .next t ∧
      CommandEnds s u t fn q [(fn.num, s.arg 2, st % 256 + 256 * (res % 2 ^ 56))] [] := by
  refine ⟨_, State.command_eq h hc, ?_, ?_⟩
  · rw [hf]
    simp [State.owing, State.taking, State.flushCmds, hu, flushPend]
  · rw [hf]
    rfl

/-- The one command that waits has not come to its end. -/
theorem State.flushCmds_waits {t : State} {p : PendCmd} (hp : t.link.pend = [p]) (hn : p.done = none) (hd : ∀ n, t.pendDone p n = none) :
    t.flushCmds = { t with freeN := t.freeN + 1 } := by
  have e : t.link.pend.map (fun p => if p.done.isSome then p else { p with done := t.pendDone p (Config.freeValue t.freeN) }) = [p] := by
    rw [hp, List.map_singleton, if_neg (by simp [hn]), hd, ← hn]
  unfold State.flushCmds
  dsimp only
  rw [e]
  have ef : flushPend [] [p] = ([], [p]) := by simp [flushPend, hn]
  rw [ef, List.append_nil, ← hp]

/-- A command that waits: it stays in its function's list until its end comes. -/
theorem State.command_later {s u : State} {fn : Func} {q : CmdRing} (h : s.commandAt fn q) {cmd k c o : Nat} {only0 : Bool}
    {f : State → Func → CmdOut} (hc : s.cmdCode = 0 ∨ 0x16 < s.cmdCode ∨ s.cmdCode = cmd) (hf : s.cmdOut only0 f fn = .later k c o u)
    (hu : u.link.pend = []) (hd : ∀ n, u.pendDone ⟨fn.num, q.num, s.arg 2, none, k, c, o⟩ n = none) :
    ∃ t, s.command cmd only0 f = .next t ∧ CommandEnds s u t fn q [] [⟨fn.num, q.num, s.arg 2, none, k, c, o⟩] := by
  refine ⟨_, State.command_eq h hc, ?_⟩
  rw [hf]
  have e : (u.taking fn q.num).owing ⟨fn.num, q.num, s.arg 2, none, k, c, o⟩ = _ :=
    State.flushCmds_waits (t := { u.taking fn q.num with link := { (u.taking fn q.num).link with
      pend := (u.taking fn q.num).link.pend ++ [⟨fn.num, q.num, s.arg 2, none, k, c, o⟩] } })
      (by show u.link.pend ++ _ = _; rw [hu]; rfl) rfl hd
  dsimp only
  rw [e]
  refine ⟨?_, rfl⟩
  simp [State.taking, hu]

theorem State.cmdSound_of {s : State} {cmd : Nat} (h : s.cmdCode = cmd) (h0 : 0 < cmd) (h1 : cmd ≤ 0x16) (hr : fieldAt (s.arg 3) 32 32 = 0) :
    s.cmdSound = true := by
  have : cmd ≠ 0 := by omega
  simp [State.cmdSound, h, hr, h1, this]

theorem State.cmdOut_sound {s : State} {only0 : Bool} (f : State → Func → CmdOut) {fn : Func} (h : s.cmdSound = true)
    (h0 : only0 = false ∨ fn.num = 0) : s.cmdOut only0 f fn = f s fn := by
  unfold State.cmdOut
  rcases h0 with h0 | h0 <;> simp [h, h0]

theorem State.cmdOut_unsound {s : State} {only0 : Bool} (f : State → Func → CmdOut) {fn : Func}
    (h : s.cmdCode = 0 ∨ 0x16 < s.cmdCode ∨ fieldAt (s.arg 3) 32 32 ≠ 0) : s.cmdOut only0 f fn = .now 6 0 s := by
  have e : s.cmdSound = false := by
    unfold State.cmdSound
    rcases h with h | h | h
    · simp [h]
    · have : ¬ s.cmdCode ≤ 22 := by omega
      simp [this]
    · simp [h]
  unfold State.cmdOut
  simp [e]

theorem State.cmdOut_denied {s : State} (f : State → Func → CmdOut) {fn : Func} (h : s.cmdSound = true) (h0 : fn.num ≠ 0) :
    s.cmdOut true f fn = .now 5 0 s := by
  unfold State.cmdOut
  simp [h, h0]

/-- What a command that names a context comes to. -/
def ctxOut (f : State → Func → Ctx → CmdOut) (s : State) (fn : Func) : CmdOut :=
  match s.ctx? s.cmdCtx with
  | none => .now (if fn.num = 0 then 7 else 5) 0 s
  | some c => if fn.num ≠ 0 && c.fn ≠ fn.num then .now 5 0 s else f s fn c

theorem State.ctxCommand_eq (s : State) (cmd : Nat) (f : State → Func → Ctx → CmdOut) : s.ctxCommand cmd f = s.command cmd false (ctxOut f) :=
  rfl

theorem ctxOut_some {f : State → Func → Ctx → CmdOut} {s : State} {fn : Func} {c : Ctx} (hc : s.ctx? s.cmdCtx = some c)
    (hf : fn.num = 0 ∨ c.fn = fn.num) : ctxOut f s fn = f s fn c := by
  unfold ctxOut
  rw [hc]
  rcases hf with hf | hf <;> simp [hf]

theorem ctxOut_none {f : State → Func → Ctx → CmdOut} {s : State} {fn : Func} (hc : s.ctx? s.cmdCtx = none) (hf : fn.num = 0) :
    ctxOut f s fn = .now 7 0 s := by
  unfold ctxOut
  rw [hc, if_pos hf]

/-- An answer with a status and a result, and what it leaves. -/
theorem State.command_answers {s u : State} {fn : Func} {q : CmdRing} (h : s.commandAt fn q) {cmd st res : Nat} {only0 : Bool}
    {f : State → Func → CmdOut} (hc : s.cmdCode = 0 ∨ 0x16 < s.cmdCode ∨ s.cmdCode = cmd) (hf : s.cmdOut only0 f fn = .now st res u)
    (hl : u.link.pend = s.link.pend ∧ u.link.dma = s.link.dma) (hst : st < 256) (hres : res < 2 ^ 56) :
    ∃ t, s.command cmd only0 f = .next t ∧ t.link.pend = [] ∧ t.link.dma = s.link.dma ++ [(fn.num, s.arg 2, st + 256 * res)] ∧
      CommandEnds s u t fn q [(fn.num, s.arg 2, st + 256 * res)] [] := by
  obtain ⟨hp, hd⟩ := hl
  obtain ⟨t, e, ht⟩ := State.command_now h hc hf (hp.trans h.pend)
  rw [Nat.mod_eq_of_lt hst, Nat.mod_eq_of_lt hres] at ht
  exact ⟨t, e, by rw [ht.link], by rw [ht.link, ← hd], ht⟩

/-! Configuration (19 R437 to R448). -/

theorem CommandEnds.ctxs {s u t : State} {fn : Func} {q : CmdRing} {d : List (Nat × Nat × Nat)} {p : List PendCmd}
    (h : CommandEnds s u t fn q d p) : t.ctxs = u.ctxs := by rw [h.rest]
theorem CommandEnds.roll {s u t : State} {fn : Func} {q : CmdRing} {d : List (Nat × Nat × Nat)} {p : List PendCmd}
    (h : CommandEnds s u t fn q d p) : t.roll = u.roll := by rw [h.rest]
theorem CommandEnds.plat {s u t : State} {fn : Func} {q : CmdRing} {d : List (Nat × Nat × Nat)} {p : List PendCmd}
    (h : CommandEnds s u t fn q d p) : t.plat = u.plat := by rw [h.rest]
theorem CommandEnds.xcfg {s u t : State} {fn : Func} {q : CmdRing} {d : List (Nat × Nat × Nat)} {p : List PendCmd}
    (h : CommandEnds s u t fn q d p) : t.link.xcfg = u.link.xcfg := by rw [h.link]
theorem CommandEnds.ctx? {s u t : State} {fn : Func} {q : CmdRing} {d : List (Nat × Nat × Nat)} {p : List PendCmd}
    (h : CommandEnds s u t fn q d p) (n : Nat) : t.ctx? n = u.ctx? n := State.ctx?_of_ctxs h.ctxs n
/-- The functions keep their windows and quotas. -/
theorem CommandEnds.func? {s u t : State} {fn : Func} {q : CmdRing} {d : List (Nat × Nat × Nat)} {p : List PendCmd}
    (h : CommandEnds s u t fn q d p) (n : Nat) :
    t.func? n = (u.func? n).map (fun y => if y.num = fn.num then { y with rings := y.rings.map (CmdRing.taken q.num) } else y) := by
  unfold State.func?
  rw [h.link]
  exact find?_updWhere (fun y : Func => y.num) fn.num n (fun y => { y with rings := y.rings.map (CmdRing.taken q.num) }) (fun _ => rfl)
    u.link.funcs

theorem State.num_of_ctx? {s : State} {n : Nat} {c : Ctx} (h : s.ctx? n = some c) : c.num = n := by
  simpa using List.find?_some h

theorem State.xcfgOf_ctx (s : State) (n : Nat) : (s.xcfgOf n).ctx = n := by
  unfold State.xcfgOf State.xcfg?
  cases h : s.link.xcfg.find? (fun x => x.ctx == n) with
  | none => rfl
  | some x => simpa using List.find?_some h

theorem State.xcfgOf_setXcfg (s : State) {x : XCfg} {n : Nat} (h : x.ctx = n) : (s.setXcfg x).xcfgOf n = x := by
  subst h
  simp [State.setXcfg, State.xcfgOf, State.xcfg?]

theorem State.xcfgOf_of_xcfg {s t : State} (h : t.link.xcfg = s.link.xcfg) (n : Nat) : t.xcfgOf n = s.xcfgOf n := by
  unfold State.xcfgOf State.xcfg?; rw [h]

/-- What a configuration of the transport comes to. -/
def xOut (bad : State → Func → Bool) (f : State → XCfg → XCfg) (s : State) (fn : Func) (c : Ctx) : CmdOut :=
  if c.st == .running then .now 4 0 s else if bad s fn then .now 6 0 s else .now 0 0 (s.setXcfg (f s (s.xcfgOf c.num)))

theorem State.xCommand_eq (s : State) (cmd : Nat) (bad : State → Func → Bool) (f : State → XCfg → XCfg) :
    s.xCommand cmd bad f = s.ctxCommand cmd (xOut bad f) := rfl

theorem xOut_busy {bad : State → Func → Bool} {f : State → XCfg → XCfg} {s : State} {fn : Func} {c : Ctx} (h : c.st = .running) :
    xOut bad f s fn c = .now 4 0 s := by
  unfold xOut
  rw [h]
  rfl

theorem xOut_done {bad : State → Func → Bool} {f : State → XCfg → XCfg} {s : State} {fn : Func} {c : Ctx} (h : c.st ≠ .running)
    (hb : bad s fn = false) : xOut bad f s fn c = .now 0 0 (s.setXcfg (f s (s.xcfgOf c.num))) := by
  unfold xOut
  rw [if_neg (by simpa using h), hb]
  rfl

/-- The zeroing of a new congestion page changes memory alone. -/
theorem exec_cpagecfg {s t : State} (h : s.xCommand 0x0E (fun s fn => 8 ≤ s.arg 4 || s.arg 5 % 2 ^ 21 ≠ 0 || !fn.holds (s.arg 5) (2 ^ 21))
    (fun s x => { x with pages := (s.arg 4, s.arg 5, 0) :: x.pages.filter (fun r => r.1 != s.arg 4) }) = .next t) :
    ∃ t', exec .cpagecfg s = .next t' ∧ MemOnly t t' := by
  show ∃ t', execCpagecfg s = .next t' ∧ MemOnly t t'
  unfold execCpagecfg
  rw [h]
  exact ⟨_, rfl, MemOnly.foldl (fun t p => t.physWriteWords_memOnly _ _) _ t⟩

/-- Settles O48: each command comes to its status, and the state it leaves. -/
theorem configurationCommands : Obligations.ConfigurationCommands := by
  intro s fn ring hready hfn hring hne hpend Answers cmd a rs ps
  have hat : s.commandAt fn ring := ⟨hready, hfn, hring, hne, hpend⟩
  have answers : ∀ {i : Instr} {k st : Nat} {only0 : Bool} {f : State → Func → CmdOut} {u : State} {Q : State → Prop},
      exec i s = s.command k only0 f → (s.cmdCode = 0 ∨ 0x16 < s.cmdCode ∨ s.cmdCode = k) → s.cmdOut only0 f fn = .now st 0 u →
      u.link.pend = s.link.pend ∧ u.link.dma = s.link.dma → st < 256 →
      (∀ t, CommandEnds s u t fn ring [(fn.num, s.arg 2, st + 256 * 0)] [] → Q t) → Answers i st Q := by
    intro i k st only0 f u Q he hc hf hl hst hQ
    obtain ⟨t, e, hp, hd, ht⟩ := State.command_answers hat hc hf hl hst (by decide)
    exact ⟨t, he.trans e, hp, hd, hQ t ht⟩
  have sound : ∀ {k : Nat}, fieldAt (s.arg 3) 32 32 = 0 → cmd = k → 0 < k → k ≤ 0x16 → s.cmdSound = true := fun hr hk h0 h1 =>
    State.cmdSound_of hk h0 h1 hr
  refine ⟨fun hbad => ?_, fun hres hne0 => ?_, fun hres h0 => ?_, ?_⟩
  · have bad : ∀ {i : Instr} {k : Nat} {only0 : Bool} {f : State → Func → CmdOut}, exec i s = s.command k only0 f →
        (cmd = 0 ∨ 0x16 < cmd ∨ cmd = k) → Answers i 6 (fun t => t.ctxs = s.ctxs ∧ t.roll = s.roll ∧ t.plat = s.plat) := fun he hc =>
      answers he hc (State.cmdOut_unsound _ hbad) ⟨rfl, rfl⟩ (by decide) fun t ht => ⟨ht.ctxs, ht.roll, ht.plat⟩
    intro i hi hc
    simp only [List.mem_cons, List.not_mem_nil, or_false] at hi
    rcases hi with rfl | rfl
    · exact bad (i := .rcperiod) (Eq.refl (execRcperiod s)) hc
    · exact bad (i := .scrubperiod) (Eq.refl (execScrubperiod s)) hc
  · have denied : ∀ {i : Instr} {k : Nat} {f : State → Func → CmdOut}, exec i s = s.command k true f → cmd = k → 0 < k → k ≤ 0x16 →
        Answers i 5 (fun t => t.ctxs = s.ctxs ∧ t.roll = s.roll ∧ t.plat = s.plat) := fun he hk k0 k1 =>
      answers he (.inr (.inr hk)) (State.cmdOut_denied _ (sound hres hk k0 k1) hne0) ⟨rfl, rfl⟩ (by decide) fun t ht =>
        ⟨ht.ctxs, ht.roll, ht.plat⟩
    intro i hi hc
    simp only [List.mem_cons, List.not_mem_nil, or_false] at hi
    rcases hi with rfl | rfl | rfl | rfl | rfl | rfl
    · exact denied (i := .dbind) (Eq.refl (execDbind s)) hc (by decide) (by decide)
    · exact denied (i := .domain) (Eq.refl (execDomain s)) hc (by decide) (by decide)
    · exact denied (i := .rcperiod) (Eq.refl (execRcperiod s)) hc (by decide) (by decide)
    · exact denied (i := .scrubperiod) (Eq.refl (execScrubperiod s)) hc (by decide) (by decide)
    · exact denied (i := .ptpsrc) (Eq.refl (execPtpsrc s)) hc (by decide) (by decide)
    · exact denied (i := .funccfg) (Eq.refl (execFunccfg s)) hc (by decide) (by decide)
  · have own : ∀ {i : Instr} {k st : Nat} {only0 : Bool} {f : State → Func → CmdOut} {u : State} {Q : State → Prop},
        exec i s = s.command k only0 f → cmd = k → 0 < k → k ≤ 0x16 → f s fn = .now st 0 u →
        u.link.pend = s.link.pend ∧ u.link.dma = s.link.dma → st < 256 →
        (∀ t, CommandEnds s u t fn ring [(fn.num, s.arg 2, st + 256 * 0)] [] → Q t) → Answers i st Q := fun he hk k0 k1 hf =>
      answers he (.inr (.inr hk)) ((State.cmdOut_sound _ (sound hres hk k0 k1) (.inr h0)).trans hf)
    refine ⟨fun hk h => ?_, fun hk h1 h2 => ?_, fun hk h => ?_, fun hk h1 h2 => ?_, fun hk h => ?_, fun hk h1 h2 h3 h4 => ?_,
      fun hk h1 h2 h3 => ?_, fun q hk h1 h2 h3 h4 => ?_⟩
    · exact own (i := .rcperiod) (Eq.refl (execRcperiod s)) hk (by decide) (by decide) (if_pos (by simpa using h)) ⟨rfl, rfl⟩ (by decide) fun t ht => ht.roll
    · exact own (i := .rcperiod) (Eq.refl (execRcperiod s)) hk (by decide) (by decide)
        (if_neg (by simp only [Bool.or_eq_true, decide_eq_true_eq]; show ¬(a 4 = 0 ∨ 2000 < a 4); omega)) ⟨rfl, rfl⟩ (by decide)
        fun t ht => ht.roll
    · exact own (i := .scrubperiod) (Eq.refl (execScrubperiod s)) hk (by decide) (by decide) (if_pos (by simpa using h)) ⟨rfl, rfl⟩ (by decide) fun t ht => ht.plat
    · exact own (i := .scrubperiod) (Eq.refl (execScrubperiod s)) hk (by decide) (by decide)
        (if_neg (by simp only [Bool.or_eq_true, decide_eq_true_eq]; show ¬(a 4 = 0 ∨ 168 < a 4); omega)) ⟨rfl, rfl⟩ (by decide)
        fun t ht => ht.plat
    · obtain ⟨p, hp, hpn, hm⟩ := h
      have hany : s.link.ports.any (fun p => p.num == s.arg 4 && !p.mcl) = true :=
        List.any_eq_true.mpr ⟨p, hp, by simp [hm]; exact hpn⟩
      exact own (i := .ptpsrc) (Eq.refl (execPtpsrc s)) hk (by decide) (by decide) (if_neg (by simp [hany])) ⟨rfl, rfl⟩ (by decide) fun t ht => by
        rw [ht.link]; exact ⟨rfl, rfl⟩
    · let f : Func := { (s.func? (s.arg 4)).getD ⟨s.arg 4, 0, 0, 0, (List.range 8).map CmdRing.initial⟩ with
        base := s.arg 5, size := s.arg 6, quota := s.arg 7 }
      have hf : f.num = s.arg 4 := by
        show ((s.func? (s.arg 4)).getD _).num = _
        cases hx : s.func? (s.arg 4) with
        | none => rfl
        | some x => simpa using List.find?_some hx
      refine own (i := .funccfg) (Eq.refl (execFunccfg s)) hk (by decide) (by decide)
        (u := { s with link := { s.link with funcs := f :: s.link.funcs.filter (fun x => x.num != f.num) } })
        (if_neg (by
          simp only [Bool.or_eq_true, decide_eq_true_eq]
          show ¬(((65 ≤ a 4 ∨ 2 ^ 36 < a 6) ∨ memLimit < a 5 + a 6) ∨ 4095 < a 7)
          omega)) ⟨rfl, rfl⟩ (by decide) fun t ht => ?_
      have hfu : State.func? { s with link := { s.link with funcs := f :: s.link.funcs.filter (fun x => x.num != f.num) } } (a 4) = some f := by
        unfold State.func?
        exact List.find?_cons_of_pos (by simpa using hf)
      refine ⟨_, (ht.func? _).trans (congrArg _ hfu), ?_⟩
      dsimp only
      split <;> exact ⟨rfl, rfl, rfl⟩
    · have hrs : rs.any (fun r => decide (256 ≤ r.1) || decide (r.1 = s.arg 4) || r.2.isEmpty) = false := by
        refine List.any_eq_false.mpr fun r hr => ?_
        obtain ⟨k1, k2, k3⟩ := h2 r hr
        have k2' : ¬ r.1 = s.arg 4 := k2
        simp [k2', k3]
        omega
      have hnd : (rs.map (·.1)).dedup.length = rs.length := by rw [List.dedup_eq_self.mpr h3, List.length_map]
      have h1' : ¬ 256 ≤ s.arg 4 := by show ¬ 256 ≤ a 4; omega
      refine own (i := .domain) (Eq.refl (execDomain s)) hk (by decide) (by decide) (if_neg ?_) ⟨rfl, rfl⟩ (by decide) fun t ht => ?_
      · show ¬ (decide (256 ≤ s.arg 4) || rs.any _ || decide _) = true
        rw [hrs]
        simp only [h1', decide_false, Bool.or_self, Bool.false_or, decide_eq_true_eq]
        exact not_not.mpr hnd
      · rw [ht.link]; exact ⟨rfl, rfl⟩
    · have hps : ps.any (fun p => decide (256 ≤ p.1) || decide (p.2 = 0) || decide (4095 < p.2)) = false := by
        refine List.any_eq_false.mpr fun r hr => ?_
        obtain ⟨k1, k2, k3⟩ := h2 r hr
        simp
        omega
      have hnd : (ps.map (·.1)).dedup.length = ps.length := by rw [List.dedup_eq_self.mpr h3, List.length_map]
      obtain ⟨c, hc⟩ := Option.isSome_iff_exists.mp h4
      refine own (i := .dbind) (Eq.refl (execDbind s)) (u := s.modCtx q.2 (fun c => { c with domain := (ps.head?).map (·.2) })) hk (by decide)
        (by decide) ?_ ⟨rfl, rfl⟩ (by decide) fun t ht => ?_
      · show (match ps.find? (fun p => p.1 == s.link.domIndex) with | none => _ | some p => _) = _
        rw [h1]
        dsimp only
        rw [hps, hc, if_neg (by simp only [Bool.false_or, decide_eq_true_eq]; exact not_not.mpr hnd), if_neg (by simp)]
      · rw [ht.ctx?, State.ctx?_modCtx_same hc (fun c => { c with domain := (ps.head?).map (·.2) }) fun _ => rfl]
        rfl
  · intro c o hres hc hown hfc
    have one : ∀ {i : Instr} {k st : Nat} {f : State → Func → Ctx → CmdOut} {u : State} {Q : State → Prop},
        exec i s = s.ctxCommand k f → cmd = k → 0 < k → k ≤ 0x16 → f s fn c = .now st 0 u →
        u.link.pend = s.link.pend ∧ u.link.dma = s.link.dma → st < 256 →
        (∀ t, CommandEnds s u t fn ring [(fn.num, s.arg 2, st + 256 * 0)] [] → Q t) → Answers i st Q := fun he hk k0 k1 hf =>
      answers (he.trans (State.ctxCommand_eq s _ _)) (.inr (.inr hk))
        (((State.cmdOut_sound _ (sound hres hk k0 k1) (.inl rfl)).trans (ctxOut_some hc hown)).trans hf)
    have xone : ∀ {i : Instr} {k st : Nat} {bad : State → Func → Bool} {f : State → XCfg → XCfg} {u : State} {Q : State → Prop},
        exec i s = s.xCommand k bad f → cmd = k → 0 < k → k ≤ 0x16 → xOut bad f s fn c = .now st 0 u →
        u.link.pend = s.link.pend ∧ u.link.dma = s.link.dma → st < 256 →
        (∀ t, CommandEnds s u t fn ring [(fn.num, s.arg 2, st + 256 * 0)] [] → Q t) → Answers i st Q := fun he =>
      one (he.trans (State.xCommand_eq s _ _ _))
    have page : ∀ {st : Nat} {u : State} {Q : List XCfg → Prop}, cmd = 0x0E →
        xOut (fun s fn => 8 ≤ s.arg 4 || s.arg 5 % 2 ^ 21 ≠ 0 || !fn.holds (s.arg 5) (2 ^ 21))
          (fun s x => { x with pages := (s.arg 4, s.arg 5, 0) :: x.pages.filter (fun r => r.1 != s.arg 4) }) s fn c = .now st 0 u →
        u.link.pend = s.link.pend ∧ u.link.dma = s.link.dma → st < 256 → Q u.link.xcfg → Answers .cpagecfg st (fun t => Q t.link.xcfg) := by
      intro st u Q hk hf hl hst hQ
      obtain ⟨t, e, hp, hd, ht⟩ := State.command_answers hat (cmd := 0x0E) (res := 0) (only0 := false) (.inr (.inr hk))
        (((State.cmdOut_sound (ctxOut (xOut _ _)) (sound hres hk (by decide) (by decide)) (.inl rfl)).trans (ctxOut_some hc hown)).trans hf) hl
        hst (by decide)
      obtain ⟨t', e', ht'⟩ := exec_cpagecfg e
      exact ⟨t', e', by rw [ht'.link]; exact hp, by rw [ht'.link]; exact hd, by dsimp only; rw [ht'.link, ht.xcfg]; exact hQ⟩
    refine ⟨fun hrun => ?_, fun hrun => ⟨fun hk h1 h2 h3 h4 h5 h6 => ?_, fun hk h1 h2 => ?_, fun hk h1 h2 h3 => ?_, fun hk h1 h2 h3 => ?_⟩,
      fun hk h => ?_, fun hk h1 h2 h3 h4 h5 h6 h7 => ?_, fun hk h1 h2 h3 => ?_⟩
    · intro i hi hk
      simp only [List.mem_cons, List.not_mem_nil, or_false] at hi
      rcases hi with rfl | rfl | rfl | rfl
      · exact xone (i := .xqcfg) (Eq.refl (execXqcfg s)) hk (by decide) (by decide) (xOut_busy hrun) ⟨rfl, rfl⟩ (by decide) fun t ht => ht.xcfg
      · exact xone (i := .peercfg) (Eq.refl (execPeercfg s)) hk (by decide) (by decide) (xOut_busy hrun) ⟨rfl, rfl⟩ (by decide)
          fun t ht => ht.xcfg
      · exact xone (i := .landcfg) (Eq.refl (execLandcfg s)) hk (by decide) (by decide) (xOut_busy hrun) ⟨rfl, rfl⟩ (by decide)
          fun t ht => ht.xcfg
      · exact page (Q := fun x => x = s.link.xcfg) hk (xOut_busy hrun) ⟨rfl, rfl⟩ (by decide) rfl
    · refine xone (i := .xqcfg) (Eq.refl (execXqcfg s)) hk (by decide) (by decide) (xOut_done hrun ?_) ⟨rfl, rfl⟩ (by decide) fun t ht => ?_
      · simp only [Bool.or_eq_false_iff, decide_eq_false_iff_not, Bool.not_eq_false']
        exact ⟨⟨⟨⟨⟨Nat.not_le.mpr h1, not_not.mpr h2⟩, Nat.not_le.mpr h3⟩, h4⟩, Nat.not_lt.mpr h5⟩, Nat.not_lt.mpr h6⟩
      · rw [(State.xcfgOf_of_xcfg ht.xcfg c.num).trans (State.xcfgOf_setXcfg s (by exact State.xcfgOf_ctx s c.num))]
        exact List.mem_cons_self
    · refine xone (i := .peercfg) (Eq.refl (execPeercfg s)) hk (by decide) (by decide) (xOut_done hrun ?_) ⟨rfl, rfl⟩ (by decide) fun t ht => ?_
      · simp only [Bool.or_eq_false_iff, decide_eq_false_iff_not]
        exact ⟨Nat.not_lt.mpr h1, Nat.not_le.mpr h2⟩
      · rw [(State.xcfgOf_of_xcfg ht.xcfg c.num).trans (State.xcfgOf_setXcfg s (by exact State.xcfgOf_ctx s c.num))]
        exact ⟨rfl, rfl⟩
    · refine xone (i := .landcfg) (Eq.refl (execLandcfg s)) hk (by decide) (by decide) (xOut_done hrun ?_) ⟨rfl, rfl⟩ (by decide) fun t ht => ?_
      · simp only [Bool.or_eq_false_iff, decide_eq_false_iff_not]
        exact ⟨⟨Nat.not_lt.mpr h1, Nat.not_le.mpr h2⟩, Nat.not_le.mpr h3⟩
      · rw [(State.xcfgOf_of_xcfg ht.xcfg c.num).trans (State.xcfgOf_setXcfg s (by exact State.xcfgOf_ctx s c.num))]
        exact ⟨rfl, rfl, rfl⟩
    · refine page (Q := fun x => (a 4, a 5, 0) ∈ ((x.find? (fun y => y.ctx == c.num)).getD ⟨c.num, [], 0, 0, 0, 0, 0, []⟩).pages) hk
        (xOut_done hrun ?_) ⟨rfl, rfl⟩ (by decide) ?_
      · simp only [Bool.or_eq_false_iff, decide_eq_false_iff_not, Bool.not_eq_false']
        exact ⟨⟨Nat.not_le.mpr h1, not_not.mpr h2⟩, h3⟩
      · have e := State.xcfgOf_setXcfg s (x := { s.xcfgOf c.num with
            pages := (s.arg 4, s.arg 5, 0) :: (s.xcfgOf c.num).pages.filter (fun r => r.1 != s.arg 4) }) (State.xcfgOf_ctx s c.num)
        exact (congrArg (fun x => (a 4, a 5, 0) ∈ XCfg.pages x) e).mpr List.mem_cons_self
    · refine one (i := .lqcfg) (Eq.refl (execLqcfg s)) hk (by decide) (by decide) (if_pos ?_) ⟨rfl, rfl⟩ (by decide) fun t ht => ht.ctxs
      simp only [Bool.or_eq_true, decide_eq_true_eq, Bool.not_eq_true']
      rcases h with h | h | h | h | h
      · exact .inl (.inl (.inl (.inl (.inl (.inl h)))))
      · exact .inl (.inl (.inl (.inl (.inl (.inr h)))))
      · exact .inl (.inl (.inl (.inl (.inr h))))
      · exact .inl (.inl (.inl (.inr h)))
      · exact .inl (.inl (.inr h))
    · have hok : ¬ (decide (16 ≤ s.arg 4) || decide (4 ≤ s.arg 5) || !isPow2 (s.arg 7) || decide (s.arg 7 < 16) || decide (4096 < s.arg 7) ||
          decide (s.arg 6 % 16 ≠ 0) || !(s.func? c.fn).any (fun f => f.holds (s.arg 6) (16 * s.arg 7))) = true := by
        rw [Bool.not_eq_true]
        simp only [Bool.or_eq_false_iff, decide_eq_false_iff_not, Bool.not_eq_false', hfc, Option.any_some]
        exact ⟨⟨⟨⟨⟨⟨Nat.not_le.mpr h1, Nat.not_le.mpr h2⟩, h3⟩, Nat.not_lt.mpr h4⟩, Nat.not_lt.mpr h5⟩, not_not.mpr h6⟩, h7⟩
      refine ⟨fun ⟨q, hq, hn, ht⟩ => ?_, fun hall => ?_⟩
      · have hb : c.queues.any (fun x => x.num == s.arg 4 && x.taken != x.written) = true :=
          List.any_eq_true.mpr ⟨q, hq, by simp only [Bool.and_eq_true, beq_iff_eq, bne_iff_ne]; exact ⟨hn, ht⟩⟩
        exact one (i := .lqcfg) (Eq.refl (execLqcfg s)) hk (by decide) (by decide) ((if_neg hok).trans (if_pos hb)) ⟨rfl, rfl⟩ (by decide)
          fun t ht => ht.ctxs
      · have hb : ¬ c.queues.any (fun x => x.num == s.arg 4 && x.taken != x.written) = true := by
          intro he
          obtain ⟨q, hq, h⟩ := List.any_eq_true.mp he
          simp only [Bool.and_eq_true, beq_iff_eq, bne_iff_ne] at h
          exact h.2 (hall q hq h.1)
        refine one (i := .lqcfg) (Eq.refl (execLqcfg s)) hk (by decide) (by decide) ((if_neg hok).trans (if_neg hb)) ⟨rfl, rfl⟩ (by decide)
          fun t ht => ?_
        rw [ht.ctx?]
        have hnum := State.num_of_ctx? hc
        rw [hnum]
        exact ⟨_, State.ctx?_modCtx_same hc _ fun _ => rfl, rfl⟩
    · refine one (i := .ttcfg) (Eq.refl (execTtcfg s)) hk (by decide) (by decide) (if_neg ?_) ⟨rfl, rfl⟩ (by decide) fun t ht => ?_
      · rw [Bool.not_eq_true]
        simp only [Bool.or_eq_false_iff, decide_eq_false_iff_not, Bool.not_eq_false', hfc, Option.any_some]
        exact ⟨⟨Nat.not_lt.mpr h1, not_not.mpr h2⟩, h3⟩
      · rw [ht.ctx?, State.num_of_ctx? hc]
        exact ⟨_, State.ctx?_modCtx_same hc _ fun _ => rfl, rfl, rfl, rfl⟩

end Sys2Proof.Machine
end

section
/-!
SETTLED. The life of a context: what a fault, a kill and a pre-emption leave, and the host commands that move it.
-/

namespace Sys2Proof.Machine

open Sys2Proof

/-! Breaks, drops and kills (07 R190, 10 R248, R273). -/

theorem State.breakWords_memOnly (s : State) (n : Nat) : MemOnly s (s.breakWords n) := by
  unfold State.breakWords
  refine MemOnly.foldl (fun s x => ?_) _ s
  dsimp only
  split
  · exact .refl s
  · split
    · exact .refl s
    · exact (MemOnly.modPad s _ _ _).trans (.fireWatches _ _ _)

/-- Nothing but the barrier engines has changed. -/
def BarsOnly (s t : State) : Prop := t = { s with bars := t.bars }

theorem BarsOnly.foldl {α : Type} {f : State → α → State} (hf : ∀ s a, BarsOnly s (f s a)) (l : List α) (s : State) :
    BarsOnly s (l.foldl f s) := by
  induction l generalizing s with
  | nil => exact rfl
  | cons a r ih =>
    have h1 := hf s a
    have h2 := ih (f s a)
    unfold BarsOnly at h1 h2 ⊢
    rw [List.foldl_cons]
    generalize List.foldl f (f s a) r = t at h2
    rw [h2, h1]

theorem State.barxBreak_barsOnly (s : State) (i : BarxInst) : BarsOnly s (s.barxBreak i false) := by
  have h : BarsOnly (s.dropInst i) ((s.dropInst i).forwardBreak i) :=
    BarsOnly.foldl (fun s p => by unfold State.sendNotice; split <;> exact rfl) (i.partners.zipIdx) (s.dropInst i)
  unfold BarsOnly at h ⊢
  unfold State.barxBreak
  generalize (s.dropInst i).forwardBreak i = u at h
  show u.dropStale = { s with bars := u.dropStale.bars }
  unfold State.dropStale
  dsimp only
  generalize u.bars.held.filter _ = hs
  rw [h]
  rfl

theorem State.breakInsts_barsOnly (s : State) (n : Nat) : BarsOnly s (s.breakInsts n) :=
  BarsOnly.foldl (fun s i => State.barxBreak_barsOnly s i) _ s

/-- Besides the work that it drops, a fault leaves all that the breaks leave. -/
theorem State.dropWork_rest (s : State) (n : Nat) :
    (s.dropWork n).plat = s.plat ∧ (s.dropWork n).clk = s.clk ∧ (s.dropWork n).link.pend = s.link.pend ∧
      (s.dropWork n).link.dma = s.link.dma ∧ (s.dropWork n).ctxs = s.ctxs := by
  have h1 := State.breakWords_memOnly s n
  have h2 := State.breakInsts_barsOnly (s.breakWords n) n
  unfold BarsOnly at h2
  have hp : ((s.breakWords n).breakInsts n).plat = s.plat := by rw [h2]; exact h1.plat
  have hc : ((s.breakWords n).breakInsts n).clk = s.clk := by rw [h2]; exact h1.clk
  have hl : ((s.breakWords n).breakInsts n).link = s.link := by rw [h2]; exact h1.link
  have hx : ((s.breakWords n).breakInsts n).ctxs = s.ctxs := by rw [h2]; exact h1.ctxs
  unfold State.dropWork
  generalize (s.breakWords n).breakInsts n = u at hp hc hl hx
  dsimp only
  exact ⟨hp, hc, congrArg Link.pend hl, congrArg Link.dma hl, hx⟩

/-- What a fault drops of a context. -/
theorem State.dropWork_drops (s : State) (n : Nat) :
    (∀ g ∈ (s.dropWork n).groups, g.ctx = n → g.mmas = []) ∧ (∀ x ∈ (s.dropWork n).eng.copies, x.ctx ≠ n) ∧
      (∀ x ∈ (s.dropWork n).eng.inbox, x.ctx ≠ n) ∧ (∀ x ∈ (s.dropWork n).jobs, x.ctx ≠ n) ∧ ∀ x ∈ (s.dropWork n).rings, x.ctx ≠ n := by
  unfold State.dropWork
  generalize (s.breakWords n).breakInsts n = u
  refine ⟨fun g hg hn => ?_, fun x hx => ?_, fun x hx => ?_, fun x hx => ?_, fun x hx => ?_⟩
  · obtain ⟨g0, -, rfl⟩ := List.mem_map.mp hg
    split
    · rfl
    · rename_i h
      rw [if_neg h] at hn
      simp [hn] at h
  all_goals exact bne_iff_ne.mp (List.mem_filter.mp hx).2

theorem State.abortLoad_memOnly (s : State) (n : Nat) (o : KObj) : MemOnly s (s.abortLoad n o) := by
  unfold State.abortLoad
  dsimp only
  have h := State.engRead_memOnly s ⟨n, true, s.latest, ⟨0, 0⟩⟩ (.glob (o.image + 24)) 8
  split
  · rename_i hr
    rw [hr] at h
    exact h.trans (MemOnly.foldl (fun s x => State.engWrite_memOnly s _ _ _) _ _)
  · rename_i hr
    rw [hr] at h
    exact h

/-- The end of a context's loads: its unfinished objects go, and the commands that waited for them end. -/
theorem State.abortLoads_spec {s : State} {n : Nat} {c : Ctx} (hc : s.ctx? n = some c) :
    ∃ u, MemOnly s u ∧ (s.abortLoads n).ctx? n = some { c with objs := c.objs.filter (fun o => o.st != 0) } ∧
      (s.abortLoads n) = { u with link := (s.abortLoads n).link, ctxs := (s.abortLoads n).ctxs } ∧
      (s.abortLoads n).link.dma = s.link.dma ∧ (s.link.pend = [] → (s.abortLoads n).link.pend = []) := by
  have h : MemOnly s ((c.objs.filter (fun o => o.st == 0)).foldl (fun s o => s.abortLoad n o) s) :=
    MemOnly.foldl (fun s o => State.abortLoad_memOnly s n o) _ s
  unfold State.abortLoads
  rw [hc]
  dsimp only
  generalize (c.objs.filter (fun o => o.st == 0)).foldl (fun s o => s.abortLoad n o) s = u at h
  have hu : u.ctx? n = some c := (h.ctx? n).trans hc
  have hd := congrArg Link.dma h.link
  refine ⟨u, h, State.ctx?_modCtx_same (s := { u with link := _ }) hu _ fun _ => rfl, rfl, hd, fun hp => ?_⟩
  show u.link.pend.map _ = []
  rw [h.link, hp]
  rfl

/-- A killed context: its groups, classes, records and jobs are gone, and no command has ended but loads. -/
theorem State.killCtx_drops {s : State} {n : Nat} {c : Ctx} (hc : s.ctx? n = some c) (hp : s.link.pend = []) :
    (s.killCtx n).link.pend = [] ∧ (s.killCtx n).link.dma = s.link.dma ∧ (∀ g ∈ (s.killCtx n).groups, g.ctx ≠ n) ∧
      (∀ k ∈ (s.killCtx n).classes, k.ctx ≠ n) ∧ (∀ x ∈ (s.killCtx n).eng.inbox, x.ctx ≠ n) ∧ ∀ j ∈ (s.killCtx n).jobs, j.ctx ≠ n := by
  obtain ⟨u, -, -, -, hd, hpend⟩ := State.abortLoads_spec hc
  have hpend := hpend hp
  unfold State.killCtx
  dsimp only
  generalize s.abortLoads n = v at hd hpend
  obtain ⟨-, -, k1, k2, -⟩ := State.dropWork_rest v n
  obtain ⟨-, -, k3, k4, -⟩ := State.dropWork_drops v n
  generalize v.dropWork n = w at k1 k2 k3 k4
  exact ⟨k1.trans hpend, k2.trans hd, fun g hg => bne_iff_ne.mp (List.mem_filter.mp hg).2,
    fun k hk => bne_iff_ne.mp (List.mem_filter.mp hk).2, k3, k4⟩

/-- An accepted pre-emption: the context is to stop at its boundary. -/
theorem State.requestPreempt_spec {s : State} {n : Nat} {c : Ctx} (hc : s.ctx? n = some c) (hst : c.st = .running ∨ c.st = .resident)
    (hv : c.viol = false) :
    (∃ c', (s.requestPreempt n).ctx? n = some c' ∧ c'.st = .preempting ∧ c'.stopAt = some s.clk ∧ c'.boundary = false) ∧
      (s.requestPreempt n).link.dma = s.link.dma ∧ (s.link.pend = [] → (s.requestPreempt n).link.pend = []) := by
  obtain ⟨u, -, hcx, -, hd, hpend⟩ := State.abortLoads_spec hc
  have ha : (s.ctx? n).any (fun x => (x.st == .running || x.st == .resident) && !x.viol) = true := by
    rw [hc]; rcases hst with h | h <;> simp [h, hv]
  unfold State.requestPreempt
  dsimp only
  rw [ha]
  exact ⟨⟨_, State.ctx?_modCtx_same hcx _ fun x => by split <;> rfl, rfl, rfl, rfl⟩, hd, hpend⟩

/-! Shells (10 R267 to R271). -/

/-- Reads and writes carried along with a result. -/
theorem MemOnly.foldl_snd {α β : Type} {f : β × State → α → β × State} (hf : ∀ a x, MemOnly a.2 (f a x).2) (l : List α) (a : β × State) :
    MemOnly a.2 (l.foldl f a).2 := by
  induction l generalizing a with
  | nil => exact .refl _
  | cons x r ih => exact (hf a x).trans (ih (f a x))

/-- What a read leaves, where its result is taken apart. -/
theorem MemOnly.of_eq {β : Type} {s t : State} {r : β × State} {b : β} (h : MemOnly s r.2) (e : r = (b, t)) : MemOnly s t := by
  rw [e] at h; exact h

theorem State.shellBytes_memOnly (s : State) (shell n : Nat) : MemOnly s (s.shellBytes shell n).2 := by
  unfold State.shellBytes
  split
  next h1 =>
    split
    next h2 =>
      split
      next h3 =>
        refine (((s.physRead_memOnly _ _).of_eq h1).trans ((State.physRead_memOnly _ _ _).of_eq h2)).trans
          (((State.physRead_memOnly _ _ _).of_eq h3).trans (MemOnly.foldl_snd (fun a i => ?_) (List.range n) ([], _)))
        split
        next k1 =>
          split
          next k2 => exact ((State.physRead_memOnly _ _ _).of_eq k1).trans ((State.physRead_memOnly _ _ _).of_eq k2)

theorem State.writeHeader_memOnly (s : State) (c : Ctx) (reason n : Nat) : MemOnly s (s.writeHeader c reason n) :=
  ((State.physWriteWords_memOnly _ _ _).trans (State.shellBytes_memOnly _ _ _)).trans (State.physWrite_memOnly _ _ _)

theorem State.writeSection_memOnly (s : State) (pa : Nat) : MemOnly s (s.writeSection pa) := by
  have h : MemOnly s s.free.2 := ⟨rfl, rfl, rfl⟩
  have k : MemOnly s (s.free.2.physWriteWords pa (BitVec.ofNat 64 s.plat.dtVersion ::
    (List.range 7).map (fun i => BitVec.ofNat 64 (Config.freeValue (s.free.1 + i))))) := h.trans (State.physWriteWords_memOnly _ _ _)
  unfold State.writeSection
  dsimp only
  generalize State.physWriteWords _ _ _ = u at k
  exact k.trans ⟨rfl, rfl, rfl⟩

theorem State.writeShell_memOnly (s : State) (c : Ctx) (gs : List Group) (reason : Nat) : MemOnly s (s.writeShell c gs reason) :=
  ((MemOnly.foldl (fun s x => State.physWriteWords_memOnly s _ _) _ s).trans (State.writeSection_memOnly _ _)).trans
    (State.writeHeader_memOnly _ _ _ _)

theorem State.shellZeros_memOnly (s : State) (shell n : Nat) : MemOnly s (s.shellZeros shell n).2 := by
  unfold State.shellZeros
  split
  next h1 =>
    split
    next h2 =>
      refine (((s.physRead_memOnly _ _).of_eq h1).trans ((State.physRead_memOnly _ _ _).of_eq h2)).trans
        (MemOnly.foldl_snd (fun a i => ?_) (List.range n) (_, _))
      split
      next k => exact (State.physRead_memOnly _ _ _).of_eq k

theorem State.shellValid_memOnly (s : State) (c : Ctx) (sv : Saved) : MemOnly s (s.shellValid c sv).2 := by
  unfold State.shellValid
  dsimp only
  exact ((((State.physRead_memOnly s _ _).trans (State.physRead_memOnly _ _ _)).trans (State.shellBytes_memOnly _ _ _)).trans
    (State.physRead_memOnly _ _ _)).trans (State.shellZeros_memOnly _ _ _)

theorem State.readThreads_memOnly (s : State) (shell : Nat) (gs : List Group) : MemOnly s (s.readThreads shell gs).2 := by
  unfold State.readThreads
  refine MemOnly.foldl_snd (fun a x => ?_) _ (gs, s)
  dsimp only
  exact State.physReadWords_memOnly _ _ _

/-- A restore that begins: the context is resident, with its classes still to be placed. -/
theorem State.beginRestore_spec {s : State} {n : Nat} {c : Ctx} (hc : s.ctx? n = some c) (hn : c.num = n) (sv : Saved) :
    (∃ c', (s.beginRestore c sv).ctx? n = some c' ∧ c'.st = .resident ∧ c'.saved ≠ none) ∧ (s.beginRestore c sv).link = s.link := by
  have h := State.readThreads_memOnly s c.desc.shell (startOrder sv.groups)
  unfold State.beginRestore
  generalize s.readThreads c.desc.shell (startOrder sv.groups) = r at h
  obtain ⟨gs, s1⟩ := r
  have hx : s1.ctx? n = some c := (h.ctx? n).trans hc
  have hl := h.link
  subst hn
  refine ⟨⟨_, State.ctx?_modCtx_same (s := { s1 with nextId := _, bars := _, rings := _, eng := _, jobs := _ }) hx _ fun _ => rfl, rfl,
    Option.some_ne_none _⟩, hl⟩

/-! The steps of a context's life (10 R248, R259, R265, R266, R273). -/

theorem foldl_preserves {α β : Type} (φ : State → β) {f : State → α → State} (hf : ∀ s a, φ (f s a) = φ s) (l : List α) (s : State) :
    φ (l.foldl f s) = φ s := by
  induction l generalizing s with
  | nil => rfl
  | cons a r ih => exact (ih (f s a)).trans (hf s a)

/-- A group at its boundary is frozen, and the groups' numbers and contexts stay. -/
theorem State.groupAtBoundary_groups (s : State) (g : Group) :
    ∀ x ∈ (s.groupAtBoundary g).groups, ∃ y ∈ s.groups, x.gid = y.gid ∧ x.ctx = y.ctx ∧ (y.frozen = true ∨ y.gid = g.gid → x.frozen = true) := by
  have key : ∀ u : State, u.groups = s.groups → ∀ f : Group → Group,
      (∀ y, (f y).gid = y.gid ∧ (f y).ctx = y.ctx ∧ (f y).frozen = true) → ∀ x ∈ (u.modGroup g.gid f).groups,
      ∃ y ∈ s.groups, x.gid = y.gid ∧ x.ctx = y.ctx ∧ (y.frozen = true ∨ y.gid = g.gid → x.frozen = true) := by
    intro u hu f hf x hx
    obtain ⟨y, hy, rfl⟩ := List.mem_map.mp hx
    refine ⟨y, hu ▸ hy, ?_⟩
    split
    · exact ⟨(hf y).1, (hf y).2.1, fun _ => (hf y).2.2⟩
    · rename_i h
      exact ⟨rfl, rfl, fun hc => hc.resolve_right fun e => h (by simp [e])⟩
  have hq : ∀ n, (s.quietCounts g n).groups = s.groups := by
    intro n
    unfold State.quietCounts
    dsimp only
    split
    · split
      · split <;> rfl
      · rfl
    · split
      · exact foldl_preserves State.groups (f := fun s i => s.count g.ctx (g.lane i).origin.job (cniOf g.site) 0 n) (fun _ _ => rfl) _ s
      · split <;> rfl
  unfold State.groupAtBoundary
  dsimp only
  split
  · exact key _ (hq _) _ fun _ => ⟨rfl, rfl, rfl⟩
  · exact key _ rfl _ fun _ => ⟨rfl, rfl, rfl⟩

theorem State.groupAtBoundary_ctxs (s : State) (g : Group) : (s.groupAtBoundary g).ctxs = s.ctxs := by
  have hq : ∀ n, (s.quietCounts g n).ctxs = s.ctxs := by
    intro n
    unfold State.quietCounts
    dsimp only
    split
    · split
      · split <;> rfl
      · rfl
    · split
      · exact foldl_preserves State.ctxs (f := fun s i => s.count g.ctx (g.lane i).origin.job (cniOf g.site) 0 n) (fun _ _ => rfl) _ s
      · split <;> rfl
  unfold State.groupAtBoundary
  dsimp only
  split
  · exact hq _
  · rfl

/-- Every group of the list, and every group frozen before, is frozen at the end. -/
theorem State.groupsAtBoundary (l : List Group) (s : State) :
    ∀ x ∈ (l.foldl (fun s g => s.groupAtBoundary g) s).groups, ∃ y ∈ s.groups, x.gid = y.gid ∧ x.ctx = y.ctx ∧
      (y.frozen = true ∨ (∃ g ∈ l, y.gid = g.gid) → x.frozen = true) := by
  induction l generalizing s with
  | nil => exact fun x hx => ⟨x, hx, rfl, rfl, fun h => h.elim id fun ⟨_, h, _⟩ => by cases h⟩
  | cons g r ih =>
    intro x hx
    obtain ⟨y, hy, h1, h2, h3⟩ := ih (s.groupAtBoundary g) x hx
    obtain ⟨z, hz, k1, k2, k3⟩ := State.groupAtBoundary_groups s g y hy
    refine ⟨z, hz, h1.trans k1, h2.trans k2, fun h => h3 ?_⟩
    rcases h with h | ⟨g', hg', e⟩
    · exact .inl (k3 (.inl h))
    · rcases List.mem_cons.mp hg' with rfl | hr
      · exact .inl (k3 (.inr e))
      · exact .inr ⟨g', hr, k1.trans e⟩

/-- The contexts' numbers stay. -/
def SameCtxNums (s t : State) : Prop := t.ctxs.map (·.num) = s.ctxs.map (·.num)

theorem SameCtxNums.ctx? {s t : State} (h : SameCtxNums s t) {n : Nat} (hs : (s.ctx? n).isSome = true) : (t.ctx? n).isSome = true := by
  have key : ∀ u : State, (u.ctx? n).isSome = (u.ctxs.map (·.num)).any (· == n) := fun u => by
    rw [Bool.eq_iff_iff]
    simp [State.ctx?, List.find?_isSome]
  rw [key] at hs ⊢
  rw [h]
  exact hs

theorem sameCtxNums_modCtx (s : State) (n : Nat) (f : Ctx → Ctx) (hf : ∀ c, (f c).num = c.num) : SameCtxNums s (s.modCtx n f) := by
  refine (List.map_map ..).trans (List.map_congr_left fun c _ => ?_)
  simp only [Function.comp_apply]
  split
  · exact hf c
  · rfl

theorem State.abandonPlacement_ctxNums (s : State) (k : Klass) (n : Nat) : SameCtxNums s (s.abandonPlacement k n) := by
  have h0 : (k.moves.foldl (fun s mv => s.stopBoundary k.site mv n) s).ctxs = s.ctxs := foldl_preserves State.ctxs
    (f := fun s mv => s.stopBoundary k.site mv n) (fun _ _ => rfl) k.moves s
  unfold State.abandonPlacement
  dsimp only
  generalize k.moves.foldl (fun s mv => s.stopBoundary k.site mv n) s = u at h0
  have base : ∀ (v : State) (c : Nat) (f : Ctx → Ctx), v.ctxs = u.ctxs → (∀ c, (f c).num = c.num) → SameCtxNums s (v.modCtx c f) := by
    intro v c f hv hf
    refine (sameCtxNums_modCtx v c f hf).trans ?_
    rw [hv, h0]
  split
  · exact base _ _ _ rfl fun _ => rfl
  · split
    · exact base _ _ _ rfl fun _ => rfl
    · exact congrArg (List.map (·.num)) h0

theorem sameCtxNums_foldl {α : Type} {f : State → α → State} (hf : ∀ s a, SameCtxNums s (f s a)) (l : List α) (s : State) :
    SameCtxNums s (l.foldl f s) :=
  foldl_preserves (β := List Nat) (fun s : State => s.ctxs.map Ctx.num) hf l s

/-- What is left of the machine when the shell of a context is complete: its resources are free. -/
def State.savedAway (u : State) (n : Nat) : State :=
  let s1 := (u.freePlaces n).dropBars n
  { s1 with
    eng := { s1.eng with
      inbox := s1.eng.inbox.filter (fun r => r.ctx != n), front := s1.eng.front.filter (fun r => r.ctx != n),
      trays := updWhere (fun t => t.ctx == n) (fun t => t.freeze s1.clk) s1.eng.trays },
    rings := updWhere (fun r => r.ctx == n) (fun r => r.dwell s1.clk) s1.rings,
    jobs := updWhere (fun j => j.ctx == n) Job.stir s1.jobs,
    banks := s1.banks.filter (fun b => b.ctx != n), units := s1.units.filter (fun u => u.ctx != n) }

/-- Settles O46: each step's effect on the context, with what the work dropped leaves. -/
theorem lifeSteps : Obligations.LifeSteps := by
  intro s c hc After
  have hnum := State.num_of_ctx? hc
  refine ⟨fun hst hv hs hw => ?_, fun hv hst => ?_, fun hs hb hr => ?_, fun n hs hb hle => ⟨fun hst hd hdl => ?_, fun hst => ?_⟩,
    fun n hs hst hdl => ?_, fun hst => ?_, fun x q g d hx hu hsince hg hsite hctx harg hst hv => ?_⟩
  · refine ⟨s.modCtx (s.arg 0) (fun x => { x with st := .resident }), _, ?_, State.ctx?_modCtx_same hc _ fun _ => rfl, rfl, rfl⟩
    show execContextIdle s = _
    unfold execContextIdle
    rw [hnum] at hw
    simp [hc, hst, hv, hs, hw]
  · obtain ⟨-, -, -, -, hcx⟩ := State.dropWork_rest s (s.arg 0)
    obtain ⟨k1, k2, k3, k4, k5⟩ := State.dropWork_drops s (s.arg 0)
    let f (x : Ctx) : Ctx := { x with
      st := .faulted, viol := false, stopAt := some (x.stopAt.getD s.clk), efs := [], saved := x.saved.map Saved.shellOnly, launches := [] }
    have e : exec .violation s = .next ((s.dropWork (s.arg 0)).modCtx (s.arg 0) f) := by
      show execViolation s = _
      unfold execViolation
      rcases hst with h | h | h <;> simp only [hc, hv, h] <;> rfl
    generalize s.dropWork (s.arg 0) = u at *
    rw [hnum]
    exact ⟨_, f c, e, State.ctx?_modCtx_same ((State.ctx?_of_ctxs hcx _).trans hc) f fun _ => rfl, rfl, rfl, rfl, rfl, rfl, rfl, rfl, rfl,
      k1, k2, k3, k4, k5⟩
  · let s1 := (s.classes.filter (fun k => k.ctx == s.arg 0 && s.groups.any (fun g => g.cls == k.kid && !g.started))).foldl
      (fun s k => s.abandonPlacement k (s.arg 1)) s
    let gs := s1.groups.filter (fun g => g.ctx == s.arg 0)
    obtain ⟨c1, hc1⟩ := Option.isSome_iff_exists.mp ((sameCtxNums_foldl (fun s k => s.abandonPlacement_ctxNums k (s.arg 1)) _ s).ctx?
      (t := s1) (n := s.arg 0) (by rw [hc]; rfl))
    have hfrozen := State.groupsAtBoundary gs s1
    have hc2 := (State.ctx?_of_ctxs (foldl_preserves State.ctxs State.groupAtBoundary_ctxs gs s1) (s.arg 0)).trans hc1
    have e : exec .preemptBoundary s = .next (((if c.st == .faulted then
        let s2 := gs.foldl (fun s g => s.groupAtBoundary g) s1
        { s2 with eng := { s2.eng with inbox := s2.eng.inbox.filter (fun r => r.ctx != s.arg 0) } }
        else gs.foldl (fun s g => s.groupAtBoundary g) s1)).beginSave (s.arg 0)) := by
      show execPreemptBoundary s = _
      unfold execPreemptBoundary
      rw [hnum] at hr
      simp only [hc, hb, hr]
      rw [if_neg (by simpa [Option.isSome_iff_ne_none] using hs)]
    have ends : ∀ {u : State}, exec .preemptBoundary s = .next (u.beginSave (s.arg 0)) → u.ctx? (s.arg 0) = some c1 →
        u.groups = (gs.foldl (fun s g => s.groupAtBoundary g) s1).groups →
        After .preemptBoundary (fun t c' => c'.boundary = true ∧ ∀ g ∈ t.groups, g.ctx = c.num → g.frozen = true) := by
      intro u he hu hg
      refine ⟨_, _, he, State.ctx?_modCtx_same hu _ fun _ => rfl, rfl, fun x hx hxc => ?_⟩
      obtain ⟨y, hy, h1, h2, h3⟩ := hfrozen x (hg ▸ hx)
      refine h3 (.inr ⟨y, List.mem_filter.mpr ⟨hy, ?_⟩, rfl⟩)
      rw [← h2, hxc, hnum]
      exact beq_self_eq_true _
    cases hf : c.st == .faulted with
    | true =>
      rw [hf, if_pos rfl] at e
      exact ends e hc2 rfl
    | false =>
      rw [hf, if_neg (by decide)] at e
      exact ends e hc2 rfl
  · have hd' : (!s.plat.displaced.contains (s.arg 0)) = true := by rw [← hnum, hd]; rfl
    have hm := (State.writeShell_memOnly s c (s.savedOf c).groups 1)
    have hdl' : ¬ c.saveDeadline n < s.clk := Nat.not_lt.mpr hdl
    have hle' : (!c.boundary || decide (s.clk < c.stallEnd)) = false := by simp [hb, hle]
    have hx := (hm.ctx? (s.arg 0)).trans hc
    rw [hnum]
    let f (x : Ctx) : Ctx := { x with
      st := .saved, stopAt := none, boundary := false, clflags := [], saved := some (s.savedOf c) }
    have e : exec .shellComplete s = .next (((s.writeShell c (s.savedOf c).groups 1).savedAway (s.arg 0)).modCtx (s.arg 0) f) := by
      show execShellComplete s = _
      unfold execShellComplete
      simp only [hc, hs, hle', hst, hd']
      rw [if_neg (by decide), if_pos (by decide), if_neg hdl']
      rfl
    generalize s.writeShell c _ 1 = u at hx e
    exact ⟨_, f c, e, State.ctx?_modCtx_same (s := u.savedAway (s.arg 0)) hx f fun _ => rfl, rfl, rfl,
      fun g hg => bne_iff_ne.mp (List.mem_filter.mp hg).2, fun k hk => bne_iff_ne.mp (List.mem_filter.mp hk).2, rfl, rfl⟩
  · have hm := (State.writeShell_memOnly s c ((c.saved.getD .none_).groups ++ s.groups.filter (fun g => g.ctx == s.arg 0)) 2)
    have hle' : (!c.boundary || decide (s.clk < c.stallEnd)) = false := by simp [hb, hle]
    have hx := (hm.ctx? (s.arg 0)).trans hc
    let f (x : Ctx) : Ctx := { x with
      stopAt := none, boundary := false, saved := some { Saved.none_ with
        groups := (c.saved.getD .none_).groups ++ s.groups.filter (fun g => g.ctx == s.arg 0) } }
    have e : exec .shellComplete s = .next (((s.writeShell c ((c.saved.getD .none_).groups ++ s.groups.filter (fun g => g.ctx == s.arg 0))
        2).freePlaces (s.arg 0)).modCtx (s.arg 0) f) := by
      show execShellComplete s = _
      unfold execShellComplete
      simp only [hc, hs, hle', hst]
      rfl
    generalize s.writeShell c _ 2 = u at hx e
    rw [hnum]
    exact ⟨_, f c, e, State.ctx?_modCtx_same (s := u.freePlaces (s.arg 0)) hx f fun _ => rfl, hst, rfl,
      fun g hg => bne_iff_ne.mp (List.mem_filter.mp hg).2, fun k hk => bne_iff_ne.mp (List.mem_filter.mp hk).2⟩
  · obtain ⟨-, -, -, -, hcx⟩ := State.dropWork_rest s (s.arg 0)
    obtain ⟨-, -, k3, -, -⟩ := State.dropWork_drops s (s.arg 0)
    let f (x : Ctx) : Ctx := { x with
      st := .faulted, efs := [], saved := x.saved.map Saved.shellOnly, launches := [], faultCause := 0xFF, faultSub := 0, faultMaster := 0, faultAddr := 0, faultSite := 0 }
    have e : exec .saveDeadline s = .next ((s.dropWork (s.arg 0)).modCtx (s.arg 0) f) := by
      show execSaveDeadline s = _
      unfold execSaveDeadline
      have hlt : ¬ s.clk ≤ c.saveDeadline n := Nat.not_le.mpr hdl
      simp only [hc, hs, hst, hlt]
      rfl
    generalize s.dropWork (s.arg 0) = u at *
    rw [hnum]
    exact ⟨_, f c, e, State.ctx?_modCtx_same ((State.ctx?_of_ctxs hcx _).trans hc) f fun _ => rfl, rfl, rfl, rfl, rfl, rfl, k3⟩
  · have e : exec .killDiscardComplete s = _ := show execKillDiscardComplete s = _ from by
      unfold execKillDiscardComplete
      simp only [hc, hst]
      rfl
    refine ⟨_, e, ?_, rfl⟩
    rw [hnum]
    exact List.find?_eq_none.mpr fun y hy => by simpa using (List.mem_filter.mp hy).2
  · obtain ⟨⟨c', k1, k2, k3, -⟩, -⟩ := State.requestPreempt_spec (s := { s with plat := { s.plat with
      displaced := s.arg 1 :: s.plat.displaced.filter (· != s.arg 1) } }) hc (.inl hst) hv
    refine ⟨_, c', ?_, k1, k2, k3⟩
    have hunit : (s.plat.tests.map (fun t => (t.unit_, t.since + 3600000)) ++ s.plat.retired.map (fun u => (u, 0)))[s.arg 0]? =
        some (.cluster d q, x.since + 3600000) := by
      have hlt : s.arg 0 < s.plat.tests.length := (List.getElem?_eq_some_iff.mp hx).1
      rw [List.getElem?_append_left (by simpa using hlt), List.getElem?_map, hx, ← hu]
      rfl
    have hplaced : (s.groups.any (fun g => unitHolds (.cluster d q) g && g.ctx == s.arg 1)) = true :=
      List.any_eq_true.mpr ⟨g, hg, by simp [unitHolds, hsite, hctx]⟩
    have hnot : ¬ s.clk < x.since + 3600000 := Nat.not_lt.mpr hsince
    rw [harg] at hplaced
    show execQuadEmptyTimeout s = _
    unfold execQuadEmptyTimeout
    simp only [hunit, hplaced, harg, hc, hnot]
    rw [if_neg (by simp [hst, hv])]

end Sys2Proof.Machine
end

section
/-!
SETTLED. The host commands that move a context between its states.
-/

namespace Sys2Proof.Machine

open Sys2Proof

/-! CREATE and DESTROY (10 R247, R248). -/

theorem State.clearHusk_memOnly (s : State) (c : Ctx) : MemOnly s (s.clearHusk c) :=
  MemOnly.foldl (fun s n => State.physWriteWords_memOnly s _ _) _ s

/-- The context that a creation adds is found under its number. -/
theorem State.ctx?_added {s u : State} (h : u.ctxs = s.ctxs) {c : Ctx} (hn : s.ctx? c.num = none) :
    ({ u with ctxs := u.ctxs ++ [c] } : State).ctx? c.num = some c := by
  unfold State.ctx? at hn ⊢
  dsimp only
  rw [List.find?_append, h, hn]
  simp

/-! UNLOAD (11 R280). -/

theorem MapState.table_memOnly {m m' : MapState} {entry lo bytes p : Nat} (h : m.table entry lo bytes = some (p, m')) : MemOnly m.st m'.st := by
  unfold MapState.table at h
  have hr := m.st.physRead_memOnly entry 8
  generalize m.st.physRead entry 8 = r at h hr
  obtain ⟨e, s1⟩ := r
  dsimp only at h hr
  split at h
  · cases h; exact hr
  · split at h
    · cases h
    · split at h
      · cases h
        exact (hr.trans (MemOnly.setMem _ _)).trans (State.physWrite_memOnly _ _ _)
      · cases h

theorem MapState.pte_memOnly {m m' : MapState} {root va p : Nat} (h : m.pte root va = some (p, m')) : MemOnly m.st m'.st := by
  unfold MapState.pte at h
  split at h
  · cases h
  · rename_i h1
    split at h
    · cases h
    · rename_i h2
      cases h
      exact (MapState.table_memOnly h1).trans (MapState.table_memOnly h2)

theorem State.unmapObj_memOnly (s : State) (c : Ctx) (o : KObj) : MemOnly s (s.unmapObj c o) := by
  unfold State.unmapObj
  dsimp only
  refine ((MemOnly.setMem s _).trans (MemOnly.setMem _ _)).trans (MemOnly.foldl (fun s p => ?_) _ _)
  split
  · rename_i h
    exact (MapState.pte_memOnly h).trans (State.physWrite_memOnly _ _ _)
  · exact .refl s

/-- The first object of a context takes number 1. -/
theorem firstNumber : (List.range 1024).find? (fun n => n != 0 && !([] : List KObj).any (fun o => o.num == n)) = some 1 := by
  rw [show 1024 = 1022 + 1 + 1 from rfl, List.range_succ_eq_map, List.range_succ_eq_map]
  rfl

/-- Settles O47: each command comes to its status, or waits. -/
theorem contextCommands : Obligations.ContextCommands := by
  intro s fn q hready hfn h0 hring hne hpend hres Answers Waits cmd w
  have hat : s.commandAt fn q := ⟨hready, hfn, hring, hne, hpend⟩
  have hq : q.num = s.arg 1 := by simpa using List.find?_some hring
  have answers : ∀ {i : Instr} {k st res : Nat} {only0 : Bool} {f : State → Func → CmdOut} {u : State} {Q : State → Prop},
      exec i s = s.command k only0 f → cmd = k → 0 < k → k ≤ 0x16 → f s fn = .now st res u →
      u.link.pend = s.link.pend ∧ u.link.dma = s.link.dma → st < 256 → res < 2 ^ 56 →
      (∀ t, CommandEnds s u t fn q [(fn.num, s.arg 2, st + 256 * res)] [] → Q t) → Answers i st res Q := by
    intro i k st res only0 f u Q he hk k0 k1 hf hl hst hr hQ
    obtain ⟨t, e, hp, hd, ht⟩ := State.command_answers hat (cmd := k) (.inr (.inr hk))
      ((State.cmdOut_sound f (State.cmdSound_of hk k0 k1 hres) (.inr h0)).trans hf) hl hst hr
    exact ⟨t, he.trans e, hp, hd, hQ t ht⟩
  have none_ : ∀ {i : Instr} {k : Nat} {f : State → Func → Ctx → CmdOut}, s.ctx? s.cmdCtx = none → exec i s = s.ctxCommand k f → cmd = k →
      0 < k → k ≤ 0x16 → Answers i 7 0 (fun t => t.ctxs = s.ctxs) := fun hc he hk k0 k1 =>
    answers (he.trans (State.ctxCommand_eq s _ _)) hk k0 k1 (ctxOut_none hc h0) ⟨rfl, rfl⟩ (by decide) (by decide) fun t ht => ht.ctxs
  have xnone : ∀ {i : Instr} {k : Nat} {bad : State → Func → Bool} {f : State → XCfg → XCfg}, s.ctx? s.cmdCtx = none →
      exec i s = s.xCommand k bad f → cmd = k → 0 < k → k ≤ 0x16 → Answers i 7 0 (fun t => t.ctxs = s.ctxs) := fun hc he =>
    none_ hc (he.trans (State.xCommand_eq s _ _ _))
  refine ⟨fun hk h => ?_, fun hk h1 h2 => ⟨fun h3 => ?_, fun h3 h4 h5 h6 h7 h8 => ?_⟩, fun hc => ?_, fun c hc => ?_⟩
  · refine answers (i := .create) (Eq.refl (execCreate s)) hk (by decide) (by decide) (if_pos ?_) ⟨rfl, rfl⟩ (by decide) (by decide)
      fun t ht => ht.ctxs
    simp [h]
  · have hok : ¬ (decide (s.arg 4 % 128 ≠ 0) || !fn.holds (s.arg 4) 128) = true := by simp [h1, h2]
    obtain ⟨w0, s1, hr⟩ : ∃ w0 s1, s.physReadWords (s.arg 4) 16 = (w0, s1) := ⟨_, _, rfl⟩
    have hw : w = w0 := congrArg Prod.fst hr
    have hm : MemOnly s s1 := (s.physReadWords_memOnly (s.arg 4) 16).of_eq hr
    refine answers (i := .create) (Eq.refl (execCreate s)) hk (by decide) (by decide) (u := s1) (st := 2) (res := 0) ?_
      (by rw [hm.link]; exact ⟨rfl, rfl⟩) (by decide) (by decide) fun t ht => ht.ctxs.trans hm.ctxs
    rw [hw] at h3
    dsimp only
    rw [if_neg hok, hr]
    simp only [h3, Bool.not_false, if_true]
  · have hok : ¬ (decide (s.arg 4 % 128 ≠ 0) || !fn.holds (s.arg 4) 128) = true := by simp [h1, h2]
    obtain ⟨w0, s1, hr⟩ : ∃ w0 s1, s.physReadWords (s.arg 4) 16 = (w0, s1) := ⟨_, _, rfl⟩
    have hw : w = w0 := congrArg Prod.fst hr
    have h4' : (decide (fn.quota ≤ (s.ctxs.filter (fun c => c.fn == fn.num)).length) || decide (4095 ≤ s.ctxs.length)) = false := by
      simp only [Bool.or_eq_false_iff, decide_eq_false_iff_not]; omega
    have h6' : (decide (s.arg 5 = 0) || decide (4095 < s.arg 5) || (s.ctx? (s.arg 5)).isSome) = false := by
      rw [h8]; simp only [Bool.or_eq_false_iff, decide_eq_false_iff_not]; exact ⟨⟨by omega, by omega⟩, rfl⟩
    let c := Ctx.new (s.arg 5) fn.num (s.arg 4) w
    let u := s1.physWrite (s.arg 4) (toBytes 2 (s.arg 5))
    have hm : MemOnly s u := ((s.physReadWords_memOnly (s.arg 4) 16).of_eq hr).trans (State.physWrite_memOnly s1 _ _)
    have hm2 := State.clearHusk_memOnly { u with ctxs := u.ctxs ++ [c] } c
    refine answers (i := .create) (Eq.refl (execCreate s)) (u := ({ u with ctxs := u.ctxs ++ [c] } : State).clearHusk c) (st := 0)
      (res := s.arg 5) hk (by decide) (by decide) ?_
      (by rw [hm2.link]; exact ⟨congrArg Link.pend hm.link, congrArg Link.dma hm.link⟩) (by decide) (by omega) fun t ht => ?_
    · rw [hw] at h3
      dsimp only
      rw [if_neg hok, hr]
      simp only [h3, h4', h6', Bool.not_true, Bool.false_eq_true, if_false]
      rw [← hw]
    · exact ⟨c, ((ht.ctx? _).trans (hm2.ctx? _)).trans (State.ctx?_added hm.ctxs h8), rfl, rfl, rfl⟩
  · intro i hi hk
    simp only [List.mem_cons, List.not_mem_nil, or_false] at hi
    rcases hi with rfl | rfl | rfl | rfl | rfl | rfl | rfl | rfl | rfl | rfl | rfl | rfl | rfl
    · exact none_ (i := .reside) hc (Eq.refl (execReside s)) hk (by decide) (by decide)
    · exact none_ (i := .preempt) hc (Eq.refl (execPreempt s)) hk (by decide) (by decide)
    · exact none_ (i := .restore) hc (Eq.refl (execRestore s)) hk (by decide) (by decide)
    · exact none_ (i := .kill) hc (Eq.refl (execKill s)) hk (by decide) (by decide)
    · exact none_ (i := .destroy) hc (Eq.refl (execDestroy s)) hk (by decide) (by decide)
    · exact none_ (i := .load) hc (Eq.refl (execLoad s)) hk (by decide) (by decide)
    · exact none_ (i := .unload) hc (Eq.refl (execUnload s)) hk (by decide) (by decide)
    · exact none_ (i := .lqcfg) hc (Eq.refl (execLqcfg s)) hk (by decide) (by decide)
    · exact none_ (i := .ttcfg) hc (Eq.refl (execTtcfg s)) hk (by decide) (by decide)
    · exact xnone (i := .xqcfg) hc (Eq.refl (execXqcfg s)) hk (by decide) (by decide)
    · exact xnone (i := .peercfg) hc (Eq.refl (execPeercfg s)) hk (by decide) (by decide)
    · exact xnone (i := .landcfg) hc (Eq.refl (execLandcfg s)) hk (by decide) (by decide)
    · obtain ⟨t, e, hp, hd, ht⟩ := State.command_answers hat (cmd := 0x0E) (res := 0) (only0 := false) (.inr (.inr hk))
        ((State.cmdOut_sound (ctxOut (xOut (fun s fn => 8 ≤ s.arg 4 || s.arg 5 % 2 ^ 21 ≠ 0 || !fn.holds (s.arg 5) (2 ^ 21))
          (fun s x => { x with pages := (s.arg 4, s.arg 5, 0) :: x.pages.filter (fun r => r.1 != s.arg 4) })))
          (State.cmdSound_of hk (by decide) (by decide) hres) (.inl rfl)).trans (ctxOut_none hc h0))
        ⟨rfl, rfl⟩ (by decide) (by decide)
      obtain ⟨t', e', ht'⟩ := exec_cpagecfg e
      exact ⟨t', e', by rw [ht'.link]; exact hp, by rw [ht'.link]; exact hd, ht'.ctxs.trans ht.ctxs⟩
  · have one : ∀ {i : Instr} {k st res : Nat} {f : State → Func → Ctx → CmdOut} {u : State} {Q : State → Prop},
        exec i s = s.ctxCommand k f → cmd = k → 0 < k → k ≤ 0x16 → f s fn c = .now st res u →
        u.link.pend = s.link.pend ∧ u.link.dma = s.link.dma → st < 256 → res < 2 ^ 56 →
        (∀ t, CommandEnds s u t fn q [(fn.num, s.arg 2, st + 256 * res)] [] → Q t) → Answers i st res Q := fun he hk k0 k1 hf =>
      answers (he.trans (State.ctxCommand_eq s _ _)) hk k0 k1 ((ctxOut_some hc (.inl h0)).trans hf)
    have refuses : ∀ {i : Instr} {k st : Nat} {f : State → Func → Ctx → CmdOut} {u : State}, exec i s = s.ctxCommand k f → cmd = k →
        0 < k → k ≤ 0x16 → f s fn c = .now st 0 u → MemOnly s u → st < 256 → Answers i st 0 (fun t => t.ctxs = s.ctxs) :=
      fun he hk k0 k1 hf hm hst => one he hk k0 k1 hf (by rw [hm.link]; exact ⟨rfl, rfl⟩) hst (by decide) fun t ht => ht.ctxs.trans hm.ctxs
    have hnum := State.num_of_ctx? hc
    have hcn : s.ctx? c.num = some c := hnum ▸ hc
    have waits : ∀ {i : Instr} {k kind o : Nat} {f : State → Func → Ctx → CmdOut} {u : State} {Q : State → Ctx → Prop} {c' : Ctx},
        exec i s = s.ctxCommand k f → cmd = k → 0 < k → k ≤ 0x16 → f s fn c = .later kind c.num o u → u.link.pend = [] →
        u.link.dma = s.link.dma → u.ctx? c.num = some c' →
        (∀ n, u.pendDone ⟨fn.num, q.num, s.arg 2, none, kind, c.num, o⟩ n = none) →
        (∀ t, CommandEnds s u t fn q [] [⟨fn.num, q.num, s.arg 2, none, kind, c.num, o⟩] → Q t c') → Waits i kind o Q := by
      intro i k kind o f u Q c' he hk k0 k1 hf hp hd hx hdone hQ
      obtain ⟨t, e, ht⟩ := State.command_later hat (cmd := k) (only0 := false) (.inr (.inr hk))
        ((State.cmdOut_sound (ctxOut f) (State.cmdSound_of hk k0 k1 hres) (.inl rfl)).trans ((ctxOut_some hc (.inl h0)).trans hf)) hp hdone
      refine ⟨t, c', (he.trans (State.ctxCommand_eq s _ _)).trans e, ?_, ?_, ?_, hQ t ht⟩
      · rw [ht.link]; simpa using hd
      · rw [ht.link, ← hq, ← hnum]
      · rw [← hnum]; exact (ht.ctx? _).trans hx
    refine ⟨fun hk hst => ?_, fun f hk hst hf hok => ?_, fun hk hst hv => ?_, fun hk h1 h2 => ?_, fun hk hst => ?_,
      fun sv hk hst hsv => ⟨fun hbad => ?_, fun hok => ?_⟩, fun hk => ?_, fun hk hst => ?_, fun hk hst hb => ?_, fun r hk hst hs ho hr => ?_,
      fun hk ho => ?_, fun o hk ho => ?_⟩
    · exact refuses (i := .reside) (Eq.refl (execReside s)) hk (by decide) (by decide) (if_pos (by simpa using hst)) (.refl s) (by decide)
    · obtain ⟨w0, s1, hr⟩ : ∃ w0 s1, s.physReadWords c.descAddr 16 = (w0, s1) := ⟨_, _, rfl⟩
      have hm : MemOnly s s1 := (s.physReadWords_memOnly c.descAddr 16).of_eq hr
      have hx := (hm.ctx? s.cmdCtx).trans hc
      rw [congrArg Prod.fst hr] at hok
      refine one (i := .reside) (Eq.refl (execReside s)) (st := 0) (res := 0)
        (u := s1.modCtx c.num (fun x => { x with st := .resident, desc := descOf w0, tvec := w0.getD 2 0 })) hk (by decide) (by decide) ?_
        ⟨congrArg Link.pend hm.link, congrArg Link.dma hm.link⟩ (by decide) (by decide) fun t ht => ?_
      · dsimp only
        rw [if_neg (by simp [hst]), hr]
        simp only [hf, hok, Bool.not_true, Bool.false_eq_true, if_false]
      · rw [ht.ctx?, hnum]
        exact ⟨_, State.ctx?_modCtx_same hx _ fun _ => rfl, rfl⟩
    · obtain ⟨⟨c', k1, k2, k3, k4⟩, k5, k6⟩ := State.requestPreempt_spec hcn hst hv
      refine waits (i := .preempt) (Eq.refl (execPreempt s)) hk (by decide) (by decide) (if_pos ?_) (k6 hpend) k5 k1 ?_ fun t ht => ⟨k2, k3, k4⟩
      · rcases hst with h | h <;> simp [h, hv]
      · intro n
        unfold State.pendDone
        simp only [k1, k2]
        rfl
    · refine refuses (i := .preempt) (Eq.refl (execPreempt s)) hk (by decide) (by decide) (if_neg ?_) (.refl s) (by decide)
      simp [h1, h2]
    · refine refuses (i := .restore) (Eq.refl (execRestore s)) hk (by decide) (by decide) ?_ (.refl s) (by decide)
      dsimp only
      split
      · rename_i h _
        exact absurd h hst
      · rfl
    · have hm := s.shellValid_memOnly c sv
      refine refuses (i := .restore) (Eq.refl (execRestore s)) hk (by decide) (by decide) (u := (s.shellValid c sv).2) ?_ hm (by decide)
      dsimp only
      simp only [hst, hsv]
      rw [if_neg (by simp [hbad])]
    · have hm := s.shellValid_memOnly c sv
      have hx := (hm.ctx? c.num).trans hcn
      obtain ⟨⟨c', k1, k2, k3⟩, k4⟩ := State.beginRestore_spec hx rfl sv
      refine waits (i := .restore) (Eq.refl (execRestore s)) hk (by decide) (by decide) (u := (s.shellValid c sv).2.beginRestore c sv) ?_
        (by rw [k4, hm.link]; exact hpend) (by rw [k4, hm.link]) k1 (fun n => ?_) fun t ht => k2
      · dsimp only
        simp only [hst, hsv]
        rw [if_pos hok]
      · unfold State.pendDone
        simp only [k1, k2]
        simpa using k3
    · obtain ⟨⟨c', k1, k2⟩, -⟩ := State.killCtx_spec hcn
      obtain ⟨k3, k4, k5, k6, k7, k8⟩ := State.killCtx_drops hcn hpend
      refine waits (i := .kill) (Eq.refl (execKill s)) hk (by decide) (by decide) (u := s.killCtx c.num) rfl k3 k4 k1 (fun n => ?_)
        fun t ht => ?_
      · unfold State.pendDone
        simp only [k1]
      · have hr := ht.rest
        generalize s.killCtx c.num = u at *
        rw [hr]
        exact ⟨k2, k5, k6, k7, k8⟩
    · refine refuses (i := .destroy) (Eq.refl (execDestroy s)) hk (by decide) (by decide) (if_pos ?_) (.refl s) (by decide)
      rcases hst with h | h | h | h <;> simp [h]
    · obtain ⟨-, -, k1, k2, -⟩ := State.dropWork_rest s c.num
      generalize hd : s.dropWork c.num = v at k1 k2
      refine one (i := .destroy) (Eq.refl (execDestroy s)) hk (by decide) (by decide) (st := 0) (res := 0) (u :=
        let s1 := (v.freePlaces c.num).dropTables c.num
        { s1 with
          ctxs := s1.ctxs.filter (fun y => y.num != c.num),
          plat := { s1.plat with displaced := s1.plat.displaced.filter (· != c.num) },
          link := { s1.link with
            xcfg := s1.link.xcfg.filter (fun y => y.ctx != c.num), rx := s1.link.rx.filter (fun y => y.ctx != c.num),
            peers := s1.link.peers.filter (fun y => y.ctx != c.num) } }) ?_ ⟨k1, k2⟩ (by decide) (by decide) fun t ht => ?_
      · dsimp only
        rw [if_neg (by rcases hst with h | h | h | h <;> simp [h, hb]), hd]
      · rw [ht.ctx?, ← hnum]
        exact List.find?_eq_none.mpr fun y hy => by simpa using (List.mem_filter.mp hy).2
    · let ob : KObj := {
        num := 1, st := 0, image := s.arg 4, codeBase := 0, codeSize := 0, gsize := 0, stages := 0, scratch := 0, trays := [],
        entryVas := [], sections := [], pts := 0 }
      have hx : (s.modCtx c.num (fun x => { x with objs := x.objs ++ [ob] })).ctx? c.num = some { c with objs := c.objs ++ [ob] } :=
        State.ctx?_modCtx_same hcn _ fun _ => rfl
      refine waits (i := .load) (Eq.refl (execLoad s)) hk (by decide) (by decide)
        (u := s.modCtx c.num (fun x => { x with objs := x.objs ++ [ob] })) ?_ hpend rfl hx (fun n => ?_) fun t ht => by rw [ho]; rfl
      · have hst' : (!(c.st == .created || c.st == .resident || c.st == .running) || c.stopAt.isSome) = false := by
          rcases hst with h | h | h <;> simp [h, hs]
        dsimp only
        rw [if_neg (by rw [hst']; decide), ho, firstNumber]
        simp only [hr]
        rfl
      · unfold State.pendDone
        simp only [hx, ho]
        rfl
    · refine refuses (i := .unload) (Eq.refl (execUnload s)) hk (by decide) (by decide) ?_ (.refl s) (by decide)
      rw [ho]
    · have used : s.objInUse c o = true → Answers .unload 4 0 (fun t => t.ctxs = s.ctxs) := fun hu => by
        refine refuses (i := .unload) (Eq.refl (execUnload s)) hk (by decide) (by decide) ?_ (.refl s) (by decide)
        rw [ho]
        simp only [hu, if_true]
      refine ⟨fun ⟨l, hl, hi, hleft⟩ => used ?_, fun ⟨g, hg, hgc, hi⟩ => used ?_, used, fun hu => ?_⟩
      · have h1 : c.launches.any (fun l => decide (o.codeBase ≤ l.entry) && decide (l.entry < o.codeBase + o.codeSize) && l.left != 0) = true :=
          List.any_eq_true.mpr ⟨l, hl, by simp [hi.1, hi.2, hleft]⟩
        unfold State.objInUse
        simp only [h1, Bool.or_true, Bool.true_or]
      · have h1 : s.groups.any (fun g => g.ctx == c.num && (decide (o.codeBase ≤ g.entry.toNat) &&
            decide (g.entry.toNat < o.codeBase + o.codeSize))) = true :=
          List.any_eq_true.mpr ⟨g, hg, by simp [hgc, hi.1, hi.2]⟩
        unfold State.objInUse
        simp only [h1, Bool.true_or]
      · have hm := s.unmapObj_memOnly c o
        generalize hv : s.unmapObj c o = v at hm
        refine one (i := .unload) (Eq.refl (execUnload s)) hk (by decide) (by decide) (st := 0) (res := 0)
          (u := v.modCtx c.num (fun x => { x with objs := x.objs.filter (fun y => y.num != o.num) })) ?_
          ⟨congrArg Link.pend hm.link, congrArg Link.dma hm.link⟩ (by decide) (by decide) fun t ht => ?_
        · rw [ho]
          simp only [hu, Bool.false_eq_true, if_false, hv]
        · rw [ht.ctx?, hnum]
          exact ⟨_, State.ctx?_modCtx_same ((hm.ctx? _).trans hc) _ fun _ => rfl, rfl⟩

end Sys2Proof.Machine
end

section
/-!
SETTLED. Doorbells, writes of BAR2 and attestation.
-/

namespace Sys2Proof.Machine

open Sys2Proof

theorem State.physWrite_hbm (s : State) (pa : Nat) (bs : List Byte) : (s.physWrite pa bs).mem.hbm = cellsWrite s.mem.hbm pa bs :=
  MemSys.homeWrite_hbm s.mem pa 0 bs

/-- Bytes written one after the other are the bytes of one write. -/
theorem State.physBytes_hbm (s : State) (pa : Nat) (bs : List Byte) : (s.physBytes pa bs).mem.hbm = cellsWrite s.mem.hbm pa bs := by
  unfold State.physBytes cellsWrite
  generalize bs.zipIdx pa = l
  induction l generalizing s with
  | nil => rfl
  | cons x r ih =>
    rw [List.foldl_cons, List.foldl_cons, ih, State.physWrite_hbm]
    rfl

theorem State.physBytes_classes (s : State) (pa : Nat) (bs : List Byte) : (s.physBytes pa bs).classes = s.classes :=
  foldl_preserves State.classes (f := fun s (x : Byte × Nat) => s.physWrite x.2 [x.1]) (fun _ _ => rfl) _ s

theorem samePads_of_classes {s t : State} (h : t.classes = s.classes) : SamePads s t := fun k m => by
  unfold State.pad? State.klass?
  rw [h]

/-- A ring after a change of rings that keeps their numbers. -/
theorem Func.ring?_map (f : Func) (g : CmdRing → CmdRing) (hg : ∀ x, (g x).num = x.num) (n : Nat) :
    ({ f with rings := f.rings.map g } : Func).ring? n = (f.ring? n).map g := by
  unfold Func.ring?
  rw [List.find?_map]
  simp only [Function.comp_def, hg]

/-- A launch queue after its doorbell. -/
def LQueue.rung (w : Word) (q : LQueue) : LQueue :=
  if q.entries < (bitsAt w 16 32 + 2 ^ 32 - q.taken) % 2 ^ 32 then q else { q with written := bitsAt w 16 32 }

theorem LQueue.rung_num (w : Word) (q : LQueue) : (q.rung w).num = q.num := by
  unfold LQueue.rung
  split <;> rfl

/-- A launch doorbell of a queue of the function's context (12 R289, 19 R446). -/
theorem launchDoorbell_rings {s : State} {w : Word} (hw : BitVec.ofNat 64 (s.arg 1) = w) {c : Ctx} (hc : s.ctx? (bitsAt w 0 12) = some c)
    (hfn : c.fn = s.arg 0) (hz : bitsAt w 48 16 = 0) {q : LQueue} (hq : c.queues.find? (fun y => y.num == bitsAt w 12 4) = some q) :
    ∃ t c', exec .launchDoorbell s = .next t ∧ t.ctx? (bitsAt w 0 12) = some c' ∧
      c'.queues.find? (fun y => y.num == bitsAt w 12 4) = some (q.rung w) := by
  let f (x : Ctx) : Ctx := { x with queues := updWhere (fun q => q.num == bitsAt w 12 4) (LQueue.rung w) x.queues }
  have hqn : q.num = bitsAt w 12 4 := by simpa using List.find?_some hq
  have e : exec .launchDoorbell s = .next (s.modCtx c.num f) := by
    show execLaunchDoorbell s = _
    unfold execLaunchDoorbell
    rw [hw]
    dsimp only
    rw [hc]
    dsimp only
    rw [if_neg (by simp [hfn, hz])]
    rfl
  refine ⟨_, f c, e, ?_, ?_⟩
  · rw [State.num_of_ctx? hc]; exact State.ctx?_modCtx_same hc f fun _ => rfl
  · refine (find?_updWhere (fun q : LQueue => q.num) _ _ (LQueue.rung w) (LQueue.rung_num w) c.queues).trans ?_
    rw [hq, Option.map_some, if_pos hqn]

/-- Settles O49: what each write of the host does. -/
theorem hostWrites : Obligations.HostWrites := by
  refine ⟨fun s hready => ⟨fun fn q hfn hq => ?_, fun fn hfn => ?_, fun h => ?_, fun h => ?_⟩, fun s => ?_⟩
  · have hn : fn.num = s.arg 0 := by simpa using List.find?_some hfn
    have hqn : q.num = s.arg 1 := by simpa using List.find?_some hq
    let ring (x : CmdRing) : CmdRing :=
      if x.num = s.arg 1 && decide ((s.arg 2 + 2 ^ 32 - x.head) % 2 ^ 32 ≤ x.entries) then { x with tail := s.arg 2 % 2 ^ 32 } else x
    have e : exec .commandDoorbell s = .next { s with link := { s.link with
        funcs := updWhere (fun f => f.num == s.arg 0) (fun f => { f with rings := f.rings.map ring }) s.link.funcs } } := by
      show execCommandDoorbell s = _
      unfold execCommandDoorbell
      rw [hready]
      rfl
    refine ⟨_, { fn with rings := fn.rings.map ring }, e, ?_, ?_⟩
    · refine (find?_updWhere (fun f : Func => f.num) (s.arg 0) (s.arg 0) (fun f => { f with rings := f.rings.map ring }) (fun _ => rfl)
        s.link.funcs).trans ?_
      rw [show s.link.funcs.find? (fun f => f.num == s.arg 0) = some fn from hfn, Option.map_some, if_pos hn]
    · rw [Func.ring?_map fn ring (fun x => by unfold ring; split <;> rfl), hq, Option.map_some]
      simp [ring, hqn]
  · intro bs hsize hwf
    refine ⟨fun hmem => ?_, fun hmem => ?_⟩
    · have e : exec .hostBar2Write s = .next (s.physBytes (fn.base + s.arg 1) bs) := by
        show execHostBar2Write s = _
        unfold execHostBar2Write
        have h1 : ¬ fn.size < s.arg 1 + bs.length := by omega
        have h2 : ¬ memLimit < fn.base + s.arg 1 + bs.length := by omega
        rw [hfn]
        dsimp only
        rw [if_neg h1, if_neg h2]
      refine ⟨_, e, ?_, fun k hk => ?_, fun k hk => ?_, samePads_of_classes (State.physBytes_classes s _ bs)⟩
      · rw [State.physBytes_hbm]; exact cellsWf_cellsWrite _ _ _ hwf
      · rw [State.physBytes_hbm, cellAt_cellsWrite_same _ _ _ _ hwf hk]
        simp [List.getD_eq_getElem?_getD, hk]
      · rw [State.physBytes_hbm, cellAt_cellsWrite_other _ _ _ _ hwf hk]
    · show execHostBar2Write s = _
      unfold execHostBar2Write
      have h1 : ¬ fn.size < s.arg 1 + bs.length := by omega
      rw [hfn]
      dsimp only
      rw [if_neg h1, if_pos hmem]
  · have e : exec .spdmRequest s = .next { s.free.2.free.2 with link := { s.link with
        spdm := s.link.spdm ++ [[s.plat.fwDigest, s.plat.fwVersion, s.plat.dtVersion, s.plat.dtDigest] ++ s.sparesInUse ++
          [Config.freeValue s.freeN, Config.freeValue (s.freeN + 1)]] } } := by
      show execSpdmRequest s = _
      unfold execSpdmRequest
      rw [hready, if_neg (by decide), if_neg h]
      rfl
    exact ⟨_, _, _, e, rfl⟩
  · have e : exec .spdmRequest s = .next { s with link := { s.link with
        spdm := s.link.spdm ++ [s.plat.log.flatMap (fun e => [e.1, e.2])] } } := by
      show execSpdmRequest s = _
      unfold execSpdmRequest
      rw [hready, if_neg (by decide), if_pos h]
    exact ⟨_, e, rfl⟩
  · intro w
    refine ⟨fun hc => ?_, fun c hc => ⟨fun hbad => ?_, fun q hfn hz hq => ?_⟩⟩
    · show execLaunchDoorbell s = _
      unfold execLaunchDoorbell
      dsimp only
      rw [hc]
    · show execLaunchDoorbell s = _
      unfold execLaunchDoorbell
      dsimp only
      rw [hc]
      dsimp only
      rw [if_pos (by rcases hbad with h | h <;> simp [h, w])]
    · exact launchDoorbell_rings rfl hc hfn hz hq

end Sys2Proof.Machine
end

section
/-!
SETTLED. The loader's end, launches taken from their queues, and the timetable.
-/

namespace Sys2Proof.Machine

open Sys2Proof

/-! Sorting by a key. -/

theorem mem_insertBy {α : Type} (key : α → Nat) (x z : α) (l : List α) : z ∈ insertBy key x l ↔ z = x ∨ z ∈ l := by
  induction l with
  | nil => simp [insertBy]
  | cons y r ih =>
    unfold insertBy
    split
    · simp
    · simp only [List.mem_cons, ih]
      tauto

theorem mem_sortBy {α : Type} (key : α → Nat) (l : List α) (z : α) : z ∈ sortBy key l ↔ z ∈ l := by
  have h : ∀ (l acc : List α), z ∈ l.foldl (fun acc x => insertBy key x acc) acc ↔ z ∈ l ∨ z ∈ acc := by
    intro l
    induction l with
    | nil => simp
    | cons x r ih =>
      intro acc
      rw [List.foldl_cons, ih, mem_insertBy, List.mem_cons]
      tauto
  exact (h l []).trans (by simp)

theorem insertBy_sorted {α : Type} (key : α → Nat) (x : α) (l : List α) (h : l.Pairwise (fun a b => key a ≤ key b)) :
    (insertBy key x l).Pairwise (fun a b => key a ≤ key b) := by
  induction l with
  | nil => simp [insertBy]
  | cons y r ih =>
    obtain ⟨h1, h2⟩ := List.pairwise_cons.mp h
    unfold insertBy
    split
    · rename_i hlt
      refine List.pairwise_cons.mpr ⟨fun z hz => ?_, h⟩
      rcases List.mem_cons.mp hz with rfl | hz
      · exact hlt.le
      · exact hlt.le.trans (h1 z hz)
    · rename_i hlt
      refine List.pairwise_cons.mpr ⟨fun z hz => ?_, ih h2⟩
      rcases (mem_insertBy key x z r).mp hz with rfl | hz
      · omega
      · exact h1 z hz

theorem sortBy_sorted {α : Type} (key : α → Nat) (l : List α) : (sortBy key l).Pairwise (fun a b => key a ≤ key b) := by
  have h : ∀ (l acc : List α), acc.Pairwise (fun a b => key a ≤ key b) →
      (l.foldl (fun acc x => insertBy key x acc) acc).Pairwise (fun a b => key a ≤ key b) := by
    intro l
    induction l with
    | nil => exact fun _ h => h
    | cons x r ih => exact fun acc h => ih _ (insertBy_sorted key x acc h)
  exact h l [] List.Pairwise.nil

/-- The least number of a list comes first. -/
theorem sortNat_head {l : List Nat} {p : Nat} (hp : p ∈ l) (hmin : ∀ x ∈ l, p ≤ x) : ∃ r, sortNat l = p :: r := by
  have hs := sortBy_sorted id l
  have hm := fun z => mem_sortBy id l z
  unfold sortNat
  cases h : sortBy id l with
  | nil => rw [h] at hm; exact absurd ((hm p).mpr hp) (by simp)
  | cons y r =>
    rw [h] at hs hm
    have hy : p ≤ y := hmin y ((hm y).mp List.mem_cons_self)
    have hle : y ≤ p := by
      rcases List.mem_cons.mp ((hm p).mpr hp) with e | hr
      · exact e.ge
      · exact (List.pairwise_cons.mp hs).1 p hr
    exact ⟨r, by rw [le_antisymm hle hy]⟩

/-! The queue that is served (12 R289). -/

/-- Where a queue's offer is the one of the highest priority, it is the one served. -/
theorem State.nextQueue_of {s : State} {me : Nat × Nat × Nat} (hme : me ∈ s.ctxs.flatMap s.offers)
    (hall : ∀ y ∈ s.ctxs.flatMap s.offers, y = me ∨ me.1 < y.1) : s.nextQueue = some me := by
  obtain ⟨r, hr⟩ := sortNat_head (l := (s.ctxs.flatMap s.offers).map (·.1)) (p := me.1) (List.mem_map_of_mem hme) (fun x hx => by
    obtain ⟨y, hy, rfl⟩ := List.mem_map.mp hx
    rcases hall y hy with rfl | h
    · exact le_rfl
    · exact h.le)
  unfold State.nextQueue
  dsimp only
  rw [hr]
  dsimp only
  have hmem : ∀ (key : Nat × Nat × Nat → Nat) (z : Nat × Nat × Nat),
      z ∈ sortBy key ((s.ctxs.flatMap s.offers).filter (fun x => x.1 == me.1)) ↔ z = me := fun key z => by
    rw [mem_sortBy, List.mem_filter]
    constructor
    · rintro ⟨hz, he⟩
      rcases hall z hz with rfl | h
      · rfl
      · simp at he; omega
    · rintro rfl
      exact ⟨hme, by simp⟩
  have head : ∀ l : List (Nat × Nat × Nat), me ∈ l → (∀ z ∈ l, z = me) → l.head? = some me := by
    intro l h1 h2
    cases l with
    | nil => cases h1
    | cons z r => rw [h2 z List.mem_cons_self]; rfl
  refine head _ (List.mem_append_right _ ((hmem _ _).mpr rfl)) fun z hz => ?_
  rcases List.mem_append.mp hz with h | h
  · exact (hmem _ _).mp (List.mem_of_mem_filter h)
  · exact (hmem _ _).mp h

/-! The launch of a packet (12 R291). -/

theorem State.readPacket_memOnly (s : State) (pa : Nat) : MemOnly s (s.readPacket pa).2.2 := by
  have h := s.physReadWords_memOnly pa 16
  unfold State.readPacket
  generalize s.physReadWords pa 16 = r at h
  exact h

theorem State.readRoutes_memOnly (s : State) (ctx va stages pts n : Nat) : MemOnly s (s.readRoutes ctx va stages pts n).2 := by
  induction n generalizing s va with
  | zero => exact .refl s
  | succ n ih =>
    unfold State.readRoutes
    dsimp only
    have h1 := s.engRead_memOnly ⟨ctx, false, pts, ⟨0, 0⟩⟩ (.glob va) 1
    split
    next lo s1 e1 =>
      have h2 := s1.engRead_memOnly ⟨ctx, false, pts, ⟨0, 0⟩⟩ (.glob (va + 1)) 1
      split
      next hi s2 e2 =>
        have h12 := (h1.of_eq e1).trans (h2.of_eq e2)
        split
        · exact h12
        · exact h12.trans (ih s2 (va + 2))
      next e2 => exact (h1.of_eq e1).trans (h2.of_eq e2)
    next e1 => exact h1.of_eq e1

theorem State.routesFor_memOnly (s : State) (l : Launch) (addr : Nat) : MemOnly s (s.routesFor l addr).2 := by
  unfold State.routesFor
  split
  · exact .refl s
  · split
    · exact .refl s
    · exact s.readRoutes_memOnly _ _ _ _ _

theorem State.countClasses_ctxs (s : State) (l : Launch) : (s.countClasses l).ctxs = s.ctxs :=
  foldl_preserves State.ctxs (f := fun s d => s.count l.ctx l.job (.cni d 0) (l.part.getD (d + 1) 0 - l.part.getD d 0) 0) (fun _ _ => rfl)
    l.dies s

/-- A launch that enters its job keeps its number. -/
theorem State.enterJob_ctx {s : State} {n : Nat} {c : Ctx} (hc : s.ctx? n = some c) (l : Launch) :
    ∃ b c', (s.enterJob l).ctx? n = some c' ∧ c' = if c.num = l.ctx then
      { c with launches := updWhere (fun x => x.lid == l.lid) (fun x => { x with waiting := b }) c.launches } else c := by
  have key : ∀ (u : State) (b : Bool), u.ctxs = s.ctxs → (u.modLaunch l.ctx l.lid (fun x => { x with waiting := b })).ctx? n =
      some (if c.num = l.ctx then { c with launches := updWhere (fun x => x.lid == l.lid) (fun x => { x with waiting := b }) c.launches }
        else c) := by
    intro u b hu
    refine (find?_updWhere (fun c : Ctx => c.num) l.ctx n (fun c : Ctx => { c with
      launches := updWhere (fun x => x.lid == l.lid) (fun x => { x with waiting := b }) c.launches }) (fun _ => rfl) u.ctxs).trans ?_
    rw [show u.ctxs.find? (fun c => c.num == n) = some c from (State.ctx?_of_ctxs hu n).trans hc, Option.map_some]
  unfold State.enterJob
  split
  · exact ⟨false, _, (State.ctx?_of_ctxs (State.countClasses_ctxs _ l) n).trans (key s false rfl), rfl⟩
  · split
    · exact ⟨true, _, key s true rfl, rfl⟩
    · exact ⟨false, _, (State.ctx?_of_ctxs (State.countClasses_ctxs _ l) n).trans (key _ false rfl), rfl⟩

/-- A packet that is refused leaves the contexts; one that is accepted adds its launch to its own. -/
theorem State.tryLaunch_spec {s s2 : State} {c c0 : Ctx} {pa q v : Nat} {tt o : Option Nat} (hc : s.ctx? c.num = some c0)
    (h : s.tryLaunch c pa q tt = (v, o, s2)) :
    ∃ ls, s2.ctx? c.num = some { c0 with launches := ls } ∧ ∀ lid, o = some lid → v = 0 ∧ ∃ l ∈ ls, l.lid = lid := by
  have refused : ∀ {w : Nat} {u : State}, u.ctxs = s.ctxs → (w, (none : Option Nat), u) = (v, o, s2) →
      ∃ ls, s2.ctx? c.num = some { c0 with launches := ls } ∧ ∀ lid, o = some lid → v = 0 ∧ ∃ l ∈ ls, l.lid = lid := by
    intro w u hu e
    cases e
    exact ⟨c0.launches, (State.ctx?_of_ctxs hu _).trans hc, fun lid hl => by cases hl⟩
  unfold State.tryLaunch at h
  split at h
  · exact refused rfl h
  · have hp := s.readPacket_memOnly pa
    generalize s.readPacket pa = r at h hp
    obtain ⟨w, pts, s1⟩ := r
    dsimp only at h hp
    split at h
    · exact refused hp.ctxs h
    · split at h
      · exact refused hp.ctxs h
      · rename_i ob _
        generalize hl : packetLaunch w ob c.num s1.fresh.1 q pts tt = l at h
        have hlid : l.lid = s1.fresh.1 ∧ l.ctx = c.num := by rw [← hl]; exact ⟨rfl, rfl⟩
        split at h
        · exact refused hp.ctxs h
        · split at h
          · exact refused hp.ctxs h
          · split at h
            · exact refused hp.ctxs h
            · split at h
              · exact refused hp.ctxs h
              · split at h
                · exact refused hp.ctxs h
                · have hr := s1.fresh.2.routesFor_memOnly l (packetField w 88 8)
                  split at h
                  next hrt => rw [hrt] at hr; exact refused (hr.ctxs.trans hp.ctxs) h
                  next rs s3 hrt =>
                    rw [hrt] at hr
                    split at h
                    · exact refused (hr.ctxs.trans hp.ctxs) h
                    · cases h
                      let l1 := { l with routes := rs }
                      have h3 : s3.ctx? c.num = some c0 := (State.ctx?_of_ctxs (hr.ctxs.trans hp.ctxs) _).trans hc
                      have h4 : ((s3.claimTrays c.num ob l1).modCtx c.num (fun x => { x with launches := x.launches ++ [l1] })).ctx? c.num =
                          some { c0 with launches := c0.launches ++ [l1] } :=
                        State.ctx?_modCtx_same (s := s3.claimTrays c.num ob l1) h3 _ fun _ => rfl
                      obtain ⟨b, c', h5, h6⟩ := State.enterJob_ctx h4 l1
                      rw [if_pos (show c0.num = l1.ctx from (State.num_of_ctx? hc).trans hlid.2.symm)] at h6
                      refine ⟨_, by rw [h5, h6], fun lid e => ⟨rfl, ?_⟩⟩
                      cases e
                      refine ⟨{ l1 with waiting := b }, List.mem_map.mpr ⟨l1, by simp, ?_⟩, hlid.1⟩
                      rw [if_pos (beq_self_eq_true _)]

/-! The end of a load (11 R276 to R278). -/

theorem State.loaderWrite_memOnly (s : State) (c va : Nat) (ws : List Word) : MemOnly s (s.loaderWrite c va ws) :=
  MemOnly.foldl (fun s _ => s.engWrite_memOnly _ _ _) _ s

theorem MapState.page_memOnly {m m' : MapState} {root va perm : Nat} (h : m.page root va perm = some m') : MemOnly m.st m'.st := by
  unfold MapState.page at h
  split at h
  · cases h
  · rename_i at_ m1 h1
    have hr := m1.st.physRead_memOnly at_ 8
    generalize m1.st.physRead at_ 8 = r at h hr
    dsimp only at h
    split at h
    · cases h
    · split at h
      · cases h
        exact ((MapState.pte_memOnly h1).trans hr).trans (State.physWrite_memOnly _ _ _)
      · cases h

theorem mapPages_memOnly {root perm : Nat} {l : List Nat} {m m' : MapState} (h : mapPages root perm l m = some m') : MemOnly m.st m'.st := by
  induction l generalizing m with
  | nil => cases h; exact .refl _
  | cons p r ih =>
    unfold mapPages at h
    split at h
    · cases h
    · rename_i h1
      exact (MapState.page_memOnly h1).trans (ih h)

theorem mapPlaces_memOnly {root : Nat} {l : List Place} {m m' : MapState} (h : mapPlaces root l m = some m') : MemOnly m.st m'.st := by
  induction l generalizing m with
  | nil => cases h; exact .refl _
  | cons p r ih =>
    unfold mapPlaces at h
    split at h
    · cases h
    · split at h
      · cases h
      · rename_i h1
        exact (mapPages_memOnly h1).trans (ih h)

theorem State.placeBytes_memOnly (s : State) (root ctx va : Nat) (bs : List Byte) : MemOnly s (s.placeBytes root ctx va bs) := by
  unfold State.placeBytes
  refine MemOnly.foldl (fun s x => ?_) _ s
  split
  · exact State.physWrite_memOnly _ _ _
  · exact .refl s

/-- A placed object takes its number in its context. -/
theorem State.placeObj_ctx {s : State} {c c0 : Ctx} (hc : s.ctx? c.num = some c0) (num : Nat) (r : LoadReq) (o : ObjView) (places : List Place) :
    ∃ n, (s.placeObj c num r o places).ctx? c.num =
      some { c0 with objs := updWhere (fun y => y.num == num) (fun _ => { o.toObj num places with pts := n }) c0.objs } := by
  have h1 : MemOnly s (places.foldl (fun s p => s.placeBytes c.desc.ptRoot c.num p.va (o.placed places p))
      (s.setMem (s.mem.forget c.num (inRanges (o.toObj num places).sections)))) :=
    (MemOnly.setMem s _).trans (MemOnly.foldl (fun s p => s.placeBytes_memOnly _ _ _ _) _ _)
  unfold State.placeObj
  dsimp only
  generalize places.foldl _ _ = s1 at h1
  have h2 : ∀ m va ws, MemOnly s ((s1.setMem m).loaderWrite c.num va ws) := fun m va ws =>
    h1.trans ((MemOnly.setMem s1 m).trans (State.loaderWrite_memOnly _ _ _ _))
  exact ⟨_, State.ctx?_modCtx_same (((h2 _ _ _).ctx? _).trans hc) _ fun _ => rfl⟩

/-- What the end of a load is, by what its checks find. -/
theorem loadChecks (s : State) (c : Ctx) (hc : s.ctx? (s.arg 0) = some c) (ob : KObj)
    (hob : c.objs.find? (fun o => o.num == s.arg 1 && o.st == 0) = some ob) :
    (s.loadReq c ob.image = none → exec .loadChecksDone s =
      .next (s.modCtx c.num (fun x => { x with objs := x.objs.filter (fun y => y.num != ob.num) })).flushCmds) ∧
    (∀ r, s.loadReq c ob.image = some r →
      let o := s.objView c.desc.ptRoot c.num r.obj r.size
      let places := o.places ((s.pick.drop 2).take 3)
      let fits := fitsSpace ((s.mem.pages c.desc.ptRoot).map (·.1)) r.hint (places.map (fun p => (2 ^ (o.sect p.sect).alog, p.size)))
      (∀ st d l, o.verdict = some (st, d, l) → exec .loadChecksDone s = .next (s.refuseLoad c.num ob r st d l).flushCmds) ∧
      (o.verdict = none → fits = false → exec .loadChecksDone s = .next (s.refuseLoad c.num ob r 9 0 []).flushCmds) ∧
      ∀ m, o.verdict = none → fits = true → mapPlaces c.desc.ptRoot places ⟨s, s.pick.drop 5⟩ = some m →
        (∀ p ∈ places, p.va % 2 ^ (o.sect p.sect).alog = 0) → (r.hint = 0 ∨ s.arg 2 = r.hint) →
        exec .loadChecksDone s = .next (m.st.placeObj c ob.num r o places).flushCmds) := by
  show (_ → execLoadChecksDone s = _) ∧ ∀ r, _ → _
  refine ⟨fun h => ?_, fun r hr => ⟨fun st d l hv => ?_, fun hv hf => ?_, fun m hv hf hm hal hh => ?_⟩⟩
  · unfold execLoadChecksDone
    simp only [hc, hob, h]
  · show execLoadChecksDone s = _
    unfold execLoadChecksDone
    simp only [hc, hob, hr]
    rw [hv]
  · show execLoadChecksDone s = _
    unfold execLoadChecksDone
    simp only [hc, hob, hr]
    rw [hv]
    dsimp only
    rw [hf]
    rfl
  · show execLoadChecksDone s = _
    unfold execLoadChecksDone
    simp only [hc, hob, hr]
    rw [hv]
    dsimp only
    rw [hf, hm]
    dsimp only
    rw [if_neg (by decide), if_pos]
    rw [Bool.and_eq_true]
    refine ⟨List.all_eq_true.mpr fun p hp => beq_iff_eq.mpr (hal p hp), ?_⟩
    rcases hh with h | h <;> simp [h]

/-- A refused object leaves its context, and its record shows why. -/
theorem State.refuseLoad_spec {s : State} {c : Ctx} (hc : s.ctx? c.num = some c) (o : KObj) (r : LoadReq) (st d : Nat) (l : List Offence) :
    (s.refuseLoad c.num o r st d l).ctx? c.num = some { c with objs := c.objs.filter (fun y => y.num != o.num) } ∧
      (s.refuseLoad c.num o r st d l).mem = (s.loaderWrite c.num r.res ([BitVec.ofNat 64 (0x4C524B5A + 2 ^ 32 * st),
        BitVec.ofNat 64 (min l.length r.cap + 2 ^ 32 * l.length), BitVec.ofNat 64 d, 0, 0, 0, 0, 0] ++
        (l.take (min l.length r.cap)).flatMap Offence.words)).mem := by
  have hh : ∀ n, resultHeader st 0 n l.length d 0 0 0 = [BitVec.ofNat 64 (0x4C524B5A + 2 ^ 32 * st),
      BitVec.ofNat 64 (n + 2 ^ 32 * l.length), BitVec.ofNat 64 d, 0, 0, 0, 0, 0] := fun n => by
    unfold resultHeader
    rw [Nat.mul_zero, Nat.add_zero]
    rfl
  unfold State.refuseLoad
  dsimp only
  rw [hh]
  generalize _ ++ (l.take (min l.length r.cap)).flatMap Offence.words = ws
  exact ⟨State.ctx?_modCtx_same (((s.loaderWrite_memOnly c.num r.res ws).ctx? _).trans hc) _ fun _ => rfl, rfl⟩

/-! An entry taken from its queue (12 R289). -/

/-- What LAUNCH_TAKE does with the entry of the queue to be served. -/
theorem launchTake_eq {s : State} {c : Ctx} {q : LQueue} (hc : s.ctx? (s.arg 0) = some c)
    (hq : c.queues.find? (fun y => y.num == s.arg 1) = some q) (hnext : s.nextQueue = some (q.prio, c.num, q.num))
    (hahead : ∀ i, i < c.ttCount → s.ttReady c i = true → (s.ttAt c i).queue ≠ q.num) {ws : List Word} {s0 : State}
    (hrd : (s.serve (q.prio, c.num, q.num)).physReadWords (q.base + 16 * (q.taken % q.entries)) 2 = (ws, s0)) :
    let stat := (ws.getD 1 0).toNat
    let s1 := s0.modCtx c.num (fun x => { x with
      queues := updWhere (fun y => y.num == q.num) (fun y => { y with taken := (y.taken + 1) % 2 ^ 32 }) x.queues })
    exec .launchTake s = .next (if stat % 8 ≠ 0 || !(s.func? c.fn).any (fun f => f.holds stat 8) then s1.logPlat 2 stat
      else (s1.tryLaunch c (ws.getD 0 0).toNat q.num none).2.2.physWrite stat
        (toBytes 8 (s1.tryLaunch c (ws.getD 0 0).toNat q.num none).1)) := by
  intro stat s1
  have ha : (List.range c.ttCount).any (fun i => s.ttReady c i && (s.ttAt c i).queue == q.num) = false :=
    List.any_eq_false.mpr fun i hi => by
      have := hahead i (List.mem_range.mp hi)
      simp only [Bool.and_eq_true, beq_iff_eq]
      exact fun h => this h.1 h.2
  have hgo : ¬ (s.nextQueue != some (q.prio, c.num, q.num) || (List.range c.ttCount).any (fun i => s.ttReady c i &&
      (s.ttAt c i).queue == q.num)) = true := by rw [ha, hnext]; simp
  show execLaunchTake s = _
  unfold execLaunchTake
  simp only [hc, hq]
  rw [if_neg hgo, hrd]
  dsimp only
  split <;> rfl

/-- What the entry of the queue to be served comes to: its status address is logged, its packet refused, or its status written. -/
theorem launchTaken {s : State} {c : Ctx} {q : LQueue} (hc : s.ctx? (s.arg 0) = some c)
    (hq : c.queues.find? (fun y => y.num == s.arg 1) = some q) (hnext : s.nextQueue = some (q.prio, c.num, q.num))
    (hahead : ∀ i, i < c.ttCount → s.ttReady c i = true → (s.ttAt c i).queue ≠ q.num) (rd : List Word × State)
    (hrd : (s.serve (q.prio, c.num, q.num)).physReadWords (q.base + 16 * (q.taken % q.entries)) 2 = rd) :
    let packet := (rd.1.getD 0 0).toNat
    let stat := (rd.1.getD 1 0).toNat
    let s1 := rd.2.modCtx c.num (fun x => { x with
      queues := updWhere (fun y => y.num == q.num) (fun y => { y with taken := (y.taken + 1) % 2 ^ 32 }) x.queues })
    (stat % 8 ≠ 0 → exec .launchTake s = .next (s1.logPlat 2 stat)) ∧
    (stat % 8 = 0 → (s.func? c.fn).any (fun f => f.holds stat 8) = true →
      (packet % 64 ≠ 0 → exec .launchTake s = .next (s1.physWrite stat (toBytes 8 1))) ∧
      (∀ v o s2, s1.tryLaunch c packet q.num none = (v, o, s2) →
        exec .launchTake s = .next (s2.physWrite stat (toBytes 8 v)) ∧
        ∀ lid, o = some lid → v = 0 ∧ ∃ c', s2.ctx? (s.arg 0) = some c' ∧ ∃ l ∈ c'.launches, l.lid = lid)) := by
  have hnum := State.num_of_ctx? hc
  have hx : rd.2.ctx? c.num = some c := by
    have hm := (s.serve (q.prio, c.num, q.num)).physReadWords_memOnly (q.base + 16 * (q.taken % q.entries)) 2
    rw [hrd] at hm
    rw [hnum]
    exact (hm.ctx? _).trans hc
  obtain ⟨ws, s0⟩ := rd
  have heq := launchTake_eq hc hq hnext hahead hrd
  intro packet stat s1
  refine ⟨fun hstat => ?_, fun hstat hown => ?_⟩
  · rw [heq, if_pos (by simp; exact .inl hstat)]
  · have hgo : ¬ (decide (stat % 8 ≠ 0) || !(s.func? c.fn).any (fun f => f.holds stat 8)) = true := by rw [hown]; simp [hstat]
    rw [heq, if_neg hgo]
    refine ⟨fun hp => ?_, fun v o s2 htry => ?_⟩
    · have e : s1.tryLaunch c packet q.num none = (1, none, s1) := by
        unfold State.tryLaunch
        rw [if_pos (by simp; exact .inl hp)]
      exact congrArg (fun r : Nat × Option Nat × State => Host.Outcome.next (r.2.2.physWrite stat (toBytes 8 r.1))) e
    · let f (x : Ctx) : Ctx := { x with
        queues := updWhere (fun y => y.num == q.num) (fun y => { y with taken := (y.taken + 1) % 2 ^ 32 }) x.queues }
      have h0 : (s0.modCtx c.num f).ctx? c.num = some (f c) := State.ctx?_modCtx_same hx f fun _ => rfl
      obtain ⟨ls, h1, h2⟩ := State.tryLaunch_spec h0 htry
      refine ⟨congrArg (fun r : Nat × Option Nat × State => Host.Outcome.next (r.2.2.physWrite stat (toBytes 8 r.1))) htry, fun lid hl => ?_⟩
      obtain ⟨hv, hlid⟩ := h2 lid hl
      exact ⟨hv, _, hnum ▸ h1, hlid⟩

/-! The timetable (12 R296, R297). -/

theorem State.ttAdd_memOnly (s : State) (pa n : Nat) : MemOnly s (s.ttAdd pa n) := by
  unfold State.ttAdd
  split
  · exact .refl s
  · have h := s.physRead_memOnly pa 2
    generalize s.physRead pa 2 = r at h
    exact h.trans (State.physWrite_memOnly _ _ _)

/-- An entry that is set is the one its context has at its index. -/
theorem State.setTt_spec {s : State} {n : Nat} {c : Ctx} (hc : s.ctx? n = some c) (e : TtEntry) :
    ∃ tt, (s.setTt n e).ctx? n = some { c with tt := tt } ∧ ({ c with tt := tt } : Ctx).ttEntry e.idx = e :=
  ⟨_, State.ctx?_modCtx_same hc (fun x => { x with tt := e :: x.tt.filter (fun y => y.idx != e.idx) }) fun _ => rfl,
    by simp [Ctx.ttEntry]⟩

theorem Ctx.ttEntry_idx (c : Ctx) (i : Nat) : (c.ttEntry i).idx = i := by
  unfold Ctx.ttEntry
  cases h : c.tt.find? (fun e => e.idx == i) with
  | none => rfl
  | some e => simpa using List.find?_some h

/-- An entry launched: it is not held, and counts on from its launch. -/
theorem State.ttLaunch_spec {s : State} {c c0 : Ctx} (hc : s.ctx? c.num = some c0) (e : TtEntry) (x : TtSlot) :
    ∃ c', (s.ttLaunch c e x).ctx? c.num = some c' ∧ (c'.ttEntry e.idx).nextK = e.nextK ∧ (c'.ttEntry e.idx).held = false := by
  unfold State.ttLaunch
  generalize hr : (s.serve (c.prioOf x.queue, c.num, x.queue)).tryLaunch c x.packet x.queue (some e.idx) = r
  obtain ⟨v, lid, s2⟩ := r
  obtain ⟨ls, h1, -⟩ := State.tryLaunch_spec (s := s.serve (c.prioOf x.queue, c.num, x.queue)) hc hr
  obtain ⟨tt, h2, h3⟩ := State.setTt_spec h1 { e with running := lid, held := false }
  have h3 : ({ { c0 with launches := ls } with tt := tt } : Ctx).ttEntry e.idx = { e with running := lid, held := false } := h3
  exact ⟨_, h2, by rw [h3], by rw [h3]⟩

/-- The context that an accepted pre-emption leaves. -/
theorem State.requestPreempt_ctx {s : State} {n : Nat} {c : Ctx} (hc : s.ctx? n = some c) (hst : c.st = .running ∨ c.st = .resident)
    (hv : c.viol = false) : (s.requestPreempt n).ctx? n = some { c with
      objs := c.objs.filter (fun o => o.st != 0), st := .preempting, stopAt := some s.clk, boundary := false } := by
  obtain ⟨u, -, hcx, -⟩ := State.abortLoads_spec hc
  have ha : (s.ctx? n).any (fun x => (x.st == .running || x.st == .resident) && !x.viol) = true := by
    rw [hc]; rcases hst with h | h <;> simp [h, hv]
  unfold State.requestPreempt
  dsimp only
  rw [ha]
  exact State.ctx?_modCtx_same hcx _ fun x => by split <;> rfl

/-- What a timetable's step is for a context that takes launches. -/
theorem timetableStart_eq {s : State} {c : Ctx} (hc : s.ctx? (s.arg 0) = some c) (hi : s.arg 1 < c.ttCount) (ht : s.takesLaunches c = true) :
    let pa := c.ttBase + 32 * s.arg 1
    let s1 := (s.physReadWords pa 4).2
    let x := s.ttAt c (s.arg 1)
    let e := c.ttEntry (s.arg 1)
    let may := s.nextQueue == some (c.prioOf x.queue, c.num, x.queue)
    exec .timetableStart s =
      if !x.on then .next s
      else if e.held && may && (!c.ttRunning e || x.rule == 2) then .next (s1.ttLaunch c e x)
      else if !s.ttDue x e then .next s
      else
        let j := if x.period = 0 then 1 else (s.ptp - x.start) / x.period - e.nextK + 1
        let e1 := { e with nextK := e.nextK + j }
        if !c.ttRunning e then
          if may then .next ((s1.ttAdd (pa + 28) (j - 1)).ttLaunch c e1 x) else .next s
        else
          let missed := if x.rule = 0 || e.held then 1 else 0
          let s2 := (s1.ttAdd (pa + 28) (j - 1 + missed)).setTt c.num { e1 with held := e.held || decide (x.rule ≠ 0) }
          .next (if x.rule = 2 then (s2.ttAdd (pa + 30) 1).requestPreempt c.num else s2) := by
  intro pa s1 x e may
  unfold State.takesLaunches at ht
  simp only [Bool.and_eq_true, Bool.or_eq_true, beq_iff_eq, Option.isNone_iff_eq_none] at ht
  obtain ⟨⟨⟨⟨hst, -⟩, hstop⟩, hready⟩, -⟩ := ht
  have hknown : (c.st == .running || c.st == .resident || c.st == .preempting || c.st == .saved) = true := by
    rcases hst with h | h <;> simp [h]
  have haway : (c.st == .preempting || c.st == .saved || c.stopAt.isSome) = false := by
    rcases hst with h | h <;> simp [h, hstop]
  have hgo : ¬ (decide (c.ttCount ≤ s.arg 1) || !(c.st == .running || c.st == .resident || c.st == .preempting || c.st == .saved) ||
      !s.plat.ready) = true := by
    rw [hknown, hready]; simp; omega
  show execTimetableStart s = _
  unfold execTimetableStart
  simp only [hc]
  rw [if_neg hgo, haway]
  simp only [Bool.or_false, Bool.not_false, Bool.and_true]
  rfl

/-- The entry whose start has come is counted on to the first start that is still ahead. -/
theorem nextStart {start k period ptp : Nat} (h : start + k * period ≤ ptp) (hp : period ≠ 0) :
    k + (if period = 0 then 1 else (ptp - start) / period - k + 1) = (ptp - start) / period + 1 := by
  have hk : k ≤ (ptp - start) / period := (Nat.le_div_iff_mul_le (Nat.pos_of_ne_zero hp)).mpr (by omega)
  rw [if_neg hp]
  omega

/-- A timetable's step where its entry is on: its next run is launched, or skipped, held or pre-empts. -/
theorem timetableStarts {s : State} {c : Ctx} {x : TtSlot} {e : TtEntry} (hc : s.ctx? (s.arg 0) = some c) (hx : s.ttAt c (s.arg 1) = x)
    (he : c.ttEntry (s.arg 1) = e) (hi : s.arg 1 < c.ttCount) (ht : s.takesLaunches c = true) (hon : x.on = true) :
    let After (Q : Ctx → Prop) : Prop := ∃ t c', exec .timetableStart s = .next t ∧ t.ctx? (s.arg 0) = some c' ∧ Q c'
    let served : Prop := s.nextQueue = some (c.prioOf x.queue, c.num, x.queue)
    (e.held = true → c.ttRunning e = false → served →
      After (fun c' => (c'.ttEntry (s.arg 1)).nextK = e.nextK ∧ (c'.ttEntry (s.arg 1)).held = false)) ∧
    (e.held = false → x.start + e.nextK * x.period ≤ s.ptp → x.period ≠ 0 →
      (c.ttRunning e = false → served → After (fun c' =>
        (c'.ttEntry (s.arg 1)).nextK = (s.ptp - x.start) / x.period + 1 ∧ (c'.ttEntry (s.arg 1)).held = false)) ∧
      (c.ttRunning e = true → After (fun c' =>
        (c'.ttEntry (s.arg 1)).nextK = (s.ptp - x.start) / x.period + 1 ∧ (c'.ttEntry (s.arg 1)).held = decide (x.rule ≠ 0) ∧
        (c'.ttEntry (s.arg 1)).running = e.running ∧ c'.st = (if x.rule = 2 then .preempting else c.st)))) := by
  intro After served
  have hnum := State.num_of_ctx? hc
  have hcn : s.ctx? c.num = some c := by rw [hnum]; exact hc
  have heq := timetableStart_eq hc hi ht
  have hx1 := ((s.physReadWords_memOnly (c.ttBase + 32 * s.arg 1) 4).ctx? c.num).trans hcn
  dsimp only at heq
  rw [hx, he] at heq
  generalize (s.physReadWords (c.ttBase + 32 * s.arg 1) 4).2 = s1 at heq hx1
  have hidx : e.idx = s.arg 1 := by rw [← he]; exact Ctx.ttEntry_idx c _
  rw [if_neg (show ¬ (!x.on) = true by rw [hon]; decide)] at heq
  have after : ∀ {u : State} {c' : Ctx} {Q : Ctx → Prop}, exec .timetableStart s = .next u → u.ctx? c.num = some c' → Q c' → After Q :=
    fun he hx hq => ⟨_, _, he, hnum ▸ hx, hq⟩
  refine ⟨fun hheld hrun hserved => ?_, fun hheld hdue hp => ?_⟩
  · have hgo : (e.held && s.nextQueue == some (c.prioOf x.queue, c.num, x.queue) && (!c.ttRunning e || x.rule == 2)) = true := by
      rw [hheld, hrun, show s.nextQueue = _ from hserved]; simp
    obtain ⟨c', h1, h2, h3⟩ := State.ttLaunch_spec hx1 e x
    rw [hidx] at h2 h3
    rw [if_pos hgo] at heq
    exact after heq h1 ⟨h2, h3⟩
  · have hd : ¬ (!s.ttDue x e) = true := by unfold State.ttDue; simp [hdue, hp]
    have hk := nextStart hdue hp
    generalize (if x.period = 0 then 1 else (s.ptp - x.start) / x.period - e.nextK + 1) = j at heq hk
    rw [if_neg (by rw [hheld]; simp), if_neg hd] at heq
    refine ⟨fun hrun hserved => ?_, fun hrun => ?_⟩
    · rw [if_pos (by rw [hrun]; rfl), if_pos (by rw [show s.nextQueue = _ from hserved]; simp)] at heq
      obtain ⟨c', h1, h2, h3⟩ := State.ttLaunch_spec (c := c) (((s1.ttAdd_memOnly (c.ttBase + 32 * s.arg 1 + 28) (j - 1)).ctx? _).trans hx1)
        { e with nextK := e.nextK + j } x
      have h2 : (c'.ttEntry e.idx).nextK = e.nextK + j := h2
      have h3 : (c'.ttEntry e.idx).held = false := h3
      rw [hidx] at h2 h3
      exact after heq h1 ⟨h2.trans hk, h3⟩
    · rw [if_neg (by rw [hrun]; decide)] at heq
      generalize (if x.rule = 0 || e.held then 1 else 0) = missed at heq
      obtain ⟨tt, h1, h2⟩ := State.setTt_spec (((s1.ttAdd_memOnly (c.ttBase + 32 * s.arg 1 + 28) (j - 1 + missed)).ctx? _).trans hx1)
        { e with nextK := e.nextK + j, held := e.held || decide (x.rule ≠ 0) }
      have h2 : ({ c with tt := tt } : Ctx).ttEntry e.idx = { e with nextK := e.nextK + j, held := e.held || decide (x.rule ≠ 0) } := h2
      rw [hidx] at h2
      generalize ((s1.ttAdd (c.ttBase + 32 * s.arg 1 + 28) (j - 1 + missed)).setTt c.num
        { e with nextK := e.nextK + j, held := e.held || decide (x.rule ≠ 0) }) = s2 at heq h1
      have hlive : (c.st = .running ∨ c.st = .resident) ∧ c.viol = false := by
        unfold State.takesLaunches at ht
        simp only [Bool.and_eq_true, Bool.or_eq_true, beq_iff_eq, Bool.not_eq_true'] at ht
        exact ⟨ht.1.1.1.1, ht.1.1.1.2⟩
      by_cases h2r : x.rule = 2
      · rw [if_pos h2r] at heq
        obtain ⟨c', h3, htt, hst⟩ : ∃ c', ((s2.ttAdd (c.ttBase + 32 * s.arg 1 + 30) 1).requestPreempt c.num).ctx? c.num = some c' ∧
            c'.tt = tt ∧ c'.st = .preempting :=
          ⟨_, State.requestPreempt_ctx (((s2.ttAdd_memOnly (c.ttBase + 32 * s.arg 1 + 30) 1).ctx? _).trans h1) hlive.1 hlive.2, rfl, rfl⟩
        have h4 : c'.ttEntry (s.arg 1) = { e with nextK := e.nextK + j, held := e.held || decide (x.rule ≠ 0) } := by
          unfold Ctx.ttEntry at h2 ⊢
          rw [htt]
          exact h2.trans (by rw [hidx])
        generalize (s2.ttAdd (c.ttBase + 32 * s.arg 1 + 30) 1).requestPreempt c.num = s3 at heq h3
        refine after heq h3 ⟨?_, ?_, ?_, hst.trans (if_pos h2r).symm⟩ <;> rw [h4]
        · exact hk
        · rw [hheld]; rfl
      · rw [if_neg h2r] at heq
        refine after heq h1 ⟨?_, ?_, ?_, (if_neg h2r).symm⟩ <;> rw [h2]
        · exact hk
        · rw [hheld]; rfl

/-- Settles O50: the end of a load, the entry of the queue to be served, and the timetable's start. -/
theorem loadsAndLaunches : Obligations.LoadsAndLaunches := by
  intro s c hc After
  have hnum := State.num_of_ctx? hc
  have hcn : s.ctx? c.num = some c := by rw [hnum]; exact hc
  have flushed : ∀ {i : Instr} {u : State} {c' : Ctx} {Q : State → Ctx → Prop}, exec i s = .next u.flushCmds → u.ctx? c.num = some c' →
      Q u.flushCmds c' → After i Q := fun he hx hq => ⟨_, _, he, hnum ▸ hx, hq⟩
  refine ⟨fun ob hob => ?_, fun q hq ht hne hall hahead => ?_, ?_⟩
  · obtain ⟨h1, h2⟩ := loadChecks s c hc ob hob
    intro Gone record Refused
    refine ⟨fun hr => ?_, fun r hr => ?_⟩
    · exact flushed (h1 hr) (State.ctx?_modCtx_same hcn (fun x => { x with objs := x.objs.filter (fun y => y.num != ob.num) }) fun _ => rfl) rfl
    · obtain ⟨k1, k2, k3⟩ := h2 r hr
      intro o places fits
      refine ⟨fun st d l hv => ?_, fun hv hf => ?_, fun m hv hf hm hal hh => ?_⟩
      · obtain ⟨m1, m2⟩ := State.refuseLoad_spec hcn ob r st d l
        have e := k1 st d l hv
        generalize s.refuseLoad c.num ob r st d l = u at m1 m2 e
        exact flushed e m1 ⟨rfl, m2⟩
      · obtain ⟨m1, m2⟩ := State.refuseLoad_spec hcn ob r 9 0 []
        have e := k2 hv hf
        generalize s.refuseLoad c.num ob r 9 0 [] = u at m1 m2 e
        exact flushed e m1 ⟨rfl, m2⟩
      · obtain ⟨n, hn⟩ := State.placeObj_ctx (s := m.st) (c := c) (((mapPlaces_memOnly hm).ctx? _).trans hcn) ob.num r o places
        have e := k3 m hv hf hm hal hh
        generalize m.st.placeObj c ob.num r o places = u at hn e
        exact flushed e hn ⟨n, rfl⟩
  · have hqn : q.num = s.arg 1 := by simpa using List.find?_some hq
    have hprio : c.prioOf q.num = q.prio := by
      unfold Ctx.prioOf
      rw [hqn, hq]; rfl
    have hoffer : (q.prio, c.num, q.num) ∈ s.ctxs.flatMap s.offers := by
      refine List.mem_flatMap.mpr ⟨c, List.mem_of_find?_eq_some hc, ?_⟩
      unfold State.offers
      rw [ht, if_pos rfl]
      refine List.mem_map.mpr ⟨q.num, List.mem_append_left _ (List.mem_map.mpr ⟨q, List.mem_filter.mpr
        ⟨List.mem_of_find?_eq_some hq, by simpa using hne⟩, rfl⟩), by rw [hprio]⟩
    have hnext : s.nextQueue = some (q.prio, c.num, q.num) := State.nextQueue_of hoffer fun y hy => by
      obtain ⟨x, hx, hy⟩ := List.mem_flatMap.mp hy
      exact hall x hx y hy
    exact launchTaken hc hq hnext hahead _ rfl
  · intro i x e served hi ht hon
    exact timetableStarts hc rfl rfl hi ht hon

end Sys2Proof.Machine
end


section
/-!
SETTLED. PTS ticks, rebases, poison, and the scrub passes with their keys (O53): what the platform's bookkeeping of an error changes,
and each step by its definition.
-/

namespace Sys2Proof.Machine

open Sys2Proof

/-! Every lane at once. -/

/-- A lane of a state whose groups are changed lane by lane. -/
theorem State.lane_of_groups_map {s t : State} {h : Group → Group} {f : Lane → Lane} {gid i : Nat} {g : Group}
    (ht : t.groups = s.groups.map h) (hid : ∀ g, (h g).gid = g.gid) (hl : ∀ g, (h g).lanes = g.lanes.map f)
    (hg : s.group? gid = some g) (hi : i < g.size) : t.lane gid i = f (g.lane i) := by
  have hfind : t.group? gid = some (h g) := by
    unfold State.group? at hg ⊢
    rw [ht, List.find?_map, show ((fun x : Group => x.gid == gid) ∘ h) = fun x => x.gid == gid from funext fun x => by simp [hid], hg]
    rfl
  have hi : i < g.lanes.length := hi
  rw [State.lane_of_group? hfind]
  simp [Group.lane, hl, List.getD_eq_getElem?_getD, hi]

/-- Scratchpads whose classes are changed without their bytes. -/
theorem samePads_of_map {s t : State} {f : Klass → Klass} (ht : t.classes = s.classes.map f) (hk : ∀ k, (f k).kid = k.kid)
    (hp : ∀ (k : Klass) (m : Nat), ((f k).pads[m]?).map (·.bytes) = (k.pads[m]?).map (·.bytes)) : SamePads s t := by
  intro n m
  unfold State.pad? State.klass?
  rw [ht, List.find?_map, show ((fun x : Klass => x.kid == n) ∘ f) = fun x => x.kid == n from funext fun x => by simp [hk]]
  cases s.classes.find? (fun x => x.kid == n) with
  | none => rfl
  | some k => exact hp k m

/-- A rebase fires a lane's watch, as lost. -/
def Lane.watchLost (l : Lane) : Lane := { l with watch := l.watch.map (fun w => { w with fired := some (w.fired.getD .lost) }) }

theorem Lane.watchLost_fired {l : Lane} {w : Watch} (h : l.watchLost.watch = some w) : w.fired.isSome = true := by
  obtain ⟨v, -, rfl⟩ := Option.map_eq_some_iff.mp h
  rfl

/-- A group after a rebase. -/
def Group.rebased (n : Nat) (g : Group) : Group := { g.lower n with lanes := (g.lower n).lanes.map Lane.watchLost }

theorem Group.rebased_lanes (n : Nat) (g : Group) : (g.rebased n).lanes = g.lanes.map (fun l => (l.lower n).watchLost) := by
  show (g.lanes.map (Lane.lower n)).map Lane.watchLost = _
  rw [List.map_map]
  rfl

theorem Klass.lower_bytes (n : Nat) (k : Klass) (m : Nat) : ((k.lower n).pads[m]?).map (·.bytes) = (k.pads[m]?).map (·.bytes) := by
  unfold Klass.lower
  rw [List.getElem?_map, Option.map_map]
  rfl

/-! What an error in a unit changes. -/

/-- Two states differ in the platform's bookkeeping only: its log grows, and keys and scrub passes stay. -/
structure NotesOnly (s t : State) : Prop where
  rest : t = { s with plat := t.plat }
  log : ∀ x ∈ s.plat.log, x ∈ t.plat.log
  keys : t.plat.keyOld = s.plat.keyOld ∧ t.plat.keyCur = s.plat.keyCur ∧ t.plat.scrubNext = s.plat.scrubNext

theorem NotesOnly.trans {s t u : State} (h : NotesOnly s t) (k : NotesOnly t u) : NotesOnly s u :=
  ⟨by rw [k.rest, h.rest], fun x hx => k.log x (h.log x hx),
    k.keys.1.trans h.keys.1, k.keys.2.1.trans h.keys.2.1, k.keys.2.2.trans h.keys.2.2⟩

theorem NotesOnly.mem {s t : State} (h : NotesOnly s t) : t.mem = s.mem := by rw [h.rest]

theorem State.logPlat_notes (s : State) (code n : Nat) : NotesOnly s (s.logPlat code n) :=
  ⟨rfl, fun _ hx => List.mem_cons_of_mem _ hx, rfl, rfl, rfl⟩

theorem State.retire_notes (s : State) (u : PUnit_) : NotesOnly s (s.retire u) :=
  ⟨rfl, fun _ hx => List.mem_cons_of_mem _ hx, rfl, rfl, rfl⟩

theorem State.channelError_notes (s : State) (st ch : Nat) : NotesOnly s (s.unitError (.channel st ch)) := by
  unfold State.unitError
  split
  · exact ⟨rfl, fun _ hx => hx, rfl, rfl, rfl⟩
  · split
    · exact s.retire_notes _
    · exact ⟨rfl, fun _ hx => List.mem_cons_of_mem _ hx, rfl, rfl, rfl⟩

theorem State.channelUe_notes (s : State) (st ch : Nat) : NotesOnly s (s.unitUe (.channel st ch)) := by
  unfold State.unitUe
  split
  · exact s.retire_notes _
  · exact (s.channelError_notes st ch).trans ⟨rfl, fun _ hx => hx, rfl, rfl, rfl⟩

/-- An error in a unit that is neither retired, nor suspect, nor under test starts its test. -/
theorem State.unitError_tests {s : State} {u : PUnit_} (hr : u ∉ s.plat.retired) (hs : u ∉ s.plat.suspects)
    (ht : ∀ x ∈ s.plat.tests, x.unit_ ≠ u) : (s.unitError u).plat.tests = s.plat.tests ++ [⟨u, s.clk⟩] := by
  unfold State.unitError
  rw [if_neg (by simpa [hr] using ht), if_neg (by simpa using hs)]
  rfl

/-- The first uncorrectable error of a unit within a day: its error, noted. -/
theorem State.unitUe_first {s : State} {u : PUnit_} (hu : s.ueRecent u = false) :
    (s.unitUe u).plat.tests = (s.unitError u).plat.tests ∧ (s.unitUe u).plat.ueAt.head? = some (u, s.clk) := by
  unfold State.unitUe
  rw [hu]
  exact ⟨rfl, rfl⟩

/-- A granule found bad is poisoned and logged, and its channel is tested. -/
theorem State.badGranule_notes (s : State) (g ch : Nat) : NotesOnly (s.poisonGranule g) (s.badGranule g ch) :=
  ((s.poisonGranule g).logPlat_notes 3 g).trans (State.channelUe_notes _ _ ch)

theorem State.badGranule_poisons (s : State) (g ch : Nat) :
    (s.badGranule g ch).mem.hbm = s.mem.hbm ∧ (s.badGranule g ch).mem.poisoned (64 * g) 64 = true := by
  rw [(s.badGranule_notes g ch).mem]
  refine ⟨rfl, ?_⟩
  unfold MemSys.poisoned State.poisonGranule State.setMem
  rw [List.any_cons, Bool.or_eq_true]
  left
  simp only [Bool.and_eq_true, decide_eq_true_eq]
  omega

theorem State.badGranule_log (s : State) (g ch : Nat) : (3, g) ∈ (s.badGranule g ch).plat.log :=
  (State.channelUe_notes _ _ ch).log _ List.mem_cons_self

theorem State.badGranule_tests {s : State} {g ch : Nat} (hr : .channel (granuleStack g) ch ∉ s.plat.retired)
    (hs : .channel (granuleStack g) ch ∉ s.plat.suspects) (ht : ∀ x ∈ s.plat.tests, x.unit_ ≠ .channel (granuleStack g) ch)
    (hu : s.ueRecent (.channel (granuleStack g) ch) = false) :
    (s.badGranule g ch).plat.tests = s.plat.tests ++ [⟨.channel (granuleStack g) ch, s.clk⟩] :=
  (State.unitUe_first (s := (s.poisonGranule g).logPlat 3 g) (u := .channel (granuleStack g) ch) hu).1.trans (State.unitError_tests hr hs ht)

/-! Keys. -/

theorem granuleStack_of {k : Nat} (i : Nat) (hk : k < 16) : granuleStack (granuleOf k i) = k := by
  unfold granuleStack granuleOf
  omega

theorem granuleIndex_of {k : Nat} (i : Nat) (hk : k < 16) : granuleIndex (granuleOf k i) = i := by
  unfold granuleIndex granuleOf
  omega

/-- A granule that the pass has reached is under the target version. -/
theorem State.keyVersion_reached {s : State} {k i : Nat} (hk : k < 16) (h : (k, i + 1) ∈ s.plat.scrubNext) :
    s.keyVersion (granuleOf k i) = s.plat.keyCur := by
  unfold State.keyVersion
  rw [granuleStack_of i hk, granuleIndex_of i hk]
  have hdone : s.plat.scrubNext.any (fun x => x.1 == k && decide (i < x.2)) = true :=
    List.any_eq_true.mpr ⟨_, h, by simp⟩
  rw [hdone]
  cases s.plat.keyOld <;> rfl

/-- As a pass begins every granule keeps its version. -/
theorem State.keyVersion_passStart {s t : State} (h : s.plat.keyOld = none) (ho : t.plat.keyOld = some s.plat.keyCur)
    (hn : t.plat.scrubNext = (List.range 16).map (fun k => (k, 0))) (hf : t.mem.fresh = []) (k : Nat) : t.keyVersion k = s.keyVersion k := by
  unfold State.keyVersion
  rw [h, ho, hn, hf]
  simp

/-- Where a stack's controller stands once it has moved on. -/
theorem find?_advanced {l : List (Nat × Nat)} {k i : Nat} (h : l.find? (fun x => x.1 == k) = some (k, i)) :
    (l.map (fun x => if x.1 = k then (k, i + 1) else x)).find? (fun x => x.1 == k) = some (k, i + 1) := by
  rw [List.find?_map, show ((fun x : Nat × Nat => x.1 == k) ∘ fun x => if x.1 = k then (k, i + 1) else x) = fun x => x.1 == k from
    funext fun x => by by_cases hx : x.1 = k <;> simp [hx], h]
  simp

/-- The state in which the controller of stack k has moved on from its granule i. -/
def State.scrubbed (s : State) (k i : Nat) : State :=
  { s with plat := { s.plat with scrubNext := s.plat.scrubNext.map (fun x => if x.1 = k then (k, i + 1) else x) } }

/-- SCRUB_GRANULE moves the controller on; a granule found bad is poisoned, any other leaves memory and keys. -/
theorem scrubGranule_eq {s : State} {n : Nat} (h : s.plat.scrubNext.find? (fun x => x.1 == s.arg 0) = some (s.arg 0, n))
    (hn : n < stackGranules) (ho : s.plat.keyOld.isSome = true) :
    (s.arg 1 = 1 → exec .scrubGranule s = .next ((s.scrubbed (s.arg 0) n).badGranule (granuleOf (s.arg 0) n) (s.arg 2))) ∧
    (s.arg 1 ≠ 1 → ∃ t, exec .scrubGranule s = .next t ∧ t.mem = (s.scrubbed (s.arg 0) n).mem ∧
      t.plat.keyCur = (s.scrubbed (s.arg 0) n).plat.keyCur ∧ t.plat.scrubNext = (s.scrubbed (s.arg 0) n).plat.scrubNext) := by
  have hgo : ¬ (decide (stackGranules ≤ n) || s.plat.keyOld.isNone) = true := by
    cases hk : s.plat.keyOld with
    | none => simp [hk] at ho
    | some _ => simpa using hn
  have heq : exec .scrubGranule s = .next (match s.arg 1 with
      | 1 => (s.scrubbed (s.arg 0) n).badGranule (granuleOf (s.arg 0) n) (s.arg 2)
      | 2 => (s.scrubbed (s.arg 0) n).unitError (.channel (s.arg 0) (s.arg 2))
      | _ => s.scrubbed (s.arg 0) n) := by
    show execScrubGranule s = _
    unfold execScrubGranule
    rw [h]
    dsimp only
    rw [if_neg hgo]
    rfl
  refine ⟨fun h1 => ?_, fun h1 => ?_⟩
  · rw [heq, h1]
    rfl
  · by_cases h2 : s.arg 1 = 2
    · rw [h2] at heq
      have hnote := (s.scrubbed (s.arg 0) n).channelError_notes (s.arg 0) (s.arg 2)
      exact ⟨_, heq, hnote.mem, hnote.keys.2⟩
    · refine ⟨s.scrubbed (s.arg 0) n, ?_, rfl, rfl, rfl⟩
      rw [heq]
      split
      · exact absurd ‹_› h1
      · exact absurd ‹_› h2
      · rfl

/-- Settles O53: each step of timestamps and keys. -/
theorem timestampsAndKeys : Obligations.TimestampsAndKeys := by
  intro s
  refine ⟨fun gid g i hg hi hclk => ?_, fun gid g i hg hi => ?_, fun hn => ?_, fun ho hr he => ?_, fun n hfind hn ho => ?_, fun hl ha => ?_⟩
  · have heq : execPtsTick s = .next { s with
        ticks := s.ticks + 1,
        groups := s.groups.map (fun g => { g with lanes := g.lanes.map (fun l => { l with pts := l.pts + 1 }) }) } := by
      unfold execPtsTick
      rw [if_neg (by omega)]
    exact ⟨_, heq, State.lane_of_groups_map (h := fun g => { g with lanes := g.lanes.map (fun l => { l with pts := l.pts + 1 }) })
      (f := fun l => { l with pts := l.pts + 1 }) rfl (fun _ => rfl) (fun _ => rfl) hg hi, rfl⟩
  · refine ⟨_, Eq.refl (execRebase s), ?_⟩
    rw [State.lane_of_groups_map (h := Group.rebased (s.arg 0)) (f := fun l => (l.lower (s.arg 0)).watchLost) rfl (fun _ => rfl)
      (Group.rebased_lanes (s.arg 0)) hg hi]
    refine ⟨rfl, ⟨rfl, rfl, rfl, rfl, rfl, rfl, rfl, rfl, rfl, rfl, rfl, rfl, rfl, rfl, rfl⟩, fun w hw => Lane.watchLost_fired hw, rfl, ?_, rfl⟩
    exact samePads_of_map rfl (fun _ => rfl) (Klass.lower_bytes (s.arg 0))
  · have heq : execPoison s = .next (s.badGranule (s.arg 0) (s.arg 1)) := by
      unfold execPoison
      rw [if_neg (by omega)]
    obtain ⟨h1, h2⟩ := s.badGranule_poisons (s.arg 0) (s.arg 1)
    exact ⟨_, heq, h2, h1, s.badGranule_log _ _, fun hr hs ht hu => State.badGranule_tests hr hs ht hu⟩
  · have hearly : (s.plat.scrubStart != 0 && decide (s.clk < s.plat.scrubStart + 12960000000000 * s.plat.scrubHours)) = false := by
      rcases he with h | h
      · simp [h]
      · simp only [Bool.and_eq_false_iff, decide_eq_false_iff_not]
        exact .inr (by omega)
    have heq : execScrubPassStart s = .next { s with
        mem := { s.mem with fresh := [] },
        plat := { s.plat with
          keyOld := some s.plat.keyCur, keyCur := (s.plat.keyCur + 1) % 16, scrubNext := (List.range 16).map (fun k => (k, 0)),
          scrubStart := s.clk } } := by
      unfold execScrubPassStart
      rw [hearly, ho, hr]
      rfl
    exact ⟨_, heq, rfl, rfl, rfl, fun k => State.keyVersion_passStart ho rfl rfl rfl k⟩
  · obtain ⟨h1, h2⟩ := scrubGranule_eq hfind hn ho
    have hnext := find?_advanced hfind
    generalize hs1 : s.scrubbed (s.arg 0) n = s1 at h1 h2
    have hnext1 : s1.plat.scrubNext.find? (fun x => x.1 == s.arg 0) = some (s.arg 0, n + 1) := by rw [← hs1]; exact hnext
    have hmem1 : s1.mem = s.mem := by rw [← hs1]; rfl
    have hkey1 : s1.plat.keyCur = s.plat.keyCur := by rw [← hs1]; rfl
    by_cases hbad : s.arg 1 = 1
    · obtain ⟨b1, b2⟩ := s1.badGranule_poisons (granuleOf (s.arg 0) n) (s.arg 2)
      obtain ⟨-, -, hkeys⟩ := s1.badGranule_notes (granuleOf (s.arg 0) n) (s.arg 2)
      obtain ⟨-, k2, k3⟩ := hkeys
      have hnext2 := (congrArg (List.find? (fun x => x.1 == s.arg 0)) k3).trans hnext1
      exact ⟨_, h1 hbad, hnext2, b1.trans (congrArg MemSys.hbm hmem1), fun _ => b2,
        fun h16 => (State.keyVersion_reached h16 (List.mem_of_find?_eq_some hnext2)).trans (k2.trans hkey1), fun h => absurd hbad h⟩
    · obtain ⟨t, ht, hmem, hcur, hsn⟩ := h2 hbad
      have hnext2 := (congrArg (List.find? (fun x => x.1 == s.arg 0)) hsn).trans hnext1
      exact ⟨t, ht, hnext2, congrArg MemSys.hbm (hmem.trans hmem1), fun h => absurd h hbad,
        fun h16 => (State.keyVersion_reached h16 (List.mem_of_find?_eq_some hnext2)).trans (hcur.trans hkey1), fun _ => hmem.trans hmem1⟩
  · have heq : execKeyErase s = .next { s with plat := { s.plat with keyOld := none, scrubNext := [] } } := by
      unfold execKeyErase
      rw [if_pos (by simpa [hl] using fun a b h => ha (a, b) h)]
    exact ⟨_, heq, rfl, rfl, rfl⟩

end Sys2Proof.Machine
end


section
/-!
SETTLED. Ports train, lose lanes, retrain and fail, and the time base follows PTP (O51): what the loss of messages leaves, and each step
on the port it names.
-/

namespace Sys2Proof.Machine

open Sys2Proof

/-! Lost messages touch jobs, the messages on their way and free values. -/

/-- Nothing has changed but counters and loss records of jobs, the messages on their way over MCL, and the count of free values. -/
structure LossOnly (s t : State) : Prop where
  rest : t = { s with
    jobs := t.jobs, freeN := t.freeN, link := { s.link with mcl := t.link.mcl } }

theorem LossOnly.trans {s t u : State} (h : LossOnly s t) (k : LossOnly t u) : LossOnly s u := ⟨by rw [k.rest, h.rest]⟩

theorem LossOnly.foldl {α : Type} {f : State → α → State} (hf : ∀ s a, LossOnly s (f s a)) (l : List α) (s : State) : LossOnly s (l.foldl f s) := by
  induction l generalizing s with
  | nil => exact ⟨rfl⟩
  | cons a r ih => exact (hf s a).trans (ih (f s a))

theorem LossOnly.ports {s t : State} (h : LossOnly s t) : t.link.ports = s.link.ports := by rw [h.rest]
theorem LossOnly.port? {s t : State} (h : LossOnly s t) (n : Nat) : t.port? n = s.port? n := by
  unfold State.port?
  rw [h.ports]
theorem LossOnly.dma {s t : State} (h : LossOnly s t) : t.link.dma = s.link.dma := by rw [h.rest]
theorem LossOnly.pend {s t : State} (h : LossOnly s t) : t.link.pend = s.link.pend := by rw [h.rest]
theorem LossOnly.plat {s t : State} (h : LossOnly s t) : t.plat = s.plat := by rw [h.rest]

theorem State.countHops_loss (s : State) (ctx job a b : Nat) : LossOnly s (s.countHops ctx job a b) :=
  LossOnly.foldl (fun _ _ => ⟨rfl⟩) _ s

theorem State.loseMcl_loss (s : State) (m : MclMsg) : LossOnly s (s.loseMcl m) :=
  LossOnly.trans (t := s.dropMcl m) ⟨rfl⟩ (LossOnly.trans (State.countHops_loss _ m.ctx m.job m.die (m.port / 6)) ⟨rfl⟩)

theorem State.loseCut_loss (s : State) : LossOnly s s.loseCut := LossOnly.foldl State.loseMcl_loss _ s

/-! A port named by its number. -/

theorem State.num_of_port? {s : State} {n : Nat} {p : Port} (h : s.port? n = some p) : p.num = n := by
  simpa using List.find?_some h

theorem State.port?_modPort {s : State} {n : Nat} {p : Port} (h : s.port? n = some p) (f : Port → Port) (hf : ∀ q, (f q).num = q.num) :
    (s.modPort n f).port? n = some (f p) := by
  unfold State.port? at h ⊢
  refine (find?_updWhere Port.num n n f hf s.link.ports).trans ?_
  rw [h]
  simp [State.num_of_port? h]

/-- Replaces a port by one of the same number. -/
theorem State.port?_putPort {s : State} {n : Nat} {p : Port} (h : s.port? n = some p) (q : Port) (hq : q.num = n) :
    (s.modPort n (fun _ => q)).port? n = some q := by
  show (updWhere (fun p => p.num == n) (fun _ => q) s.link.ports).find? (fun p => p.num == n) = some q
  have h : s.link.ports.find? (fun p => p.num == n) = some p := h
  generalize s.link.ports = l at h
  induction l with
  | nil => simp at h
  | cons a r ih =>
    by_cases ha : a.num = n
    · simp [updWhere, ha, hq]
    · have h : r.find? (fun p => p.num == n) = some p := by simpa [ha] using h
      simpa [updWhere, ha] using ih h

theorem State.loseCut_port? (s : State) (n : Nat) : s.loseCut.port? n = s.port? n := s.loseCut_loss.port? n

theorem State.failPort_port? {s : State} {n : Nat} {p : Port} (h : s.port? n = some p) :
    (s.failPort n).port? n = some { p with st := .failed, outSince := s.clk } :=
  (State.loseCut_port? _ n).trans (State.port?_modPort h (fun q => { q with st := .failed, outSince := s.clk }) fun _ => rfl)

/-- A retraining of a port that is asked for: at once, or held while a save writes to its die. -/
def State.retrained (s : State) (n : Nat) (q : Port) : Port :=
  if s.savesOn (n / 6) then { q with pending := true }
  else { q with st := .retraining, pending := false, attempts := 0, retrains := min (q.retrains + 1) (2 ^ 32 - 1), outSince := s.clk }

theorem State.requestRetrain_port? {s : State} {n : Nat} {p : Port} (h : s.port? n = some p) :
    (s.requestRetrain n).port? n = some (s.retrained n p) := by
  unfold State.requestRetrain State.retrained
  by_cases hs : s.savesOn (n / 6) = true
  · rw [if_pos hs, if_pos hs]
    exact State.port?_modPort h (fun q => { q with pending := true }) fun _ => rfl
  · rw [if_neg hs, if_neg hs]
    exact State.port?_modPort (s := s.stallDie (n / 6)) h (fun q => { q with
      st := .retraining, pending := false, attempts := 0, retrains := min (q.retrains + 1) (2 ^ 32 - 1), outSince := s.clk }) fun _ => rfl

theorem State.carries_of_port? {s : State} {n : Nat} {p : Port} (h : s.port? n = some p) (hm : p.mcl = true) (hc : p.carries = true) :
    s.carries n = true :=
  List.any_eq_true.mpr ⟨p, List.mem_of_find?_eq_some h, by simp [State.num_of_port? h, hm, hc]⟩

/-! The steps of a port. -/

theorem trainingEnd_port? {s : State} {p : Port} (h : s.port? (s.arg 0) = some p) (ht : p.st = .training ∨ p.st = .retraining) :
    ∃ t, exec .trainingEnd s = .next t ∧ t.port? (s.arg 0) = some p.trained := by
  refine ⟨_, Eq.refl (execTrainingEnd s), (State.loseCut_port? _ _).trans ?_⟩
  rw [State.port?_modPort h _ (fun q => by unfold Port.trained; split_ifs <;> rfl), if_pos (by rcases ht with h | h <;> rw [h] <;> rfl)]

theorem mclPortTimeout_port? {s : State} {p : Port} (h : s.port? (s.arg 0) = some p) (ht : p.st = .training ∨ p.st = .retraining)
    (hm : p.mcl = true) (ho : p.outSince + 36000000 ≤ s.clk) :
    ∃ t, exec .mclPortTimeout s = .next t ∧ t.port? (s.arg 0) = some { p with st := .failed } := by
  refine ⟨_, Eq.refl (execMclPortTimeout s), (State.loseCut_port? _ _).trans ?_⟩
  rw [State.port?_modPort h _ (fun q => by split <;> rfl), if_pos (by rcases ht with h | h <;> simp [h, hm, ho])]

/-- A port one of whose lanes is retired: the spare lane, or a data lane. -/
def Port.less (p : Port) (spare : Bool) : Port := if spare then { p with spareBad := true } else { p with dataBad := min 4 (p.dataBad + 1) }

/-- What the loss of a lane does to a port in service. -/
theorem State.retireLane_port? {s : State} {n : Nat} {p : Port} (h : s.port? n = some p) {spare : Bool} (hs : (spare && p.spareBad) = false) :
    (p.st = .up → spare = true → (s.retireLane n spare).port? n = some (p.less spare)) ∧
    (p.st = .up → spare = false → p.spare = true → (s.retireLane n spare).port? n = some { p.less spare with st := .degraded }) ∧
    (p.st = .up → spare = false → p.spare = false → (s.retireLane n spare).port? n = some (s.retrained n (p.less spare))) ∧
    (p.st = .degraded → p.lanes = 4 → (s.retireLane n spare).port? n = some (s.retrained n (p.less spare))) ∧
    (p.st = .degraded → p.lanes ≠ 4 → (s.retireLane n spare).port? n = some { p.less spare with st := .failed, outSince := s.clk }) := by
  have hq : (s.modPort n (fun _ => p.less spare)).port? n = some (p.less spare) :=
    State.port?_putPort h _ ((show (p.less spare).num = p.num by unfold Port.less; split <;> rfl).trans (State.num_of_port? h))
  have heq : s.retireLane n spare = match p.st with
      | .up =>
        if spare then s.modPort n (fun _ => p.less spare)
        else if p.spare then (s.modPort n (fun _ => p.less spare)).modPort n (fun x => { x with st := .degraded })
        else (s.modPort n (fun _ => p.less spare)).requestRetrain n
      | .degraded =>
        if p.lanes = 4 then (s.modPort n (fun _ => p.less spare)).requestRetrain n else (s.modPort n (fun _ => p.less spare)).failPort n
      | _ => s.modPort n (fun _ => p.less spare) := by
    unfold State.retireLane
    rw [h]
    dsimp only
    rw [hs]
    rfl
  rw [heq]
  refine ⟨fun hst h1 => ?_, fun hst h1 h2 => ?_, fun hst h1 h2 => ?_, fun hst h1 => ?_, fun hst h1 => ?_⟩ <;> rw [hst] <;> dsimp only
  · rw [if_pos h1]; exact hq
  · rw [if_neg (by simp [h1]), if_pos h2]; exact State.port?_modPort hq (fun x => { x with st := .degraded }) fun _ => rfl
  · rw [if_neg (by simp [h1]), if_neg (by simp [h2])]; exact State.requestRetrain_port? hq
  · rw [if_pos h1]; exact State.requestRetrain_port? hq
  · rw [if_neg h1]; exact State.failPort_port? hq

/-! The commands of ports (19 R448). -/

/-- An answer of a port command. -/
theorem portAnswers {s u : State} {i : Instr} {cmd : Nat} {only0 : Bool} {f : State → Func → CmdOut} (he : exec i s = s.command cmd only0 f)
    {fn : Func} {ring : CmdRing} (h : s.commandAt fn ring) {st res r : Nat} (hres : res % 2 ^ 56 = r) (hc : s.cmdCode = cmd) (hf : s.cmdOut only0 f fn = .now st res u) (hu : u.link.pend = s.link.pend ∧ u.link.dma = s.link.dma)
    (hst : st < 256) {n : Nat} {q : Port} (hq : u.port? n = some q) :
    ∃ t, exec i s = .next t ∧ t.link.dma = s.link.dma ++ [(fn.num, s.arg 2, st + 256 * r)] ∧ t.port? n = some q := by
  obtain ⟨t, e, ht⟩ := State.command_now h (.inr (.inr hc)) hf (hu.1.trans h.pend)
  rw [Nat.mod_eq_of_lt hst, hres] at ht
  refine ⟨t, he.trans e, by rw [ht.link, ← hu.2], ?_⟩
  unfold State.port? at hq ⊢
  rw [ht.link]
  exact hq

/-- PORTCFG of a port: what it answers, by the mode, the rate and what it is asked to do. -/
theorem portcfg_answers {s : State} {fn : Func} {ring : CmdRing} {p : Port} (h : s.commandAt fn ring) (h0 : fn.num = 0)
    (hc : s.cmdCode = 0x10) (hr : fieldAt (s.arg 3) 32 32 = 0) (hp : s.port? (s.arg 4) = some p) :
    let Answers (st : Nat) (q : Port) : Prop := ∃ t, exec .portcfg s = .next t ∧
      t.link.dma = s.link.dma ++ [(fn.num, s.arg 2, st + 256 * 0)] ∧ t.port? p.num = some q
    (s.arg 5 < 2 → s.arg 6 < 3 →
      (s.arg 7 = 1 → p.st = .down → Answers 0 { p with
        mcl := s.arg 5 == 1, rate := s.arg 6, st := .training, attempts := 0, outSince := s.clk }) ∧
      (s.arg 7 = 1 → p.st = .training → Answers 1 p) ∧
      (s.arg 7 = 0 → p.st ≠ .down → p.mcl = true → Answers 0 { p with st := .down, lanes := 0, pending := false })) ∧
    (2 ≤ s.arg 5 ∨ 3 ≤ s.arg 6 → Answers 6 p) := by
  intro Answers
  have hsound := State.cmdSound_of hc (by omega) (by omega) hr
  have hp' : s.port? p.num = some p := by rw [State.num_of_port? hp]; exact hp
  refine ⟨fun h5 h6 => ⟨fun h7 hd => ?_, fun h7 hd => ?_, fun h7 hd hm => ?_⟩, fun hbad => ?_⟩
  · refine portAnswers (s := s) (i := .portcfg) (cmd := 0x10) (only0 := true) (Eq.refl (execPortcfg s)) h (Nat.zero_mod _) hc ((State.cmdOut_sound _ hsound (.inr h0)).trans ?_) (u := s.modPort p.num (fun p => { p with mcl := s.arg 5 == 1, rate := s.arg 6, st := .training, attempts := 0, outSince := s.clk }))
      (st := 0) ⟨rfl, rfl⟩ (by decide) (State.port?_modPort hp' _ fun _ => rfl)
    rw [hp]; dsimp only
    rw [if_neg (by simp [h7]; omega), if_neg (by omega), hd]
  · refine portAnswers (s := s) (i := .portcfg) (cmd := 0x10) (only0 := true) (Eq.refl (execPortcfg s)) h (Nat.zero_mod _) hc ((State.cmdOut_sound _ hsound (.inr h0)).trans ?_) (u := s) (st := 1) ⟨rfl, rfl⟩ (by decide) hp'
    rw [hp]; dsimp only
    rw [if_neg (by simp [h7]; omega), if_neg (by omega), hd]
  · have hl := State.loseCut_loss (s.modPort p.num (fun p => { p with st := .down, lanes := 0, pending := false }))
    refine portAnswers (s := s) (i := .portcfg) (cmd := 0x10) (only0 := true) (Eq.refl (execPortcfg s)) h (Nat.zero_mod _) hc ((State.cmdOut_sound _ hsound (.inr h0)).trans ?_) (u := (s.modPort p.num (fun p => { p with st := .down, lanes := 0, pending := false })).loseCut) (st := 0)
      ⟨hl.pend, hl.dma⟩ (by decide) ((hl.port? _).trans (State.port?_modPort hp' _ fun _ => rfl))
    rw [hp]; dsimp only
    rw [if_neg (by simp [h7]; omega), if_pos h7, if_neg (by simpa using hd), if_pos hm]
  · refine portAnswers (s := s) (i := .portcfg) (cmd := 0x10) (only0 := true) (Eq.refl (execPortcfg s)) h (Nat.zero_mod _) hc ((State.cmdOut_sound _ hsound (.inr h0)).trans ?_) (u := s) (st := 6) ⟨rfl, rfl⟩ (by decide) hp'
    rw [hp]; dsimp only
    rw [if_pos (by simp; omega)]

/-- Settles O51: each step on the port it names, and the time base. -/
theorem portsAndTime : Obligations.PortsAndTime := by
  intro s p hnum After again less
  refine ⟨fun hp => ?_, ⟨_, rfl, rfl, rfl⟩, fun n hn hm => ?_, fun hup => ⟨fun hstep => ?_, fun hl hs h1 h2 => ?_⟩, fun hl hs => ?_,
    fun fn ring hr hf h0 hq hne hpend hp hrb => ?_⟩
  · have hn := State.num_of_port? hp
    have at_ : ∀ {i : Instr} {q : Port}, (∃ t, exec i s = .next t ∧ t.port? (s.arg 0) = some q) → After i q := by
      intro i q h
      rw [← hn] at h
      exact h
    refine ⟨fun ht => ⟨fun hg => at_ ?_, fun hg h4 => at_ ?_, fun hg ha => at_ ?_, fun hg ha => at_ ?_, fun hm ho => at_ (mclPortTimeout_port? hp ht hm ho)⟩,
      fun hs => ?_, fun hc => ?_, fun hc hm h1 => ?_⟩
    · have h := trainingEnd_port? hp ht
      rwa [Port.trained, if_pos hg] at h
    · have h := trainingEnd_port? hp ht
      rwa [Port.trained, if_neg (by omega), if_pos hg] at h
    · have h := trainingEnd_port? hp ht
      rwa [Port.trained, if_neg (by omega), if_neg (by omega), if_pos (by omega)] at h
    · have h := trainingEnd_port? hp ht
      rwa [Port.trained, if_neg (by omega), if_neg (by omega), if_neg (by omega)] at h
    · have hspare : ((s.arg 1 != 0) && p.spareBad) = false := by
        rcases hs with h | h <;> simp [h]
      have hless : p.less (s.arg 1 != 0) = less := by
        unfold Port.less
        by_cases h : s.arg 1 = 0 <;> simp [less, h]
      have hagain : s.retrained (s.arg 0) less = again less := by rw [← hn]; rfl
      obtain ⟨r1, r2, r3, r4, r5⟩ := State.retireLane_port? hp hspare
      rw [hless] at r1 r2 r3 r4 r5
      rw [hagain] at r3 r4
      have retired : ∀ {q : Port}, (s.retireLane (s.arg 0) (s.arg 1 != 0)).port? (s.arg 0) = some q → After .laneRetire q :=
        fun h => at_ ⟨_, Eq.refl (execLaneRetire s), h⟩
      exact ⟨fun hu h1 => retired (r1 hu (by simpa using h1)), fun hu h1 h2 => retired (r2 hu (by simp [h1]) h2),
        fun hu h1 h2 => retired (r3 hu (by simp [h1]) h2), fun hd h4 => retired (r4 hd h4), fun hd h4 => retired (r5 hd h4)⟩
    · have heq : execRetrainRequest s = .next (s.requestRetrain p.num) := by
        unfold execRetrainRequest
        rw [if_neg (by omega), hp]
        dsimp only
        rw [if_pos hc]
      exact ⟨_, heq, State.requestRetrain_port? (hn ▸ hp)⟩
    · have heq : execMclFlitReplay s = .next (s.modPort (s.arg 0) (fun p => { p with retried := p.retried + 1 })) := by
        unfold execMclFlitReplay
        rw [State.carries_of_port? hp hm hc, h1]
        rfl
      exact at_ ⟨_, heq, State.port?_modPort hp (fun p => { p with retried := p.retried + 1 }) fun _ => rfl⟩
  · have heq : execRouteSwitch s = .next { s with link := { s.link with via := (s.arg 0, n) :: s.link.via.filter (fun u => u.1 != s.arg 0) } } := by
      unfold execRouteSwitch
      rw [hn]
      dsimp only
      rw [if_neg (by simpa using hm)]
    exact ⟨_, heq, rfl⟩
  · have hgo : (!s.link.ptpLocked || decide (s.link.ptpSeen + 7200000000 ≤ s.clk) ||
        decide (1000 < if s.arg 0 < s.ptp then s.ptp - s.arg 0 else s.arg 0 - s.ptp)) = true := by
      rcases hstep with h | h | h | h
      · simp [h]
      · simp [h]
      all_goals simp only [Bool.or_eq_true, decide_eq_true_eq]; right; split <;> omega
    obtain ⟨t, ht⟩ : ∃ t, t = { s with
      ptp := s.arg 0, link := { s.link with ptpSeen := s.clk, ptpLocked := true, ptpFrac := 0 } } := ⟨_, rfl⟩
    refine ⟨t, ?_, by rw [ht], by rw [ht], by rw [ht]⟩
    rw [ht]
    show execPtpMessage s = _
    unfold execPtpMessage
    rw [hup]
    dsimp only
    rw [if_neg (by decide), if_pos hgo]
  · have hgo : ¬ (!s.link.ptpLocked || decide (s.link.ptpSeen + 7200000000 ≤ s.clk) ||
        decide (1000 < if s.arg 0 < s.ptp then s.ptp - s.arg 0 else s.arg 0 - s.ptp)) = true := by
      simp only [hl, Bool.or_eq_true, decide_eq_true_eq, Bool.not_true, Bool.false_eq_true, false_or, not_or, not_lt]
      exact ⟨by omega, by split <;> omega⟩
    have heq : ∃ t, execPtpMessage s = .next t ∧ t.ptp = s.ptp ∧ t.link.ptpSeen = s.clk ∧
        t.link.ptpRate = (if s.arg 0 < s.ptp then -(min ((s.arg 1 : Nat) : Int) 3600) else
          if s.arg 0 = s.ptp then 0 else min ((s.arg 1 : Nat) : Int) 3600) := by
      unfold execPtpMessage
      rw [hup]
      dsimp only
      rw [if_neg (by decide), if_neg hgo]
      exact ⟨_, rfl, rfl, rfl, rfl⟩
    obtain ⟨t, e, hp, hs, hr⟩ := heq
    exact ⟨t, e, hp, hs, hr.trans (by split_ifs <;> simp)⟩
  · show execPtpHoldover s = _
    unfold execPtpHoldover
    rw [if_pos (by rcases hs with h | h <;> simp [hl, h])]
  · intro Answers
    have h : s.commandAt fn ring := ⟨hr, hf, hq, hne, hpend⟩
    refine ⟨fun hc => ?_, fun hc => (portcfg_answers h h0 hc hrb hp).1, fun hc => (portcfg_answers h h0 hc hrb hp).2⟩
    have hp' : s.port? p.num = some p := by rw [State.num_of_port? hp]; exact hp
    have hsound := State.cmdSound_of hc (by omega) (by omega) hrb
    obtain ⟨t, e, hd, hq⟩ := portAnswers (s := s) (i := .portstat) (cmd := 0x11) (only0 := false) (Eq.refl (execPortstat s)) h rfl hc (st := 0) (u := s) ((State.cmdOut_sound _ hsound (.inl rfl)).trans (by rw [hp])) ⟨rfl, rfl⟩
      (by decide) hp'
    exact ⟨t, e, hd, hq⟩

end Sys2Proof.Machine
end


section
/-!
SETTLED. Self-test, spares, throttling, start-up, firmware and decode tables (O54): what retiring a unit and taking its spare change,
and each step by its definition.
-/

namespace Sys2Proof.Machine

open Sys2Proof

/-! Units that fail (20 R454, R455). -/

/-- The unit is retired, and no test of it is left. -/
def State.retiredUnit (t : State) (u : PUnit_) : Prop := u ∈ t.plat.retired ∧ ∀ x ∈ t.plat.tests, x.unit_ ≠ u

theorem State.retire_retired (s : State) (u : PUnit_) : (s.retire u).retiredUnit u := by
  constructor
  · show u ∈ if s.plat.retired.contains u then s.plat.retired else s.plat.retired ++ [u]
    split
    · simp_all
    · simp
  · intro x hx
    have h := (List.mem_filter.mp hx).2
    simpa using h

/-- A retired lane changes its port, and nothing of the platform's. -/
theorem State.retireLane_plat (s : State) (n : Nat) (spare : Bool) : (s.retireLane n spare).plat = s.plat := by
  have hr : ∀ t : State, (t.requestRetrain n).plat = t.plat := fun t => by unfold State.requestRetrain; dsimp only; split <;> rfl
  unfold State.retireLane
  split
  · rfl
  · split
    · rfl
    · dsimp only
      split
      · split
        · rfl
        · split
          · rfl
          · exact hr _
      · split
        · exact hr _
        · exact (State.loseCut_loss _).plat
      · rfl

theorem State.failUnit_retired (s : State) (u : PUnit_) : (s.failUnit u).retiredUnit u := by
  have h := s.retire_retired u
  unfold State.failUnit
  split
  · unfold State.retiredUnit
    rw [State.retireLane_plat]
    exact h
  · exact h

/-- An error in a suspect unit that is not retired and not under test fails it. -/
theorem State.unitError_suspect {s : State} {u : PUnit_} (ht : s.plat.tests.any (fun t => t.unit_ == u) = false) (hr : u ∉ s.plat.retired)
    (hs : u ∈ s.plat.suspects) : s.unitError u = s.failUnit u := by
  unfold State.unitError
  rw [ht, if_neg (by simpa using hr), if_pos (by simpa using hs)]

theorem State.unitUe_second {s : State} {u : PUnit_} (hu : s.ueRecent u = true) (hr : u ∉ s.plat.retired) : s.unitUe u = s.retire u := by
  unfold State.unitUe
  rw [hu, if_pos (by simpa using hr)]

/-- SELF_TEST on the unit that its operands name. -/
theorem selfTest_eq {s : State} {u : PUnit_} (hu : unitOf (s.pick.drop 1) = some u) :
    exec .selfTest s = match s.arg 0 with
      | 0 => .next (s.unitError u)
      | 1 => if !s.plat.tests.any (fun t => t.unit_ == u) || s.groups.any (unitHolds u) then .next s
        else .next { (s.logPlat 11 (unitCode u)) with plat := { (s.logPlat 11 (unitCode u)).plat with
          tests := s.plat.tests.filter (fun t => t.unit_ != u), suspects := u :: s.plat.suspects } }
      | 2 => if !s.plat.tests.any (fun t => t.unit_ == u) || s.groups.any (unitHolds u) then .next s else .next (s.failUnit u)
      | _ => .next (s.unitUe u) := by
  show execSelfTest s = _
  unfold execSelfTest
  rw [hu] <;> rfl

/-- An error starts a test or fails the unit, a test passes or fails, and an uncorrectable error is noted. -/
theorem selfTests {s : State} {u : PUnit_} (hu : unitOf (s.pick.drop 1) = some u) :
    let under := s.plat.tests.any (fun t => t.unit_ == u)
    let retiredBy (t : State) : Prop := u ∈ t.plat.retired ∧ ∀ x ∈ t.plat.tests, x.unit_ ≠ u
    (s.arg 0 = 0 → under = false → u ∉ s.plat.retired →
      (u ∉ s.plat.suspects → ∃ t, exec .selfTest s = .next t ∧ t.plat.tests = s.plat.tests ++ [⟨u, s.clk⟩]) ∧
      (u ∈ s.plat.suspects → ∃ t, exec .selfTest s = .next t ∧ retiredBy t)) ∧
    (under = true → s.groups.any (unitHolds u) = false →
      (s.arg 0 = 1 → ∃ t, exec .selfTest s = .next t ∧ t.plat.suspects = u :: s.plat.suspects ∧ t.plat.retired = s.plat.retired) ∧
      (s.arg 0 = 2 → ∃ t, exec .selfTest s = .next t ∧ retiredBy t)) ∧
    (s.arg 0 = 3 → u ∉ s.plat.retired →
      (s.ueRecent u = true → ∃ t, exec .selfTest s = .next t ∧ retiredBy t) ∧
      (s.ueRecent u = false → ∃ t, exec .selfTest s = .next t ∧ t.plat.ueAt.head? = some (u, s.clk))) := by
  intro under retiredBy
  have heq := selfTest_eq hu
  refine ⟨fun h0 hun hr => ⟨fun hs => ?_, fun hs => ?_⟩, fun hun hg => ⟨fun h1 => ?_, fun h2 => ?_⟩, fun h3 hr => ⟨fun hue => ?_, fun hue => ?_⟩⟩
  · rw [h0] at heq
    exact ⟨_, heq, State.unitError_tests hr hs (by simpa [under] using hun)⟩
  · rw [h0] at heq
    dsimp only at heq
    rw [State.unitError_suspect hun hr hs] at heq
    exact ⟨_, heq, s.failUnit_retired u⟩
  · rw [h1] at heq
    dsimp only at heq
    rw [if_neg (by rw [hg]; simpa [under] using hun)] at heq
    exact ⟨_, heq, rfl, rfl⟩
  · rw [h2] at heq
    exact ⟨_, heq.trans (if_neg (by rw [hg]; simpa [under] using hun)), s.failUnit_retired u⟩
  · rw [h3] at heq
    dsimp only at heq
    rw [State.unitUe_second hue hr] at heq
    exact ⟨_, heq, s.retire_retired u⟩
  · rw [h3] at heq
    exact ⟨_, heq, (State.unitUe_first hue).2⟩

/-! Spares and failures that none covers (20 R455). -/

/-- A vacant retired unit with a spare left: the spare takes its number. -/
theorem spareMapIn_takes {s : State} {u : PUnit_} (hu : unitOf s.pick = some u) (hr : u ∈ s.plat.retired) (hs : s.spareFor u = true)
    (hv : s.vacant u = true) : ∃ t, exec .spareMapIn s = .next t ∧ t.plat.spared.getLast? = some u ∧
      (∀ v, unitPartOf v u = true → v ∉ t.plat.retired) ∧ t.mem.hbm = s.mem.hbm := by
  have heq : ∃ t, execSpareMapIn s = .next t ∧ (∃ f, t.plat.spared = f ++ [u]) ∧
      t.plat.retired = s.plat.retired.filter (fun v => !unitPartOf v u) ∧ t.mem = (s.emptyUnit u).mem := by
    unfold execSpareMapIn
    rw [hu]
    dsimp only
    rw [if_neg (by simp [hr, hs, hv])]
    exact ⟨_, rfl, ⟨_, rfl⟩, rfl, rfl⟩
  obtain ⟨t, e, ⟨f, hsp⟩, hret, hmem⟩ := heq
  refine ⟨t, e, by rw [hsp]; simp, fun v hv => ?_, ?_⟩
  · rw [hret]
    simp [hv]
  · rw [hmem]
    exact MemSys.shrink_hbm_step _ _

/-- What becomes of a retired unit for which no spare is left. -/
theorem unitFailure_eq {s : State} {u : PUnit_} (hu : unitOf s.pick = some u) (hr : u ∈ s.plat.retired) (hs : s.spareFor u = false) :
    (∀ d c q, u = .quad d c q → ∃ t, exec .unitFailure s = .next t ∧ .cluster d c ∈ t.plat.retired) ∧
    (∀ d c, u = .cluster d c → ∃ t, exec .unitFailure s = .next t ∧ ⟨d, c⟩ ∉ t.plat.clusters) ∧
    (∀ p l q, u = .lane p l → s.port? p = some q → q.good < 2 → q.st ≠ .down → ∃ t, exec .unitFailure s = .next t ∧
      (t.port? p).map (·.st) = some .failed) := by
  have hgo : ¬ (!s.plat.retired.contains u || s.spareFor u) = true := by simp [hr, hs]
  refine ⟨?_, ?_, ?_⟩
  · rintro d c q rfl
    have heq : execUnitFailure s = .next ((s.logPlat 7 (unitCode (.quad d c q))).retire (.cluster d c)) := by
      unfold execUnitFailure
      rw [hu]; dsimp only
      rw [if_neg hgo]
    exact ⟨_, heq, (State.retire_retired _ _).1⟩
  · rintro d c rfl
    have heq : ∃ t, execUnitFailure s = .next t ∧ t.plat.clusters = s.plat.clusters.filter (fun x => x != ⟨d, c⟩) := by
      unfold execUnitFailure
      rw [hu]; dsimp only
      rw [if_neg hgo]
      exact ⟨_, rfl, rfl⟩
    obtain ⟨t, e, h⟩ := heq
    exact ⟨t, e, by rw [h]; simp⟩
  · rintro p l q rfl hq hgood hdown
    have hq' : (s.logPlat 7 (unitCode (.lane p l))).port? p = some q := hq
    have heq : execUnitFailure s = .next ((s.logPlat 7 (unitCode (.lane p l))).failPort p) := by
      unfold execUnitFailure
      rw [hu]; dsimp only
      rw [if_neg hgo, if_pos (by rw [hq]; simpa using ⟨Nat.le_of_lt_succ hgood, hdown⟩)]
    exact ⟨_, heq, by rw [State.failPort_port? hq']; rfl⟩

/-! Throttling (20 R453). -/

theorem State.refresh_memOnly (s : State) (pa n v : Nat) : MemOnly s (s.refresh pa n v) := by
  unfold State.refresh
  dsimp only
  split
  · exact .refl s
  · exact (s.physRead_memOnly pa n).trans (State.physWrite_memOnly _ _ _)

theorem State.showThrottle_memOnly (s : State) : MemOnly s s.showThrottle :=
  MemOnly.foldl (fun s _ => MemOnly.foldl (fun s _ => s.refresh_memOnly _ _ _) _ s) _ s

/-- A measurement sets the temperature of its cluster, and its step by the rate at which one may fall. -/
theorem throttleMeasured {s : State} (hd : s.arg 0 < 8) (hc : s.arg 1 < 16) :
    ∃ t, exec .throttleMeasure s = .next t ∧
      (t.throttleOf ⟨s.arg 0, s.arg 1⟩).step = (if (s.throttleOf ⟨s.arg 0, s.arg 1⟩).step < min (s.arg 2) 8 then min (s.arg 2) 8
        else if min (s.arg 2) 8 < (s.throttleOf ⟨s.arg 0, s.arg 1⟩).step ∧ (s.throttleOf ⟨s.arg 0, s.arg 1⟩).since + 360000 ≤ s.clk then
          (s.throttleOf ⟨s.arg 0, s.arg 1⟩).step - 1 else (s.throttleOf ⟨s.arg 0, s.arg 1⟩).step) ∧
      (t.throttleOf ⟨s.arg 0, s.arg 1⟩).temp = s.arg 3 % 256 := by
  have hsite : ∀ u : State, u.throttleOf ⟨s.arg 0, s.arg 1⟩ = (u.plat.throttle.find? (fun t => t.site == ⟨s.arg 0, s.arg 1⟩)).getD ⟨⟨s.arg 0, s.arg 1⟩, 0, 0, 0, 0, 0⟩ :=
    fun _ => rfl
  have hown : (s.throttleOf ⟨s.arg 0, s.arg 1⟩).site = ⟨s.arg 0, s.arg 1⟩ := by
    rw [hsite]
    cases h : s.plat.throttle.find? (fun t => t.site == (⟨s.arg 0, s.arg 1⟩ : Site)) with
    | none => rfl
    | some t => simpa using List.find?_some h
  generalize hth : s.throttleOf ⟨s.arg 0, s.arg 1⟩ = th at hown
  have heq : ∃ t1 l, execThrottleMeasure s = .next (State.showThrottle { s with plat := { s.plat with throttle := t1 :: l } }) ∧
      t1.site = th.site ∧ t1.temp = s.arg 3 % 256 ∧ t1.step = (if decide (th.step < min (s.arg 2) 8) then min (s.arg 2) 8
        else if decide (min (s.arg 2) 8 < th.step) && decide (th.since + 360000 ≤ s.clk) then th.step - 1 else th.step) := by
    unfold execThrottleMeasure
    dsimp only
    rw [hth, if_neg (by simp; omega)]
    exact ⟨_, _, rfl, rfl, rfl, rfl⟩
  obtain ⟨t1, l, e, h1, h2, h3⟩ := heq
  have hplat := (State.showThrottle_memOnly { s with plat := { s.plat with throttle := t1 :: l } }).plat
  generalize State.showThrottle { s with plat := { s.plat with throttle := t1 :: l } } = t at e hplat
  refine ⟨t, e, ?_⟩
  rw [hsite, hplat, List.find?_cons, h1, hown, beq_self_eq_true]
  exact ⟨h3.trans (by simp), h2⟩

/-! Start-up, firmware and decode tables (20 R452, R456, 11 R281). -/

theorem State.requestPreempt_plat (s : State) (n : Nat) : (s.requestPreempt n).plat = s.plat := by
  have ha : (s.abortLoads n).plat = s.plat := by
    cases hc : s.ctx? n with
    | none => unfold State.abortLoads; rw [hc]
    | some c =>
      obtain ⟨u, hu, -, hrest, -⟩ := State.abortLoads_spec hc
      rw [hrest]
      exact hu.plat
  unfold State.requestPreempt
  dsimp only
  split
  · exact ha
  · rfl

theorem State.beginRestore_plat (s : State) (c : Ctx) (sv : Saved) : (s.beginRestore c sv).plat = s.plat := by
  have h := s.readThreads_memOnly c.desc.shell (startOrder sv.groups)
  unfold State.beginRestore
  exact h.plat

theorem State.restoreAll_plat (s : State) (cs : List Nat) : (s.restoreAll cs).plat = s.plat := by
  refine foldl_preserves State.plat (fun s n => ?_) cs s
  dsimp only
  split
  · rfl
  · split
    · have h := s.shellValid_memOnly ‹_› ‹_›
      split
      · exact (State.beginRestore_plat _ _ _).trans h.plat
      · exact h.plat
    · rfl

/-- Settles O54: each step of the platform. -/
theorem platformSteps : Obligations.PlatformSteps := by
  intro s u under retiredBy
  refine ⟨selfTests, fun hu hr => ⟨spareMapIn_takes hu hr, unitFailure_eq hu hr⟩, ?_, fun h0 => ?_, fun h3 hh hr hup h3' h6 hf hf7 => ?_,
    fun hd hn hdies hnd hbefore hclk h2 => ?_, fun hready => ⟨fun h2 h3 hf => ?_, fun hbad => ?_, fun h0 hi hok hg hf => ?_⟩,
    fun v d cs h1 hi hidle => ?_⟩
  · intro site th want hd hc
    exact throttleMeasured hd hc
  · show execModuleReset s = _
    unfold execModuleReset
    rw [h0]
    rfl
  · have hall : ((List.range 8).all fun d => (List.range 16).all fun n => s.clusterDone d n) = true := by
      simpa [List.all_eq_true] using fun d hd n hn => hup d n hd hn
    have heq : ∃ t, execModuleReset s = .next t ∧ t.plat.ready = true ∧ t.plat.fwVersion = s.arg 1 ∧ t.plat.fusedMin = max s.plat.fusedMin (s.arg 1) := by
      unfold execModuleReset
      split
      · omega
      · omega
      · omega
      · rw [if_neg (by simp only [hh, hr, hall, h3', h6]; simp; omega)]
        exact ⟨_, rfl, rfl, rfl, rfl⟩
    obtain ⟨t, e, a, b, c⟩ := heq
    exact ⟨t, e, a, b, c.trans (max_eq_right hf)⟩
  · have hb : ((List.range 8).all fun e => (List.range 16).all fun k => decide (16 * s.arg 0 + s.arg 1 ≤ 16 * e + k) || s.clusterDone e k) = true := by
      simp only [List.all_eq_true, List.mem_range, Bool.or_eq_true, decide_eq_true_eq]
      intro e he k hk
      by_cases h : 16 * s.arg 0 + s.arg 1 ≤ 16 * e + k
      · exact .inl h
      · exact .inr (hbefore e k he hk (by omega))
    have heq : execClusterPowerUp s = .next { s with plat := { s.plat with clusters := s.plat.clusters ++ [⟨s.arg 0, s.arg 1⟩] } } := by
      unfold execClusterPowerUp
      dsimp only
      rw [hb, hnd, if_neg (by simp; omega), if_pos h2]
    exact ⟨_, heq, rfl⟩
  · have heq : ∃ t, execFirmwareUpdate s = .next t ∧ t.plat.fwVersion = s.arg 0 ∧ t.plat.fwDigest = s.arg 1 ∧
        t.plat.fusedMin = max s.plat.fusedMin (s.arg 0) ∧ t.link.dma = s.link.dma ++ [(0, s.arg 4, 0)] := by
      unfold execFirmwareUpdate
      rw [if_neg (by simp [hready]), if_neg (by simp [h2, h3]; omega)]
      exact ⟨_, rfl, rfl, rfl, rfl, rfl⟩
    obtain ⟨t, e, a, b, c, d⟩ := heq
    exact ⟨t, e, a, b, c.trans (max_eq_right hf), d⟩
  · have heq : execFirmwareUpdate s = .next ((s.logPlat 8 (s.arg 0)).returnStatus (s.arg 4) 5) := by
      unfold execFirmwareUpdate
      rw [if_neg (by simp [hready]), if_pos (by simpa [or_assoc] using hbad)]
    exact ⟨_, heq, rfl, rfl, rfl, rfl⟩
  · have heq : ∃ t, execDecodeTableInstall s = .next t ∧
        t.plat.installing = some (s.arg 1, s.arg 2, (s.ctxs.filter (fun c => c.st == .running || c.st == .resident)).map (·.num)) := by
      unfold execDecodeTableInstall
      rw [h0, hi]
      dsimp only
      rw [if_neg (by simp [hready]), if_neg (by simp [hok, hg]; omega)]
      exact ⟨_, rfl, rfl⟩
    obtain ⟨t, e, h⟩ := heq
    refine ⟨t, _, e, h, fun c hc hst => List.mem_map.mpr ⟨c, List.mem_filter.mpr ⟨hc, ?_⟩, rfl⟩⟩
    simpa using hst
  · have heq : execDecodeTableInstall s = .next (State.restoreAll { s with
        plat := { s.plat with installing := none, dtVersion := v, dtDigest := d } } cs) := by
      unfold execDecodeTableInstall
      rw [h1, hi]
      exact if_neg (by simpa using hidle)
    have hp := State.restoreAll_plat { s with plat := { s.plat with installing := none, dtVersion := v, dtDigest := d } } cs
    exact ⟨_, heq, congrArg Plat.installing hp, congrArg Plat.dtVersion hp, congrArg Plat.dtDigest hp⟩

end Sys2Proof.Machine
end


section
/-!
FACTS. What the settling of a group changes whatever stands on its divergence stack: groups, classes, memory, and the counts of fresh
numbers and free values. Engine reads and the record of an engine fault by the same measure.
-/

namespace Sys2Proof.Machine

open Sys2Proof

/-- Nothing has changed but groups, classes, memory, and the counts of fresh numbers and free values. -/
structure RunOnly (s t : State) : Prop where
  rest : t = { s with groups := t.groups, classes := t.classes, mem := t.mem, nextId := t.nextId, freeN := t.freeN }

namespace RunOnly

theorem refl (s : State) : RunOnly s s := ⟨rfl⟩
theorem trans {s t u : State} (h : RunOnly s t) (k : RunOnly t u) : RunOnly s u := ⟨by rw [k.rest, h.rest]⟩
theorem of_memOnly {s t : State} (h : MemOnly s t) : RunOnly s t := ⟨by rw [h.rest]⟩
theorem modGroup (s : State) (n : Nat) (f : Group → Group) : RunOnly s (s.modGroup n f) := ⟨rfl⟩

theorem ctxs {s t : State} (h : RunOnly s t) : t.ctxs = s.ctxs := by rw [h.rest]
theorem link {s t : State} (h : RunOnly s t) : t.link = s.link := by rw [h.rest]
theorem plat {s t : State} (h : RunOnly s t) : t.plat = s.plat := by rw [h.rest]
theorem eng {s t : State} (h : RunOnly s t) : t.eng = s.eng := by rw [h.rest]
theorem clk {s t : State} (h : RunOnly s t) : t.clk = s.clk := by rw [h.rest]
theorem pick {s t : State} (h : RunOnly s t) : t.pick = s.pick := by rw [h.rest]
theorem jobs {s t : State} (h : RunOnly s t) : t.jobs = s.jobs := by rw [h.rest]
theorem ctx? {s t : State} (h : RunOnly s t) (n : Nat) : t.ctx? n = s.ctx? n := State.ctx?_of_ctxs h.ctxs n

theorem foldl {α : Type} {f : State → α → State} (hf : ∀ s a, RunOnly s (f s a)) (l : List α) (s : State) : RunOnly s (l.foldl f s) := by
  induction l generalizing s with
  | nil => exact refl s
  | cons a r ih => exact (hf s a).trans (ih (f s a))

end RunOnly

/-- The states that a lane's access may answer differ from s so. -/
def LRes.RunOnly {α : Type} (s : State) : LRes α → Prop
  | .ok _ t | .trapIn _ t => Machine.RunOnly s t
  | _ => True

theorem State.accessTrap_runOnly {α β : Type} (s : State) (gid l : Nat) (r : MRes β) (p : Nat) (m : MemSys) (sub : Nat) (addr : Word) :
    (s.accessTrap gid l r p m sub addr : LRes α).RunOnly s := by
  unfold State.accessTrap
  split
  · exact ⟨rfl⟩
  · exact ⟨rfl⟩
  · trivial

theorem State.farAnswer_runOnly (s : State) (pts : Nat) : RunOnly s (s.farAnswer pts).2.2 := ⟨rfl⟩

theorem State.farAccess_runOnly (s : State) (gid l : Nat) (addr : Word) (n sub : Nat) : (s.farAccess gid l addr n sub).RunOnly s := by
  unfold State.farAccess
  split
  · trivial
  · have h := s.farAnswer_runOnly (s.lane gid l).pts
    generalize s.farAnswer (s.lane gid l).pts = q at h
    obtain ⟨r, p, t⟩ := q
    cases r with
    | ok v => exact h.trans (.modGroup t gid _)
    | _ => trivial

theorem State.loadRaw_runOnly (s : State) (gid l : Nat) (loc : Loc) (addr : Word) (n sub : Nat) : (s.loadRaw gid l loc addr n sub).RunOnly s := by
  unfold State.loadRaw
  split
  · trivial
  · split
    · split
      · exact s.farAccess_runOnly gid l addr n sub
      · dsimp only
        split
        · exact ⟨rfl⟩
        · exact s.accessTrap_runOnly gid l _ _ _ sub addr
    · split
      · trivial
      · exact ⟨rfl⟩

theorem State.storeRaw_runOnly (s : State) (gid l : Nat) (loc : Loc) (addr : Word) (bs : List Byte) : (s.storeRaw gid l loc addr bs).RunOnly s := by
  unfold State.storeRaw
  split
  · trivial
  · split
    · split
      · have h := s.farAccess_runOnly gid l addr bs.length 2
        generalize s.farAccess gid l addr bs.length 2 = r at h
        cases r <;> exact h
      · dsimp only
        split
        · exact ⟨rfl⟩
        · exact s.accessTrap_runOnly gid l _ _ _ 2 addr
    · split
      · trivial
      · exact ⟨rfl⟩

/-! The divergence stack (13 R316, R317). -/

theorem State.clearValid_runOnly (s : State) (gid l : Nat) (addr : Word) : RunOnly s (s.clearValid gid l addr) := by
  unfold State.clearValid
  split
  · exact .refl s
  · rename_i g _
    split
    · exact .refl s
    · rename_i loc _
      have h := s.storeRaw_runOnly gid (g.stackLaneOf l) loc (addr + 13) [0]
      generalize s.storeRaw gid (g.stackLaneOf l) loc (addr + 13) [0] = r at h
      cases r with
      | ok _ t => exact h
      | trapIn _ t => exact h
      | _ => exact .refl s

theorem State.readEntry_runOnly (s : State) (gid : Nat) (p : Path) : RunOnly s (s.readEntry gid p).2.2 := by
  unfold State.readEntry
  dsimp only
  split
  · exact .refl s
  · rename_i g _
    split
    · exact .refl s
    · rename_i loc _
      have h := s.loadRaw_runOnly gid (g.stackLaneOf p.slotLane) loc p.slotAddr 16 1
      generalize s.loadRaw gid (g.stackLaneOf p.slotLane) loc p.slotAddr 16 1 = r at h
      cases r with
      | ok _ t => exact h
      | trapIn _ t => exact h
      | _ => exact .refl s

theorem State.soloLane_runOnly (s : State) (gid l : Nat) (pc : Word) (reason owed : Nat) : RunOnly s (s.soloLane gid l pc reason owed) := by
  unfold State.soloLane
  split
  · exact .refl s
  · split
    · exact .refl s
    · split <;> exact ⟨rfl⟩

theorem State.takeEntry_runOnly (s : State) (gid pid : Nat) : RunOnly s (s.takeEntry gid pid) := by
  unfold State.takeEntry
  split
  · exact .refl s
  · split
    · exact .refl s
    · exact (((s.readEntry_runOnly gid _).trans (State.clearValid_runOnly _ gid _ _)).trans (.modGroup _ gid _)).trans
        (RunOnly.foldl (fun s l => s.soloLane_runOnly gid l _ 2 0) _ _)

theorem State.pop_runOnly (s : State) (gid q : Nat) : RunOnly s (s.pop gid q) := by
  unfold State.pop
  split
  · exact .refl s
  · split
    · exact (s.takeEntry_runOnly gid _).trans ⟨rfl⟩
    · exact .refl s

theorem State.popFree_runOnly (gid n : Nat) (s : State) : RunOnly s (s.popFree gid n) := by
  induction n generalizing s with
  | zero => exact .refl s
  | succ n ih =>
    unfold State.popFree
    split
    · exact .refl s
    · split
      · exact .refl s
      · exact ((s.pop_runOnly gid _).trans (.modGroup _ gid _)).trans (ih _)

theorem State.settle_runOnly (s : State) (gid : Nat) : RunOnly s (s.settle gid) :=
  (RunOnly.modGroup s gid Group.unite).trans (State.popFree_runOnly gid 32 _)

theorem State.wakePath_runOnly (s : State) (gid pid : Nat) : RunOnly s (s.wakePath gid pid) := by
  unfold State.wakePath
  split
  · exact .refl s
  · split
    · exact .refl s
    · split
      · exact (RunOnly.modGroup s gid _).trans (State.settle_runOnly _ gid)
      · exact .refl s

theorem State.wakeLanes_runOnly (s : State) (sel : Group → Nat → Lane → Wait → Option (Lane → Lane)) : RunOnly s (s.wakeLanes sel) :=
  RunOnly.trans (t := s.wakeSel sel) ⟨rfl⟩ (RunOnly.foldl (fun s (x : Nat × Nat) => s.wakePath_runOnly x.1 x.2) _ _)

/-! Engines (18 R414, 10 R256). -/

theorem State.engGather_memOnly (a : Actor) (w n : Nat) (s : State) (loc : Loc) : MemOnly s (s.engGather a loc w n).2 := by
  induction n generalizing s loc with
  | zero => exact .refl s
  | succ n ih =>
    have h := s.engRead_memOnly a loc w
    unfold State.engGather
    generalize s.engRead a loc w = r at h
    obtain ⟨o, t⟩ := r
    cases o with
    | ok bs =>
      have k := ih t (loc.plus w)
      dsimp only
      generalize t.engGather a (loc.plus w) w n = q at k
      obtain ⟨o, u⟩ := q
      cases o <;> exact h.trans k
    | _ => exact h

/-- The states of an equation about an engine's reads. -/
theorem State.memOnly_of_engGather {s t : State} {a : Actor} {loc : Loc} {w n : Nat} {r : Except EngErr (List Byte)}
    (h : s.engGather a loc w n = (r, t)) : MemOnly s t := MemOnly.of_eq (s.engGather_memOnly a w n loc) h

theorem State.memOnly_of_engWrite {s t : State} {a : Actor} {loc : Loc} {bs : List Byte} {r : MRes Nat}
    (h : s.engWrite a loc bs = (r, t)) : MemOnly s t := MemOnly.of_eq (s.engWrite_memOnly a loc bs) h

theorem State.engUpdate_memOnly (s : State) (a : Actor) (loc : Loc) (f : Nat → Nat) : MemOnly s (s.engUpdate a loc f).2 := by
  unfold State.engUpdate
  have h := s.engRead_memOnly a loc 8
  generalize s.engRead a loc 8 = r at h
  obtain ⟨o, t⟩ := r
  cases o with
  | ok bs =>
    have k := t.engWrite_memOnly a loc (toBytes 8 (f (fromBytes bs)))
    dsimp only
    generalize t.engWrite a loc (toBytes 8 (f (fromBytes bs))) = q at k
    obtain ⟨o, u⟩ := q
    cases o <;> exact h.trans k
  | _ => exact h

theorem State.faultSent_link (u : State) (n : Nat) (f : Ctx → Ctx) (r : TaskRec) :
    (((u.modCtx n f).sendRecord r).wakeWfi n none 1).link = u.link := (State.wakeLanes_runOnly _ _).link

/-- The record of an engine fault leaves the link. -/
theorem State.pumpFaults_link (s : State) (n : Nat) : (s.pumpFaults n).link = s.link := by
  unfold State.pumpFaults
  split
  · rfl
  · split
    · rfl
    · split
      · rfl
      · exact (State.faultSent_link _ n _ _).trans (s.physWriteWords_memOnly _ _).link

theorem State.engFault_link (s : State) (ctx kind cause sub addr site : Nat) (ref : EfRef) :
    (s.engFault ctx kind cause sub addr site ref).1.link = s.link := by
  unfold State.engFault
  split
  · rfl
  · exact State.pumpFaults_link _ ctx

end Sys2Proof.Machine
end


section
/-!
SETTLED. The transport (O52): what the engine's writes of a slot leave of the link, and each step of sending and receiving by what it
reads.
-/

namespace Sys2Proof.Machine

open Sys2Proof

/-! The writes of a slot touch of the link the transport commands and the writes held (19 R440). -/

/-- Of the link nothing has changed but the transport commands not complete and the slots' writes held. -/
structure SlotsOnly (s t : State) : Prop where
  rest : t.link = { s.link with sends := t.link.sends, slotWrites := t.link.slotWrites }

namespace SlotsOnly

theorem of_link {s t : State} (h : t.link = s.link) : SlotsOnly s t := ⟨by rw [h]⟩
theorem trans {s t u : State} (h : SlotsOnly s t) (k : SlotsOnly t u) : SlotsOnly s u := ⟨by rw [k.rest, h.rest]⟩
theorem tx {s t : State} (h : SlotsOnly s t) : t.link.tx = s.link.tx := by rw [h.rest]
theorem xcfg {s t : State} (h : SlotsOnly s t) : t.link.xcfg = s.link.xcfg := by rw [h.rest]

end SlotsOnly

theorem State.xErr_link (s : State) (ctx die : Nat) (e : EngErr) (ref : EfRef) : (s.xErr ctx die e ref).1.link = s.link := by
  unfold State.xErr
  split
  · exact State.engFault_link ..
  · rfl

theorem State.slotErr_slots (s : State) (w : SlotWrite) (r : MRes Nat) (va : Nat) : SlotsOnly s (s.slotErr w r va) := by
  unfold State.slotErr
  split
  · have h := fun e => s.xErr_link w.ctx w.die e (slotRef w.va)
    exact (SlotsOnly.of_link (h _)).trans ⟨rfl⟩
  · exact .of_link rfl

theorem State.slotLast_slots (s : State) (w : SlotWrite) : SlotsOnly s (s.slotLast w) := by
  unfold State.slotLast
  split
  · exact (SlotsOnly.of_link (State.memOnly_of_engWrite ‹_›).link).trans ⟨rfl⟩
  · exact (SlotsOnly.of_link (State.memOnly_of_engWrite ‹_›).link).trans (State.slotErr_slots _ _ _ _)

theorem State.slotState_slots (s : State) (w : SlotWrite) : SlotsOnly s (s.slotState w) := by
  unfold State.slotState
  split
  · exact ⟨rfl⟩
  · split
    · exact s.slotLast_slots w
    · split
      · exact (SlotsOnly.of_link (State.memOnly_of_engWrite ‹_›).link).trans (State.slotLast_slots _ _)
      · exact (SlotsOnly.of_link (State.memOnly_of_engWrite ‹_›).link).trans (State.slotErr_slots _ _ _ _)

/-- A message that ends is gone from the engine. -/
theorem State.endTx_spec (s : State) (m : TxMsg) (st : Nat) (retx : Option Nat) :
    (s.endTx m st retx).link.tx = s.link.tx.filter (fun x => x.mid != m.mid) ∧ (s.endTx m st retx).link.xcfg = s.link.xcfg := by
  have h := State.slotState_slots { s with link := { s.link with tx := s.link.tx.filter (fun x => x.mid != m.mid) } }
    ⟨m.ctx, m.die, m.slotVa, st, retx, m.privS, max m.pts s.latest, 0⟩
  exact ⟨h.tx, h.xcfg⟩

/-! Messages and configurations by their numbers. -/

theorem State.mid_of_tx? {s : State} {n : Nat} {m : TxMsg} (h : s.tx? n = some m) : m.mid = n := by
  simpa using List.find?_some h

theorem State.tx?_of_tx {s t : State} (h : t.link.tx = s.link.tx) (n : Nat) : t.tx? n = s.tx? n := by
  unfold State.tx?
  rw [h]

theorem State.tx?_filtered {t : State} {l : List TxMsg} {n : Nat} (h : t.link.tx = l.filter (fun x => x.mid != n)) : t.tx? n = none := by
  unfold State.tx?
  rw [h]
  simp

theorem State.tx?_modTx {s : State} {n : Nat} {m : TxMsg} (h : s.tx? n = some m) (f : TxMsg → TxMsg) (hf : ∀ x, (f x).mid = x.mid) :
    (s.modTx n f).tx? n = some (f m) := by
  refine (find?_updWhere TxMsg.mid n n f hf s.link.tx).trans ?_
  rw [show s.link.tx.find? (fun m => m.mid == n) = some m from h]
  simp [State.mid_of_tx? h]

theorem State.ctx_of_xcfg? {s : State} {n : Nat} {x : XCfg} (h : s.xcfg? n = some x) : x.ctx = n := by
  simpa using List.find?_some h

theorem State.xcfg?_of_xcfg {s t : State} (h : t.link.xcfg = s.link.xcfg) (n : Nat) : t.xcfg? n = s.xcfg? n := by
  unfold State.xcfg?
  rw [h]

theorem State.xcfg?_setXcfg (s : State) {x : XCfg} {n : Nat} (h : x.ctx = n) : (s.setXcfg x).xcfg? n = some x := by
  unfold State.xcfg? State.setXcfg
  simp [h]

/-! Sending (19 R439 to R443). -/

/-- A context's configuration whose send ring of a die has moved on. -/
def XCfg.moved (x : XCfg) (die head : Nat) : XCfg :=
  { x with rings := x.rings.map (fun r => if r.1 = die then (r.1, r.2.1, r.2.2.1, head) else r) }

theorem XCfg.moved_ring {x : XCfg} {die base slots head n : Nat} (h : x.rings.find? (fun r => r.1 == die) = some (die, base, slots, head)) :
    (x.moved die n).rings.find? (fun r => r.1 == die) = some (die, base, slots, n) := by
  unfold XCfg.moved
  rw [List.find?_map, show ((fun r : Nat × Nat × Nat × Nat => r.1 == die) ∘ fun r => if r.1 = die then (r.1, r.2.1, r.2.2.1, n) else r) =
    fun r => r.1 == die from funext fun r => by by_cases hr : r.1 = die <;> simp [hr], h]
  simp

/-- A state that keeps the configurations after the ring has moved shows its new head. -/
theorem head_of_moved {s t : State} {x : XCfg} {ctx die base slots head n : Nat} (hx : x.ctx = ctx)
    (h : x.rings.find? (fun r => r.1 == die) = some (die, base, slots, head)) (ht : t.link.xcfg = (s.setXcfg (x.moved die n)).link.xcfg) :
    (t.xcfg? ctx).bind (fun y => y.rings.find? (fun r => r.1 == die)) = some (die, base, slots, n) := by
  rw [State.xcfg?_of_xcfg ht, State.xcfg?_setXcfg s (show (x.moved die n).ctx = ctx from hx)]
  exact XCfg.moved_ring h

/-- The slot at the head of its ring has been read. -/
structure SlotRead (s : State) (c : Ctx) (x : XCfg) (base slots head : Nat) (bs : List Byte) (s1 : State) : Prop where
  ctx : s.ctx? (s.arg 0) = some c
  cfg : s.xcfg? (s.arg 0) = some x
  ring : x.rings.find? (fun r => r.1 == s.arg 1) = some (s.arg 1, base, slots, head)
  runs : (c.st = .running ∨ c.st = .resident) ∧ c.viol = false ∧ c.stopAt = none
  room : (s.link.tx.filter (fun m => m.die == s.arg 1)).length < 256
  free : s.xHeld c.num (slotRef (base + 64 * (head % slots))) = false
  port : (s.ethPorts (s.arg 1) = [] ∨ s.arg 2 ∈ s.ethPorts (s.arg 1)) ∧ s.arg 2 / 6 = s.arg 1
  reach : s.cutOff c.num (base + 64 * (head % slots)) = false
  none_ : s.link.tx.find? (fun m => m.ctx == c.num && m.die == s.arg 1 && !m.ready) = none
  read : s.engGather (xActor c.num (s.arg 1) ((s.link.sends.find? (fun y => y.ctx == c.num && y.va == base + 64 * (head % slots))).any (·.privS))
    (((s.link.sends.find? (fun y => y.ctx == c.num && y.va == base + 64 * (head % slots))).map (·.pts)).getD s.latest))
    (.glob (base + 64 * (head % slots))) 16 4 = (.ok bs, s1)

/-- What SEND_SLOT_TAKE is once the slot has been read. -/
theorem sendSlotTake_eq {s s1 : State} {c : Ctx} {x : XCfg} {base slots head : Nat} {bs : List Byte} (h : SlotRead s c x base slots head bs s1) :
    exec .sendSlotTake s =
      let va := base + 64 * (head % slots)
      let by_ := s.link.sends.find? (fun y => y.ctx == c.num && y.va == va)
      let v := fromBytes bs
      if fieldAt v 216 8 ≠ 1 then .next s1
      else match s1.engWrite (xActor c.num (s.arg 1) (by_.any (·.privS)) ((by_.map (·.pts)).getD s.latest)) (.glob (va + 27)) [2] with
        | (.ok _, s2) =>
          let s3 := { s2.setXcfg (x.moved (s.arg 1) (head + 1)) with nextId := s2.nextId + 1 }
          let m := txMsg v s2.nextId c.num (s.arg 1) va (s.arg 2) s.link.msgSeq s.clk by_ s.latest
          if !sendOk v || !s3.jobOpen c.num m.job then .next (s3.endTx m 5 none)
          else .next ({ s3 with link := { s3.link with tx := s3.link.tx ++ [m], msgSeq := s3.link.msgSeq + 1 } }.checkPeer (x.moved (s.arg 1) (head + 1)) m)
        | (r, s2) => match engErr r 2 (va + 27) with
          | some e => .next (s2.xErr c.num (s.arg 1) e (slotRef va)).1
          | none => .next s2 := by
  obtain ⟨hc, hx, hring, ⟨hst, hv, hstop⟩, hroom, hfree, ⟨hport, hdie⟩, hreach, hnone, hread⟩ := h
  have hruns : ((c.st == .running || c.st == .resident) && !c.viol && c.stopAt.isNone) = true := by
    rcases hst with h | h <;> simp [h, hv, hstop]
  have hgo : ¬ (!((c.st == .running || c.st == .resident) && !c.viol && c.stopAt.isNone) ||
      decide (256 ≤ (s.link.tx.filter (fun m => m.die == s.arg 1)).length) || s.xHeld c.num (slotRef (base + 64 * (head % slots))) ||
      (!(s.ethPorts (s.arg 1)).isEmpty && !(s.ethPorts (s.arg 1)).contains (s.arg 2)) || decide (s.arg 2 / 6 ≠ s.arg 1) ||
      s.cutOff c.num (base + 64 * (head % slots))) = true := by
    rw [hruns, hfree, hreach]
    rcases hport with h | h <;> simp [h, hdie, hroom]
  show execSendSlotTake s = _
  unfold execSendSlotTake
  simp only [hc, hx, hnone, hring]
  rw [if_neg hgo]
  simp only [hread] <;> rfl

/-- The peer of an accepted message: an entry that its table lacks or that is not valid ends the message, a valid one readies it. -/
theorem State.checkPeer_eq {s : State} {x : XCfg} {m : TxMsg} :
    (x.peerCount ≤ m.peer → s.checkPeer x m = s.endTx m 5 none) ∧
    (∀ b s5, m.peer < x.peerCount → s.receives m.ctx = true → s.cutOff m.ctx (x.peerBase + 32 * m.peer) = false →
      s.xHeld m.ctx (srcRef m.mid) = false → s.engGather m.actor (.glob (x.peerBase + 32 * m.peer)) 16 2 = (.ok b, s5) →
      s.checkPeer x m = if fieldAt (fromBytes b) 192 64 ≠ 1 then s5.endTx m 5 none
        else (s5.modTx m.mid (fun y => { y with
          ready := true, addr := fieldAt (fromBytes b) 0 128, fep := fieldAt (fromBytes b) 128 32, rkey := fieldAt (fromBytes b) 160 32,
          progress := s.clk })).count m.ctx m.job (.port m.port) 1 0) := by
  refine ⟨fun h => ?_, fun b s5 hlt hr hc hh hg => ?_⟩
  · unfold State.checkPeer
    rw [if_pos h]
  · unfold State.checkPeer
    dsimp only
    rw [if_neg (by omega), hr, hc, hh, if_neg (by decide), hg]

/-- A message just accepted, of its number alone: once readied it stands among those being sent. -/
theorem readied_of_tx {s t : State} {m : TxMsg} {l : List TxMsg} {f : TxMsg → TxMsg} (hs : s.link.tx = l ++ [m])
    (ht : t.link.tx = (s.modTx m.mid f).link.tx) : t.link.tx.length = l.length + 1 ∧ f m ∈ t.link.tx := by
  rw [ht]
  show (updWhere _ f s.link.tx).length = _ ∧ f m ∈ updWhere _ f s.link.tx
  rw [hs]
  simp [updWhere]

/-- Settles the sending of a slot in O52. -/
theorem sendSlot {s s1 : State} {c : Ctx} {x : XCfg} {base slots head : Nat} {bs : List Byte} (h : SlotRead s c x base slots head bs s1)
    {va : Nat} (hva : va = base + 64 * (head % slots)) {v : Nat} (hv : v = fromBytes bs) {cmd : Option SendCmd}
    (hcmd : cmd = s.link.sends.find? (fun y => y.ctx == c.num && y.va == va)) :
    let Head (t : State) (n : Nat) : Prop := ((t.xcfg? (s.arg 0)).bind (fun y => y.rings.find? (fun r => r.1 == s.arg 1))) =
      some (s.arg 1, base, slots, n)
    (fieldAt v 216 8 ≠ 1 → exec .sendSlotTake s = .next s1) ∧
    (∀ ts s2, fieldAt v 216 8 = 1 →
      s1.engWrite (xActor c.num (s.arg 1) (cmd.any (·.privS)) ((cmd.map (·.pts)).getD s.latest)) (.glob (va + 27)) [2] = (.ok ts, s2) →
      ∀ m, m = txMsg v s2.nextId c.num (s.arg 1) va (s.arg 2) s.link.msgSeq s.clk cmd s.latest →
      (sendOk v = false ∨ s2.jobOpen c.num m.job = false → ∃ t, exec .sendSlotTake s = .next t ∧ Head t (head + 1) ∧
        t.link.tx = s2.link.tx.filter (fun y => y.mid != m.mid)) ∧
      (sendOk v = true → s2.jobOpen c.num m.job = true →
        ∀ s4, s4 = { s2.setXcfg (x.moved (s.arg 1) (head + 1)) with
          nextId := s2.nextId + 1, link := { (s2.setXcfg (x.moved (s.arg 1) (head + 1))).link with tx := s2.link.tx ++ [m], msgSeq := s2.link.msgSeq + 1 } } →
        (x.peerCount ≤ m.peer → ∃ t, exec .sendSlotTake s = .next t ∧ Head t (head + 1) ∧ ∀ y ∈ t.link.tx, y.mid ≠ m.mid) ∧
        (∀ b s5, m.peer < x.peerCount → s4.receives m.ctx = true → s4.cutOff m.ctx (x.peerBase + 32 * m.peer) = false →
          s4.xHeld m.ctx (srcRef m.mid) = false → s4.engGather m.actor (.glob (x.peerBase + 32 * m.peer)) 16 2 = (.ok b, s5) →
          (fieldAt (fromBytes b) 192 64 ≠ 1 → ∃ t, exec .sendSlotTake s = .next t ∧ Head t (head + 1) ∧ ∀ y ∈ t.link.tx, y.mid ≠ m.mid) ∧
          (fieldAt (fromBytes b) 192 64 = 1 → ∃ t, exec .sendSlotTake s = .next t ∧ Head t (head + 1) ∧
            t.link.tx.length = s2.link.tx.length + 1 ∧ { m with
              ready := true, addr := fieldAt (fromBytes b) 0 128, fep := fieldAt (fromBytes b) 128 32, rkey := fieldAt (fromBytes b) 160 32,
              progress := s4.clk } ∈ t.link.tx)))) := by
  intro Head
  subst hva hv hcmd
  have heq := sendSlotTake_eq h
  have hmoved : ∀ {t u : State}, t.link.xcfg = (u.setXcfg (x.moved (s.arg 1) (head + 1))).link.xcfg → Head t (head + 1) := fun ht =>
    head_of_moved (State.ctx_of_xcfg? h.cfg) h.ring ht
  refine ⟨fun hne => heq.trans (if_pos hne), fun ts s2 hone hw m hm => ?_⟩
  dsimp only at heq
  rw [if_neg (by simpa using hone), hw] at heq
  dsimp only at heq
  rw [← hm] at heq
  have hjob : ∀ u : State, u = { s2.setXcfg (x.moved (s.arg 1) (head + 1)) with nextId := s2.nextId + 1 } → u.jobOpen c.num m.job = s2.jobOpen c.num m.job :=
    fun u hu => by rw [hu]; rfl
  refine ⟨fun hbad => ?_, fun hok hj s4 hs4 => ?_⟩
  · generalize hs3 : ({ s2.setXcfg (x.moved (s.arg 1) (head + 1)) with nextId := s2.nextId + 1 } : State) = s3 at heq
    rw [hjob s3 hs3.symm, if_pos (by rcases hbad with h | h <;> simp [h])] at heq
    obtain ⟨e1, e2⟩ := s3.endTx_spec m 5 none
    refine ⟨_, heq, hmoved (u := s2) (e2.trans (by rw [← hs3])), e1.trans (by rw [← hs3]; rfl)⟩
  · rw [hjob _ rfl, if_neg (by simp [hok, hj])] at heq
    have heq : exec .sendSlotTake s = .next (s4.checkPeer (x.moved (s.arg 1) (head + 1)) m) := by
      rw [heq, hs4]
      rfl
    have hx4 : s4.link.xcfg = (s2.setXcfg (x.moved (s.arg 1) (head + 1))).link.xcfg := by rw [hs4]
    have ht4 : s4.link.tx = s2.link.tx ++ [m] := by rw [hs4]
    obtain ⟨p1, p2⟩ := State.checkPeer_eq (s := s4) (x := x.moved (s.arg 1) (head + 1)) (m := m)
    have ended : ∀ u : State, u.link.xcfg = s4.link.xcfg → exec .sendSlotTake s = .next (u.endTx m 5 none) →
        ∃ t, exec .sendSlotTake s = .next t ∧ Head t (head + 1) ∧ ∀ y ∈ t.link.tx, y.mid ≠ m.mid := fun u hu he => by
      obtain ⟨e1, e2⟩ := u.endTx_spec m 5 none
      refine ⟨_, he, hmoved (u := s2) (e2.trans (hu.trans hx4)), fun y hy => ?_⟩
      rw [e1] at hy
      simpa using (List.mem_filter.mp hy).2
    refine ⟨fun hp => ended s4 rfl (heq.trans (by rw [p1 hp])), fun b s5 hp hr hc hh hg => ?_⟩
    have hpeer := p2 b s5 hp hr hc hh hg
    have hl5 := (State.memOnly_of_engGather hg).link
    refine ⟨fun hf => ended s5 (by rw [hl5]) (heq.trans (by rw [hpeer, if_pos hf])), fun hf => ?_⟩
    rw [hpeer, if_neg (by simpa using hf)] at heq
    refine ⟨_, heq, hmoved (u := s2) ?_, ?_⟩
    · exact (congrArg Link.xcfg hl5).trans hx4
    · exact readied_of_tx (s := s5) ((congrArg Link.tx hl5).trans ht4) rfl

/-- A message with a packet acknowledged. -/
def TxMsg.ackedBy (m : TxMsg) (i clk : Nat) (refused : Bool) : TxMsg :=
  { m with acked := i :: m.acked, progress := clk, refused := m.refused || refused }

/-- An element put in the place of the one that a number names. -/
theorem find?_replaced {α : Type} {k : α → Nat} {n : Nat} {p q : α} {l : List α} (h : l.find? (fun a => k a == n) = some p) (hq : k q = n) :
    (updWhere (fun a => k a == n) (fun _ => q) l).find? (fun a => k a == n) = some q := by
  induction l with
  | nil => simp at h
  | cons a r ih =>
    by_cases ha : k a = n
    · simp [updWhere, ha, hq]
    · have h : r.find? (fun a => k a == n) = some p := by simpa [ha] using h
      simpa [updWhere, ha] using ih h

/-- The state with packet i of a message sent and the message put by m1. -/
def State.sending (s : State) (m m1 : TxMsg) (i : Nat) (bs : List Byte) : State :=
  { s.modTx m.mid (fun _ => m1) with link := { (s.modTx m.mid (fun _ => m1)).link with
      sent := (s.modTx m.mid (fun _ => m1)).link.sent ++ [⟨m.mid, i, m.addr, m.fep, m.rkey, m.landing, m.off, m.len, m.ctag, bs⟩] } }

/-- PACKET_ACK once the packet's source has been read. -/
theorem packetAcked {s s1 : State} {m : TxMsg} {bs : List Byte} (hm : s.tx? (s.arg 0) = some m) (hi : s.arg 1 < m.packets)
    (ha : s.arg 1 ∉ m.acked) (hr : m.ready = true) (hh : s.xHeld m.ctx (srcRef m.mid) = false) (he : s.ethPorts m.die ≠ [])
    (hrec : s.receives m.ctx = true) (hc : s.cutOff m.ctx (m.src + 4096 * s.arg 1) = false) (hq : s.arg 3 ≠ 1 ∨ m.acq = true)
    (hg : s.engGather m.actor (.glob (m.src + 4096 * s.arg 1)) 16 (min 4096 (m.len - 4096 * s.arg 1) / 16) = (.ok bs, s1)) :
    (m.acked.length + 1 < m.packets → ∃ t, exec .packetAck s = .next t ∧ t.tx? (s.arg 0) = some (m.ackedBy (s.arg 1) s.clk (s.arg 2 != 0)) ∧
      t.link.sent = s1.link.sent ++ [⟨m.mid, s.arg 1, m.addr, m.fep, m.rkey, m.landing, m.off, m.len, m.ctag, bs⟩]) ∧
    (m.packets ≤ m.acked.length + 1 → ∃ t, exec .packetAck s = .next t ∧ t.tx? (s.arg 0) = none) := by
  have hmid := State.mid_of_tx? hm
  have hm1 : s1.tx? (s.arg 0) = some m := (State.tx?_of_tx (congrArg Link.tx (State.memOnly_of_engGather hg).link) _).trans hm
  have hgo : ¬ (!m.ready || decide (m.packets ≤ s.arg 1) || m.acked.contains (s.arg 1) || s.xHeld m.ctx (srcRef m.mid) || (s.ethPorts m.die).isEmpty ||
      !s.receives m.ctx || s.cutOff m.ctx (m.src + 4096 * s.arg 1)) = true := by
    simp [hr, hi, ha, hh, he, hrec, hc]
  have hacq : ¬ (decide (s.arg 3 = 1) && !m.acq) = true := by
    rcases hq with h | h <;> simp [h]
  generalize hmd : m.ackedBy (s.arg 1) s.clk (s.arg 2 != 0) = m1
  have hm1mid : m1.mid = m.mid := by rw [← hmd]; rfl
  have hlen : m1.acked.length = m.acked.length + 1 := by rw [← hmd]; rfl
  have heq : exec .packetAck s = if m1.acked.length < m.packets then .next (s1.sending m m1 (s.arg 1) bs)
      else .next (((s1.sending m m1 (s.arg 1) bs).endTx m1 (if m1.refused then 5 else 3) (some m1.retx)).count m.ctx m.job (.port m.port) 0 1) := by
    show execPacketAck s = _
    unfold execPacketAck
    simp only [hm]
    rw [if_neg hgo]
    simp only [hg]
    rw [if_neg hacq, ← hmd]
    rfl
  refine ⟨fun hl => ⟨_, heq.trans (if_pos (by omega)), ?_, rfl⟩, fun hl => ⟨_, heq.trans (if_neg (by omega)), ?_⟩⟩
  · rw [hmid] at hm1mid
    unfold State.sending
    rw [hmid]
    exact find?_replaced hm1 hm1mid
  · obtain ⟨e1, -⟩ := (s1.sending m m1 (s.arg 1) bs).endTx_spec m1 (if m1.refused then 5 else 3) (some m1.retx)
    rw [hm1mid, hmid] at e1
    exact State.tx?_filtered (n := s.arg 0) e1

/-- RETRANSMIT_TIMEOUT of a packet not acknowledged: sent again, or the message is lost. -/
theorem retransmitted {s : State} {m : TxMsg} (hm : s.tx? (s.arg 0) = some m) (hi : s.arg 1 < m.packets) (ha : s.arg 1 ∉ m.acked)
    (hr : m.ready = true) {had : Nat} (hh : had = ((m.tries.find? (fun t => t.1 == s.arg 1)).map (·.2)).getD 0) :
    (16 ≤ had ∨ m.progress + 36000000 ≤ s.clk → ∃ t, exec .retransmitTimeout s = .next t ∧ t.tx? (s.arg 0) = none) ∧
    (had < 16 → s.clk < m.progress + 36000000 → ∃ t, exec .retransmitTimeout s = .next t ∧ t.tx? (s.arg 0) = some { m with
      retx := m.retx + 1, tries := (s.arg 1, had + 1) :: m.tries.filter (fun t => t.1 != s.arg 1) }) := by
  have heq : exec .retransmitTimeout s = if 16 ≤ had ∨ m.progress + 36000000 ≤ s.clk then .next (s.loseTx m)
      else .next (s.modTx m.mid (fun m => { m with retx := m.retx + 1, tries := (s.arg 1, had + 1) :: m.tries.filter (fun t => t.1 != s.arg 1) })) := by
    show execRetransmitTimeout s = _
    unfold execRetransmitTimeout
    simp only [hm]
    rw [if_neg (by simp [hr, hi, ha]), ← hh]
    simp only [Bool.or_eq_true, decide_eq_true_eq]
  have hmid := State.mid_of_tx? hm
  refine ⟨fun h => ⟨_, heq.trans (if_pos h), ?_⟩, fun h1 h2 => ⟨_, heq.trans (if_neg (by omega)), ?_⟩⟩
  · unfold State.loseTx
    dsimp only
    split <;> exact State.tx?_filtered (n := s.arg 0) (((State.endTx_spec _ m 4 _).1).trans (by rw [hmid]))
  · rw [← hmid] at hm ⊢
    exact State.tx?_modTx hm (fun m => { m with retx := m.retx + 1, tries := (s.arg 1, had + 1) :: m.tries.filter (fun t => t.1 != s.arg 1) }) fun _ => rfl

/-! The congestion page (19 R444). -/

/-- The state with new measurements of peers in the place of their old ones. -/
def State.measured (s : State) (news : List PeerStat) : State := { s with link := { s.link with
  peers := s.link.peers.filter (fun p => !news.any (fun q => q.ctx == p.ctx && q.die == p.die && q.peer == p.peer)) ++ news } }

/-- CONGESTION_UPDATE counts the page's updates and takes the new measurements. -/
theorem congestionUpdated {s : State} {x : XCfg} {base n : Nat} (hx : s.xcfg? (s.arg 0) = some x)
    (hp : x.pages.find? (fun y => y.1 == s.arg 1) = some (s.arg 1, base, n)) (hclk : 3600 * (n + 1) ≤ s.clk) :
    ∃ t, exec .congestionUpdate s = .next t ∧ ((t.xcfg? (s.arg 0)).bind (fun y => y.pages.find? (fun z => z.1 == s.arg 1))) =
      some (s.arg 1, base, n + 1) ∧ ∀ q ∈ statsOf (s.arg 0) (s.arg 1) (s.pick.drop 2), q ∈ t.link.peers := by
  have heq : ∃ s5, MemOnly (s.measured (statsOf (s.arg 0) (s.arg 1) (s.pick.drop 2))) s5 ∧
      exec .congestionUpdate s = .next (s5.setXcfg { x with pages := x.pages.map (fun p => if p.1 = s.arg 1 then (p.1, p.2.1, p.2.2 + 1) else p) }) := by
    show ∃ s5, _ ∧ execCongestionUpdate s = _
    unfold execCongestionUpdate
    simp only [hx, hp, Option.bind_some, Option.map_some]
    rw [if_neg (by omega)]
    refine ⟨_, ?_, rfl⟩
    exact (((MemOnly.foldl (fun s _ => s.refresh_memOnly _ _ _) _ _).trans (MemOnly.foldl (fun s _ => s.refresh_memOnly _ _ _) _ _)).trans
      (State.physWrite_memOnly _ _ _)).trans (State.physWrite_memOnly _ _ _)
  obtain ⟨s5, h5, e⟩ := heq
  refine ⟨_, e, ?_, fun q hq => ?_⟩
  · have hx0 := State.ctx_of_xcfg? hx
    have hctx : ({ x with pages := x.pages.map (fun p => if p.1 = s.arg 1 then (p.1, p.2.1, p.2.2 + 1) else p) } : XCfg).ctx = s.arg 0 := hx0
    rw [State.xcfg?_setXcfg s5 hctx, Option.bind_some, List.find?_map,
      show ((fun z : Nat × Nat × Nat => z.1 == s.arg 1) ∘ fun p => if p.1 = s.arg 1 then (p.1, p.2.1, p.2.2 + 1) else p) =
        fun z => z.1 == s.arg 1 from funext fun z => by by_cases hz : z.1 = s.arg 1 <;> simp [hz], hp]
    simp
  · show q ∈ s5.link.peers
    rw [h5.link]
    exact List.mem_append_right _ hq

/-! Receiving (19 R438, R441 to R443). -/

/-- A message found by its key, its context and its die has them. -/
theorem RxMsg.key_of_find? {l : List RxMsg} {r : RxMsg} {key ctx die : Nat} (h : l.find? (fun y => y.is key ctx die) = some r) :
    r.key = key ∧ r.ctx = ctx ∧ r.die = die := by
  have h : r.is key ctx die = true := List.find?_some (p := fun y : RxMsg => y.is key ctx die) h
  unfold RxMsg.is at h
  simpa [and_assoc] using h

/-- The messages being received after one of them has changed. -/
theorem State.rx_modRx {s : State} {key ctx die : Nat} {r : RxMsg} (h : s.link.rx.find? (fun y => y.is key ctx die) = some r) (f : RxMsg → RxMsg)
    (hf : ∀ y, (f y).is key ctx die = y.is key ctx die) :
    (s.modRx key ctx die f).link.rx.find? (fun y => y.is key ctx die) = some (f r) := by
  show (updWhere (fun y => y.is key ctx die) f s.link.rx).find? _ = _
  generalize s.link.rx = l at h
  induction l with
  | nil => simp at h
  | cons a l ih =>
    cases ha : a.is key ctx die with
    | true =>
      have : a = r := by simpa [ha] using h
      subst this
      simp [updWhere, ha, hf]
    | false =>
      have h : l.find? (fun y => y.is key ctx die) = some r := by simpa [ha] using h
      simpa [updWhere, ha] using ih h

/-- The deposit of units: none left, a unit written, a unit that meets a page fault. -/
theorem deposits (s : State) (r : RxMsg) (a : Actor) (i va : Nat) (u : List Byte) (us : List (List Byte))
    (hr : s.link.rx.find? (fun y => y.is r.key r.ctx r.die) = some r) :
    (∃ r', (s.depositUnits r a i va []).link.rx.find? (fun y => y.is r.key r.ctx r.die) = some r' ∧ r'.got = i :: r.got ∧
      r'.seen = s.clk ∧ (s.depositUnits r a i va []).mem = s.mem) ∧
    (∀ ts s1, s.engWrite a (.glob va) u = (.ok ts, s1) → s.depositUnits r a i va (u :: us) =
      (s1.modRx r.key r.ctx r.die (fun y => { y with pts := max y.pts ts })).depositUnits r a i (va + 16) us) ∧
    (∀ s1, s.engWrite a (.glob va) u = (.pageFault, s1) → s1.link.rx = s.link.rx →
      ∃ r', (s.depositUnits r a i va (u :: us)).link.rx.find? (fun y => y.is r.key r.ctx r.die) = some r' ∧ r'.got = r.got ∧
        r'.rest = r.rest ++ [(i, va, (u :: us).flatten)]) := by
  refine ⟨⟨_, State.rx_modRx hr (fun x => { x with got := i :: x.got, seen := s.clk }) fun _ => rfl, rfl, rfl, rfl⟩, fun ts s1 hw => ?_, fun s1 hw hx => ?_⟩
  · rw [State.depositUnits, hw]
  · have heq : s.depositUnits r a i va (u :: us) = (s1.xErr r.ctx r.die (.fault 3 2 va) (rxRef r.key)).1.modRx r.key r.ctx r.die
        (fun x => { x with held := (s1.xErr r.ctx r.die (.fault 3 2 va) (rxRef r.key)).2, rest := x.rest ++ [(i, va, (u :: us).flatten)] }) := by
      rw [State.depositUnits, hw]
      rfl
    have hl := s1.xErr_link r.ctx r.die (.fault 3 2 va) (rxRef r.key)
    generalize s1.xErr r.ctx r.die (.fault 3 2 va) (rxRef r.key) = q at heq hl
    rw [heq]
    have hq : q.1.link.rx.find? (fun y => y.is r.key r.ctx r.die) = some r := by rw [hl, hx]; exact hr
    exact ⟨_, State.rx_modRx hq (fun x => { x with held := q.2, rest := x.rest ++ [(i, va, (u :: us).flatten)] }) fun _ => rfl, rfl, rfl⟩

/-- The first packet of a message whose key or landing is wrong is refused, and a packet of a message being received deposited. -/
theorem packetArrives {s : State} {bs : List Byte} (hbs : bs = (s.pick.drop 10).map (BitVec.ofNat 8)) (hport : s.arg 1 ∈ s.ethPorts (s.arg 0))
    (hrec : s.receives (s.arg 3) = true) (hend : (s.arg 2, s.arg 3, s.arg 0) ∉ s.link.ended) (hlen : bs.length = min 4096 (s.arg 7 - 4096 * s.arg 9))
    (hi : 4096 * s.arg 9 < s.arg 7) (h7 : s.arg 7 % 16 = 0) (h6 : s.arg 6 % 16 = 0) :
    (s.link.rx.find? (fun r => r.is (s.arg 2) (s.arg 3) (s.arg 0)) = none →
      (s.arg 4 ≠ (s.xcfgOf (s.arg 3)).landKey ∨ (s.xcfgOf (s.arg 3)).landCount ≤ s.arg 5) →
      ∃ t r, exec .packetArrival s = .next t ∧ t.link.rx = s.link.rx ++ [r] ∧ r.refused = true ∧ r.key = s.arg 2 ∧ r.ctx = s.arg 3 ∧
        t.link.replies = s.link.replies ++ [(s.arg 2, s.arg 3, s.arg 0, true)] ∧ t.mem = s.mem) ∧
    (∀ r, s.link.rx.find? (fun r => r.is (s.arg 2) (s.arg 3) (s.arg 0)) = some r → r.refused = false → r.rest = [] →
      s.arg 9 ∉ r.got → r.len = s.arg 7 → s.cutOff (s.arg 3) (r.base + r.off + 4096 * s.arg 9) = false →
      exec .packetArrival s = .next (s.depositUnits r (s.xOwn (s.arg 3) (s.arg 0)) (s.arg 9) (r.base + r.off + 4096 * s.arg 9) (chunksOf 16 bs))) := by
  have hgo : ¬ (!(s.ethPorts (s.arg 0)).contains (s.arg 1) || !(((s.pick.drop 10).map (BitVec.ofNat 8)).length == min 4096 (s.arg 7 - 4096 * s.arg 9) &&
      decide (4096 * s.arg 9 < s.arg 7) && s.arg 7 % 16 == 0 && s.arg 6 % 16 == 0)) = true := by
    rw [← hbs]
    simp [hport, hlen, hi, h7, h6]
  refine ⟨fun hnone hbad => ?_, fun r hr href hrest hgot hl hc => ?_⟩
  · have heq : ∃ one, one.refused = true ∧ one.key = s.arg 2 ∧ one.ctx = s.arg 3 ∧ exec .packetArrival s =
        .next (State.reply { s with link := { s.link with rx := s.link.rx ++ [one] } } (s.arg 2) (s.arg 3) (s.arg 0) true) := by
      show ∃ one : RxMsg, _ ∧ _ ∧ _ ∧ execPacketArrival s = _
      unfold execPacketArrival
      dsimp only
      rw [if_neg hgo, hrec, if_neg (by decide), if_neg (by simpa using hend)]
      simp only [hnone]
      rw [if_pos (by simpa using hbad)]
      exact ⟨_, rfl, rfl, rfl, rfl⟩
    obtain ⟨one, h1, h2, h3, e⟩ := heq
    exact ⟨_, one, e, rfl, h1, h2, h3, rfl, rfl⟩
  · obtain ⟨hk, hctx, hdie⟩ := RxMsg.key_of_find? hr
    show execPacketArrival s = _
    unfold execPacketArrival
    dsimp only
    rw [if_neg hgo, hrec, if_neg (by decide), if_neg (by simpa using hend)]
    simp only [hr]
    rw [if_neg (by simp [href, hrest, hgot, hl, hc, RxMsg.packets]; omega)]
    unfold State.deposit
    rw [hctx, hdie, hbs]

/-- A message that ends at the receiver. -/
theorem State.endRx_gone (s : State) (r : RxMsg) (refused : Bool) :
    (r.key, r.ctx, r.die) ∈ (s.endRx r refused).link.ended ∧
    (s.endRx r refused).link.rx.find? (fun y => y.is r.key r.ctx r.die) = none ∧
    (r.key, r.ctx, r.die, refused) ∈ (s.endRx r refused).link.replies :=
  ⟨List.mem_cons_self, by
    show (s.link.rx.filter (fun y => !y.is r.key r.ctx r.die)).find? _ = none
    simp, List.mem_append_right _ List.mem_cons_self⟩

/-- TRANSPORT_COMPLETION of a message whose bytes are deposited, by the kind of its landing. -/
theorem transportCompleted {s s1 : State} {r : RxMsg} {la : Landing} {c : Ctx}
    (hr : s.link.rx.find? (fun r => r.is (s.arg 0) (s.arg 1) (s.arg 2)) = some r) (href : r.refused = false) (hrest : r.rest = [])
    (hgot : r.packets ≤ r.got.length) (hrec : s.receives r.ctx = true) (hcut : s.cutOff r.ctx ((s.xcfgOf r.ctx).landBase + 64 * r.landing) = false)
    (hheld : s.xHeld r.ctx (rxRef r.key) = false) (hc : s.ctx? r.ctx = some c) (hst : c.st = .running ∨ c.st = .resident) (hv : c.viol = false)
    (hstop : c.stopAt = none) (hsaved : c.saved = none) (hla : s.landing (s.xcfgOf r.ctx) r.die r.landing = (.ok la, s1)) (h3 : la.ckind ≠ 3)
    (hpad : la.ckind = 2 → ∀ k m, s1.completionPad r.ctx la = some (k, m) → ∃ pd, s1.pad? k.kid m = some pd ∧ la.coff + 8 * (r.ctag / 64) + 8 ≤ pd.size) :
    ∃ (u : State) (refused : Bool), exec .transportCompletion s = .next (u.endRx r refused) ∧ (la.ckind = 0 → refused = false) := by
  have hruns : ((s.ctx? r.ctx).any fun c => (c.st == .running || c.st == .resident) && !c.viol && c.stopAt.isNone && c.saved.isNone) = true := by
    rw [hc]
    rcases hst with h | h <;> simp [h, hv, hstop, hsaved]
  have heq : exec .transportCompletion s = match la.ckind with
      | 1 => match s1.completionPad r.ctx la with
        | none => .next (s1.endRx r true)
        | some (k, m) => .next ((s1.barSignal k.kid m la.coff r.pts).2.endRx r ((s1.barSignal k.kid m la.coff r.pts).1 != 0))
      | 2 => match s1.completionPad r.ctx la with
        | none => .next (s1.endRx r true)
        | some (k, m) =>
          if (s1.pad? k.kid m).any (fun pd => la.coff + 8 * (r.ctag / 64) + 8 ≤ pd.size) then
            .next ((s1.engOr (xActor r.ctx r.die false r.pts) (.pad k.kid m (la.coff + 8 * (r.ctag / 64))) (r.ctag % 64)).2.endRx r false)
          else .next (s1.xErr r.ctx r.die (.viol (la.coff + 8 * (r.ctag / 64))) (rxRef r.key)).1
      | _ => .next (s1.endRx r false) := by
    show execTransportCompletion s = _
    unfold execTransportCompletion
    simp only [hr]
    rw [if_neg (by simp [href, hrest, hgot, hrec, hcut, hheld]), hla]
    dsimp only
    rw [hruns, if_neg (by simp [h3])]
    generalize la.ckind = k at h3
    match k, h3 with
    | 0, _ => rfl
    | 1, _ => rfl
    | 2, _ => rfl
    | k + 4, _ => rfl
  generalize hk : la.ckind = k at *
  split at heq
  · cases hp : s1.completionPad r.ctx la with
    | none => rw [hp] at heq; exact ⟨_, _, heq, by omega⟩
    | some x => rw [hp] at heq; exact ⟨_, _, heq, by omega⟩
  · cases hp : s1.completionPad r.ctx la with
    | none => rw [hp] at heq; exact ⟨_, _, heq, by omega⟩
    | some x =>
      obtain ⟨k, m⟩ := x
      rw [hp] at heq
      obtain ⟨pd, h1, h2⟩ := hpad rfl k m hp
      dsimp only at heq
      rw [if_pos (by rw [h1]; simpa using h2)] at heq
      exact ⟨_, _, heq, by omega⟩
  · exact ⟨_, _, heq, fun _ => rfl⟩

/-- RECEIVE_ABANDON of a message refused, or of one without a new packet for 20 ms. -/
theorem receiveAbandoned {s : State} {r : RxMsg} (hr : s.link.rx.find? (fun r => r.is (s.arg 0) (s.arg 1) (s.arg 2)) = some r)
    (hclk : r.seen + 72000000 ≤ s.clk) (hp : r.refused = true ∨ r.got.length < r.packets) :
    ∃ u : State, exec .receiveAbandon s = .next (u.dropRx r.key r.ctx r.die) := by
  show ∃ u : State, execReceiveAbandon s = _
  unfold execReceiveAbandon
  simp only [hr]
  rw [if_neg (by rcases hp with h | h <;> simp [h, hclk])]
  split
  · exact ⟨_, rfl⟩
  · exact ⟨_, rfl⟩

/-- Settles O52: each step of sending, of receiving and of the congestion page. -/
theorem transport : Obligations.Transport := by
  refine ⟨fun s => ⟨?_, ?_, ?_⟩, fun s => ⟨?_, ?_, ?_⟩⟩
  · intro c x base slots head bs s1 hc hx hring va v cmd a x1 Head hst hviol hstop hroom hfree hport hdie hreach hnone hread
    have h : SlotRead s c x base slots head bs s1 := ⟨hc, hx, hring, ⟨hst, hviol, hstop⟩, hroom, hfree, ⟨hport, hdie⟩, hreach, hnone, hread⟩
    obtain ⟨h1, h2⟩ := sendSlot h (va := va) rfl (v := v) rfl (cmd := cmd) rfl
    refine ⟨h1, fun ts s2 hone hw => ?_⟩
    intro m s3
    obtain ⟨k1, k2⟩ := h2 ts s2 hone hw m rfl
    refine ⟨k1, fun hok hj => ?_⟩
    intro at_ s4
    obtain ⟨j1, j2⟩ := k2 hok hj s4 rfl
    refine ⟨j1, fun b s5 hp hr hcut hh hg => ?_⟩
    obtain ⟨i1, i2⟩ := j2 b s5 hp hr hcut hh hg
    refine ⟨i1, fun hf => ?_⟩
    obtain ⟨t, e, ht, hlen, hmem⟩ := i2 hf
    exact ⟨t, e, ht, hlen, _, hmem, rfl, rfl, rfl, rfl, rfl, rfl, rfl, rfl, rfl, rfl, rfl⟩
  · intro m hm hi ha hr
    refine ⟨fun bs s1 hh he hrec hc hq hg => packetAcked hm hi ha hr hh he hrec hc hq hg, ?_⟩
    intro had
    exact retransmitted hm hi ha hr rfl
  · intro x base n hx hp hclk
    exact congestionUpdated hx hp hclk
  · intro key ctx bs hport hrec hend hlen hi h7 h6
    obtain ⟨p1, p2⟩ := packetArrives (bs := bs) rfl hport hrec hend hlen hi h7 h6
    exact ⟨p1, fun r hr href hrest hgot hl => p2 r hr href hrest hgot hl⟩
  · intro r a i va u us hr
    exact deposits s r a i va u us hr
  · intro r hr Gone
    obtain ⟨hk, hctx, hdie⟩ := RxMsg.key_of_find? hr
    refine ⟨fun la s1 c href hrest hgot hrec hcut hheld hc hst hv hstop hsaved hla h3 hpad => ?_, fun hclk hp => ?_⟩
    · obtain ⟨u, refused, e, h0⟩ := transportCompleted hr href hrest hgot hrec hcut hheld hc hst hv hstop hsaved hla h3 hpad
      obtain ⟨g1, g2, g3⟩ := u.endRx_gone r refused
      refine ⟨⟨_, e, ?_, ?_⟩, fun hz => ⟨_, e, ?_⟩⟩
      · rw [← hk, ← hctx, ← hdie]; exact g1
      · rw [← hk, ← hctx, ← hdie]; exact g2
      · rw [h0 hz] at g3 ⊢; exact g3
    · obtain ⟨u, e⟩ := receiveAbandoned hr hclk hp
      refine ⟨_, e, ?_, ?_⟩
      · rw [← hk, ← hctx, ← hdie]; exact List.mem_cons_self
      · rw [← hk, ← hctx, ← hdie]
        show (u.link.rx.filter (fun y => !y.is r.key r.ctx r.die)).find? _ = none
        simp

end Sys2Proof.Machine
end


section
/-!
FACTS. Form-wide words of an undivided group (07 R168): the one path halts, the word is executed, and the path goes on or waits.
-/

namespace Sys2Proof.Machine

open Sys2Proof

/-- One group has become another, and nothing else has changed. -/
structure GroupBecomes (s t : State) (gid : Nat) (g : Group) : Prop where
  group : t.group? gid = some g
  others : ∀ n, n ≠ gid → t.group? n = s.group? n
  list : t.groups.filter (fun x => x.gid != gid) = s.groups.filter (fun x => x.gid != gid)
  rest : t = { s with groups := t.groups }

namespace GroupBecomes

theorem refl {s : State} {gid : Nat} {g : Group} (h : s.group? gid = some g) : GroupBecomes s s gid g := ⟨h, fun _ _ => rfl, rfl, rfl⟩

theorem trans {s t u : State} {gid : Nat} {g g' : Group} (h : GroupBecomes s t gid g) (k : GroupBecomes t u gid g') : GroupBecomes s u gid g' :=
  ⟨k.group, fun n hn => (k.others n hn).trans (h.others n hn), k.list.trans h.list, by rw [k.rest, h.rest]⟩

theorem modGroup {s : State} {gid : Nat} {g : Group} (h : s.group? gid = some g) (f : Group → Group) (hf : ∀ x, (f x).gid = x.gid) :
    GroupBecomes s (s.modGroup gid f) gid (f g) := by
  refine ⟨State.group?_modGroup_same h f hf, fun n hn => State.group?_modGroup_other s gid n f hf hn, ?_, rfl⟩
  show (updWhere _ f s.groups).filter _ = _
  unfold updWhere
  induction s.groups with
  | nil => rfl
  | cons a r ih =>
    simp only [beq_iff_eq] at ih
    by_cases ha : a.gid = gid <;> simp [ha, hf, ih]

theorem settle {s : State} {gid : Nat} {g : Group} {q : Path} (h : s.group? gid = some g) (hp : g.paths = [q]) (hl : q.lanes ≠ [])
    (hs : q.stacked = none) : ∃ a, GroupBecomes s (s.settle gid) gid (g.withPaths [{ q with after := a }]) := by
  obtain ⟨a, e⟩ := Group.tidy_alone hp hl
  have hn : g.noStack := fun p hmem => by rw [hp] at hmem; rw [List.mem_singleton.mp hmem]; exact hs
  have ht := GroupBecomes.modGroup h Group.tidy Group.tidy_gid
  rw [e] at ht
  exact ⟨a, by rw [State.settle_noStack s gid g h hn]; exact ht⟩

/-- Groups found among those of other numbers are found alike. -/
theorem find?_others {s t : State} {gid : Nat} {g : Group} (h : GroupBecomes s t gid g) (f : Group → Bool) :
    t.groups.find? (fun x => x.gid != gid && f x) = s.groups.find? (fun x => x.gid != gid && f x) := by
  have hsplit : ∀ l : List Group, l.find? (fun x => x.gid != gid && f x) = (l.filter (fun x => x.gid != gid)).find? f := fun l => by
    rw [List.find?_filter]
    congr 1
    funext x
    by_cases hx : x.gid = gid <;> simp [hx]
  rw [hsplit, hsplit, h.list]

end GroupBecomes

/-! A released word (13 R321). -/

/-- A lane has no path to rejoin where its group has one path. -/
theorem Group.rejoin_one {g : Group} {q : Path} (h : g.paths = [q]) (pids : List Nat) (l : Nat) : g.rejoin pids l = g := by
  unfold Group.rejoin
  split
  · rfl
  · rename_i a ha
    have : a = q := by
      have := List.mem_of_find?_eq_some ha
      rw [h] at this
      exact List.mem_singleton.mp this
    subst this
    split
    · rename_i hal
      have halone : a.alone = true := by
        simp only [Bool.and_eq_true] at hal
        exact hal.1.1
      have hhere : g.paths.filter (fun p => !p.alone && pids.contains p.pid && p.halted.isSome && p.pc == a.pc) = [] := by
        rw [h]; simp [halone]
      dsimp only
      rw [hhere]
      simp
    · rfl

theorem Group.rejoins_one {g : Group} {q : Path} (h : g.paths = [q]) (pids : List Nat) (l : List Nat) :
    l.foldl (fun g l => g.rejoin pids l) g = g := by
  induction l with
  | nil => rfl
  | cons a r ih => rw [List.foldl_cons, Group.rejoin_one h, ih]

/-- A group with one path holds its live slots. -/
theorem State.enforceSlots_one {s : State} {gid : Nat} {g : Group} {q : Path} (hg : s.group? gid = some g) (h : g.paths = [q])
    (new : List Nat) (wait : Bool) (n : Nat) : s.enforceSlots gid new wait n = .done s := by
  cases n with
  | zero => rfl
  | succ n =>
    have hnone : (List.range 8).find? (fun q => decide (2 < (g.liveIn q).length)) = none := by
      refine List.find?_eq_none.mpr fun k _ => ?_
      have : (g.liveIn k).length ≤ 1 := by
        unfold Group.liveIn
        rw [h]
        exact (List.length_filter_le _ _).trans (by simp)
      simp; omega
    unfold State.enforceSlots
    rw [hg]
    simp only [hnone]

/-- A path of a released word goes on. -/
def Path.released (p : Path) : Path :=
  if p.halted.isNone then p
  else if p.stacked.isSome then { p with halted := none, waiting := true }
  else { p with pc := p.pc + 8, halted := none }

theorem Path.released_of_halted {p : Path} (hs : p.stacked = none) (hh : p.halted.isSome = true) :
    p.released = { p with pc := p.pc + 8, halted := none } := by
  unfold Path.released
  rw [if_neg (by rw [Option.isNone_iff_eq_none]; rintro h; rw [h] at hh; cases hh), if_neg (by rw [hs]; decide)]

theorem Group.rejoins_gid (pids l : List Nat) (g : Group) : (l.foldl (fun g l => g.rejoin pids l) g).gid = g.gid := by
  induction l generalizing g with
  | nil => rfl
  | cons a r ih =>
    rw [List.foldl_cons, ih]
    unfold Group.rejoin
    split
    · rfl
    · split
      · dsimp only; split <;> rfl
      · rfl

theorem State.allJoined_none {s : State} {gid : Nat} {g : Group} (hg : s.group? gid = some g) (ho : g.owedEntries = []) : s.allJoined gid = s := by
  unfold State.allJoined
  rw [hg]
  dsimp only
  rw [ho]
  rfl

/-- The one path of a group goes on after the word at which it is halted. -/
theorem GroupBecomes.release {s : State} {gid : Nat} {g : Group} {q : Path} (hg : s.group? gid = some g) (hp : g.paths = [q])
    (hl : q.lanes ≠ []) (hs : q.stacked = none) (ho : g.owedEntries = []) (hh : q.halted.isSome = true) :
    ∃ a, GroupBecomes s (s.releaseForm gid) gid (g.withPaths [{ q with pc := q.pc + 8, halted := none, after := a }]) := by
  have h1 := GroupBecomes.modGroup hg (fun g => (List.range g.size).foldl (fun g l => g.rejoin [q.pid] l) g) fun x => Group.rejoins_gid _ _ x
  rw [Group.rejoins_one hp] at h1
  have h2 := GroupBecomes.modGroup h1.group (fun g => g.modPath q.pid Path.released) fun _ => rfl
  have hp2 := Group.modPath_one g q hp Path.released
  rw [Path.released_of_halted hs hh] at hp2
  have h3 := GroupBecomes.modGroup h2.group Group.tidy Group.tidy_gid
  obtain ⟨a, ha⟩ := Group.tidy_alone hp2 hl
  rw [ha] at h3
  obtain ⟨b, h4⟩ := GroupBecomes.settle h3.group rfl hl hs
  refine ⟨b, ?_⟩
  have heq : s.releaseForm gid = (((s.modGroup gid (fun g => (List.range g.size).foldl (fun g l => g.rejoin [q.pid] l) g)).modGroup gid
      (fun g => g.modPath q.pid Path.released)).modGroup gid Group.tidy).settle gid := by
    have he := State.enforceSlots_one h3.group rfl [q.pid] false 40
    have hj := State.allJoined_none h3.group ho
    unfold State.releaseForm
    rw [hg]
    dsimp only
    rw [hp]
    generalize ht : ((s.modGroup gid (fun g => (List.range g.size).foldl (fun g l => g.rejoin [q.pid] l) g)).modGroup gid
      (fun g => g.modPath q.pid Path.released)).modGroup gid Group.tidy = t at he hj
    have hu : s.releasePaths gid [q.pid] = ((match t.enforceSlots gid [q.pid] false 40 with
      | .done s3 => s3
      | _ => t.fullSplit gid).allJoined gid).settle gid := by
      rw [← ht]
      rfl
    refine hu.trans ?_
    rw [he]
    dsimp only
    rw [hj]
  rw [heq]
  exact ((h1.trans h2).trans h3).trans h4

/-! The word of an undivided group. -/

/-- The group with its one path halted at a form-wide word. -/
def Group.haltsAt (g : Group) (p : Path) (i : Instr) : Group := g.withPaths [{ p with halted := some i }]

/-- The one path of an undivided group arrives at a word. -/
theorem State.undivided.halts {s : State} {h : Group} {p : Path} (hs : s.undivided h p) (i : Instr) :
    GroupBecomes s (s.modPath h.gid p.pid (fun p => { p with halted := some i })) h.gid (h.haltsAt p i) := by
  obtain ⟨-, hp, -⟩ := id hs
  have h0 := GroupBecomes.modGroup hs.group (fun g => g.modPath p.pid (fun p => { p with halted := some i })) fun _ => rfl
  have hH : h.modPath p.pid (fun p => { p with halted := some i }) = h.haltsAt p i := by
    unfold Group.haltsAt Group.withPaths
    rw [← Group.modPath_one h p hp (fun p => { p with halted := some i })]
    rfl
  rw [hH] at h0
  exact h0

/-- A form-wide word of an undivided group is executed at once; a path that stays halted would exchange with its stack. -/
theorem formWord_at {s : State} {h : Group} {p : Path} (hs : s.undivided h p) (i : Instr) (f : Group → Path → State → State) {u : State}
    (hu : f (h.haltsAt p i) { p with halted := some i } (s.modPath h.gid p.pid (fun p => { p with halted := some i })) = u) :
    formWord i f s = .next (if (u.group? h.gid).any (fun g => (g.path? p.pid).any (fun p => p.halted == some i)) = true then
      u.exchangeOr s h.gid p.pid else u) := by
  obtain ⟨⟨hc, -⟩, hp, hlanes, hne, -, -, -, -, -⟩ := id hs
  have hpath : (h.haltsAt p i).path? p.pid = some { p with halted := some i } := by
    simp [Group.path?, Group.haltsAt, Group.withPaths]
  have hready : (h.haltsAt p i).formReady p.pc i = true := by
    unfold Group.formReady Group.haltedAt
    refine List.all_eq_true.mpr fun l hl => ?_
    have hmem : l ∈ p.lanes := by rw [hlanes]; exact hl
    simp [Group.haltsAt, Group.withPaths, hmem]
  have htry : (s.modPath h.gid p.pid (fun p => { p with halted := some i })).formTry h.gid p.pid i f = u := by
    rw [← hu]
    unfold State.formTry
    rw [(hs.halts i).group]
    dsimp only
    rw [hpath]
    dsimp only
    rw [hready, if_pos (by simp)]
  unfold formWord
  rw [hc]
  dsimp only
  unfold State.arrive
  dsimp only
  rw [htry]

/-- The state in which a form-wide word is executed differs in the group's path alone. -/
theorem formWord_tries {s : State} {h : Group} {p : Path} (hs : s.undivided h p) (i : Instr) (f : Group → Path → State → State) :
    ∃ s0, GroupBecomes s s0 h.gid (h.haltsAt p i) ∧
      ∀ u, f (h.haltsAt p i) { p with halted := some i } s0 = u →
        formWord i f s = .next (if (u.group? h.gid).any (fun g => (g.path? p.pid).any (fun p => p.halted == some i)) = true then
          u.exchangeOr s h.gid p.pid else u) := ⟨_, hs.halts i, fun _ hu => formWord_at hs i f hu⟩

/-- What the effect of a form-wide word leaves is the state after it, unless the path stays halted. -/
theorem formWord_undivided {s : State} {h : Group} {p : Path} (hs : s.undivided h p) (i : Instr) (f : Group → Path → State → State) :
    ∃ s0, GroupBecomes s s0 h.gid (h.haltsAt p i) ∧
      ∀ g' q, (f (h.haltsAt p i) { p with halted := some i } s0).group? h.gid = some g' → g'.paths = [q] → q.halted ≠ some i →
        formWord i f s = .next (f (h.haltsAt p i) { p with halted := some i } s0) := by
  obtain ⟨s0, h0, he⟩ := formWord_tries hs i f
  refine ⟨s0, h0, fun g' q hg' hq hh => (he _ rfl).trans ?_⟩
  rw [if_neg]
  rw [hg']
  by_cases hqp : q.pid = p.pid <;> simp [Group.path?, hq, hqp, hh]

/-- A group without stacked paths has none to exchange. -/
theorem State.exchangeOr_one {s before : State} {gid : Nat} {g : Group} {q : Path} (hg : s.group? gid = some g) (hp : g.paths = [q])
    (hs : q.stacked = none) : s.exchangeOr before gid q.pid = s := by
  have hpath : g.path? q.pid = some q := by simp [Group.path?, hp]
  have hstack : g.stackOf q.qset = [] := by
    unfold Group.stackOf
    rw [hp]
    simp [hs, sortBy]
  unfold State.exchangeOr State.exchangeStack
  simp only [hg, hpath, hstack]
  split <;> rfl

/-- A form-wide word whose effect waits: the path stays halted at it. -/
theorem formWord_stays {s : State} {h : Group} {p : Path} (hs : s.undivided h p) {i : Instr} {f : Group → Path → State → State}
    (hf : ∀ s0, GroupBecomes s s0 h.gid (h.haltsAt p i) → f (h.haltsAt p i) { p with halted := some i } s0 = s0) :
    ∃ t, formWord i f s = .next t ∧ GroupBecomes s t h.gid (h.haltsAt p i) := by
  obtain ⟨s0, h0, he⟩ := formWord_tries hs i f
  refine ⟨s0, (he s0 (hf s0 h0)).trans ?_, h0⟩
  have hx : s0.exchangeOr s h.gid p.pid = s0 := State.exchangeOr_one (q := { p with halted := some i }) h0.group rfl hs.stacked
  rw [hx, ite_self]

/-- An undivided group's path halted at a word, as the release of the word finds it. -/
theorem State.undivided.release {s s0 : State} {h : Group} {p : Path} (hs : s.undivided h p) {i : Instr} {gid : Nat} {g : Group}
    (hg : s0.group? gid = some g) (hp : g.paths = [{ p with halted := some i }]) (ho : g.owedEntries = []) :
    ∃ a, GroupBecomes s0 (s0.releaseForm gid) gid (g.withPaths [{ p with pc := p.pc + 8, halted := none, after := a }]) := by
  obtain ⟨-, -, -, hne, -, -, -, -, -⟩ := id hs
  exact GroupBecomes.release (q := { p with halted := some i }) hg hp hne hs.stacked ho rfl

/-- A form-wide word whose effect changes the group alone and releases it: the path goes on. -/
theorem formWord_releases {s : State} {h : Group} {p : Path} (hs : s.undivided h p) {i : Instr} {f : Group → Path → State → State} {g : Group}
    (hp : g.paths = [{ p with halted := some i }]) (ho : g.owedEntries = [])
    (heff : ∀ s0, GroupBecomes s s0 h.gid (h.haltsAt p i) → ∃ u, GroupBecomes s0 u h.gid g ∧
      f (h.haltsAt p i) { p with halted := some i } s0 = u.releaseForm h.gid) :
    ∃ t a, formWord i f s = .next t ∧ GroupBecomes s t h.gid (g.withPaths [{ p with pc := p.pc + 8, halted := none, after := a }]) := by
  obtain ⟨s0, h0, hword⟩ := formWord_undivided hs i f
  obtain ⟨u, hu, he⟩ := heff s0 h0
  obtain ⟨a, hr⟩ := hs.release hu.group hp ho
  rw [he] at hword
  exact ⟨_, a, hword _ _ hr.group rfl (by simp), (h0.trans hu).trans hr⟩

theorem GroupBecomes.goesTo {s t : State} {h g : Group} {p : Path} (hs : s.undivided h p) {pc : Word} {a : Option Nat}
    (ht : GroupBecomes s t h.gid (g.withPaths [{ p with pc := pc, halted := none, after := a }])) : GoesTo t h p pc := by
  obtain ⟨-, -, -, -, -, -, -, hw, -⟩ := hs
  exact ⟨{ p with pc := pc, halted := none, after := a }, by rw [ht.group]; rfl, rfl, rfl, rfl, hw⟩

/-- A form-wide word that changes lanes and group and goes on. -/
theorem formActs_of {s : State} {h : Group} {p : Path} (hs : s.undivided h p) {i : Instr} {f : Lane → Lane} {f' : Group → Group}
    {eff : Group → Path → State → State} (hi : exec i s = formWord i eff s) (ho : (f' h).owedEntries = [])
    (heff : ∀ s0, GroupBecomes s s0 h.gid (h.haltsAt p i) → ∃ u, GroupBecomes s0 u h.gid
        { f' h with lanes := h.lanes.map f, paths := [{ p with halted := some i }] } ∧
      eff (h.haltsAt p i) { p with halted := some i } s0 = u.releaseForm h.gid) :
    FormActs i s h p f f' := by
  obtain ⟨t, a, e, ht⟩ := formWord_releases hs (g := { f' h with lanes := h.lanes.map f, paths := [{ p with halted := some i }] }) rfl ho heff
  exact ⟨t, _, hi.trans e, ht.group, ht.goesTo hs, rfl, rfl, ht.rest, ht.others⟩

end Sys2Proof.Machine
end


section
/-!
SETTLED. MZERO, MCLR, MMOV, MPASS and MWAIT of an undivided form (O30).
-/

namespace Sys2Proof.Machine

open Sys2Proof

/-! The m registers of a lane (07 R175, R176). -/

theorem Lane.setBlock_of_lt (l : Lane) {r : Nat} (b : Vector (BitVec 32) 64) (h : r < 8) : l.setBlock r b = { l with m := l.m.set r b h } :=
  dif_pos h

/-- The m registers with those cleared that `f` names among the first n. -/
def clearedTo (f : Nat → Bool) (n : Nat) (m : Vector (Vector (BitVec 32) 64) 8) : Vector (Vector (BitVec 32) 64) 8 :=
  Vector.ofFn (fun r : Fin 8 => if r.val < n ∧ f r.val then Vector.replicate 64 0 else m[r])

theorem clearedTo_succ (f : Nat → Bool) {n : Nat} (hn : n < 8) (m : Vector (Vector (BitVec 32) 64) 8) :
    clearedTo f (n + 1) m = if f n then (clearedTo f n m).set n (Vector.replicate 64 0) else clearedTo f n m := by
  refine Vector.ext fun r hr => ?_
  by_cases hf : f n = true <;> by_cases he : r = n
  · subst he; simp [clearedTo, hf]
  · have hlt : r ≤ n ↔ r < n := by omega
    simp [clearedTo, hf, hlt, Vector.getElem_set, Ne.symm he]
  · subst he; simp [clearedTo, hf]
  · have hlt : r ≤ n ↔ r < n := by omega
    simp [clearedTo, hf, hlt]

/-- A lane whose m registers that `f` names are cleared. -/
theorem Lane.clearBlocks (f : Nat → Bool) (l : Lane) :
    (List.range 8).foldl (fun l r => if f r then l.setBlock r (Vector.replicate 64 0) else l) l = { l with m := clearedTo f 8 l.m } := by
  have hstep : ∀ n, n ≤ 8 → (List.range n).foldl (fun l r => if f r then l.setBlock r (Vector.replicate 64 0) else l) l =
      { l with m := clearedTo f n l.m } := by
    intro n hn
    induction n with
    | zero =>
      have : clearedTo f 0 l.m = l.m := Vector.ext fun r hr => by simp [clearedTo]
      rw [this]; rfl
    | succ n ih =>
      rw [List.range_succ, List.foldl_append, ih (by omega), clearedTo_succ f (by omega)]
      dsimp only [List.foldl_cons, List.foldl_nil]
      split
      · exact Lane.setBlock_of_lt _ _ (by omega)
      · rfl
  exact hstep 8 (Nat.le_refl 8)

theorem clearedTo_one (d : MReg) (m : Vector (Vector (BitVec 32) 64) 8) : clearedTo (· == d.val) 8 m = m.set d (Vector.replicate 64 0) := by
  refine Vector.ext fun r hr => ?_
  by_cases he : r = d.val
  · simp [clearedTo, he]
  · simp [clearedTo, he, hr, Vector.getElem_set, Ne.symm he]

theorem clearedTo_all (f : Nat → Bool) (m : Vector (Vector (BitVec 32) 64) 8) :
    clearedTo f 8 m = Vector.ofFn (fun r : Fin 8 => if f r.val then Vector.replicate 64 0 else m[r]) :=
  Vector.ext fun r hr => by simp [clearedTo, hr]

theorem Lane.block_eq (l : Lane) (a : MReg) : l.block a.val = l.m[a] := by
  unfold Lane.block
  rw [List.getD_eq_getElem _ _ (by simp)]
  simp

theorem Group.clearTiles_eq (g : Group) (f : Nat → Bool) :
    g.clearTiles f = { g with lanes := g.lanes.map (fun l => { l with m := clearedTo f 8 l.m }) } := by
  unfold Group.clearTiles
  rw [funext (Lane.clearBlocks f)]

theorem Group.clearMrp_eq (g : Group) : g.clearMrp = { g with mrp := if g.mrp.toNat / 65536 % 2 = 1 then 0 else g.mrp } := by
  unfold Group.clearMrp Group.owed
  simp only [beq_iff_eq]
  split <;> rfl

theorem Group.clearTiles_gid (g : Group) (f : Nat → Bool) : (g.clearMrp.clearTiles f).gid = g.gid := by
  rw [Group.clearTiles_eq, Group.clearMrp_eq]

/-- A form-wide word that changes the group alone goes on. -/
theorem formChange_acts {s : State} {h : Group} {p : Path} (hs : s.undivided h p) {i : Instr} {f : Lane → Lane} {f' F : Group → Group}
    (hi : exec i s = formWord i (formChange F) s) (hgid : ∀ x, (F x).gid = x.gid) (ho : (f' h).owedEntries = [])
    (hF : F (h.haltsAt p i) = { f' h with lanes := h.lanes.map f, paths := [{ p with halted := some i }] }) : FormActs i s h p f f' :=
  formActs_of hs hi ho fun s0 h0 => ⟨s0.modGroup h.gid F, by rw [← hF]; exact GroupBecomes.modGroup h0.group F hgid, rfl⟩

theorem State.pairOf?_eq (s : State) (g : Group) :
    s.pairOf? g = s.groups.find? (fun x => x.gid != g.gid && (x.ctx == g.ctx && x.site == g.site && x.pipes == g.pipes)) := by
  unfold State.pairOf?
  simp only [Bool.and_assoc]

/-- Settles O30. -/
theorem tileWords : Obligations.TileWords := by
  intro d a mask s h k p hs clear
  have ho : h.owedEntries = [] := by
    obtain ⟨-, -, -, -, -, -, -, -, ho⟩ := id hs
    exact ho
  have hpair : ∀ {i s0}, GroupBecomes s s0 h.gid (h.haltsAt p i) → s0.pairOf? (h.haltsAt p i) = s.pairOf? h := fun h0 => by
    rw [State.pairOf?_eq, State.pairOf?_eq]
    exact h0.find?_others (fun x => x.ctx == h.ctx && x.site == h.site && x.pipes == h.pipes)
  refine ⟨?_, ?_, ?_, fun hn => ?_, fun hk hpass => ?_, fun hm => ?_, fun hm hd => ?_, fun hm => ?_⟩
  · refine formChange_acts hs (Eq.refl (execMzero d s)) (fun x => Group.clearTiles_gid x _) ho ?_
    rw [Group.clearTiles_eq, Group.clearMrp_eq]
    simp only [clearedTo_one]
    rfl
  · refine formChange_acts hs (Eq.refl (execMclr mask s)) (fun x => Group.clearTiles_gid x _) ho ?_
    rw [Group.clearTiles_eq, Group.clearMrp_eq]
    simp only [clearedTo_all]
    rfl
  · refine formChange_acts hs (Eq.refl (execMmov d a s)) (fun x => by rw [Group.clearMrp_eq]) ho ?_
    rw [Group.clearMrp_eq]
    simp only [Lane.block_eq, Lane.setBlock_of_lt _ _ d.isLt]
    rfl
  · refine formActs_of hs (Eq.refl (execMpass s)) ho fun s0 h0 => ⟨s0, ?_, ?_⟩
    · rw [List.map_id]
      exact .refl h0.group
    · unfold mpassEff
      rw [hpair h0]
      exact congrArg (fun x : State => x.releaseForm h.gid) (if_neg (by rcases hn with h | h <;> simp [h, Group.haltsAt, Group.withPaths]))
  · refine formActs_of hs (Eq.refl (execMpass s)) ho fun s0 h0 => ⟨s0.modGroup h.gid (fun g => { g with pass := .inFlight }), ?_, ?_⟩
    · rw [List.map_id]
      exact GroupBecomes.modGroup h0.group _ fun _ => rfl
    · unfold mpassEff
      rw [hpair h0, hk]
      exact congrArg (fun x : State => x.releaseForm h.gid) (if_pos (by simp [hpass, Group.haltsAt, Group.withPaths]))
  · refine formActs_of hs (Eq.refl (execMwait s)) ho fun s0 h0 => ⟨s0.modGroup h.gid (fun g => { g with lanes := g.lanes.map id }), ?_, ?_⟩
    · exact GroupBecomes.modGroup h0.group _ fun _ => rfl
    · exact if_neg (by simp [Group.haltsAt, Group.withPaths, hm])
  · refine formActs_of hs (Eq.refl (execMwaitAll s)) ho fun s0 h0 => ⟨s0.modGroup h.gid (fun g => { g with
      lanes := g.lanes.map (fun x => if x.exited then x else { x with pts := max x.pts h.acqPts }) }), ?_, ?_⟩
    · exact GroupBecomes.modGroup h0.group _ fun _ => rfl
    · have hd0 : s0.drainsOf h.gid = 0 := by
        unfold State.drainsOf
        rw [h0.rest]
        exact hd
      refine (if_neg (by simp [Group.haltsAt, Group.withPaths, hm, hd0])).trans ?_
      refine congrArg (fun k : Lane → Lane => (s0.modGroup h.gid (fun g => { g with lanes := g.lanes.map k })).releaseForm h.gid) (funext fun l => ?_)
      by_cases hx : l.exited = true <;> simp [hx, Group.haltsAt, Group.withPaths]
  · obtain ⟨t, e, ht⟩ := formWord_stays hs (i := .mwait) (f := mwaitEff false) fun s0 _ =>
      if_pos (by simp [Group.haltsAt, Group.withPaths, hm])
    exact ⟨t, { p with halted := some .mwait }, e, by rw [ht.group]; rfl, rfl, rfl⟩

end Sys2Proof.Machine
end


section
/-!
FACTS. What an access of a lane leaves: nothing but memory, scratchpads and lanes has changed, and its group has its size and paths.
-/

namespace Sys2Proof.Machine

open Sys2Proof

/-- A group after memory has changed: its lanes may see it, and nothing else. -/
theorem MemOnly.group? {s t : State} (h : MemOnly s t) {n : Nat} {g : Group} (hg : s.group? n = some g) :
    ∃ g', t.group? n = some g' ∧ g' = { g with lanes := g'.lanes } ∧ g'.size = g.size := by
  have hfind : ∀ l : List Group, (l.find? (fun x => x.gid == n)).map Group.outline = (l.map Group.outline).find? (fun y => y.2.gid == n) := fun l => by
    rw [List.find?_map]
    rfl
  have hout : (t.group? n).map Group.outline = (s.group? n).map Group.outline := by
    unfold State.group?
    rw [hfind, hfind, h.groups]
  rw [hg, Option.map_some] at hout
  obtain ⟨g', hg', he⟩ := Option.map_eq_some_iff.mp hout
  obtain ⟨h1, h2⟩ := Prod.mk.inj he
  refine ⟨g', hg', ?_, h1⟩
  have := congrArg (fun x : Group => { x with lanes := g'.lanes }) h2
  exact this

theorem MemOnly.jobs {s t : State} (h : MemOnly s t) : t.jobs = s.jobs := by rw [h.rest]

theorem MemOnly.modLane (s : State) (n l : Nat) (f : Lane → Lane) : MemOnly s (s.modLane n l f) := by
  refine ⟨rfl, ?_, rfl⟩
  refine (List.map_map ..).trans (List.map_congr_left fun g _ => ?_)
  simp only [Function.comp_apply]
  split
  · simp [Group.outline, Group.size, Group.modLane]
  · rfl

theorem MemOnly.freeN (s : State) (n : Nat) : MemOnly s { s with freeN := n } := ⟨rfl, rfl, rfl⟩

/-- The states that a lane's access may answer differ from s in memory and what sees it. -/
def LRes.MemOnly {α : Type} (s : State) : LRes α → Prop
  | .ok _ t | .trapIn _ t => Machine.MemOnly s t
  | _ => True

theorem LRes.MemOnly.bind {α β : Type} {s : State} {r : LRes α} (h : r.MemOnly s) {f : α → State → LRes β}
    (hf : ∀ a t, Machine.MemOnly s t → (f a t).MemOnly s) : (r.bind f).MemOnly s := by
  cases r with
  | ok a t => exact hf a t h
  | trapIn i t => exact h
  | _ => trivial

theorem LRes.MemOnly.mono {α : Type} {s t : State} {r : LRes α} (h : Machine.MemOnly s t) (k : r.MemOnly t) : r.MemOnly s := by
  cases r with
  | ok a u => exact h.trans k
  | trapIn i u => exact h.trans k
  | _ => trivial

theorem State.accessTrap_memOnly {α β : Type} (s : State) (gid l : Nat) (r : MRes β) (p : Nat) (m : MemSys) (sub : Nat) (addr : Word) :
    (s.accessTrap gid l r p m sub addr : LRes α).MemOnly s := by
  unfold State.accessTrap
  split
  · exact (MemOnly.setMem s m).trans (.modLane _ gid l _)
  · exact (MemOnly.setMem s m).trans (.modLane _ gid l _)
  · trivial

theorem State.farAccess_memOnly (s : State) (gid l : Nat) (addr : Word) (n sub : Nat) : (s.farAccess gid l addr n sub).MemOnly s := by
  unfold State.farAccess
  split
  · trivial
  · have h : MemOnly s (s.farAnswer (s.lane gid l).pts).2.2 := .freeN s _
    generalize s.farAnswer (s.lane gid l).pts = q at h
    obtain ⟨r, p, t⟩ := q
    cases r with
    | ok v => exact h.trans (.modLane t gid l _)
    | _ => trivial

theorem State.loadRaw_memOnly (s : State) (gid l : Nat) (loc : Loc) (addr : Word) (n sub : Nat) : (s.loadRaw gid l loc addr n sub).MemOnly s := by
  unfold State.loadRaw
  split
  · trivial
  · split
    · split
      · exact s.farAccess_memOnly gid l addr n sub
      · dsimp only
        split
        · exact (MemOnly.setMem s _).trans (.modLane _ gid l _)
        · exact s.accessTrap_memOnly gid l _ _ _ sub addr
    · split
      · trivial
      · exact (MemOnly.modPad s _ _ _).trans (.modLane _ gid l _)

theorem State.storeRaw_memOnly (s : State) (gid l : Nat) (loc : Loc) (addr : Word) (bs : List Byte) : (s.storeRaw gid l loc addr bs).MemOnly s := by
  unfold State.storeRaw
  split
  · trivial
  · split
    · split
      · exact (s.farAccess_memOnly gid l addr bs.length 2).bind fun _ _ h => h
      · dsimp only
        split
        · exact ((MemOnly.setMem s _).trans (.fireWatches _ _ _)).trans (.modLane _ gid l _)
        · exact s.accessTrap_memOnly gid l _ _ _ 2 addr
    · split
      · trivial
      · exact ((MemOnly.modPad s _ _ _).trans (.fireWatches _ _ _)).trans (.modLane _ gid l _)

theorem State.loadAt_memOnly (s : State) (gid l : Nat) (loc : Loc) (addr : Word) (n sub : Nat) : (s.loadAt gid l loc addr n sub).MemOnly s := by
  unfold State.loadAt
  split
  · trivial
  · split
    · trivial
    · exact s.loadRaw_memOnly gid l loc addr n sub

theorem State.storeAt_memOnly (s : State) (gid l : Nat) (loc : Loc) (addr : Word) (bs : List Byte) : (s.storeAt gid l loc addr bs).MemOnly s := by
  unfold State.storeAt
  split
  · trivial
  · split
    · trivial
    · exact s.storeRaw_memOnly gid l loc addr bs

theorem State.load_memOnly (s : State) (gid l : Nat) (addr : Word) (n sub : Nat) : (s.load gid l addr n sub).MemOnly s := by
  unfold State.load
  split
  · trivial
  · split
    · trivial
    · exact s.loadAt_memOnly gid l _ addr n sub

theorem State.store_memOnly (s : State) (gid l : Nat) (addr : Word) (bs : List Byte) : (s.store gid l addr bs).MemOnly s := by
  unfold State.store
  split
  · trivial
  · split
    · trivial
    · exact s.storeAt_memOnly gid l _ addr bs

theorem State.load16s_memOnly (gid l sub n : Nat) (s : State) (addr : Word) : (s.load16s gid l addr sub n).MemOnly s := by
  induction n generalizing s addr with
  | zero => exact .refl s
  | succ n ih =>
    unfold State.load16s
    exact (s.load_memOnly gid l addr 16 sub).bind fun v t ht => ((ih t (addr + 16)).bind (f := fun r u => .ok (v :: r) u) fun _ _ hu => hu).mono ht

theorem State.store16s_memOnly (gid l : Nat) (vs : List Nat) (s : State) (addr : Word) : (s.store16s gid l addr vs).MemOnly s := by
  induction vs generalizing s addr with
  | nil => exact .refl s
  | cons v r ih =>
    unfold State.store16s
    exact (s.store_memOnly gid l addr (toBytes 16 v)).bind fun _ t ht => (ih t (addr + 16)).mono ht

/-- The state of an access's answer. -/
theorem LRes.MemOnly.of_eq {α : Type} {s t : State} {r : LRes α} (h : r.MemOnly s) {a : α} (e : r = .ok a t) : Machine.MemOnly s t := by
  rw [e] at h
  exact h

end Sys2Proof.Machine
end


section
/-!
SETTLED. JREP and QUIET, and the passes of a roll call (O40).
-/

namespace Sys2Proof.Machine

open Sys2Proof

/-- A word whose one active lane ends with a status in x[d], in a state that keeps the groups. -/
theorem laneWord_putX {s u : State} {h : Group} {p : Path} {gd : Guard} {l : Nat} {F : State → Nat → Nat → LRes Unit} {d : XReg} {v : Nat}
    (hr : s.runsOne h p gd l) (hu : u.groups = s.groups) (hF : F s h.gid l = .ok () (u.putX h.gid l d v)) :
    ∃ t, laneWord gd F s = .next t ∧ t = { u with groups := t.groups } ∧ (d ≠ 0 → (t.lane h.gid l).rx d = BitVec.ofNat 64 v) := by
  obtain ⟨t, -, e, -, -, hl, -, -, ht⟩ := laneWord_modLane hr (F := F) hF hu
  exact ⟨t, e, ht, fun hd => by rw [hl, Lane.rx_wx_same _ _ _ hd]⟩

/-- The same after an access of the lane. -/
theorem laneWord_putX_memOnly {s u : State} {h : Group} {p : Path} {gd : Guard} {l : Nat} {F : State → Nat → Nat → LRes Unit} {d : XReg} {v : Nat}
    (hr : s.runsOne h p gd l) {g' : Group} (hg : u.group? h.gid = some g') (hn : g'.noStack) (hl : l < g'.size)
    (hF : F s h.gid l = .ok () (u.putX h.gid l d v)) :
    ∃ t, laneWord gd F s = .next t ∧ t = { u with groups := t.groups } ∧ (d ≠ 0 → (t.lane h.gid l).rx d = BitVec.ofNat 64 v) := by
  have hu : (u.putX h.gid l d v).group? h.gid = some (g'.modLane l (fun y => y.wx d (BitVec.ofNat 64 v))) :=
    State.group?_modGroup_same hg _ fun _ => rfl
  obtain ⟨t, e, -, hlane, -, ht⟩ := laneWord_ok hr hF hu hn
  refine ⟨t, e, by rw [ht]; rfl, fun hd => ?_⟩
  rw [hlane, State.lane_of_group? hu, Group.lane_modLane_same _ _ _ hl, Lane.rx_wx_same _ _ _ hd]

theorem State.ctxOf_group {s : State} {h : Group} (hg : s.group? h.gid = some h) : ((s.group? h.gid).map (·.ctx)).getD 0 = h.ctx := by
  rw [hg]; rfl

/-! QUIET (17 R404). -/

/-- The counts that a parked group carries touch jobs alone. -/
theorem State.quietCounts_jobs (s : State) (g : Group) (n : Nat) : s.quietCounts g n = { s with jobs := (s.quietCounts g n).jobs } := by
  unfold State.quietCounts
  dsimp only
  split
  · split
    · split <;> rfl
    · rfl
  · split
    · generalize g.liveLanes.filter (fun i => (g.lane i).origin.counted) = ls
      induction ls generalizing s with
      | nil => rfl
      | cons a r ih => rw [List.foldl_cons, ih]; rfl
    · split <;> rfl

/-- A lane of a QUIET that ends takes the status and waits no more. -/
theorem State.endQuiet_lane {s : State} (hn : s.noStacks) {g : Group} (hg : s.group? g.gid = some g) {l : Nat} (hl : l < g.size) {w : Wait}
    (hw : (g.lane l).wait = some w) {n sc : Nat} (hk : w.kind = .quiet n sc) (hd : w.d ≠ 0) (status : Nat) :
    ((s.endQuiet g.gid status).lane g.gid l).rx w.d = BitVec.ofNat 64 status ∧ ((s.endQuiet g.gid status).lane g.gid l).wait = none := by
  unfold State.endQuiet
  rw [hg]
  dsimp only
  have hj := s.quietCounts_jobs g minus1
  generalize s.quietCounts g minus1 = u at hj
  have hgr : u.groups = s.groups := by rw [hj]
  have hnu : u.noStacks := by
    unfold State.noStacks
    rw [hgr]; exact hn
  have hgu : u.group? g.gid = some g := by
    unfold State.group?
    rw [hgr]; exact hg
  have hq : (g.lane l).inQuiet = true := by
    unfold Lane.inQuiet
    rw [hw]
    simp only [hk]
  rw [(State.wakeLanes_frame hnu _).2.2 g.gid g l hgu hl]
  unfold wakeLane
  simp only [hw, BEq.rfl, hq, Bool.and_self, if_true]
  refine ⟨?_, trivial⟩
  split
  · exact Lane.rx_wx_same _ _ _ hd
  · exact Lane.rx_wx_same _ _ _ hd

/-- The lanes of an undivided form wait at the word at which their path was halted. -/
theorem GroupBecomes.park {s : State} {gid : Nat} {g : Group} {q : Path} (hg : s.group? gid = some g) (hp : g.paths = [q])
    (hh : q.halted.isSome = true) (d : XReg) (k : WaitKind) (until_ : Option Nat) :
    GroupBecomes s (s.parkForm gid d k until_) gid { g with
      lanes := g.lanes.map (fun l => if l.exited then l else l.startWait ⟨k, d, until_, s.clk, false⟩),
      paths := [{ q with halted := none, waiting := true }] } := by
  have h := GroupBecomes.modGroup hg (fun g =>
    let pids := g.paths.map (·.pid)
    let g1 := (List.range g.size).foldl (fun g l => g.rejoin pids l) g
    { g1 with
      lanes := g1.lanes.map (fun l => if l.exited then l else l.startWait ⟨k, d, until_, s.clk, false⟩),
      paths := g1.paths.map (fun p => if p.halted.isSome then { p with halted := none, waiting := true } else p) })
    fun x => Group.rejoins_gid _ _ x
  dsimp only at h
  rw [Group.rejoins_one hp, hp, List.map_cons, List.map_nil, if_pos hh] at h
  exact h

/-- A live lane of a form whose lanes have changed alike. -/
theorem Group.lane_of_live {g g' : Group} {f : Lane → Lane} (h : g'.lanes = g.lanes.map (fun l => if l.exited then l else f l)) {i : Nat}
    (hi : i ∈ g.liveLanes) : g'.lane i = f (g.lane i) := by
  unfold Group.liveLanes at hi
  obtain ⟨hlt, hex⟩ := List.mem_filter.mp hi
  have hlt : i < g.lanes.length := List.mem_range.mp hlt
  have hex : (g.lane i).exited = false := by simpa using hex
  simp only [Group.lane, List.getD_eq_getElem?_getD, List.getElem?_eq_getElem hlt, Option.getD_some] at hex
  simp [Group.lane, h, List.getD_eq_getElem?_getD, hlt, hex]

theorem GroupBecomes.jobs {s t : State} {gid : Nat} {g : Group} (h : GroupBecomes s t gid g) : t.jobs = s.jobs := by rw [h.rest]
theorem GroupBecomes.clk {s t : State} {gid : Nat} {g : Group} (h : GroupBecomes s t gid g) : t.clk = s.clk := by rw [h.rest]

theorem State.jobOf_of_jobs {s t : State} (h : t.jobs = s.jobs) (ctx : Nat) (w : Word) : t.jobOf ctx w = s.jobOf ctx w := by
  unfold State.jobOf State.job?
  rw [h]

theorem quietEff_none {d a b : XReg} {scope : Scope} {g : Group} {p : Path} {s : State} (hj : s.jobOf g.ctx ((g.lane g.reader).rx a) = none) :
    quietEff d a b scope g p s = s.formResult g.gid d 3 := by
  unfold quietEff
  simp only [hj]

theorem quietEff_some {d a b : XReg} {scope : Scope} {g g1 : Group} {p : Path} {s s1 : State} {j : Job}
    (hj : s.jobOf g.ctx ((g.lane g.reader).rx a) = some j)
    (hs1 : s.parkForm g.gid d (.quiet j.num scope.code)
      (if ((g.lane g.reader).rx b).toNat = 0 then none else some (s.clk + ((g.lane g.reader).rx b).toNat)) = s1)
    (hg : s1.group? g.gid = some g1) : quietEff d a b scope g p s = s1.quietCounts g1 1 := by
  unfold quietEff
  simp only [hj, hs1, hg]

/-- QUIET of a register that names no open job has status 3. -/
theorem quiet_none {s : State} {h : Group} {p : Path} (hs : s.undivided h p) {d a b : XReg} {scope : Scope}
    (hj : s.jobOf h.ctx ((h.lane h.reader).rx a) = none) :
    ∃ t, exec (.quiet d a b scope) s = .next t ∧ GoesTo t h p (p.pc + 8) ∧ ∀ i ∈ h.liveLanes, d ≠ 0 → (t.lane h.gid i).rx d = 3 := by
  obtain ⟨-, -, -, -, -, -, -, -, ho⟩ := id hs
  obtain ⟨t, c, e, ht⟩ := formWord_releases hs (i := .quiet d a b scope) (f := quietEff d a b scope)
    (g := { h.haltsAt p (.quiet d a b scope) with lanes := h.lanes.map (fun l => if l.exited then l else l.wx d 3) }) rfl ho fun s0 h0 =>
      ⟨_, GroupBecomes.modGroup h0.group (fun g => { g with lanes := g.lanes.map (fun l => if l.exited then l else l.wx d 3) }) (fun _ => rfl), by
        have hj0 : s0.jobOf h.ctx ((h.lane h.reader).rx a) = none := (State.jobOf_of_jobs h0.jobs _ _).trans hj
        exact quietEff_none hj0⟩
  refine ⟨t, e, ht.goesTo hs, fun i hi hd => ?_⟩
  rw [State.lane_of_group? ht.group, Group.lane_of_live (g := h) (f := fun l => l.wx d 3) rfl hi, Lane.rx_wx_same _ _ _ hd]

/-- QUIET of an open job parks the form. -/
theorem quiet_parks {s : State} {h : Group} {p : Path} {j : Job} (hs : s.undivided h p) {d a b : XReg} {scope : Scope}
    (hj : s.jobOf h.ctx ((h.lane h.reader).rx a) = some j) :
    ∃ t, exec (.quiet d a b scope) s = .next t ∧ Parked t h p ∧ ∀ i ∈ h.liveLanes, (t.lane h.gid i).wait =
      some ⟨.quiet j.num scope.code, d,
        if ((h.lane h.reader).rx b).toNat = 0 then none else some (s.clk + ((h.lane h.reader).rx b).toNat), s.clk, false⟩ := by
  obtain ⟨s0, h0, hword⟩ := formWord_undivided hs (.quiet d a b scope) (quietEff d a b scope)
  have hj0 : s0.jobOf h.ctx ((h.lane h.reader).rx a) = some j := (State.jobOf_of_jobs h0.jobs _ _).trans hj
  have hpark := GroupBecomes.park h0.group rfl rfl d (.quiet j.num scope.code)
    (if ((h.lane h.reader).rx b).toNat = 0 then none else some (s0.clk + ((h.lane h.reader).rx b).toNat))
  generalize hs1 : s0.parkForm h.gid d (.quiet j.num scope.code)
    (if ((h.lane h.reader).rx b).toNat = 0 then none else some (s0.clk + ((h.lane h.reader).rx b).toNat)) = s1 at hpark
  have heff := quietEff_some (p := { p with halted := some (.quiet d a b scope) }) (g := h.haltsAt p (.quiet d a b scope)) hj0 hs1 hpark.group
  rw [heff] at hword
  have hq := fun g => State.quietCounts_jobs s1 g 1
  have hgroup : ∀ g n, (s1.quietCounts g 1).group? n = s1.group? n := fun g n => by rw [hq g]; rfl
  refine ⟨_, hword _ _ ((hgroup _ _).trans hpark.group) rfl (by simp), ⟨{ p with halted := none, waiting := true },
    by rw [hgroup, hpark.group]; rfl, rfl, rfl, rfl⟩, fun i hi => ?_⟩
  rw [State.lane_of_group? ((hgroup _ _).trans hpark.group), Group.lane_of_live (g := h) (f := fun l => l.startWait _) rfl hi, h0.clk]
  rfl

/-- The second pass of a roll call with one group, parked in QUIET. -/
theorem rollCallPass2_eq {s : State} {h : Group} {j : Job} {n sc : Nat} (hp : s.roll.pass1 = true) (hg : s.groups = [h])
    (hq : h.quietOn = some (n, sc)) (hr : (s.ctx? h.ctx).any (fun c => c.st == .running) = true) (hj : s.job? h.ctx n = some j) :
    ∃ u : State, exec .rollCallPass2 s = .next (if s.quietAt j sc h.site = true then
      u.endQuiet h.gid (if j.loss.isEmpty && j.overflow == 0 then 0 else 1) else u) ∧ u.groups = s.groups ∧ u.roll.pass1 = false := by
  show ∃ u : State, execRollCallPass2 s = _ ∧ _
  unfold execRollCallPass2
  rw [hp, hg]
  dsimp only
  rw [if_neg (by decide)]
  simp only [List.filter_cons, hr, hq, Option.isSome_some, Bool.and_self, if_true, List.filter_nil, List.filterMap_cons, List.filterMap_nil, hj,
    Option.bind_some]
  cases s.quietAt j sc h.site <;> exact ⟨_, rfl, rfl, rfl⟩

/-- Settles O40. -/
theorem jobsAndQuiescence : Obligations.JobsAndQuiescence := by
  intro g d a b scope s h p l j x Gives upd
  refine ⟨fun hr hnone => ?_, fun hr hj => ⟨fun hpad hl => ?_, fun e r s1 hpad hl hst => ?_, ?_, fun hq hb => ?_, fun hq => ?_⟩,
    fun hs => ?_, fun w n sc hn hg hl hw hk hd => ?_, fun hp hc => ?_⟩
  · have hctx := State.ctxOf_group hr.group
    have hx : (s.lane h.gid l).rx a = x.rx a := by rw [State.lane_of_group? hr.group]
    have ends : ∀ {i : Instr} {F : State → Nat → Nat → LRes Unit}, exec i s = laneWord g F s → F s h.gid l = .ok () (s.putX h.gid l d 2) → Gives i 2 s.jobs :=
      fun hi hF => by
        obtain ⟨t, e, ht, hv⟩ := laneWord_putX hr rfl hF
        exact ⟨t, hi.trans e, by rw [ht], hv⟩
    refine ⟨ends (Eq.refl (execJrepTake g d a b s)) ?_, ends (Eq.refl (execJrepCount g d a s)) ?_, ends (Eq.refl (execJrepClose g d a s)) ?_⟩
    · unfold State.repTake
      simp only [hr.group]
      rw [show s.jobOf h.ctx ((h.lane l).rx a) = none from hnone]
    · unfold State.repCount
      simp only [hctx, hx, hnone]
    · unfold State.repClose
      simp only [hctx, hx, hnone]
  · have hF : s.repTake h.gid l d a b = .ok () (s.putX h.gid l d 1) := by
      unfold State.repTake
      simp only [hr.group]
      rw [show s.jobOf h.ctx ((h.lane l).rx a) = some j from hj]
      simp only [show padAddress s h l ((h.lane l).rx b) 32 = none from hpad, hl]
    obtain ⟨t, e, ht, hv⟩ := laneWord_putX (F := fun s gid l => s.repTake gid l d a b) (u := s) hr rfl hF
    exact ⟨t, e, by rw [ht], hv⟩
  · have hF : s.repTake h.gid l d a b = .ok () ((s1.modJob h.ctx j.num (fun j => { j with loss := r }.stir)).putX h.gid l d 0) := by
      unfold State.repTake
      simp only [hr.group]
      rw [show s.jobOf h.ctx ((h.lane l).rx a) = some j from hj]
      simp only [show padAddress s h l ((h.lane l).rx b) 32 = none from hpad, hl,
        show s.store16s h.gid l ((h.lane l).rx b) (units16 e) = .ok () s1 from hst]
      rfl
    have hm := (State.store16s_memOnly h.gid l (units16 e) s (x.rx b)).of_eq hst
    obtain ⟨g', hg', hgl, hsz⟩ := hm.group? hr.group
    have hn : g'.noStack := by rw [hgl]; exact hr.1.2
    obtain ⟨t, e, ht, hv⟩ := laneWord_putX_memOnly (F := fun s gid l => s.repTake gid l d a b) hr (u := s1.modJob h.ctx j.num (fun j => { j with loss := r }.stir)) hg' hn
      (by rw [hsz]; exact hr.2.2) hF
    refine ⟨t, e, ?_, hv⟩
    rw [ht]
    show updWhere _ _ s1.jobs = _
    rw [hm.jobs]
  · have hF : State.repCount s h.gid l d a = (s.modJob h.ctx j.num Job.clearOverflow).putX h.gid l d (j.loss.length + 2 ^ 16 * j.overflow) := by
      unfold State.repCount
      simp only [State.ctxOf_group hr.group, State.lane_of_group? hr.group, show s.jobOf h.ctx ((h.lane l).rx a) = some j from hj]
    obtain ⟨t, e, ht, hv⟩ := laneWord_putX (F := fun s gid l => .ok () (s.repCount gid l d a)) hr (u := s.modJob h.ctx j.num Job.clearOverflow) rfl
      (congrArg (LRes.ok ()) hF)
    exact ⟨t, e, by rw [ht]; rfl, hv⟩
  · have hF : State.repClose s h.gid l d a = (s.closeJob h.ctx j.num).putX h.gid l d 0 := by
      unfold State.repClose
      simp only [State.ctxOf_group hr.group, State.lane_of_group? hr.group, show s.jobOf h.ctx ((h.lane l).rx a) = some j from hj]
      rw [if_pos (by simp [hq, hb])]
    obtain ⟨t, e, ht, hv⟩ := laneWord_putX (F := fun s gid l => .ok () (s.repClose gid l d a)) hr (u := s.closeJob h.ctx j.num) rfl
      (congrArg (LRes.ok ()) hF)
    exact ⟨t, e, by rw [ht]; rfl, hv⟩
  · have hF : State.repClose s h.gid l d a = s.putX h.gid l d 1 := by
      unfold State.repClose
      simp only [State.ctxOf_group hr.group, State.lane_of_group? hr.group, show s.jobOf h.ctx ((h.lane l).rx a) = some j from hj]
      rw [if_neg (by rcases hq with h | h <;> simp [h])]
    obtain ⟨t, e, ht, hv⟩ := laneWord_putX (F := fun s gid l => .ok () (s.repClose gid l d a)) hr (u := s) rfl (congrArg (LRes.ok ()) hF)
    exact ⟨t, e, by rw [ht], hv⟩
  · exact ⟨fun hj => quiet_none hs hj, fun hj => quiet_parks hs hj⟩
  · intro Ends
    have hmem : h.lane l ∈ h.lanes := by
      have hl' : l < h.lanes.length := hl
      simp [Group.lane, List.getD_eq_getElem?_getD, hl']
    have hw' : (h.lane l).wait = some w := hw
    have hq : (h.lane l).inQuiet = true := by
      unfold Lane.inQuiet
      simp only [hw', hk]
    refine ⟨fun ha hu => ?_, fun hp1 hgs hqo hrun hjob => ⟨fun hqa => ?_, fun hqa => ?_⟩⟩
    · obtain ⟨m, hm, hle⟩ := hu
      have heq : execQuietTimeout s = .next (s.endQuiet h.gid 2) := by
        unfold execQuietTimeout
        rw [ha, hg]
        exact if_pos (List.any_eq_true.mpr ⟨_, hmem, by rw [hq, hw']; simp [hm, hle]⟩)
      exact ⟨_, heq, State.endQuiet_lane hn hg hl hw hk hd 2⟩
    · obtain ⟨u, e, hgu, hnu⟩ := rollCallPass2_eq hp1 hgs hqo hrun hjob
      rw [hqa] at e
      have hg' : (u.group? h.gid) = some h := by unfold State.group?; rw [hgu]; exact hg
      have hn' : u.noStacks := by unfold State.noStacks; rw [hgu]; exact hn
      refine ⟨_, e, ?_⟩
      obtain ⟨k1, k2⟩ := State.endQuiet_lane hn' hg' hl hw hk hd (if j.loss.isEmpty && j.overflow == 0 then 0 else 1)
      refine ⟨k1.trans ?_, k2⟩
      by_cases h1 : j.loss = [] <;> by_cases h2 : j.overflow = 0 <;> simp [h1, h2]
    · obtain ⟨u, e, hgu, hnu⟩ := rollCallPass2_eq hp1 hgs hqo hrun hjob
      rw [hqa] at e
      exact ⟨_, e, hgu, hnu⟩
  · show execRollCall s = _
    unfold execRollCall
    rw [hp, if_neg (by simp; omega)]

end Sys2Proof.Machine
end


section
/-!
SETTLED. EVCFG, EVRD, EVWR, EVSEND and EVADV with their statuses (O41).
-/

namespace Sys2Proof.Machine

open Sys2Proof

/-- A word whose one active lane ends with a status in x[d], after an access that it makes. -/
theorem laneWord_putX_after {s s1 u : State} {h : Group} {p : Path} {gd : Guard} {l : Nat} {F : State → Nat → Nat → LRes Unit} {d : XReg} {v : Nat}
    (hr : s.runsOne h p gd l) (hm : MemOnly s s1) (hu : u.groups = s1.groups) (hF : F s h.gid l = .ok () (u.putX h.gid l d v)) :
    ∃ t, laneWord gd F s = .next t ∧ t = { u with groups := t.groups } ∧ (d ≠ 0 → (t.lane h.gid l).rx d = BitVec.ofNat 64 v) := by
  obtain ⟨g', hg', hgl, hsz⟩ := hm.group? hr.group
  exact laneWord_putX_memOnly hr (g' := g') (by unfold State.group?; rw [hu]; exact hg') (by rw [hgl]; exact hr.1.2)
    (by rw [hsz]; exact hr.2.2) hF

/-! Words whose lanes may wait, and do not (13 R327). -/

/-- A path that parks or goes on leaves every lane as it was. -/
theorem State.parkPath_lanes {s : State} {gid : Nat} {g : Group} (hg : s.group? gid = some g) (hn : g.noStack) (pid : Nat) :
    (∀ n i, (s.parkPath gid pid).lane n i = s.lane n i) ∧ s.parkPath gid pid = { s with groups := (s.parkPath gid pid).groups } := by
  have hg1 := State.modPath_group hg pid Path.parked
  have hl1 : ∀ n i, (s.modPath gid pid Path.parked).lane n i = s.lane n i := fun n i => by
    by_cases hne : n = gid
    · subst hne; rw [State.lane_of_group? hg1, State.lane_of_group? hg]; rfl
    · unfold State.lane; rw [State.modPath_other s gid pid _ hne]
  cases hc : (g.modPath pid Path.parked).canWake pid with
  | false =>
    have e : s.parkPath gid pid = s.modPath gid pid Path.parked := State.wakePath_of_not hg1 hc
    exact ⟨fun n i => by rw [e]; exact hl1 n i, by rw [e]; rfl⟩
  | true =>
    have e : s.parkPath gid pid = (s.modPath gid pid Path.parked).modGroup gid (fun g => g.wake pid) :=
      State.wakePath_of_canWake hg1 (Group.noStack_modPath g hn pid Path.parked fun _ => rfl) hc
    refine ⟨fun n i => ?_, by rw [e]; rfl⟩
    rw [e, ← hl1]
    by_cases hne : n = gid
    · subst hne
      rw [State.lane_of_group? (State.group?_modGroup_same hg1 _ fun x => Group.wake_gid x pid), State.lane_of_group? hg1]
      unfold Group.lane
      rw [Group.wake_lanes]
    · unfold State.lane; rw [State.group?_modGroup_other _ _ _ _ (fun x => Group.wake_gid x pid) hne]

/-- The one active lane of a word that may wait, at the word's first issue. -/
theorem parkWord_modLane {s u : State} {h : Group} {p : Path} {gd : Guard} {l : Nat} {F : State → Nat → Nat → LRes Unit} {f : Lane → Lane}
    (hr : s.runsOne h p gd l) (hp : p.part = []) (hF : F s h.gid l = .ok () (u.modLane h.gid l f)) (hu : u.groups = s.groups) :
    ∃ t, parkWord gd F s = .next t ∧ t.lane h.gid l = f (h.lane l) ∧ t = { u with groups := t.groups } := by
  have hg : u.group? h.gid = some h := by unfold State.group?; rw [hu]; exact hr.group
  have hg1 : (u.modLane h.gid l f).group? h.gid = some (h.modLane l f) := State.group?_modGroup_same hg _ fun _ => rfl
  have htd : h.toDo p gd = [l] := by rw [Group.toDo_one hr.2.1, hp]; rfl
  obtain ⟨k1, k2⟩ := State.parkPath_lanes hg1 hr.1.2 p.pid
  refine ⟨_, parkWord_ok hr.1.1 htd hF, ?_, by rw [k2]; rfl⟩
  rw [k1, State.lane_modLane_same _ _ _ _ _ hg hr.2.2, State.lane_of_group? hg]

/-! EVRD and EVWR (16 R386). -/

/-- An access of accumulators whose checks pass. -/
theorem State.accLane_ok {s s1 : State} {h : Group} {l : Nat} (hg : s.group? h.gid = some h) {d a b : XReg} {count : Lane → Nat} {idx : Bool}
    {f : Bank → Nat → Nat → Word → LRes Nat} {k : Bank} {v : Nat} (ha : accAddress s h l ((h.lane l).rx b) (16 * count (h.lane l)) = none)
    (hr : bitsAt ((h.lane l).rx a) 14 50 = 0) (hi : idx = true → bitsAt ((h.lane l).rx a) 0 12 + count (h.lane l) ≤ 4096)
    (hk : s.ownBank h (bitsAt ((h.lane l).rx a) 12 2) = some k)
    (hf : f k (bitsAt ((h.lane l).rx a) 0 12) (count (h.lane l)) ((h.lane l).rx b) = .ok v s1) :
    s.accLane h.gid l d a b count idx f = .ok () (s1.putX h.gid l d v) := by
  unfold State.accLane
  simp only [hg, ha]
  rw [if_neg (by cases hx : idx with
    | false => simp [hr]
    | true => have := hi hx; simp [hr]; omega), hk]
  dsimp only
  rw [hf]
  rfl

/-- What EVWR does to a bank that its checks name. -/
def State.evwrBank (s : State) (gid l : Nat) (bk : Bank) (i n : Nat) (addr : Word) : LRes Nat :=
  (s.load16s gid l addr 1 n).bind (fun us s1 =>
    let ts := (((List.range n).map (fun k => (bk.acc (i + k)).ts)).foldl max 0) + 1
    let s2 := s1.modLane gid l (fun y => { y with pts := max y.pts ts })
    let r := writeAccs bk i (s2.lane gid l).pts us
    .ok (if r.2 then 2 else 0) (s2.modBank bk (fun x => { x with accs := r.1.accs })))

theorem execEvwr_eq (g : Guard) (d a b c : XReg) (s : State) : execEvwr g d a b c s =
    laneWord g (fun s gid l => s.accLane gid l d a b (fun x => (x.rx c).toNat) true (s.evwrBank gid l)) s := rfl

theorem State.evwrBank_ok {s s1 : State} {gid l i n : Nat} {bk : Bank} {addr : Word} {us : List Nat} {g : Group}
    (hld : s.load16s gid l addr 1 n = .ok us s1) (hg : s1.group? gid = some g) (hl : l < g.size) {ts : Nat}
    (hts : ts = ((List.range n).map (fun k => (bk.acc (i + k)).ts)).foldl max 0 + 1) {r : Bank × Bool}
    (hr : r = writeAccs bk i (max (s1.lane gid l).pts ts) us) :
    s.evwrBank gid l bk i n addr = .ok (if r.2 then 2 else 0)
      ((s1.modLane gid l (fun y => { y with pts := max y.pts ts })).modBank bk (fun x => { x with accs := r.1.accs })) := by
  subst hts hr
  unfold State.evwrBank
  rw [hld]
  show LRes.ok _ _ = _
  rw [State.lane_modLane_same s1 gid l g _ hg hl]

/-! EVSEND (16 R387). -/

/-- What a sent event changes: jobs, the link, the events in flight, and the counts of fresh and free values. -/
theorem State.sendEvent_spec (s : State) (site : Site) (e : QEvent) :
    (s.sendEvent site e).groups = s.groups ∧
    (e.pkg ≠ s.pkgIndex → (s.sendEvent site e).eng.events = s.eng.events) ∧
    (e.pkg = s.pkgIndex → ∃ n, (s.sendEvent site e).eng.events = s.eng.events ++ [{ e with src := some site, arr := n }]) := by
  unfold State.sendEvent
  dsimp only
  by_cases hp : e.pkg = s.pkgIndex
  · rw [if_pos (show QEvent.pkg { e with src := some site } = s.pkgIndex from hp)]
    exact ⟨rfl, fun h => absurd hp h, fun _ => ⟨_, rfl⟩⟩
  · rw [if_neg (show ¬ QEvent.pkg { e with src := some site } = s.pkgIndex from hp)]
    split
    · exact ⟨rfl, fun _ => rfl, fun h => absurd h hp⟩
    · exact ⟨rfl, fun _ => rfl, fun h => absurd h hp⟩

/-- An EVSEND of a good event of an open job to a package of the domain. -/
theorem evsendLane_sends {s : State} {h : Group} {l : Nat} {d : XReg} {va : VReg} (hg : s.group? h.gid = some h) {e : QEvent}
    (he : e = ⟨(h.lane l).rv va, h.ctx, 0, false, (h.lane l).pts, some (h.gid, l), some h.site⟩) (h1 : eventReserved e.bits.toNat = false)
    (h2 : s.jobOpen h.ctx e.job = true) (h3 : s.inDomain e.pkg = true) : s.evsendLane h.gid l d va = (s.sendEvent h.site e).putX h.gid l d 0 := by
  subst he
  unfold State.evsendLane
  simp only [hg]
  exact if_neg (by simp only at h1; simp [h1, h2, h3])

/-! EVADV (16 R388). -/

/-- The first of the places that an update names has become what the update gives each of them. -/
theorem find?_updWhere_map {α β : Type} {p : α → Bool} {f : α → α} {r : α → β} {b : β} (hp : ∀ a, p (f a) = p a) (hr : ∀ a, r (f a) = b)
    {l : List α} (h : ∃ a ∈ l, p a = true) : ((updWhere p f l).find? p).map r = some b := by
  induction l with
  | nil => obtain ⟨a, ha, -⟩ := h; cases ha
  | cons c t ih =>
    cases hc : p c with
    | true => simp [updWhere, hc, hp, hr]
    | false =>
      have ht : ∃ a ∈ t, p a = true := by
        obtain ⟨a, ha, hpa⟩ := h
        rcases List.mem_cons.mp ha with rfl | ha
        · rw [hc] at hpa; cases hpa
        · exact ⟨a, ha, hpa⟩
      have := ih ht
      simp only [updWhere, List.map_cons, hc, Bool.false_eq_true, if_false, List.find?_cons] at this ⊢
      exact this

/-- A frontier advanced is the later of what it was and what is asked for; no group changes. -/
theorem State.advance_spec (s : State) (b : Bank) (t : Nat) (hb : b ∈ s.banks) :
    (s.advance b t).groups = s.groups ∧ (s.advance b t).clk = s.clk ∧
      ((s.advance b t).banks.find? b.same).map (·.frontier) = some (max b.frontier t) := by
  have hself : b.same b = true := by simp [Bank.same]
  unfold State.advance
  dsimp only
  split <;> exact ⟨rfl, rfl, find?_updWhere_map (by intro _; rfl) (by intro _; rfl) ⟨b, hb, hself⟩⟩

/-- An EVADV whose registers are good and that advances one bank. -/
theorem State.evadvLane_one {s : State} {h : Group} {l : Nat} (hg : s.group? h.gid = some h) {a b : XReg} {scope : Scope}
    (ha : bitsAt ((h.lane l).rx a) 6 58 = 0) (hb : bitsAt ((h.lane l).rx b) 32 32 = 0) {k : Bank}
    (hk : s.banks.filter (fun k => k.ctx == h.ctx && k.job == bitsAt ((h.lane l).rx a) 0 6 && k.within scope h.site) = [k]) :
    s.evadvLane h.gid l a b scope = (true, 0, s.advance k (bitsAt ((h.lane l).rx b) 0 32)) := by
  unfold State.evadvLane
  simp only [hg]
  rw [if_neg (by simp [ha, hb]), hk]
  rfl

/-- An EVADV that finds no bank, with none elsewhere. -/
theorem State.evadvLane_none {s : State} {h : Group} {l : Nat} (hg : s.group? h.gid = some h) {a b : XReg} {scope : Scope}
    (ha : bitsAt ((h.lane l).rx a) 6 58 = 0) (hb : bitsAt ((h.lane l).rx b) 32 32 = 0)
    (hk : s.banks.filter (fun k => k.ctx == h.ctx && k.job == bitsAt ((h.lane l).rx a) 0 6 && k.within scope h.site) = [])
    (hw : s.banksAway h.ctx scope = false) : s.evadvLane h.gid l a b scope = (false, 3, s) := by
  unfold State.evadvLane
  simp only [hg]
  rw [if_neg (by simp [ha, hb]), hk, hw]
  rfl

/-- One lane of an EVADV that waits at its word while banks set their frontiers. -/
def State.evadvPart (s : State) (gid l : Nat) (d a b : XReg) (scope : Scope) (at_ : Nat) : LRes Unit :=
  let r := s.evadvLane gid l a b scope
  .ok () (if r.1 then r.2.2.modLane gid l (fun x => x.startWait ⟨.ack r.2.1, d, some at_, s.clk, false⟩) else r.2.2.putX gid l d r.2.1)

theorem execEvadv_wide (g : Guard) (d a b : XReg) {scope : Scope} (h : scope.wide = true) (s : State) : execEvadv g d a b scope s =
    parkWord g (fun t gid l => t.evadvPart gid l d a b scope (s.clk + 1 + Config.freeValue s.freeN % 4096)) s.free.2 := if_pos h

theorem execEvadv_near (g : Guard) (d a b : XReg) {scope : Scope} (h : scope.wide = false) (s : State) : execEvadv g d a b scope s =
    laneWord g (fun t gid l => .ok () ((t.evadvLane gid l a b scope).2.2.putX gid l d (t.evadvLane gid l a b scope).2.1)) s :=
  if_neg (by simp [h])

/-- An EVADV that waits for no bank ends with its status. -/
theorem evadv_ends {s : State} {h : Group} {p : Path} {g : Guard} {l : Nat} (hr : s.runsOne h p g l) (hp : p.part = []) {d a b : XReg}
    {scope : Scope} {v : Nat} (hv : s.evadvLane h.gid l a b scope = (false, v, s))
    (hf : s.free.2.evadvLane h.gid l a b scope = (false, v, s.free.2)) :
    ∃ t, exec (.evadv g d a b scope) s = .next t ∧ t.banks = s.banks ∧ (d ≠ 0 → (t.lane h.gid l).rx d = BitVec.ofNat 64 v) := by
  cases hw : scope.wide with
  | true =>
    have hF : s.free.2.evadvPart h.gid l d a b scope (s.clk + 1 + Config.freeValue s.freeN % 4096) = .ok () (s.free.2.putX h.gid l d v) := by
      unfold State.evadvPart
      rw [hf]
      rfl
    obtain ⟨t, e, hx, ht⟩ := parkWord_modLane (s := s.free.2) (u := s.free.2) (f := fun y => y.wx d (BitVec.ofNat 64 v))
      (F := fun t gid l => t.evadvPart gid l d a b scope (s.clk + 1 + Config.freeValue s.freeN % 4096)) hr hp hF rfl
    exact ⟨t, (execEvadv_wide g d a b hw s).trans e, by rw [ht]; rfl, fun hd => by rw [hx, Lane.rx_wx_same _ _ _ hd]⟩
  | false =>
    obtain ⟨t, e, ht, hx⟩ := laneWord_putX (F := fun t gid l => .ok () ((t.evadvLane gid l a b scope).2.2.putX gid l d (t.evadvLane gid l a b scope).2.1))
      hr (u := s) rfl (v := v) (d := d) (by rw [hv])
    exact ⟨t, (execEvadv_near g d a b hw s).trans e, by rw [ht], hx⟩

/-- An EVADV that advances one bank ends, or waits for the acknowledgements. -/
theorem evadv_advances {s : State} {h : Group} {p : Path} {g : Guard} {l : Nat} (hr : s.runsOne h p g l) (hp : p.part = []) {d a b : XReg}
    {scope : Scope} (ha : bitsAt ((h.lane l).rx a) 6 58 = 0) (hb : bitsAt ((h.lane l).rx b) 32 32 = 0) {k : Bank}
    (hk : s.banks.filter (fun k => k.ctx == h.ctx && k.job == bitsAt ((h.lane l).rx a) 0 6 && k.within scope h.site) = [k]) :
    ∃ t, exec (.evadv g d a b scope) s = .next t ∧ (t.banks.find? k.same).map (·.frontier) = some (max k.frontier (bitsAt ((h.lane l).rx b) 0 32)) ∧
      (scope.wide = false → d ≠ 0 → (t.lane h.gid l).rx d = 0) ∧
      (scope.wide = true → t.lane h.gid l =
        (h.lane l).startWait ⟨.ack 0, d, some (s.clk + 1 + Config.freeValue s.freeN % 4096), s.clk, false⟩) := by
  have hmem : k ∈ s.banks := (List.mem_filter.mp (hk ▸ List.mem_singleton.mpr rfl)).1
  cases hw : scope.wide with
  | true =>
    have hlane := State.evadvLane_one (s := s.free.2) (a := a) (b := b) (scope := scope) hr.group ha hb hk
    obtain ⟨k1, k2, k3⟩ := State.advance_spec s.free.2 k (bitsAt ((h.lane l).rx b) 0 32) hmem
    generalize s.free.2.advance k (bitsAt ((h.lane l).rx b) 0 32) = u at hlane k1 k2 k3
    have hF : s.free.2.evadvPart h.gid l d a b scope (s.clk + 1 + Config.freeValue s.freeN % 4096) =
        .ok () (u.modLane h.gid l (fun x => x.startWait ⟨.ack 0, d, some (s.clk + 1 + Config.freeValue s.freeN % 4096), s.clk, false⟩)) := by
      unfold State.evadvPart
      rw [hlane]
      rfl
    obtain ⟨t, e, hx, ht⟩ := parkWord_modLane (s := s.free.2) (u := u)
      (F := fun t gid l => t.evadvPart gid l d a b scope (s.clk + 1 + Config.freeValue s.freeN % 4096)) hr hp hF k1
    exact ⟨t, (execEvadv_wide g d a b hw s).trans e, by rw [ht]; exact k3, nofun, fun _ => hx⟩
  | false =>
    have hlane := State.evadvLane_one (s := s) (a := a) (b := b) (scope := scope) hr.group ha hb hk
    obtain ⟨k1, k2, k3⟩ := State.advance_spec s k (bitsAt ((h.lane l).rx b) 0 32) hmem
    generalize s.advance k (bitsAt ((h.lane l).rx b) 0 32) = u at hlane k1 k2 k3
    obtain ⟨t, e, ht, hx⟩ := laneWord_putX (F := fun t gid l => .ok () ((t.evadvLane gid l a b scope).2.2.putX gid l d (t.evadvLane gid l a b scope).2.1))
      hr (u := u) k1 (v := 0) (d := d) (by rw [hlane])
    exact ⟨t, (execEvadv_near g d a b hw s).trans e, by rw [ht]; exact k3, fun _ => hx, nofun⟩

/-! EVCFG (16 R385). -/

/-- A unit whose parameter set i is p. -/
def EvUnit.putPset (i : Nat) (p : PSet) (u : EvUnit) : EvUnit := { u with psets := (i, p) :: u.psets.filter (fun y => y.1 != i) }

theorem EvUnit.pset_putPset (i : Nat) (p : PSet) (u : EvUnit) : (u.putPset i p).pset i = p := by
  simp [EvUnit.pset, EvUnit.putPset]

/-- EVCFG.pset by the checks after its load. -/
theorem evcfgPset_eq {s s1 : State} {h : Group} {l : Nat} {d a b : XReg} (hg : s.group? h.gid = some h) {loc : Loc} {us : List Nat}
    (hloc : resolve s h l ((h.lane l).rx b) 32 32 = .ok loc) (hld : s.load16s h.gid l ((h.lane l).rx b) 1 2 = .ok us s1) :
    s.psetLane h.gid l d a b =
      if bitsAt ((h.lane l).rx a) 6 58 ≠ 0 then .ok () (s1.putX h.gid l d 2)
      else if !((s1.unit? h.site).any (fun u => u.ctx == h.ctx)) then .ok () (s1.putX h.gid l d 3)
      else match psetOf (us.getD 0 0 + 2 ^ 128 * us.getD 1 0) with
        | none => .ok () (s1.putX h.gid l d 2)
        | some p => .ok () (State.putX { s1 with units := updWhere (fun u => u.site == h.site) (EvUnit.putPset (bitsAt ((h.lane l).rx a) 0 6) p) s1.units }
            h.gid l d 0) := by
  unfold State.psetLane
  simp only [hg, hloc, hld]
  rfl

/-- Settles O41. -/
theorem eventWords : Obligations.EventWords := by
  intro g d a b c va scope s h p l x X Y Ends e Gives num taken hr
  have hg := hr.group
  have ends : ∀ {i : Instr} {F : State → Nat → Nat → LRes Unit} {u : State} {v : Nat}, exec i s = laneWord g F s →
      F s h.gid l = .ok () (u.putX h.gid l d v) → u.groups = s.groups → Gives i v u.banks := fun hi hF hu => by
    obtain ⟨t, e, ht, hv⟩ := laneWord_putX hr hu hF
    exact ⟨t, hi.trans e, by rw [ht], hv⟩
  have after : ∀ {i : Instr} {F : State → Nat → Nat → LRes Unit} {s1 u : State} {v : Nat}, MemOnly s s1 → exec i s = laneWord g F s →
      F s h.gid l = .ok () (u.putX h.gid l d v) → u.groups = s1.groups → ∃ t, exec i s = .next t ∧ t = { u with groups := t.groups } ∧ Ends t v :=
    fun hm hi hF hu => by
      obtain ⟨t, e, ht, hv⟩ := laneWord_putX_after hr hm hu hF
      exact ⟨t, hi.trans e, ht, hv⟩
  refine ⟨fun hbad => ?_, fun h1 h2 h3 => ⟨fun ht => ?_, fun ht => ?_⟩, fun hbad => ?_, fun h1 => ⟨fun hk => ?_, fun k hk => ⟨fun hq => ?_, fun h2 h3 h4 => ?_⟩⟩,
    fun loc us s1 hloc hld => ?_, fun k h1 hk => ⟨fun s1 ha hst => ?_, fun ha hn => ?_⟩, ⟨fun hbad => ?_, fun h1 h2 h3 h4 => ?_, fun h1 h2 h3 => ?_⟩,
    fun hp hbad => ?_, fun hp h1 h2 => ?_⟩
  · refine ends (F := fun s gid l => .ok () (s.bindLane gid l d a b)) (u := s) (Eq.refl (execEvcfgBind g d a b s)) (congrArg (LRes.ok ()) ?_) rfl
    unfold State.bindLane
    simp only [hg]
    exact if_pos (by rcases hbad with h | h | h <;> simp [X, Y, x] at h <;> simp [h])
  · refine ends (F := fun s gid l => .ok () (s.bindLane gid l d a b)) (u := s) (Eq.refl (execEvcfgBind g d a b s)) (congrArg (LRes.ok ()) ?_) rfl
    unfold State.bindLane
    simp only [hg]
    exact (if_neg (by simp only [X, Y, x] at h1 h2 h3; simp [h1, h2, h3])).trans (if_pos ht)
  · refine ends (F := fun s gid l => .ok () (s.bindLane gid l d a b)) (u := s.bindBank h num (bitsAt Y 0 6) (bitsAt Y 32 32)) (Eq.refl (execEvcfgBind g d a b s))
      (congrArg (LRes.ok ()) ?_) rfl
    unfold State.bindLane
    simp only [hg]
    exact (if_neg (by simp only [X, Y, x] at h1 h2 h3; simp [h1, h2, h3])).trans (if_neg fun hh => Bool.noConfusion (hh.symm.trans ht))
  · refine ends (F := fun s gid l => .ok () (s.freeLane gid l d a)) (u := s) (Eq.refl (execEvcfgFree g d a s)) (congrArg (LRes.ok ()) ?_) rfl
    unfold State.freeLane
    simp only [hg]
    exact if_pos hbad
  · refine ends (F := fun s gid l => .ok () (s.freeLane gid l d a)) (u := s) (Eq.refl (execEvcfgFree g d a s)) (congrArg (LRes.ok ()) ?_) rfl
    unfold State.freeLane
    simp only [hg]
    refine (if_neg (fun hh => hh h1)).trans ?_
    rw [show s.ownBank h (bitsAt ((h.lane l).rx a) 0 2) = none from hk]
  · refine ends (F := fun s gid l => .ok () (s.freeLane gid l d a)) (u := s) (Eq.refl (execEvcfgFree g d a s)) (congrArg (LRes.ok ()) ?_) rfl
    unfold State.freeLane
    simp only [hg]
    refine (if_neg (fun hh => hh h1)).trans ?_
    rw [show s.ownBank h (bitsAt ((h.lane l).rx a) 0 2) = some k from hk]
    exact if_pos (by rcases hq with h | h | h <;> simp [h])
  · refine ends (F := fun s gid l => .ok () (s.freeLane gid l d a)) (u := { s with
        banks := s.banks.filter (fun c => !k.same c),
        units := if (s.banks.filter (fun c => !k.same c)).any (fun c => c.site == k.site) then s.units else s.units.filter (fun u => u.site != k.site) })
      (Eq.refl (execEvcfgFree g d a s)) (congrArg (LRes.ok ()) ?_) rfl
    unfold State.freeLane
    simp only [hg]
    refine (if_neg (fun hh => hh h1)).trans ?_
    rw [show s.ownBank h (bitsAt ((h.lane l).rx a) 0 2) = some k from hk]
    exact if_neg (by simp [h2, h3, h4])
  · intro q
    have hm := (State.load16s_memOnly h.gid l 1 2 s Y).of_eq hld
    have hF := evcfgPset_eq (d := d) (a := a) hg hloc hld
    have hi := Eq.refl (execEvcfgPset g d a b s)
    have hbanks : s1.banks = s.banks := by rw [hm.rest]
    have hunit : s1.unit? h.site = s.unit? h.site := by rw [hm.rest]; rfl
    have bad : ∀ v, s.psetLane h.gid l d a b = .ok () (s1.putX h.gid l d v) → Gives (.evcfgPset g d a b) v s.banks := fun v hv => by
      obtain ⟨t, e, ht, hx⟩ := after (i := .evcfgPset g d a b) (F := fun s gid l => s.psetLane gid l d a b) hm hi hv rfl
      exact ⟨t, e, by rw [ht]; exact hbanks, hx⟩
    rw [hunit] at hF
    refine ⟨fun h1 => bad 2 (hF.trans (if_pos h1)), fun h1 h2 => bad 3 (hF.trans ((if_neg (fun hh => hh h1)).trans (if_pos (by rw [h2]; rfl)))), fun h1 h2 => ?_⟩
    have hF2 := hF.trans ((if_neg (fun hh => hh h1)).trans (if_neg (by rw [h2]; decide)))
    refine ⟨fun h3 => bad 2 (hF2.trans (by rw [show psetOf _ = none from h3])), fun v h3 => ?_⟩
    rw [show psetOf (us.getD 0 0 + 2 ^ 128 * us.getD 1 0) = some v from h3] at hF2
    obtain ⟨t, e, ht, hx⟩ := after (i := .evcfgPset g d a b) (F := fun s gid l => s.psetLane gid l d a b) hm hi hF2 rfl
    refine ⟨t, e, hx, ?_⟩
    rw [ht]
    refine find?_updWhere_map (p := fun u : EvUnit => u.site == h.site) (r := fun u => u.pset (bitsAt X 0 6)) (by intro _; rfl) (fun u => EvUnit.pset_putPset _ _ u) ?_
    obtain ⟨u, hu, -⟩ := Option.any_eq_true .. |>.mp h2
    rw [hm.rest]
    have hu : s.units.find? (fun u => u.site == h.site) = some u := hu
    exact ⟨u, List.mem_of_find?_eq_some hu, by simpa using List.find?_some hu⟩
  · obtain ⟨t, e, ht, hv⟩ := after (i := .evrdStat g d a b) (F := fun s gid l => s.accLane gid l d a b (fun _ => 4) false (fun bk _ _ addr =>
      (s.store16s gid l addr (units16 (s.bankStatus bk))).bind (fun _ s1 => .ok 0 s1)))
      ((State.store16s_memOnly h.gid l _ s Y).of_eq hst) (Eq.refl (execEvrdStat g d a b s))
      (State.accLane_ok hg ha h1 nofun hk (by rw [show s.store16s h.gid l ((h.lane l).rx b) _ = _ from hst]; rfl)) rfl
    refine ⟨t, e, hv, ?_, ?_⟩
    · rw [ht, ((State.store16s_memOnly h.gid l _ s Y).of_eq hst).rest]
    · rw [ht]; exact fun _ _ => rfl
  · intro seen
    refine ⟨fun s1 hst => ?_, fun us s1 hld => ?_⟩
    · have hm := (MemOnly.modLane s h.gid l (fun y => { y with pts := max y.pts seen })).trans
        ((State.store16s_memOnly h.gid l _ _ Y).of_eq hst)
      obtain ⟨t, e, ht, hv⟩ := after (i := .evrd g d a b c) (s1 := s1)
        (u := s1.modBank k (fun b => b.seenAt (s1.lane h.gid l).pts (bitsAt X 0 12) (x.rx c).toNat)) hm (Eq.refl (execEvrd g d a b c s))
        (State.accLane_ok hg ha h1 (fun _ => hn) hk (congrArg (LRes.bind · _) hst)) rfl
      refine ⟨t, e, hv, ?_, ?_⟩
      · rw [ht]; exact fun _ _ => rfl
      · rw [ht]
        show updWhere _ _ s1.banks = _
        rw [hm.rest]
    · intro new
      have hm := (State.load16s_memOnly h.gid l 1 (x.rx c).toNat s Y).of_eq hld
      obtain ⟨g', hg', -, hsz⟩ := hm.group? hg
      have hlt : l < g'.size := by rw [hsz]; exact hr.2.2
      have hF := State.evwrBank_ok (bk := k) (i := bitsAt X 0 12) hld hg' hlt (ts := seen + 1) rfl (r := new) rfl
      obtain ⟨t, e, ht, hv⟩ := after (i := .evwr g d a b c) (s1 := s1.modLane h.gid l (fun y => { y with pts := max y.pts (seen + 1) }))
        (u := (s1.modLane h.gid l (fun y => { y with pts := max y.pts (seen + 1) })).modBank k (fun y => { y with accs := new.1.accs }))
        (hm.trans (.modLane s1 h.gid l _)) (execEvwr_eq g d a b c s) (State.accLane_ok hg ha h1 (fun _ => hn) hk hF) rfl
      refine ⟨t, e, hv, ?_⟩
      rw [ht]
      show updWhere _ _ s1.banks = _
      rw [hm.rest]
  · refine ends (F := fun s gid l => .ok () (s.evsendLane gid l d va)) (u := s) (Eq.refl (execEvsend g d va s)) (congrArg (LRes.ok ()) ?_) rfl
    unfold State.evsendLane
    simp only [hg]
    exact if_pos (by rcases hbad with h | h | h <;> simp only [e, x] at h <;> simp [h])
  · obtain ⟨k1, k2, -⟩ := s.sendEvent_spec h.site e
    obtain ⟨t, e, ht, hv⟩ := laneWord_putX (F := fun s gid l => .ok () (s.evsendLane gid l d va)) (v := 0) (d := d) hr k1
      (congrArg (LRes.ok ()) (evsendLane_sends hg rfl h1 h2 h4))
    exact ⟨t, e, hv, by rw [ht]; exact k2 h3⟩
  · obtain ⟨k1, -, k3⟩ := s.sendEvent_spec h.site e
    obtain ⟨n, hn⟩ := k3 h3
    obtain ⟨t, e, ht, hv⟩ := laneWord_putX (F := fun s gid l => .ok () (s.evsendLane gid l d va)) (v := 0) (d := d) hr k1
      (congrArg (LRes.ok ()) (evsendLane_sends hg rfl h1 h2 (by rw [h3]; simp [State.inDomain])))
    exact ⟨t, n, e, hv, by rw [ht]; exact hn⟩
  · refine evadv_ends hr hp ?_ ?_
    · unfold State.evadvLane
      simp only [hg]
      exact if_pos (by rcases hbad with h | h <;> simp only [X, Y, x] at h <;> simp [h])
    · unfold State.evadvLane
      simp only [show s.free.2.group? h.gid = some h from hg]
      exact if_pos (by rcases hbad with h | h <;> simp only [X, Y, x] at h <;> simp [h])
  · intro hit
    refine ⟨fun hk haw => evadv_ends hr hp (State.evadvLane_none hg h1 h2 hk haw) (State.evadvLane_none (s := s.free.2) hg h1 h2 hk haw), fun k hk => ?_⟩
    obtain ⟨t, e, hf, hn, hw⟩ := evadv_advances (d := d) hr hp h1 h2 hk
    exact ⟨t, e, hf, hn, fun hs => ⟨by rw [hw hs]; rfl, by rw [hw hs]; rfl⟩⟩

end Sys2Proof.Machine
end


section
/-!
SETTLED. POST, TRAYCFG and INBOXQ.take with their statuses (O43).
-/

namespace Sys2Proof.Machine

open Sys2Proof

/-- A word whose lanes act one after the other, of one lane that completes it. -/
theorem partWord_ok {s u : State} {h : Group} {p : Path} {gd : Guard} {l : Nat} {F : State → Nat → Nat → LRes Unit}
    (hr : s.runsOne h p gd l) (hp : p.part = []) (hF : F s h.gid l = .ok () u) : partWord gd F s = laneWord gd F s := by
  obtain ⟨⟨hc, -⟩, ha, -⟩ := hr
  have htd : h.toDo p gd = [l] := by rw [Group.toDo_one ha, hp]; rfl
  unfold partWord laneWord
  rw [hc]
  simp only [htd, ha, partFold_ok (fun s l => F s h.gid l) l s u hF, laneFold_one (fun s l => F s h.gid l) l s u hF]
  rfl

/-! POST (12 R307). -/

theorem State.sendRecord_spec (s : State) (r : TaskRec) : (s.sendRecord r).groups = s.groups ∧
    ∃ n, (s.sendRecord r).eng.flights = s.eng.flights ++ [{ r with seq := n }] := ⟨rfl, _, rfl⟩

theorem State.postLane_bad {s : State} {h : Group} {l : Nat} (hg : s.group? h.gid = some h) {d a b : XReg} {v : Nat}
    (ha : ((h.lane l).rx a).toNat % 64 = 0) (ht : s.postTarget h l ((h.lane l).rx b) = .bad v) :
    s.postLane h.gid l d a b = .ok () (s.putX h.gid l d v) := by
  unfold State.postLane
  simp only [hg]
  rw [if_neg (fun hh => hh ha), ht]
  rfl

/-- The record that a POST injects. -/
def State.postRec (s : State) (h : Group) (l : Nat) (site : Site) (mail : Option (Nat × Nat)) (us : List Nat) : TaskRec :=
  let y := s.lane h.gid l
  { words := wordsOf16 us, ctx := h.ctx, pts := y.pts, idStage := y.idStage, idLogical := y.idLogical, mail := mail, fault := false,
    tag := 0, site := site, seq := 0, issuer := some (h.gid, l), src := some h.site }

theorem State.postLane_sends {s s1 : State} {h : Group} {l : Nat} (hg : s.group? h.gid = some h) {d a b : XReg} {site : Site}
    {mail : Option (Nat × Nat)} {us : List Nat} (ha : ((h.lane l).rx a).toNat % 64 = 0) (ht : s.postTarget h l ((h.lane l).rx b) = .to_ site mail)
    (hf : s.frontRoom h.ctx site mail = true) (hld : s.load16s h.gid l ((h.lane l).rx a) 1 4 = .ok us s1) :
    s.postLane h.gid l d a b =
      .ok () (((s1.count h.ctx (recFields (wordsOf16 us)).theJob (cniOf h.site) 1 0).sendRecord (s1.postRec h l site mail us)).putX h.gid l d 0) := by
  unfold State.postLane
  simp only [hg]
  rw [if_neg (fun hh => hh ha), ht]
  dsimp only
  rw [hf, hld]
  rfl

/-- The reserved bits and kinds that make the target of a POST bad. -/
theorem State.postTarget_bad (s : State) (h : Group) (l : Nat) {B : Word} (hb : (bitsAt B 62 2 = 0 ∧ bitsAt B 7 55 ≠ 0) ∨ bitsAt B 62 2 = 3 ∨
    (bitsAt B 62 2 = 1 ∧ (bitsAt B 2 60 ≠ 0 ∨ bitsAt B 0 2 = 3)) ∨ (bitsAt B 62 2 = 2 ∧ bitsAt B 54 8 ≠ 0)) : s.postTarget h l B = .bad 2 := by
  unfold State.postTarget
  rcases hb with ⟨h1, h2⟩ | h1 | ⟨h1, h2⟩ | ⟨h1, h2⟩
  · simp only [h1]; exact if_pos h2
  · simp only [h1]
  · simp only [h1]; exact if_pos (by rcases h2 with h | h <;> simp [h])
  · simp only [h1]; exact if_pos h2

/-! TRAYCFG (12 R308). -/

/-- The trays but one. -/
def State.otherTrays (s : State) (site : Site) (n : Nat) : List Tray := s.eng.trays.filter (fun u => !(u.site == site && u.num == n))

theorem State.trayLane_refused {s : State} {h : Group} {l : Nat} (hg : s.group? h.gid = some h) {d a b : XReg} {v : Nat}
    (hst : s.trayStatus h ((h.lane l).rx a) ((h.lane l).rx b) = (v, none)) (hv : v ≠ 0) : s.trayLane h.gid l d a b = s.putX h.gid l d v := by
  unfold State.trayLane
  simp only [hg, hst, if_pos hv]
  rfl

theorem State.trayLane_done {s : State} {h : Group} {l : Nat} (hg : s.group? h.gid = some h) {d a b : XReg} {t : Option Tray}
    (hst : s.trayStatus h ((h.lane l).rx a) ((h.lane l).rx b) = (0, t)) : s.trayLane h.gid l d a b =
      State.putX { s with eng := { s.eng with trays := s.otherTrays h.site (bitsAt ((h.lane l).rx a) 0 4) ++ t.toList } } h.gid l d 0 := by
  unfold State.trayLane
  simp only [hg, hst]
  rfl

/-- A shape that TRAYCFG refuses. -/
def trayBad (A B : Word) : Prop :=
  bitsAt A 4 4 ≠ 0 ∨ bitsAt A 11 5 ≠ 0 ∨ bitsAt A 32 32 ≠ 0 ∨
    (B.toNat ≠ 0 ∧ (bitsAt A 8 3 = 0 ∨ 4 < bitsAt A 8 3 ∨ bitsAt A 16 16 = 0 ∨ B.toNat % 8 ≠ 0))

theorem State.trayStatus_bad {s : State} {h : Group} {A B : Word} (hb : trayBad A B) : s.trayStatus h A B = (3, none) := by
  unfold State.trayStatus
  exact if_pos (by unfold trayBad at hb; simpa [or_assoc] using hb)

/-- The checks after the shape's. -/
theorem State.trayStatus_eq {s : State} {h : Group} {A B : Word} (hb : ¬trayBad A B) : s.trayStatus h A B =
    if (s.eng.trays.find? (fun t => t.site == h.site && t.num == bitsAt A 0 4)).any (fun t => t.ctx != h.ctx) then (1, none)
    else if (s.eng.trays.find? (fun t => t.site == h.site && t.num == bitsAt A 0 4)).any (fun t => !t.recs.isEmpty) then (2, none)
    else if B.toNat = 0 then (0, none)
    else if s.eng.trays.any (fun t => t.site == h.site && t.num != bitsAt A 0 4 && t.ctx == h.ctx && t.key == B.toNat) then (4, none)
    else (0, some ⟨h.site, bitsAt A 0 4, h.ctx, B.toNat, (sizeOfCode (bitsAt A 8 3)).getD 4, bitsAt A 16 16, [], 0, false⟩) := by
  unfold State.trayStatus
  exact if_neg (by unfold trayBad at hb; simpa [or_assoc] using hb)

/-! INBOXQ.take (12 R309). -/

/-- The oldest allowed record of a mailbox stands in the inbox and is well formed: it is written to the scratchpad and leaves. -/
theorem State.takeLane_takes {s s1 : State} {h : Group} {l : Nat} {d a b : XReg} {k : Klass} {r : TaskRec} (hg : s.group? h.gid = some h)
    (hpad : padAddress s h l ((h.lane l).rx a) 64 = none) (hb : bitsAt ((h.lane l).rx b) 4 60 = 0) (hk : s.klass? h.cls = some k)
    (hn : pickMail (bitsAt ((h.lane l).rx b) 0 4) (s.mailbox k) = some ⟨r, none⟩) (hm : s.malformed r = false)
    (hst : (s.modLane h.gid l (fun y => { y with pts := max y.pts r.pts })).store16s h.gid l ((h.lane l).rx a) (units16 r.words) = .ok () s1) :
    s.takeLane h.gid l d a b = .ok () (((s1.takeInbox r).count r.ctx (recFields r.words).theJob (cniOf h.site) 0 1).putX h.gid l d
      (4 * (recFields r.words).prio + 2 ^ 8 * ((recFields r.words).theJob % 256))) := by
  unfold State.takeLane
  simp only [hg, hpad, hk, Option.bind_some]
  rw [if_neg (fun hh => hh hb), hn]
  dsimp only
  rw [hst, hm]
  simp only [LRes.bind, Bool.false_eq_true, if_false, Nat.zero_add]
  rfl

/-- Settles O43. -/
theorem queueWords : Obligations.QueueWords := by
  intro g d a b s h p l hr x A B Ends
  have hg := hr.group
  refine ⟨fun hp ha => ⟨fun hb => ?_, fun site mail us s1 ht hf hld => ?_, fun h1 h2 => ?_⟩, ?_, fun hp hpad => ⟨fun hb => ?_, fun hb k hk => ⟨fun hn => ?_, fun r s1 hn hm hst => ?_⟩⟩⟩
  · have hF := State.postLane_bad (d := d) (a := a) (b := b) hg ha (s.postTarget_bad h l (B := B) hb)
    obtain ⟨t, e, ht, hv⟩ := laneWord_putX (F := fun s gid l => s.postLane gid l d a b) hr rfl hF
    exact ⟨t, (partWord_ok hr hp hF).trans e, hv, by rw [ht]⟩
  · have hF := State.postLane_sends (d := d) hg ha ht hf hld
    obtain ⟨k1, n, k2⟩ := State.sendRecord_spec (s1.count h.ctx (recFields (wordsOf16 us)).theJob (cniOf h.site) 1 0) (s1.postRec h l site mail us)
    have hmem := (State.load16s_memOnly h.gid l 1 4 s A).of_eq hld
    obtain ⟨t, e, ht, hv⟩ := laneWord_putX_after (F := fun s gid l => s.postLane gid l d a b) hr hmem k1 hF
    refine ⟨t, { s1.postRec h l site mail us with seq := n }, (partWord_ok hr hp hF).trans e, hv, ?_, rfl, rfl, rfl, rfl, rfl⟩
    rw [ht]
    refine k2.trans ?_
    show s1.eng.flights ++ _ = _
    rw [hmem.rest]
  · unfold State.postTarget
    simp only [h1]
    exact if_neg (fun hh => hh h2)
  · intro n code here bad rest Sets
    have refused : ∀ v, s.trayStatus h A B = (v, none) → v ≠ 0 → Sets v s.eng.trays := fun v hst hv => by
      obtain ⟨t, e, ht, hx⟩ := laneWord_putX (F := fun s gid l => .ok () (s.trayLane gid l d a b)) (u := s) hr rfl
        (congrArg (LRes.ok ()) (State.trayLane_refused hg hst hv))
      exact ⟨t, e, hx, by rw [ht]⟩
    have done : ∀ t, s.trayStatus h A B = (0, t) → Sets 0 (rest ++ t.toList) := fun t hst => by
      obtain ⟨u, e, hu, hx⟩ := laneWord_putX (F := fun s gid l => .ok () (s.trayLane gid l d a b))
        (u := { s with eng := { s.eng with trays := s.otherTrays h.site (bitsAt A 0 4) ++ t.toList } }) hr rfl
        (congrArg (LRes.ok ()) (State.trayLane_done hg hst))
      exact ⟨u, e, hx, by rw [hu]; rfl⟩
    refine ⟨fun hb => refused 3 (State.trayStatus_bad hb) (by decide), fun hb => ?_⟩
    have hst := State.trayStatus_eq (s := s) (h := h) (A := A) (B := B) hb
    refine ⟨fun t ht hc => refused 1 (hst.trans (if_pos ?_)) (by decide), fun t ht hc hne => refused 2 (hst.trans ?_) (by decide), fun ht => ?_⟩
    · rw [show s.eng.trays.find? _ = some t from ht]
      simpa using hc
    · rw [show s.eng.trays.find? _ = some t from ht]
      simp [hc, hne]
    · have h1 : ∀ q : Tray → Bool, (∀ t, t.ctx = h.ctx → t.recs = [] → q t = false) → here.any q = false := fun q hq => by
        cases hh : here with
        | none => rfl
        | some t => exact hq t (ht t hh).1 (ht t hh).2
      have hst : s.trayStatus h A B = _ := hst.trans ((if_neg (Bool.eq_false_iff.mp (h1 _ fun t hc _ => by simp [hc]))).trans
        (if_neg (Bool.eq_false_iff.mp (h1 _ fun t _ hc => by simp [hc]))))
      refine ⟨fun hz => ?_, fun hz he => refused 4 (hst.trans ((if_neg hz).trans (if_pos ?_))) (by decide), fun hz hn => done _ (hst.trans ((if_neg hz).trans (if_neg ?_)))⟩
      · have := done none (hst.trans (if_pos hz))
        simpa using this
      · obtain ⟨t, hm, hsite, hctx, hkey⟩ := he
        obtain ⟨hmem, hnum⟩ := List.mem_filter.mp hm
        exact List.any_eq_true.mpr ⟨t, hmem, by simpa [hsite, hctx, hkey] using hnum⟩
      · intro hex
        obtain ⟨t, hmem, hh⟩ := List.any_eq_true.mp hex
        simp only [Bool.and_eq_true, beq_iff_eq, bne_iff_ne] at hh
        obtain ⟨⟨⟨hsite, hnum⟩, hctx⟩, hkey⟩ := hh
        exact hn t (List.mem_filter.mpr ⟨hmem, by simpa [hsite, n] using hnum⟩) hsite hctx hkey
  · have hF : s.takeLane h.gid l d a b = .ok () (s.putX h.gid l d 3) := by
      unfold State.takeLane
      simp only [hg, show padAddress s h l ((h.lane l).rx a) 64 = none from hpad]
      exact if_pos hb
    obtain ⟨t, e, ht, hv⟩ := laneWord_putX (F := fun s gid l => s.takeLane gid l d a b) hr rfl hF
    exact ⟨t, (partWord_ok hr hp hF).trans e, hv, by rw [ht]⟩
  · have hF : s.takeLane h.gid l d a b = .ok () (s.putX h.gid l d 1) := by
      unfold State.takeLane
      simp only [hg, show padAddress s h l ((h.lane l).rx a) 64 = none from hpad, hk, Option.bind_some]
      rw [if_neg (fun hh => hh hb), show pickMail (bitsAt ((h.lane l).rx b) 0 4) (s.mailbox k) = none from hn]
      rfl
    obtain ⟨t, e, ht, hv⟩ := laneWord_putX (F := fun s gid l => s.takeLane gid l d a b) hr rfl hF
    exact ⟨t, (partWord_ok hr hp hF).trans e, hv, by rw [ht]⟩
  · have hF := State.takeLane_takes (d := d) hg hpad hb hk hn hm hst
    have hmem := (MemOnly.modLane s h.gid l (fun y => { y with pts := max y.pts r.pts })).trans
      ((State.store16s_memOnly h.gid l (units16 r.words) _ A).of_eq hst)
    obtain ⟨t, e, ht, hv⟩ := laneWord_putX_after (F := fun s gid l => s.takeLane gid l d a b)
      (u := (s1.takeInbox r).count r.ctx (recFields r.words).theJob (cniOf h.site) 0 1) hr hmem rfl hF
    refine ⟨t, (partWord_ok hr hp hF).trans e, hv, ?_, by rw [ht]; exact fun _ _ => rfl⟩
    rw [ht]
    show s1.eng.inbox.filter _ = _
    rw [hmem.rest]

end Sys2Proof.Machine
end


section
/-!
FACTS. Tile rings in the list of rings, the ring unit's writes, and what a lane sees of an engine's write.
-/

namespace Sys2Proof.Machine

open Sys2Proof

/-! Items that an update names by what it keeps. -/

theorem find?_updWhere_keeps {α : Type} {p q : α → Bool} {f : α → α} (hp : ∀ a, p (f a) = p a) (l : List α) :
    (updWhere q f l).find? p = (l.find? p).map (fun a => if q a then f a else a) := by
  induction l with
  | nil => rfl
  | cons a r ih =>
    have ha : p (if q a = true then f a else a) = p a := by split <;> simp [hp]
    simp only [updWhere, List.map_cons, List.find?_cons, ha] at ih ⊢
    cases p a with
    | true => rfl
    | false => exact ih

theorem find?_updWhere_self {α : Type} {p : α → Bool} {f : α → α} (hp : ∀ a, p (f a) = p a) (l : List α) :
    (updWhere p f l).find? p = (l.find? p).map f := by
  rw [find?_updWhere_keeps hp]
  cases h : l.find? p with
  | none => rfl
  | some a => simp [List.find?_some h]

/-- The first item by a name is the first by a name and what holds of it. -/
theorem find?_and_of_find? {α : Type} {p q : α → Bool} {l : List α} {a : α} (h : l.find? p = some a) (hq : q a = true) :
    l.find? (fun x => p x && q x) = some a := by
  induction l with
  | nil => cases h
  | cons b r ih =>
    rw [List.find?_cons] at h ⊢
    cases hb : p b with
    | true =>
      rw [hb] at h
      cases h
      simp [hq]
    | false =>
      rw [hb] at h
      simpa using ih h

/-! Rings (15 R351). -/

theorem State.ring?_modRing (s : State) (ctx num : Nat) (f : Ring → Ring) (hf : ∀ r, (f r).ctx = r.ctx ∧ (f r).num = r.num) :
    (s.modRing ctx num f).ring? ctx num = (s.ring? ctx num).map f :=
  find?_updWhere_self (p := fun r : Ring => r.ctx == ctx && r.num == num) (fun r => by rw [(hf r).1, (hf r).2]) s.rings

theorem State.ring?_key {s : State} {ctx num : Nat} {r : Ring} (h : s.ring? ctx num = some r) : r.ctx = ctx ∧ r.num = num := by
  have := List.find?_some h
  simpa using this

theorem State.ring?_of_rings {s t : State} (h : t.rings = s.rings) (ctx num : Nat) : t.ring? ctx num = s.ring? ctx num := by
  unfold State.ring?
  rw [h]

theorem MemOnly.rings {s t : State} (h : MemOnly s t) : t.rings = s.rings := by rw [h.rest]

/-- Tile tid of a ring after an update of it or of another. -/
theorem Ring.tile?_modTile (r : Ring) (tid n : Nat) (f : Tile → Tile) (hf : ∀ t, (f t).tid = t.tid) :
    (r.modTile tid f).tile? n = (r.tile? n).map (fun t => if t.tid = tid then f t else t) :=
  find?_updWhere Tile.tid tid n f hf r.tiles

theorem Ring.tid_of_tile? {r : Ring} {n : Nat} {t : Tile} (h : r.tile? n = some t) : t.tid = n := by
  simpa using List.find?_some h

/-! What an engine's write leaves of a lane: it may see the store, and has not exited by it. -/

/-- No lane has exited. -/
def SameExits (s t : State) : Prop := ∀ n i, (t.lane n i).exited = (s.lane n i).exited

theorem SameExits.trans {s t u : State} (h : SameExits s t) (k : SameExits t u) : SameExits s u := fun n i => (k n i).trans (h n i)

theorem SameExits.of_groups {s t : State} (h : t.groups = s.groups) : SameExits s t := fun n i => by
  unfold State.lane State.group?
  rw [h]

theorem Lane.seeStore_exited (l : Lane) (a : LineAt) (ts : Nat) (w : Nat → Nat) : (l.seeStore a ts w).exited = l.exited := by
  unfold Lane.seeStore Lane.wx
  dsimp only
  repeat' split
  all_goals rfl

theorem State.fireWatches_exits (s : State) (a : LineAt) (ts : Nat) : SameExits s (s.fireWatches a ts) := fun n i => by
  unfold State.lane
  rw [s.group?_fireWatches a ts n]
  cases s.group? n with
  | none => rfl
  | some g =>
    simp only [Option.map_some]
    unfold Group.lane
    by_cases hi : i < g.lanes.length
    · simp [List.getD_eq_getElem?_getD, hi, Lane.seeStore_exited]
    · simp [List.getD_eq_getElem?_getD, hi]

/-- What the ring unit leaves: memory and what sees it, and the lanes that have exited. -/
structure UnitWrote (s t : State) : Prop where
  mem : MemOnly s t
  exits : SameExits s t

theorem UnitWrote.refl (s : State) : UnitWrote s s := ⟨.refl s, .of_groups rfl⟩
theorem UnitWrote.trans {s t u : State} (h : UnitWrote s t) (k : UnitWrote t u) : UnitWrote s u := ⟨h.mem.trans k.mem, h.exits.trans k.exits⟩

theorem State.engPage_groups (s : State) (a : Actor) (va need : Nat) : (s.engPage a va need).2.2.groups = s.groups := by
  unfold State.engPage
  split
  · rfl
  · split
    · rfl
    · dsimp only
      split <;> rfl

theorem State.engWrite_wrote (s : State) (a : Actor) (loc : Loc) (bs : List Byte) : UnitWrote s (s.engWrite a loc bs).2 := by
  refine ⟨s.engWrite_memOnly a loc bs, ?_⟩
  unfold State.engWrite
  cases loc with
  | glob va =>
    have h := SameExits.of_groups (s.engPage_groups a va needW)
    dsimp only
    split
    next hp =>
      rw [hp] at h
      split
      · exact h
      · exact h.trans (SameExits.trans (.of_groups rfl) (State.fireWatches_exits _ _ _))
    next hp => rw [hp] at h; exact h
    next hp => rw [hp] at h; exact h
    next hp => rw [hp] at h; exact h
  | pad k m off =>
    dsimp only
    split
    · exact .of_groups rfl
    · split
      · exact SameExits.trans (.of_groups rfl) (State.fireWatches_exits _ _ _)
      · exact .of_groups rfl

theorem State.engPut_wrote (a : Actor) (w : Nat) (bss : List (List Byte)) (s : State) (loc : Loc) : UnitWrote s (s.engPut a loc w bss).2 := by
  induction bss generalizing s loc with
  | nil => exact .refl s
  | cons bs r ih =>
    have h := s.engWrite_wrote a loc bs
    unfold State.engPut
    generalize s.engWrite a loc bs = q at h
    obtain ⟨x, s1⟩ := q
    cases x with
    | ok t => exact h.trans (ih s1 (loc.plus w))
    | _ => exact h

/-! Headers (15 R353). -/

theorem State.putHeader_wrote (s : State) (r : Ring) (t : Tile) : UnitWrote s (s.putHeader r t) := by
  unfold State.putHeader
  split
  · exact .refl s
  · exact State.engPut_wrote _ _ _ s _

/-- A changed header stands in the ring unit; its copy in the slot is memory's. -/
theorem State.setHeader_wrote (s : State) (ctx num tid : Nat) (f : Tile → Tile) :
    UnitWrote (s.modRing ctx num (fun r => r.modTile tid f)) (s.setHeader ctx num tid f) := by
  unfold State.setHeader
  dsimp only
  split
  · exact .refl _
  · split
    · exact State.putHeader_wrote _ _ _
    · exact .refl _

/-! A result in every live lane (07 R168). -/

/-- A form-wide word that ends with a result: every live lane of the form, as the word's accesses left it, takes it. -/
theorem State.undivided.formResult {s u : State} {h g : Group} {p : Path} {i : Instr} (hs : s.undivided h p) (hg : u.group? h.gid = some g)
    (hp : g.paths = [{ p with halted := some i }]) (ho : g.owedEntries = []) (hz : g.size = h.size)
    (hx : ∀ j ∈ h.liveLanes, (g.lane j).exited = false) (d : XReg) (v : Word) :
    ∃ a, (∃ g', (u.formResult h.gid d v).group? h.gid = some g' ∧ g'.paths = [{ p with pc := p.pc + 8, halted := none, after := a }]) ∧
      GoesTo (u.formResult h.gid d v) h p (p.pc + 8) ∧
      (∀ j ∈ h.liveLanes, d ≠ 0 → ((u.formResult h.gid d v).lane h.gid j).rx d = v) ∧
      u.formResult h.gid d v = { u with groups := (u.formResult h.gid d v).groups } := by
  have h1 := GroupBecomes.modGroup hg (fun g => { g with lanes := g.lanes.map (fun l => if l.exited then l else l.wx d v) }) fun _ => rfl
  obtain ⟨a, h2⟩ := hs.release h1.group hp ho
  have hwait : p.waiting = false := by
    obtain ⟨-, -, -, -, -, -, -, hw, -⟩ := hs
    exact hw
  refine ⟨a, ⟨_, h2.group, rfl⟩, ⟨{ p with pc := p.pc + 8, halted := none, after := a }, by unfold State.formResult; rw [h2.group]; rfl, rfl, rfl, rfl, hwait⟩, fun j hj hd => ?_, (h1.trans h2).rest⟩
  have hlt : j < g.lanes.length := by
    have hj' : j < h.size := List.mem_range.mp (List.mem_filter.mp hj).1
    rw [← hz] at hj'
    exact hj'
  have hlive := hx j hj
  simp only [Group.lane, List.getD_eq_getElem?_getD, List.getElem?_eq_getElem hlt, Option.getD_some] at hlive
  have hlane := State.lane_of_group? h2.group j
  rw [show (u.formResult h.gid d v).lane h.gid j = _ from hlane]
  simp [Group.lane, Group.withPaths, List.getD_eq_getElem?_getD, hlt, hlive, Lane.rx_wx_same _ _ _ hd]

end Sys2Proof.Machine
end


section
/-!
SETTLED. RATT, RATT.det, RMAP, RINJ, RWAIT and RREL with their statuses (O38).
-/

namespace Sys2Proof.Machine

open Sys2Proof

/-! RATT (15 R363). -/

/-- RATT once its header is read. -/
theorem State.rattLane_header {s s1 : State} {h : Group} {l : Nat} {d a : XReg} {us : List Nat} (hg : s.group? h.gid = some h)
    (ha : ((h.lane l).rx a).toNat / 2 ^ 56 = 0) (hal : ((h.lane l).rx a).toNat % 64 = 0)
    (hld : s.load16s h.gid l ((h.lane l).rx a) 1 4 = .ok us s1) {v : Nat} (hv : v = ofBytes (us.flatMap (bytesOf 16))) {r : Ring}
    (hr : r = ringOf h.ctx v) :
    s.rattLane h.gid l d a = if r.badHeader v (fieldAt v 8 8) then .ok () (s1.putX h.gid l d 2)
      else (s1.load16s h.gid l ((h.lane l).rx a + 64) 1 (fieldAt v 8 8)).bind (fun es s2 =>
        if (es.map stationDesc).any (fun e => e.bad r.slotSize) then .ok () (s2.putX h.gid l d 2)
        else if (s2.ring? h.ctx r.num).isSome then .ok () (s2.putX h.gid l d 1)
        else match s2.stationsOf h l (es.map stationDesc) with
          | none => .ok () (s2.putX h.gid l d 3)
          | some st => if s2.ringRoom r st then .ok () (State.putX { s2 with rings := s2.rings ++ [{ r with stations := st }] } h.gid l d 0)
            else .ok () (s2.putX h.gid l d 2)) := by
  subst hv hr
  unfold State.rattLane
  simp only [hg]
  rw [if_neg (fun hh => hh ha), if_neg (fun hh => hh hal), hld]
  rfl

/-! RATT.det (15 R363). -/

theorem State.wakeRwait_rings (s : State) (h : s.noStacks) : (s.wakeRwait).rings = s.rings := by
  rw [State.wakeRwait, (State.wakeLanes_frame h _).2.1]

/-- The lanes that a ring's end wakes stand in their groups. -/
theorem State.wakeRwait_group {s : State} (hn : s.noStacks) {n : Nat} {g : Group} (hg : s.group? n = some g) :
    ∃ g', s.wakeRwait.group? n = some g' ∧ g'.noStack ∧ g'.size = g.size := by
  obtain ⟨hk, -⟩ := State.wakeLanes_frame hn (fun g _ _ w => match w.kind with
    | .rwait num count => (s.rwaitStatus g.ctx num count).map (fun v => fun y => y.rwaitDone w.d v s.maxTs)
    | _ => none)
  obtain ⟨g', hg', hz, -⟩ := (hk.2 n).2 g hg
  exact ⟨g', hg', hk.1 g' (List.mem_of_find?_eq_some hg'), hz⟩

/-! RMAP (15 R365). -/

/-- A chart as its rows are read. -/
def Ring.charted (w : Word) (us : List Nat) (r : Ring) : Ring :=
  { r with st := 2, ncw := bitsAt w 8 8 + 1, nccw := bitsAt w 16 8 + 1, chart := (List.range (bitsAt w 8 8 + 1)).map (fun k => (us.getD (2 * k) 0 + 2 ^ 128 * us.getD (2 * k + 1) 0) % 2 ^ (bitsAt w 16 8 + 1)) }

/-- The checks of RMAP after its address's. -/
theorem State.rmapLane_eq {s : State} {h : Group} {l : Nat} {d a b : XReg} (hg : s.group? h.gid = some h)
    (ha : ((h.lane l).rx a).toNat / 2 ^ 56 = 0) (hal : ((h.lane l).rx a).toNat % 32 = 0) :
    s.rmapLane h.gid l d a b =
      if bitsAt ((h.lane l).rx b) 4 4 ≠ 0 || bitsAt ((h.lane l).rx b) 24 40 ≠ 0 then .ok () (s.putX h.gid l d 2)
      else match s.ring? h.ctx (bitsAt ((h.lane l).rx b) 0 4) with
        | none => .ok () (s.putX h.gid l d 4)
        | some r =>
          if r.st = 3 then .ok () (s.putX h.gid l d 4)
          else if r.injected ≠ 0 then .ok () (s.putX h.gid l d 1)
          else (s.load16s h.gid l ((h.lane l).rx a) 1 (2 * (bitsAt ((h.lane l).rx b) 8 8 + 1))).bind (fun us s1 =>
            .ok () ((s1.modRing h.ctx r.num (Ring.charted ((h.lane l).rx b) us)).putX h.gid l d 0)) := by
  unfold State.rmapLane
  simp only [hg]
  exact (if_neg (fun hh => hh ha)).trans (if_neg (fun hh => hh hal)) <;> rfl

/-! RINJ (15 R364). -/

theorem State.rinjLane_error {s : State} {h : Group} {l : Nat} {d a b c : XReg} (hg : s.group? h.gid = some h) {v : Nat}
    (hc : s.rinjCheck h ((h.lane l).rx b) ((h.lane l).rx c) = .error v) : s.rinjLane h.gid l d a b c = .ok () (s.putX h.gid l d v) := by
  unfold State.rinjLane
  simp only [hg, hc]
  rfl

/-- The tile that RINJ injects. -/
def injectedTile (x : Lane) (b c : XReg) (gid l tid st slot : Nat) (bs : List Byte) : Tile :=
  { tid := tid, ccw := bitsAt (x.rx b) 16 1 == 1, num := bitsAt (x.rx b) 0 16, len := (x.rx c).toNat, homest := st, lap := 0, pins := 0,
    home := x.rx (XReg.succ b), doneBits := [], station := st, slot := slot, resident := false, image := bs, left := false,
    dwelling := false, arrivedAt := 0, order := 0, pending := none, missing := [], missDone := 0, issuer := some (gid, l), held := 0,
    pts := x.pts }

/-- A ring that a tile has been injected into. -/
def Ring.inject (t : Tile) (r : Ring) : Ring :=
  { r with
    tiles := r.tiles ++ [t], injected := r.injected + 1,
    seenCw := if t.ccw then r.seenCw else t.num :: r.seenCw,
    seenCcw := if t.ccw then t.num :: r.seenCcw else r.seenCcw }

theorem State.rinjLane_injects {s s1 : State} {h : Group} {l : Nat} {d a b c : XReg} (hg : s.group? h.gid = some h) {r : Ring} {st i : Nat}
    (hc : s.rinjCheck h ((h.lane l).rx b) ((h.lane l).rx c) = .ok (r, st, i)) (ha : ((h.lane l).rx a).toNat / 2 ^ 56 = 0xFC) {loc : Loc}
    (hloc : resolve s h l ((h.lane l).rx a) ((h.lane l).rx c).toNat 16 = .ok loc) (hh : s.loadHeld loc ((h.lane l).rx c).toNat = false)
    (hf : s.sourcesFull h l = false) {bs : List Byte}
    (hga : s.engGather ⟨h.ctx, (h.lane l).privS, (h.lane l).pts, h.site⟩ loc 16 (((h.lane l).rx c).toNat / 16) = (.ok bs, s1)) :
    s.rinjLane h.gid l d a b c = .ok () (((s1.fresh.2.modRing h.ctx r.num (Ring.inject (injectedTile (h.lane l) b c h.gid l s1.nextId st i bs))).count
      h.ctx r.job (cniOf h.site) 1 0).putX h.gid l d 0) := by
  unfold State.rinjLane
  simp only [hg, hc]
  rw [if_neg (fun hne => hne ha)]
  simp only [hloc, hh, hf, hga]
  rfl

theorem State.rinjCheck_none {s : State} {h : Group} {w len : Word} (hn : s.ring? h.ctx (bitsAt w 20 4) = none) : s.rinjCheck h w len = .error 4 := by
  unfold State.rinjCheck
  dsimp only
  rw [hn]

theorem State.ring?_of_rinjCheck {s : State} {h : Group} {w len : Word} {r : Ring} {st i : Nat} (hc : s.rinjCheck h w len = .ok (r, st, i)) :
    s.ring? h.ctx (bitsAt w 20 4) = some r := by
  unfold State.rinjCheck at hc
  dsimp only at hc
  cases hr : s.ring? h.ctx (bitsAt w 20 4) with
  | none => rw [hr] at hc; cases hc
  | some q =>
    rw [hr] at hc
    dsimp only at hc
    repeat' split at hc
    all_goals cases hc
    all_goals rfl

/-! RWAIT (15 R367). -/

/-- RWAIT in one lane. -/
def State.rwaitPart (s : State) (gid l : Nat) (d a b : XReg) : LRes Unit :=
  let x := s.lane gid l
  let ctx := ((s.group? gid).map (·.ctx)).getD 0
  let now (v : Nat) : LRes Unit := .ok () (s.modLane gid l (fun y => y.rwaitDone d v s.maxTs))
  match ringNum (x.rx a) with
  | none => now 4
  | some n =>
    match s.rwaitStatus ctx n (x.rx b).toNat with
    | some v => now v
    | none => .ok () (s.modLane gid l (fun y => y.startWait ⟨.rwait n (x.rx b).toNat, d, none, s.clk, false⟩))

theorem execRwait_eq (g : Guard) (d a b : XReg) (s : State) : execRwait g d a b s = parkWord g (fun s gid l => s.rwaitPart gid l d a b) s := rfl

theorem rwait_goes {s : State} {h : Group} {p : Path} {l : Nat} {g : Guard} {d a b : XReg} (hs : s.single h p l)
    (hgd : guardHolds g (h.lane l) = true) (hw : (h.lane l).wait = none) {v : Nat}
    (hF : s.rwaitPart h.gid l d a b = .ok () (s.modLane h.gid l (fun y => y.rwaitDone d v s.maxTs))) :
    ∃ t, exec (.rwait g d a b) s = .next t ∧ GoesTo t h p (p.pc + 8) ∧ (d ≠ 0 → (t.lane h.gid l).rx d = BitVec.ofNat 64 v) := by
  have hlane := Group.lane_modLane_same h l (fun y => y.rwaitDone d v s.maxTs) hs.lt
  obtain ⟨t, af, e, hG, -⟩ := parkWord_goes (F := fun s gid l => s.rwaitPart gid l d a b) (u := s.modLane h.gid l (fun y => y.rwaitDone d v s.maxTs)) hs hgd hF (g := h.modLane l (fun y => y.rwaitDone d v s.maxTs))
    (State.group?_modGroup_same hs.group (fun g => g.modLane l (fun y => y.rwaitDone d v s.maxTs)) fun _ => rfl) hs.1.2.1 (by rw [hlane]; simpa [Lane.rwaitDone] using hw)
  obtain ⟨-, -, -, -, -, -, hh, -, -⟩ := hs.1
  refine ⟨t, e, ⟨{ p.woken with after := af }, by rw [hG]; rfl, rfl, rfl, hh, rfl⟩, fun hd => ?_⟩
  rw [State.lane_of_group? hG]
  show ((h.modLane l (fun y => y.rwaitDone d v s.maxTs)).lane l).rx d = _
  rw [hlane]
  exact Lane.rx_wx_same _ _ _ hd

theorem State.rwaitPart_now {s : State} {h : Group} {l : Nat} {d a b : XReg} (hg : s.group? h.gid = some h) {v : Nat}
    (hv : (v = 4 ∧ (ringNum ((h.lane l).rx a) = none ∨ ∃ n, ringNum ((h.lane l).rx a) = some n ∧ s.ring? h.ctx n = none)) ∨
      ∃ n r, ringNum ((h.lane l).rx a) = some n ∧ s.ring? h.ctx n = some r ∧ ((r.st = 3 ∧ v = 7) ∨
        (r.st ≠ 3 ∧ ((h.lane l).rx b).toNat ≤ r.retired ∧ r.injected = r.retired ∧ v = if r.lost ≠ 0 then 8 else 0))) :
    s.rwaitPart h.gid l d a b = .ok () (s.modLane h.gid l (fun y => y.rwaitDone d v s.maxTs)) := by
  unfold State.rwaitPart State.rwaitStatus
  simp only [State.lane_of_group? hg, State.ctxOf_group hg]
  rcases hv with ⟨rfl, hn | ⟨n, hn, hr⟩⟩ | ⟨n, r, hn, hr, ⟨h3, rfl⟩ | ⟨h3, hle, heq, rfl⟩⟩
  · simp only [hn]
  · simp only [hn, hr]
  · simp only [hn, hr, if_pos h3]
  · simp only [hn, hr, if_neg h3]
    rw [if_pos (by simp [hle, heq])]

theorem State.rwaitPart_waits {s : State} {h : Group} {l : Nat} {d a b : XReg} (hg : s.group? h.gid = some h) {n : Nat} {r : Ring}
    (hn : ringNum ((h.lane l).rx a) = some n) (hr : s.ring? h.ctx n = some r) (h3 : r.st ≠ 3)
    (hw : r.retired < ((h.lane l).rx b).toNat ∨ r.injected ≠ r.retired) :
    s.rwaitPart h.gid l d a b = .ok () (s.modLane h.gid l (fun y => y.startWait ⟨.rwait n ((h.lane l).rx b).toNat, d, none, s.clk, false⟩)) := by
  unfold State.rwaitPart State.rwaitStatus
  simp only [State.lane_of_group? hg, State.ctxOf_group hg, hn, hr, if_neg h3]
  rw [if_neg (by simp only [Bool.and_eq_true, decide_eq_true_eq]; omega)]

/-! RREL (15 R366). -/

/-- No encounter has the tag. -/
theorem rrelEff_none {d a : XReg} {g : Group} {p : Path} {s : State} (hn : ∀ r ∈ s.rings, r.ctx = g.ctx →
    r.num = fieldAt ((g.lane g.reader).rx a).toNat 44 4 → ∀ e ∈ r.encs, e.tag ≠ ((g.lane g.reader).rx a).toNat) :
    rrelEff d a g p s = s.formResult g.gid d 2 := by
  have hf : s.rings.find? (fun r => r.ctx == g.ctx && r.num == fieldAt ((g.lane g.reader).rx a).toNat 44 4 &&
      r.encs.any (fun e => e.tag == ((g.lane g.reader).rx a).toNat)) = none := by
    refine List.find?_eq_none.mpr fun r hr => ?_
    simp only [Bool.and_eq_true, beq_iff_eq, List.any_eq_true, not_and, not_exists]
    exact fun ⟨h1, h2⟩ e => fun he => hn r hr h1 h2 e he
  unfold rrelEff
  simp only [hf, Option.bind_none]

/-- A tile whose later accesses follow a timestamp. -/
def Tile.follows (pts : Nat) (t : Tile) : Tile := { t with pts := max t.pts pts }

/-- A ring after RREL of its one encounter. -/
def Ring.rreled (e : Encounter) (w pts : Nat) (r : Ring) : Ring :=
  let after (t : Tile) : Bool := t.tid == e.cw || t.tid == e.ccw || (t.station == e.station && t.pending.isSome)
  { r with encs := r.encs.filter (fun x => x.tag != w), tiles := updWhere after (Tile.follows pts) r.tiles }

def Tile.unpin (t : Tile) : Tile := { t with pins := t.pins - 1 }

theorem State.resumePending_none {s : State} {ctx num station : Nat} {r : Ring} (hr : s.ring? ctx num = some r)
    (hp : ∀ u ∈ r.tiles, u.pending = none) : s.resumePending ctx num station = s := by
  have hf : r.tiles.filter (fun t => t.station == station && t.pending.isSome) = [] :=
    List.filter_eq_nil_iff.mpr fun t ht => by simp [hp t ht]
  unfold State.resumePending
  simp only [hr, hf]
  rfl

theorem mem_updWhere {α : Type} {q : α → Bool} {f : α → α} {P : α → Prop} (hf : ∀ a, P a → P (f a)) {l : List α} (h : ∀ a ∈ l, P a) :
    ∀ a ∈ updWhere q f l, P a := fun a ha => by
  obtain ⟨b, hb, rfl⟩ := List.mem_map.mp ha
  split
  · exact hf b (h b hb)
  · exact h b hb

/-- Both tiles of an encounter are unpinned at the release's timestamp. -/
theorem Ring.tile?_rreled {r : Ring} {e : Encounter} {w pts : Nat} {ta tb : Tile} (hne : e.cw ≠ e.ccw) (ha : r.tile? e.cw = some ta)
    (hb : r.tile? e.ccw = some tb) :
    (((r.rreled e w pts).modTile e.cw Tile.unpin).modTile e.ccw Tile.unpin).tile? e.cw = some { ta with pins := ta.pins - 1, pts := max ta.pts pts } ∧
    (((r.rreled e w pts).modTile e.cw Tile.unpin).modTile e.ccw Tile.unpin).tile? e.ccw = some { tb with pins := tb.pins - 1, pts := max tb.pts pts } := by
  have hta := Ring.tid_of_tile? ha
  have htb := Ring.tid_of_tile? hb
  have hstep : ∀ n, (r.rreled e w pts).tile? n = (r.tile? n).map (fun t =>
      if t.tid == e.cw || t.tid == e.ccw || (t.station == e.station && t.pending.isSome) then t.follows pts else t) := fun n =>
    find?_updWhere_keeps (p := fun t : Tile => t.tid == n) (by intro _; rfl) r.tiles
  constructor
  · rw [Ring.tile?_modTile _ _ _ Tile.unpin (fun _ => rfl), Ring.tile?_modTile _ _ _ Tile.unpin (fun _ => rfl), hstep, ha]
    simp [hta, hne, Tile.unpin, Tile.follows]
  · rw [Ring.tile?_modTile _ _ _ Tile.unpin (fun _ => rfl), Ring.tile?_modTile _ _ _ Tile.unpin (fun _ => rfl), hstep, hb]
    simp [htb, hne.symm, Tile.unpin, Tile.follows]

/-- RREL of the one encounter of a ring none of whose tiles waits for an entry. -/
theorem rrelEff_some {d a : XReg} {g : Group} {p : Path} {s : State} {w : Nat} (hw : w = ((g.lane g.reader).rx a).toNat) {pts : Nat}
    (hpts : pts = (g.liveLanes.map (fun i => (g.lane i).pts)).foldl max 0) (hg : s.group? g.gid = some g) {r : Ring} {e : Encounter} {ta tb : Tile}
    (hr : s.ring? g.ctx (fieldAt w 44 4) = some r) (he : r.encs = [e]) (hew : e.tag = w) (hne : e.cw ≠ e.ccw) (ha : r.tile? e.cw = some ta)
    (hb : r.tile? e.ccw = some tb) (hp : ∀ u ∈ r.tiles, u.pending = none) :
    ∃ u r', rrelEff d a g p s = u.formResult g.gid d 0 ∧ u.ring? g.ctx r.num = some r' ∧ r'.encs = [] ∧
      r'.tile? e.cw = some { ta with pins := ta.pins - 1, pts := max ta.pts pts } ∧
      r'.tile? e.ccw = some { tb with pins := tb.pins - 1, pts := max tb.pts pts } ∧
      (∃ gu, u.group? g.gid = some gu ∧ gu = { g with lanes := gu.lanes } ∧ gu.size = g.size) ∧ SameExits s u := by
  obtain ⟨hctx, hnum⟩ := State.ring?_key hr
  have hhit : s.rings.find? (fun r => r.ctx == g.ctx && r.num == fieldAt w 44 4 && r.encs.any (fun e => e.tag == w)) = some r :=
    find?_and_of_find? hr (by simp [he, hew])
  -- the three updates of the ring, two of which write a header
  let s1 := s.modRing r.ctx r.num (Ring.rreled e w pts)
  let s2 := s1.setHeader r.ctx r.num e.cw Tile.unpin
  let s3 := s2.setHeader r.ctx r.num e.ccw Tile.unpin
  have w1 := State.setHeader_wrote s1 r.ctx r.num e.cw Tile.unpin
  have w2 := State.setHeader_wrote s2 r.ctx r.num e.ccw Tile.unpin
  let r3 := ((r.rreled e w pts).modTile e.cw Tile.unpin).modTile e.ccw Tile.unpin
  have hr0 : s.ring? r.ctx r.num = some r := by rw [hctx, hnum]; exact hr
  have hr1 : s1.ring? r.ctx r.num = some (r.rreled e w pts) := (State.ring?_modRing s r.ctx r.num (Ring.rreled e w pts) fun _ => ⟨rfl, rfl⟩).trans (by rw [hr0]; rfl)
  have hr2 : s2.ring? r.ctx r.num = some ((r.rreled e w pts).modTile e.cw Tile.unpin) :=
    (State.ring?_of_rings w1.mem.rings _ _).trans ((State.ring?_modRing s1 r.ctx r.num (fun r => r.modTile e.cw Tile.unpin) fun _ => ⟨rfl, rfl⟩).trans (by rw [hr1]; rfl))
  have hr3 : s3.ring? r.ctx r.num = some r3 :=
    (State.ring?_of_rings w2.mem.rings _ _).trans ((State.ring?_modRing s2 r.ctx r.num (fun r => r.modTile e.ccw Tile.unpin) fun _ => ⟨rfl, rfl⟩).trans (by rw [hr2]; rfl))
  have hp3 : ∀ u ∈ r3.tiles, u.pending = none :=
    mem_updWhere (f := Tile.unpin) (fun _ h => h) (mem_updWhere (f := Tile.unpin) (fun _ h => h)
      (mem_updWhere (f := Tile.follows pts) (P := fun u : Tile => u.pending = none) (fun _ h => h) hp))
  obtain ⟨k1, k2⟩ := Ring.tile?_rreled (w := w) (pts := pts) hne ha hb
  obtain ⟨g1, hg1, hgl1, hz1⟩ := w1.mem.group? (n := g.gid) (g := g) hg
  obtain ⟨g2, hg2, hgl2, hz2⟩ := w2.mem.group? (n := g.gid) (g := g1) hg1
  refine ⟨s3, r3, ?_, by rw [← hctx]; exact hr3, by simp [r3, Ring.modTile, Ring.rreled, he, hew], k1, k2,
    ⟨g2, hg2, by rw [hgl2, hgl1], hz2.trans hz1⟩, ?_⟩
  · unfold rrelEff
    simp only [← hw, hhit, Option.bind_some, he, List.find?_cons, hew, BEq.rfl, Option.map_some, ← hpts]
    exact congrArg (fun x : State => x.formResult g.gid d 0) (State.resumePending_none hr3 hp3)
  · exact (SameExits.trans (.of_groups rfl) w1.exits).trans (SameExits.trans (.of_groups rfl) w2.exits)

/-! The words. -/

/-- Settles O38. -/
theorem ringWords : Obligations.RingWords := by
  intro g d a b c s h p l x A W Gives
  refine ⟨fun hr => ⟨fun s1 us ha hal hld => ?_, fun hn => ?_, fun r hrg => ⟨fun h1 h2 => ?_, fun h1 hn => ?_⟩, fun ha hal => ?_, fun hp hn => ?_, fun v hp hc => ?_,
    fun r st i loc bs s1 hp hf hc ha hloc hh hga => ?_⟩, fun hs hgd hw => ⟨fun v hv => ?_, fun n r hn hr h3 hlt => ?_⟩, fun hs => ?_⟩
  · intro v r
    have hm := (State.load16s_memOnly h.gid l 1 4 s A).of_eq hld
    have hF := State.rattLane_header (d := d) hr.group ha hal hld (v := v) rfl (r := r) rfl
    have ends : ∀ {s2 u : State} {n : Nat}, MemOnly s s2 → u.groups = s2.groups → s.rattLane h.gid l d a = .ok () (u.putX h.gid l d n) →
        Gives (.ratt g d a) n u.rings := fun hm hu hF => by
      obtain ⟨t, e, ht, hv⟩ := laneWord_putX_after (F := fun s gid l => s.rattLane gid l d a) hr hm hu hF
      exact ⟨t, e, by rw [ht], hv⟩
    have bad : ∀ {s2 : State} {n : Nat}, MemOnly s s2 → s.rattLane h.gid l d a = .ok () (s2.putX h.gid l d n) → Gives (.ratt g d a) n s.rings :=
      fun hm hF => by rw [← hm.rings]; exact ends hm rfl hF
    refine ⟨fun hb => bad hm (hF.trans (if_pos hb)), fun hb s2 es hld2 => ?_⟩
    intro ds
    have hm2 := hm.trans ((State.load16s_memOnly h.gid l 1 (fieldAt v 8 8) s1 (A + 64)).of_eq hld2)
    have hF := hF.trans (if_neg (by rw [hb]; decide))
    rw [show s1.load16s h.gid l ((h.lane l).rx a + 64) 1 (fieldAt v 8 8) = .ok es s2 from hld2] at hF
    have hring : s2.ring? h.ctx r.num = s.ring? h.ctx r.num := State.ring?_of_rings hm2.rings _ _
    refine ⟨fun hd => bad hm2 (hF.trans (if_pos hd)), fun hd => ?_⟩
    have hF := hF.trans (if_neg (by rw [show (es.map stationDesc).any _ = false from hd]; decide))
    rw [hring] at hF
    refine ⟨fun h1 => bad hm2 (hF.trans (if_pos h1)), fun h1 => ?_⟩
    have hF := hF.trans (if_neg (by rw [h1]; decide))
    refine ⟨fun h2 => bad hm2 (hF.trans (by rw [show s2.stationsOf h l (es.map stationDesc) = none from h2])), fun st h2 => ?_⟩
    rw [show s2.stationsOf h l (es.map stationDesc) = some st from h2] at hF
    refine ⟨fun h3 => bad hm2 (hF.trans (if_neg (by rw [h3]; decide))), fun h3 => ?_⟩
    have := ends (u := { s2 with rings := s2.rings ++ [{ r with stations := st }] }) hm2 rfl (hF.trans (if_pos h3))
    rwa [hm2.rings] at this
  · have hF : s.detLane h.gid l d a = s.putX h.gid l d 4 := by
      unfold State.detLane
      simp only [hr.group]
      rw [show (ringNum ((h.lane l).rx a)).bind (fun n => s.ring? h.ctx n) = none from hn]
      rfl
    obtain ⟨t, e, ht, hv⟩ := laneWord_putX (F := fun s gid l => .ok () (s.detLane gid l d a)) (u := s) hr rfl (congrArg (LRes.ok ()) hF)
    exact ⟨t, e, by rw [ht], hv⟩
  · have hF : s.detLane h.gid l d a = s.putX h.gid l d 1 := by
      unfold State.detLane
      simp only [hr.group]
      rw [show (ringNum ((h.lane l).rx a)).bind (fun n => s.ring? h.ctx n) = some r from hrg]
      exact if_neg (by simp [h1, h2])
    obtain ⟨t, e, ht, hv⟩ := laneWord_putX (F := fun s gid l => .ok () (s.detLane gid l d a)) (u := s) hr rfl (congrArg (LRes.ok ()) hF)
    exact ⟨t, e, by rw [ht], hv⟩
  · let u : State := { s with rings := s.rings.filter (fun q => !(q.ctx == h.ctx && q.num == r.num)) }
    have hF : s.detLane h.gid l d a = u.wakeRwait.putX h.gid l d 0 := by
      unfold State.detLane
      simp only [hr.group]
      rw [show (ringNum ((h.lane l).rx a)).bind (fun n => s.ring? h.ctx n) = some r from hrg]
      exact if_pos (by simpa using h1)
    have hnu : u.noStacks := hn
    obtain ⟨g', hg', hns, hz⟩ := State.wakeRwait_group hnu (n := h.gid) (g := h) hr.group
    obtain ⟨t, e, ht, hv⟩ := laneWord_putX_memOnly (F := fun s gid l => .ok () (s.detLane gid l d a)) hr hg' hns (by rw [hz]; exact hr.2.2)
      (congrArg (LRes.ok ()) hF)
    exact ⟨t, e, by rw [ht]; exact State.wakeRwait_rings u hnu, hv⟩
  · have hF := State.rmapLane_eq (d := d) (b := b) hr.group ha hal
    have bad : ∀ {n : Nat}, s.rmapLane h.gid l d a b = .ok () (s.putX h.gid l d n) → Gives (.rmap g d a b) n s.rings := fun hF => by
      obtain ⟨t, e, ht, hv⟩ := laneWord_putX (F := fun s gid l => s.rmapLane gid l d a b) hr rfl hF
      exact ⟨t, e, by rw [ht], hv⟩
    refine ⟨fun hb => bad (hF.trans (if_pos (by simpa using hb))), fun h1 h2 => ?_⟩
    have hF := hF.trans (if_neg (by simp only [W, x] at h1 h2; simp [h1, h2]))
    refine ⟨fun hn => bad (hF.trans (by rw [show s.ring? h.ctx (bitsAt ((h.lane l).rx b) 0 4) = none from hn])), fun r hrg => ?_⟩
    rw [show s.ring? h.ctx (bitsAt ((h.lane l).rx b) 0 4) = some r from hrg] at hF
    refine ⟨fun h3 => bad (hF.trans (if_pos h3)), fun h3 hi => bad (hF.trans ((if_neg h3).trans (if_pos hi))), fun h3 hi us s1 hld => ?_⟩
    have hF := hF.trans ((if_neg h3).trans (if_neg (fun hh => hh hi)))
    rw [show s.load16s h.gid l ((h.lane l).rx a) 1 (2 * (bitsAt ((h.lane l).rx b) 8 8 + 1)) = .ok us s1 from hld] at hF
    have hm := (State.load16s_memOnly h.gid l 1 (2 * (bitsAt W 8 8 + 1)) s A).of_eq hld
    obtain ⟨t, e, ht, hv⟩ := laneWord_putX_after (F := fun s gid l => s.rmapLane gid l d a b) (u := s1.modRing h.ctx r.num (Ring.charted W us)) hr hm rfl hF
    refine ⟨t, e, hv, ?_⟩
    obtain ⟨-, hnum⟩ := State.ring?_key hrg
    have hrg' : s1.ring? h.ctx r.num = some r := (State.ring?_of_rings hm.rings _ _).trans (by rw [hnum]; exact hrg)
    rw [ht]
    refine (congrArg (State.ring? (s1.modRing h.ctx r.num (Ring.charted W us)) h.ctx) hnum.symm).trans ?_
    refine (State.ring?_modRing s1 h.ctx r.num (Ring.charted W us) fun _ => ⟨rfl, rfl⟩).trans ?_
    rw [hrg']
    rfl
  · have hF := State.rinjLane_error (d := d) (a := a) (b := b) (c := c) hr.group (State.rinjCheck_none hn)
    obtain ⟨t, e, ht, hv⟩ := laneWord_putX (F := fun s gid l => s.rinjLane gid l d a b c) hr rfl hF
    exact ⟨t, (partWord_ok hr hp hF).trans e, by rw [ht], hv⟩
  · have hF := State.rinjLane_error (d := d) (a := a) hr.group hc
    obtain ⟨t, e, ht, hv⟩ := laneWord_putX (F := fun s gid l => s.rinjLane gid l d a b c) hr rfl hF
    exact ⟨t, (partWord_ok hr hp hF).trans e, by rw [ht], hv⟩
  · have hF := State.rinjLane_injects (d := d) hr.group hc ha hloc hh hf hga
    have hm := State.memOnly_of_engGather hga
    have hrg := State.ring?_of_rinjCheck hc
    obtain ⟨hctx, hnum⟩ := State.ring?_key hrg
    let n := injectedTile x b c h.gid l s1.nextId st i bs
    obtain ⟨t, e, ht, hv⟩ := laneWord_putX_after (F := fun s gid l => s.rinjLane gid l d a b c)
      (u := (s1.fresh.2.modRing h.ctx r.num (Ring.inject n)).count h.ctx r.job (cniOf h.site) 1 0) hr hm rfl hF
    refine ⟨t, r.inject n, n, (partWord_ok hr hp hF).trans e, ?_, rfl, rfl, rfl, rfl, rfl, rfl, rfl, rfl, rfl, rfl, rfl, hv⟩
    rw [ht]
    refine (State.ring?_modRing s1.fresh.2 h.ctx r.num (Ring.inject n) fun _ => ⟨rfl, rfl⟩).trans ?_
    rw [State.ring?_of_rings (show s1.fresh.2.rings = s.rings from hm.rings), hnum, hrg]
    rfl
  · exact rwait_goes hs hgd hw (State.rwaitPart_now hs.group hv)
  · obtain ⟨t, e, hl, hG, -⟩ := parkWord_registers hs hgd (F := fun s gid l => s.rwaitPart gid l d a b) (State.rwaitPart_waits hs.group hn hr h3 hlt) rfl
    exact ⟨t, e, ⟨p.parked, hG, rfl, rfl, rfl⟩, congrArg Lane.wait hl⟩
  · intro w pts
    have hlive : ∀ j ∈ h.liveLanes, (h.lane j).exited = false := fun j hj => by simpa using (List.mem_filter.mp hj).2
    obtain ⟨-, -, -, -, -, -, -, -, ho⟩ := id hs
    obtain ⟨s0, h0, hword⟩ := formWord_undivided hs (.rrel d a) (rrelEff d a)
    have hrings : s0.rings = s.rings := by rw [h0.rest]
    refine ⟨fun hn => ?_, fun r e ta tb hr he hew hne ha hb hpe => ?_⟩
    · have heff : rrelEff d a (h.haltsAt p (.rrel d a)) { p with halted := some (.rrel d a) } s0 = s0.formResult h.gid d 2 :=
        rrelEff_none (by rw [hrings]; exact hn)
      obtain ⟨af, ⟨g', hg', hp'⟩, hgo, hx, hrest⟩ := hs.formResult h0.group rfl ho rfl hlive d 2
      rw [heff] at hword
      exact ⟨_, hword g' _ hg' hp' (by simp), hgo, by rw [hrest]; exact hrings, hx⟩
    · obtain ⟨u, r', heff, k1, k2, k3, k4, ⟨gu, hgu, hgl, hz⟩, hex⟩ := rrelEff_some (d := d) (a := a) (g := h.haltsAt p (.rrel d a))
        (p := { p with halted := some (.rrel d a) }) (s := s0) (w := w) rfl (pts := pts) rfl h0.group ((State.ring?_of_rings hrings _ _).trans hr) he hew hne ha hb hpe
      have hexu : ∀ j ∈ h.liveLanes, (gu.lane j).exited = false := fun j hj => by
        rw [← State.lane_of_group? hgu, hex, show s0.lane (h.haltsAt p (.rrel d a)).gid j = h.lane j from State.lane_of_group? h0.group j]
        exact hlive j hj
      obtain ⟨af, ⟨g', hg', hp'⟩, hgo, hx, hrest⟩ := hs.formResult hgu (by rw [hgl]; rfl) (by rw [hgl]; exact ho) hz hexu d 0
      rw [heff] at hword
      exact ⟨_, r', hword g' _ hg' hp' (by simp), hgo, (congrArg (State.ring? · h.ctx r.num) hrest).trans k1, k2, k3, k4, hx⟩

end Sys2Proof.Machine
end


section
/-!
SETTLED. GET, PUT, SEND, SENDA and SENDV start their commands (O36).
-/

namespace Sys2Proof.Machine

open Sys2Proof

/-- The command that a copy word starts in a lane (08 R218, R219). -/
def State.copyStart (s : State) (g : Group) (l : Nat) (d a b c : XReg) (w : CopyWord) : CopyCmd :=
  let x := g.lane l
  { cid := 0, kind := w.kind, ctx := g.ctx, privS := x.privS, gid := g.gid, lane := l, site := g.site,
    pipe := g.pipeOf l, cls := g.cls, member := g.member l, src := locOf s g l (x.rx a), dst := locOf s g l (x.rx d),
    srcVa := (x.rx a).toNat, dstVa := (x.rx d).toNat, len := copyLen (x.rx b),
    obj := if c.val != 0 then some (locOf s g l (x.rx c)) else none,
    status := if w.kind = .sendv then some (locOf s g l (x.rx (XReg.succ c))) else none,
    version := x.rx (XReg.succ b), op := w.op, et := w.et, ordered := w.ordered, seq := copySeq (x.rx b),
    acq := w.m.acq, rel := w.m.rel, scope := w.m.scope, job := x.origin.job, pts := x.pts,
    ranged := false, released := false, readChunks := [], payload := [], sent := [], done := [], held := 0 }

/-- The lane's part of the word is done. -/
def State.partDone (s : State) (gid l : Nat) : State :=
  s.modGroup gid (fun g => { g with paths := g.paths.map (fun p => if p.lanes.contains l then { p with part := l :: p.part } else p) })

/-- A copy word goes on with its path at once, or holds it (08 R227). -/
def CopyKind.goesOn (k : CopyKind) : Bool := k == .get || k == .put

/-- With no command running and room for the range of a GET, the command is started. -/
theorem State.startCopy_first {s : State} {g : Group} {l : Nat} {mk : CopyCmd} (h0 : s.eng.copies = [])
    (hroom : mk.kind = .get → s.rangeRoom mk.dst = true) :
    ∃ u, s.startCopy g l mk = some u ∧ u.groups = s.groups ∧ u.mem = s.mem ∧
      u.eng.copies = [{ mk with cid := s.nextId, ranged := mk.kind.goesOn || mk.ranged }] := by
  have hcni : s.cniCopies g.site = [] := by unfold State.cniCopies; rw [h0]; rfl
  have hfull : s.sourcesFull g l = false := by unfold State.sourcesFull; rw [hcni]; rfl
  have hget : (mk.kind == .get && !s.rangeRoom mk.dst) = false := by
    cases hk : mk.kind == .get with
    | false => rfl
    | true => rw [hroom (by simpa using hk)]; rfl
  have hloc : ∀ (v : State) (c : CopyCmd), (v.recordRange c).groups = v.groups ∧ (v.recordRange c).mem = v.mem ∧
      (v.recordRange c).eng.copies = updWhere (fun x => x.cid == c.cid) (fun x => { x with ranged := true }) v.eng.copies := fun v c => by
    unfold State.recordRange
    dsimp only
    split <;> exact ⟨rfl, rfl, rfl⟩
  unfold State.startCopy
  rw [if_neg (by rw [hcni, hfull, hget]; decide)]
  dsimp only [State.fresh]
  rw [h0]
  cases hk : mk.kind with
  | get => exact ⟨_, rfl, (hloc _ _).1, (hloc _ _).2.1, (hloc _ _).2.2.trans (by simp [updWhere, CopyKind.goesOn, hk])⟩
  | put => exact ⟨_, rfl, (hloc _ _).1, (hloc _ _).2.1, (hloc _ _).2.2.trans (by simp [updWhere, CopyKind.goesOn, hk])⟩
  | send => exact ⟨_, rfl, rfl, rfl, by simp [CopyKind.goesOn, hk]⟩
  | senda => exact ⟨_, rfl, rfl, rfl, by simp [CopyKind.goesOn, hk]⟩
  | sendv => exact ⟨_, rfl, rfl, rfl, by simp [CopyKind.goesOn, hk, State.count, State.modJob]⟩

/-- The word of the lane's first issue, with legal operands. -/
theorem State.copyLane_starts {s u : State} {h : Group} {l : Nat} {d a b c : XReg} {w : CopyWord} (hg : s.group? h.gid = some h)
    (ht : copyTrap s h l w.kind ((h.lane l).rx b) ((h.lane l).rx a) ((h.lane l).rx d) ((h.lane l).rx c) ((h.lane l).rx (XReg.succ c))
      (c.val != 0) w.ordered = none) (hl : bitsAt ((h.lane l).rx b) 0 32 ≠ 0) (hu : s.startCopy h l (s.copyStart h l d a b c w) = some u) :
    s.copyLane h.gid l d a b c w false = if w.kind.goesOn then .done (u.partDone h.gid l) else .wait (u.partDone h.gid l) := by
  unfold State.copyLane
  simp only [hg, Bool.false_eq_true, if_false, ht]
  refine (if_neg hl).trans ?_
  unfold State.copyStart at hu
  dsimp only at hu
  rw [hu]
  cases w.kind <;> rfl

theorem State.copyLane_empty {s : State} {h : Group} {l : Nat} {d a b c : XReg} {w : CopyWord} (hg : s.group? h.gid = some h)
    (ht : copyTrap s h l w.kind ((h.lane l).rx b) ((h.lane l).rx a) ((h.lane l).rx d) ((h.lane l).rx c) ((h.lane l).rx (XReg.succ c))
      (c.val != 0) w.ordered = none) (hl : bitsAt ((h.lane l).rx b) 0 32 = 0) : s.copyLane h.gid l d a b c w false = .done s := by
  unfold State.copyLane
  simp only [hg, Bool.false_eq_true, if_false, ht]
  exact if_pos hl

/-- The word again, once every command of the lane has its range recorded. -/
theorem State.copyLane_again {s : State} {h : Group} {l : Nat} {d a b c : XReg} {w : CopyWord} (hg : s.group? h.gid = some h)
    (hr : ∀ n ∈ s.eng.copies, n.gid = h.gid → n.lane = l → n.ranged = true) : s.copyLane h.gid l d a b c w true = .done s := by
  unfold State.copyLane
  simp only [hg, if_true]
  refine if_neg fun hx => ?_
  obtain ⟨n, hn, hh⟩ := List.any_eq_true.mp hx
  simp only [Bool.and_eq_true, beq_iff_eq, Bool.not_eq_true'] at hh
  obtain ⟨⟨h1, h2⟩, h3⟩ := hh
  rw [hr n hn h1 h2] at h3
  cases h3

/-- The one lane of a copy word has completed it: the path goes on. -/
theorem copyWord_goes {s u : State} {h : Group} {p q : Path} {l : Nat} {g : Guard} {d a b c : XReg} {w : CopyWord} (hs : s.undivided h p)
    (ha : h.active p g = [l]) (hF : s.copyLane h.gid l d a b c w (p.part.contains l) = .done u)
    (hu : u.group? h.gid = some { h with paths := [q] }) (hq : q = { p with part := q.part }) :
    ∃ t, copyWord g d a b c w s = .next t ∧ GoesTo t h p (p.pc + 8) ∧ t = { u with groups := t.groups } := by
  obtain ⟨⟨hc, -⟩, -, -, hne, -, -, hh, hw, -⟩ := id hs
  have hst := hs.stacked
  have hlanes : q.lanes = p.lanes := by rw [hq]
  have hpid : q.pid = p.pid := by rw [hq]
  have hn : ({ h with paths := [q] } : Group).noStack := fun r hr => by
    rw [List.mem_singleton.mp hr, hq]; exact hst
  have he : copyWord g d a b c w s = .next ((u.goTo h.gid p.pid (p.pc + 8)).settle h.gid) := by
    unfold copyWord
    rw [hc]
    simp only [ha, copyFold, hF]
    rfl
  obtain ⟨af, hG⟩ := Group.goOn_alone (g := { h with paths := [q] }) (p := q) rfl (by rw [hlanes]; exact hne) (p.pc + 8)
  refine ⟨_, he.trans (congrArg _ (State.goTo_settle u h.gid p.pid (p.pc + 8) _ hu hn)),
    ⟨{ q with pc := p.pc + 8, part := [], after := af }, ?_, hlanes, rfl, by rw [hq]; exact hh, by rw [hq]; exact hw⟩, rfl⟩
  rw [State.group?_modGroup_same hu _ fun x => Group.goOn_gid x _ _, ← hpid, Option.map_some, hG]

/-- The one lane of a copy word has started its command and holds the path at the word. -/
theorem copyWord_holds {s u : State} {h : Group} {p : Path} {l : Nat} {g : Guard} {d a b c : XReg} {w : CopyWord} (hs : s.undivided h p)
    (ha : h.active p g = [l]) (hF : s.copyLane h.gid l d a b c w (p.part.contains l) = .wait u) : copyWord g d a b c w s = .next u := by
  obtain ⟨⟨hc, -⟩, -⟩ := hs
  unfold copyWord
  rw [hc]
  simp only [ha, copyFold, hF]
  rfl

/-- Settles O36. -/
theorem copyWordsStart : Obligations.CopyWordsStart := by
  intro g d a b c m op et ord s h p l x hs hl hgd Legal Cmd Holds
  have hg := hs.group
  have hp : h.paths = [p] := by obtain ⟨-, hp, -⟩ := hs; exact hp
  have ha : h.active p g = [l] := by
    unfold Group.active
    rw [hl]
    simp only [List.filter_cons, List.filter_nil]
    rw [if_pos hgd]
  refine ⟨fun hpart h0 hlen => ?_, fun hpart hr => ?_, fun hpart hlen hleg => ?_⟩
  · have hcont : p.part.contains l = false := by rw [hpart]; rfl
    have starts : ∀ w : CopyWord, Legal w.kind w.ordered → (w.kind = .get → s.rangeRoom (locOf s h l (x.rx d)) = true) →
        ∃ u, s.copyLane h.gid l d a b c w (p.part.contains l) = (if w.kind.goesOn then .done u else .wait u) ∧ Cmd u w.kind ∧
          u.group? h.gid = some { h with paths := [{ p with part := [l] }] } := fun w hleg hroom => by
      obtain ⟨u, hu, hgr, hmem, hcp⟩ := State.startCopy_first (g := h) (l := l) (mk := s.copyStart h l d a b c w) h0 hroom
      have hgu : u.group? h.gid = some h := by unfold State.group?; rw [hgr]; exact hg
      refine ⟨u.partDone h.gid l, by rw [hcont]; exact State.copyLane_starts hg hleg hlen hu, ⟨hmem, _, hcp, rfl, rfl, rfl, rfl, rfl, rfl, rfl, Bool.or_false _⟩, ?_⟩
      refine (State.group?_modGroup_same hgu (fun g => { g with
        paths := g.paths.map (fun p => if p.lanes.contains l then { p with part := l :: p.part } else p) }) fun _ => rfl).trans ?_
      simp [hp, hl, hpart]
    have goes : ∀ (i : Instr) (w : CopyWord), exec i s = copyWord g d a b c w s → w.kind.goesOn = true → Legal w.kind w.ordered →
        (w.kind = .get → s.rangeRoom (locOf s h l (x.rx d)) = true) → ∃ t, exec i s = .next t ∧ Cmd t w.kind ∧ GoesTo t h p (p.pc + 8) :=
      fun i w hi hk hleg hroom => by
        obtain ⟨u, hF, ⟨hmem, n, hn⟩, hgu⟩ := starts w hleg hroom
        rw [hk, if_pos rfl] at hF
        obtain ⟨t, e, hgo, ht⟩ := copyWord_goes hs ha hF hgu rfl
        exact ⟨t, hi.trans e, ⟨by rw [ht]; exact hmem, n, by rw [ht]; exact hn⟩, hgo⟩
    have holds : ∀ (i : Instr) (w : CopyWord), exec i s = copyWord g d a b c w s → w.kind.goesOn = false → Legal w.kind w.ordered → Holds i w.kind :=
      fun i w hi hk hleg => by
        obtain ⟨u, hF, hcmd, hgu⟩ := starts w hleg fun hget => by rw [hget] at hk; cases hk
        rw [hk] at hF
        exact ⟨u, { p with part := [l] }, hi.trans (copyWord_holds hs ha hF), hcmd, by rw [hgu]; rfl, rfl, rfl⟩
    exact ⟨fun hleg hroom => goes _ ⟨.get, .add, .f32, false, m⟩ (Eq.refl (execGet g d a b c m s)) rfl hleg fun _ => hroom,
      fun hleg => goes _ ⟨.put, .add, .f32, false, m⟩ (Eq.refl (execPut g d a b c m s)) rfl hleg nofun,
      holds _ ⟨.send, .add, .f32, false, m⟩ (Eq.refl (execSend g d a b c m s)) rfl,
      holds _ ⟨.senda, op, et, ord, m⟩ (Eq.refl (execSenda g d a b c op et ord m s)) rfl,
      holds _ ⟨.sendv, .add, .f32, false, m⟩ (Eq.refl (execSendv g d a b c m s)) rfl⟩
  · have again : ∀ (i : Instr) (w : CopyWord), exec i s = copyWord g d a b c w s → ∃ t, exec i s = .next t ∧ GoesTo t h p (p.pc + 8) :=
      fun i w hi => by
        obtain ⟨t, e, hgo, -⟩ := copyWord_goes (d := d) (a := a) (b := b) (c := c) (w := w) (q := p) hs ha
          (by rw [hpart, show [l].contains l = true by simp]; exact State.copyLane_again hg hr) (by rw [hg, ← hp]) rfl
        exact ⟨t, hi.trans e, hgo⟩
    exact ⟨again _ ⟨.send, .add, .f32, false, m⟩ (Eq.refl (execSend g d a b c m s)),
      again _ ⟨.senda, op, et, ord, m⟩ (Eq.refl (execSenda g d a b c op et ord m s)),
      again _ ⟨.sendv, .add, .f32, false, m⟩ (Eq.refl (execSendv g d a b c m s))⟩
  · obtain ⟨t, e, hgo, ht⟩ := copyWord_goes (w := ⟨.get, .add, .f32, false, m⟩) (q := p) hs ha
      (by rw [hpart]; exact State.copyLane_empty hg hleg hlen) (by rw [hg, ← hp]) rfl
    exact ⟨t, e, hgo, by rw [ht]⟩

end Sys2Proof.Machine
end


section
/-!
SETTLED. FUSE, SPLIT and REFUSE of an undivided form, and DIVQ.limit (O33).
-/

namespace Sys2Proof.Machine

open Sys2Proof

/-! Words that leave no path halted at them. -/

theorem not_halted_any {u : State} {gid pid : Nat} {g' : Group} {i : Instr} (hg : u.group? gid = some g')
    (hh : ∀ q ∈ g'.paths, q.halted ≠ some i) : ¬ (u.group? gid).any (fun g => (g.path? pid).any (fun p => p.halted == some i)) = true := by
  rw [hg, Option.any_some]
  intro hc
  cases hq : g'.path? pid with
  | none => rw [hq] at hc; cases hc
  | some q =>
    rw [hq, Option.any_some, beq_iff_eq] at hc
    exact hh q (List.mem_of_find?_eq_some hq) hc

/-- The path of an undivided group arrives at a form-wide word, and what is tried there leaves no path halted. -/
theorem State.arrive_undivided {s : State} {h : Group} {p : Path} (hs : s.undivided h p) (i : Instr) (k : State → State) :
    ∃ s0, GroupBecomes s s0 h.gid (h.haltsAt p i) ∧
      ∀ g', (k s0).group? h.gid = some g' → (∀ q ∈ g'.paths, q.halted ≠ some i) → s.arrive h.gid p.pid i k = k s0 := by
  obtain ⟨⟨hc, -⟩, hp, -⟩ := id hs
  have h0 := GroupBecomes.modGroup hs.group (fun g => g.modPath p.pid (fun p => { p with halted := some i })) fun _ => rfl
  have hH : h.modPath p.pid (fun p => { p with halted := some i }) = h.haltsAt p i := by
    unfold Group.haltsAt Group.withPaths
    rw [← Group.modPath_one h p hp (fun p => { p with halted := some i })]
    rfl
  rw [hH] at h0
  exact ⟨_, h0, fun g' hg hh => if_neg (not_halted_any hg hh)⟩

/-- A form-wide word of an undivided group whose effect leaves no path halted at it. -/
theorem formWord_leaves {s : State} {h : Group} {p : Path} (hs : s.undivided h p) (i : Instr) (f : Group → Path → State → State) :
    ∃ s0, GroupBecomes s s0 h.gid (h.haltsAt p i) ∧
      ∀ g', (f (h.haltsAt p i) { p with halted := some i } s0).group? h.gid = some g' → (∀ q ∈ g'.paths, q.halted ≠ some i) →
        formWord i f s = .next (f (h.haltsAt p i) { p with halted := some i } s0) := by
  obtain ⟨s0, h0, he⟩ := formWord_tries hs i f
  exact ⟨s0, h0, fun g' hg hh => (he _ rfl).trans (congrArg _ (if_neg (not_halted_any hg hh)))⟩

/-! Banking and the one form (13 R323). -/

/-- Banking has become form-shared: nothing of the group but that has changed, and no byte of memory. -/
theorem State.shareBanks_spec {s : State} {gid : Nat} {g : Group} (hg : s.group? gid = some g) (hgid : g.gid = gid) :
    (s.shareBanks g).group? gid = some { g with priv := false } ∧ (s.shareBanks g).mem.hbm = s.mem.hbm := by
  subst hgid
  unfold State.shareBanks
  cases hp : g.priv with
  | false =>
    have he : { g with priv := false } = g := congrArg (fun b => { g with priv := b }) hp.symm
    rw [he]
    exact ⟨hg, rfl⟩
  | true =>
    rw [if_pos rfl]
    exact ⟨State.group?_modGroup_same (s := s.flushBanks g) hg (fun g => { g with priv := false }) fun _ => rfl, MemSys.shrink_hbm_step ..⟩

/-- The path of the whole form. -/
def Group.formPath (g : Group) (n : Nat) (pc : Word) (joins : List Nat) : Path :=
  { Path.blank n with lanes := g.liveLanes, pc := pc, joins := joins, qset := n, since := n }

/-- A group as one quad set with one path. -/
def Group.asOneForm (g : Group) (n : Nat) (pc : Word) (joins : List Nat) : Group :=
  { g with
    paths := [g.formPath n pc joins], qsets := [⟨n, List.range ((g.size + 3) / 4), 0⟩], owedEntries := [],
    lanes := g.lanes.map (fun l => { l with reason := 0, owed := 0 }) }

theorem Group.lane_asOneForm (g : Group) {n : Nat} (pc : Word) (joins : List Nat) {i : Nat} (hi : i < g.size) :
    (g.asOneForm n pc joins).lane i = { g.lane i with reason := 0, owed := 0 } := by
  have hi' : i < g.lanes.length := hi
  simp [Group.lane, Group.asOneForm, List.getD_eq_getElem?_getD, hi']

theorem State.clearOwed_none {s : State} {gid : Nat} {g : Group} (hg : s.group? gid = some g) (ho : g.owedEntries = []) :
    s.clearOwed gid = s.modGroup gid (fun g => { g with owedEntries := [], lanes := g.lanes.map (fun l => { l with owed := 0 }) }) := by
  unfold State.clearOwed
  simp only [hg, ho, List.foldl_nil]

theorem State.oneForm_spec {s : State} {gid : Nat} {g : Group} (hg : s.group? gid = some g) (hn : g.noStack) (ho : g.owedEntries = [])
    (pc : Word) (joins : List Nat) :
    (s.oneForm gid pc joins).2.group? gid = some (g.asOneForm s.nextId pc joins) ∧ (s.oneForm gid pc joins).2.mem = s.mem := by
  have hf : g.paths.filter (·.stacked.isSome) = [] := List.filter_eq_nil_iff.mpr fun q hq => by rw [hn q hq]; decide
  unfold State.oneForm
  simp only [hg, hf, List.foldl_nil, State.clearOwed_none hg ho]
  have h1 : (s.modGroup gid (fun g => { g with owedEntries := [], lanes := g.lanes.map (fun l => { l with owed := 0 }) })).fresh.2.group? gid = some _ :=
    State.group?_modGroup_same hg (fun g => { g with owedEntries := [], lanes := g.lanes.map (fun l => { l with owed := 0 }) }) fun _ => rfl
  refine ⟨(State.group?_modGroup_same h1 (fun g' => { g' with
    paths := [g.formPath s.nextId pc joins], qsets := [⟨s.nextId, List.range ((g'.size + 3) / 4), 0⟩],
    lanes := g'.lanes.map (fun l => { l with reason := 0, owed := 0 }) }) fun _ => rfl).trans ?_, rfl⟩
  simp [Group.asOneForm, Group.formPath, Function.comp_def, State.fresh, State.modGroup, Group.size]

/-- The form settles as it has been made. -/
theorem State.oneForm_settle {s : State} {gid : Nat} {g : Group} (hg : s.group? gid = some g) (hn : g.noStack) (ho : g.owedEntries = [])
    (hl : g.liveLanes ≠ []) (pc : Word) (joins : List Nat) :
    ∃ a, ((s.oneForm gid pc joins).2.settle gid).group? gid =
        some ((g.asOneForm s.nextId pc joins).withPaths [{ g.formPath s.nextId pc joins with after := a }]) ∧
      ((s.oneForm gid pc joins).2.settle gid).mem = s.mem := by
  obtain ⟨h1, h2⟩ := State.oneForm_spec hg hn ho pc joins
  obtain ⟨a, h3⟩ := GroupBecomes.settle h1 rfl hl rfl
  exact ⟨a, h3.group, by rw [h3.rest]; exact h2⟩

/-! REFUSE (13 R325). -/

/-- Lanes that go on at one PC are one part. -/
theorem partsOf_one (pc : Word) {ls : List Nat} (h : ls ≠ []) : ∃ x, partsOf (ls.map (fun l => (l, pc))) = [x] := by
  have step : ∀ (r : List Nat) (x : Part), x.pc = pc → x.election = [] →
      ∃ y, (r.map (fun l => (l, pc))).foldl (fun ps x => addPart ps ⟨[x.1], x.2, []⟩) [x] = [y] := by
    intro r
    induction r with
    | nil => exact fun x _ _ => ⟨x, rfl⟩
    | cons a r ih =>
      intro x hx he
      have hadd : addPart [x] ⟨[a], pc, []⟩ = [{ x with lanes := sortNat (x.lanes ++ [a]) }] := by
        simp [addPart, hx, he, updWhere]
      rw [List.map_cons, List.foldl_cons, hadd]
      exact ih _ hx he
  cases ls with
  | nil => exact absurd rfl h
  | cons a r => exact step r ⟨[a], pc, []⟩ rfl rfl

/-- The lanes of a group take the result of the REFUSE that their paths in g are halted at. -/
def Group.refusedBy (g : Group) (v : Nat) (x : Group) : Group :=
  { x with lanes := (x.lanes.zipIdx).map (fun y =>
      match (g.pathOf? y.2).bind (·.refuseReg) with
      | some d => if y.1.exited then y.1 else y.1.wx d (BitVec.ofNat 64 v)
      | none => y.1) }

theorem Group.pathOf?_haltsAt {h : Group} {p : Path} (hl : p.lanes = h.liveLanes) (i : Instr) {j : Nat} (hj : j ∈ h.liveLanes) :
    (h.haltsAt p i).pathOf? j = some { p with halted := some i } := by
  have hmem : j ∈ p.lanes := by rw [hl]; exact hj
  simp [Group.pathOf?, Group.haltsAt, Group.withPaths, hmem]

theorem Group.lane_exited_zip {g g' : Group} {f : Lane × Nat → Lane} (h : g'.lanes = g.lanes.zipIdx.map f) (hf : ∀ x, (f x).exited = x.1.exited)
    (i : Nat) : (g'.lane i).exited = (g.lane i).exited := by
  unfold Group.lane
  rw [h]
  by_cases hi : i < g.lanes.length
  · simp [List.getD_eq_getElem?_getD, hi, hf]
  · simp [List.getD_eq_getElem?_getD, hi]

theorem Lane.wx_exited (l : Lane) (d : XReg) (v : Word) : (l.wx d v).exited = l.exited := by
  unfold Lane.wx; split_ifs <;> rfl

theorem Group.refusedBy_live {h x : Group} {p : Path} (hl : p.lanes = h.liveLanes) (d : XReg) (v : Nat) (hx : x.lanes = h.lanes) :
    ((h.haltsAt p (.refuse d)).refusedBy v x).liveLanes = h.liveLanes ∧
    ∀ j ∈ h.liveLanes, ((h.haltsAt p (.refuse d)).refusedBy v x).lane j = (h.lane j).wx d (BitVec.ofNat 64 v) := by
  have hex : ∀ j, (((h.haltsAt p (.refuse d)).refusedBy v x).lane j).exited = (h.lane j).exited := fun j => by
    refine (Group.lane_exited_zip (g := x) rfl (fun y => ?_) j).trans (by unfold Group.lane; rw [hx])
    split
    · split
      · rfl
      · exact Lane.wx_exited _ _ _
    · rfl
  have hsz : ((h.haltsAt p (.refuse d)).refusedBy v x).size = h.size := by simp [Group.size, Group.refusedBy, hx]
  refine ⟨by unfold Group.liveLanes; rw [hsz]; simp only [hex], fun j hj => ?_⟩
  obtain ⟨hlt, hlive⟩ := List.mem_filter.mp hj
  have hlt : j < h.lanes.length := List.mem_range.mp hlt
  have hlive : (h.lane j).exited = false := by simpa using hlive
  have hp := Group.pathOf?_haltsAt hl (.refuse d) hj
  simp only [Group.lane, List.getD_eq_getElem?_getD, List.getElem?_eq_getElem hlt, Option.getD_some] at hlive
  simp [Group.lane, Group.refusedBy, hx, List.getD_eq_getElem?_getD, hlt, hp, Path.refuseReg, hlive]

/-- REFUSE of an undivided form: every lane stands at one PC. -/
theorem State.refuseTry_eq {s : State} {h : Group} {p : Path} {d : XReg} (hg : s.group? h.gid = some (h.haltsAt p (.refuse d)))
    (hl : p.lanes = h.liveLanes) (hne : h.liveLanes ≠ []) : s.refuseTry h.gid =
      if h.size = 1 then (s.refuseResult (h.haltsAt p (.refuse d)) 0).releaseForm h.gid
      else (((s.shareBanks (h.haltsAt p (.refuse d))).refuseResult (h.haltsAt p (.refuse d)) 0).oneForm h.gid (p.pc + 8) p.joins).2.settle h.gid := by
  have hpath : ∀ j ∈ (h.haltsAt p (.refuse d)).liveLanes, (h.haltsAt p (.refuse d)).pathOf? j = some { p with halted := some (.refuse d) } :=
    fun j hj => Group.pathOf?_haltsAt hl (.refuse d) hj
  have hread : (h.haltsAt p (.refuse d)).reader ∈ (h.haltsAt p (.refuse d)).liveLanes := by
    unfold Group.reader
    generalize (h.haltsAt p (.refuse d)).liveLanes = ls, (show (h.haltsAt p (.refuse d)).liveLanes ≠ [] from hne) = hls
    cases ls with
    | nil => exact absurd rfl hls
    | cons a r => exact List.mem_cons_self ..
  obtain ⟨x, hx⟩ := partsOf_one (p.pc + 8) (show (h.haltsAt p (.refuse d)).liveLanes ≠ [] from hne)
  have hparts : (h.haltsAt p (.refuse d)).liveLanes.map (fun l => (l, (((h.haltsAt p (.refuse d)).pathOf? l).map (·.pc)).getD 0 + 8)) =
      (h.haltsAt p (.refuse d)).liveLanes.map (fun l => (l, p.pc + 8)) := List.map_congr_left fun j hj => by rw [hpath j hj]; rfl
  unfold State.refuseTry
  simp only [hg]
  rw [if_neg (by simpa using fun j hj => by rw [hpath j hj]; exact ⟨_, rfl, nofun⟩)]
  refine if_congr Iff.rfl rfl ?_
  simp only [hparts, hx, hpath _ hread, Option.map_some, Option.getD_some]

/-! SPLIT (13 R319, R324). -/

theorem State.readEntries_none {s : State} {gid : Nat} {g : Group} (hg : s.group? gid = some g) (hn : g.noStack) : s.readEntries gid = s := by
  have hf : g.paths.filter (fun p => p.stacked.isSome) = [] := List.filter_eq_nil_iff.mpr fun q hq => by rw [hn q hq]; decide
  unfold State.readEntries
  simp only [hg, hf, List.foldl_nil]

/-- Each of the paths stands for one lane of a path, where the path stands. -/
def SplitFrom (q : Path) (ps : List Path) : Prop :=
  (∀ r ∈ ps, ∃ j ∈ q.lanes, r.lanes = [j] ∧ r.pc = q.pc) ∧ ∀ j ∈ q.lanes, ∃ r ∈ ps, r.lanes = [j]

theorem SplitFrom.pathOf? {q : Path} {g : Group} (h : SplitFrom q g.paths) {j : Nat} (hj : j ∈ q.lanes) :
    ∃ r, g.pathOf? j = some r ∧ r ∈ g.paths ∧ r.lanes = [j] ∧ r.pc = q.pc := by
  obtain ⟨r0, hr0, hl0⟩ := h.2 j hj
  cases hr : g.pathOf? j with
  | none =>
    have := List.find?_eq_none.mp hr r0 hr0
    simp [hl0] at this
  | some r =>
    have hmem := List.mem_of_find?_eq_some hr
    have hin : r.lanes.contains j = true := by simpa using List.find?_some hr
    obtain ⟨k, -, hk, hpc⟩ := h.1 r hmem
    rw [hk] at hin
    have : j = k := by simpa using hin
    exact ⟨r, rfl, hmem, by rw [hk, this], hpc⟩

theorem SplitFrom.map {q : Path} {ps : List Path} (h : SplitFrom q ps) {q' : Path} {f : Path → Path} (hl : ∀ r, (f r).lanes = r.lanes)
    (hq : q'.lanes = q.lanes) (hpc : ∀ r, r.pc = q.pc → (f r).pc = q'.pc) : SplitFrom q' (ps.map f) := by
  refine ⟨fun r hr => ?_, fun j hj => ?_⟩
  · obtain ⟨r0, h0, rfl⟩ := List.mem_map.mp hr
    obtain ⟨j, hj, hlj, hp⟩ := h.1 r0 h0
    exact ⟨j, by rw [hq]; exact hj, by rw [hl, hlj], hpc r0 hp⟩
  · obtain ⟨r0, h0, hlj⟩ := h.2 j (by rw [← hq]; exact hj)
    exact ⟨f r0, List.mem_map.mpr ⟨r0, h0, rfl⟩, by rw [hl, hlj]⟩

theorem SplitFrom.zipMap {q : Path} {ps : List Path} {f : Path × Nat → Path} (hf : ∀ x, (f x).lanes = x.1.lanes ∧ (f x).pc = x.1.pc)
    (h : SplitFrom q ps) : SplitFrom q (ps.zipIdx.map f) := by
  refine ⟨fun r hr => ?_, fun j hj => ?_⟩
  · obtain ⟨x, hx, rfl⟩ := List.mem_map.mp hr
    obtain ⟨j, hj, hl, hp⟩ := h.1 x.1 (List.fst_mem_of_mem_zipIdx hx)
    exact ⟨j, hj, (hf x).1.trans hl, (hf x).2.trans hp⟩
  · obtain ⟨r, hr, hl⟩ := h.2 j hj
    obtain ⟨n, hn, he⟩ := List.getElem_of_mem hr
    have hx : (r, n) ∈ ps.zipIdx := List.mk_mem_zipIdx_iff_getElem?.mpr (by rw [List.getElem?_eq_getElem hn, he])
    exact ⟨f (r, n), List.mem_map.mpr ⟨_, hx, rfl⟩, (hf (r, n)).1.trans hl⟩

/-- The paths of the single lanes of a path. -/
theorem splitFrom_solos (q : Path) (pid : Nat → Nat) :
    SplitFrom q ((q.lanes.zipIdx).map (fun x => soloPath (pid x.2) q x.1 q.pc)) := by
  refine ⟨fun r hr => ?_, fun j hj => ?_⟩
  · obtain ⟨x, hx, rfl⟩ := List.mem_map.mp hr
    exact ⟨x.1, List.fst_mem_of_mem_zipIdx hx, rfl, rfl⟩
  · obtain ⟨n, hn, he⟩ := List.getElem_of_mem hj
    have hx : (j, n) ∈ q.lanes.zipIdx := List.mk_mem_zipIdx_iff_getElem?.mpr (by rw [List.getElem?_eq_getElem hn, he])
    exact ⟨_, List.mem_map.mpr ⟨_, hx, rfl⟩, rfl⟩

/-- A full split of an undivided group: one path for each lane. -/
theorem State.fullSplit_one {s : State} {gid : Nat} {g : Group} {q : Path} (hg : s.group? gid = some g) (hp : g.paths = [q])
    (hs : q.stacked = none) (ha : q.alone = false) (hw : q.waiting = false) (hz : g.size ≠ 1) :
    ∃ g', (s.fullSplit gid).group? gid = some g' ∧ SplitFrom q g'.paths ∧ g'.priv = g.priv ∧ g'.size = g.size ∧
      ∀ i, (g'.lane i).exited = (g.lane i).exited := by
  have hn : g.noStack := fun r hr => by rw [hp] at hr; rw [List.mem_singleton.mp hr]; exact hs
  unfold State.fullSplit
  rw [State.readEntries_none hg hn]
  simp only [hg, if_neg hz]
  refine ⟨_, State.group?_modGroup_same hg _ fun _ => rfl, ?_, rfl, ?_, fun i => ?_⟩
  · dsimp only
    rw [hp]
    simp only [List.flatMap_cons, List.flatMap_nil, List.append_nil, ha, Bool.false_eq_true, if_false]
    refine SplitFrom.zipMap (fun x => by split <;> exact ⟨rfl, rfl⟩) ?_
    refine (congrArg (SplitFrom q) ?_).mpr (splitFrom_solos q (fun n => s.nextId + 64 * q.pid + n))
    rw [List.map_map]
    exact List.map_congr_left fun x _ => by simp [soloPath, hw]
  · simp [Group.size]
  · exact Group.lane_exited_zip (f := _) rfl (fun x => by
      split
      · rfl
      · split <;> rfl) i

/-- Every path of a full split goes on alone after the word at which it stood, for reason 1 (13 R324). -/
theorem State.splitOn_one {s : State} {gid : Nat} {g : Group} {q : Path} (hg : s.group? gid = some g) (hp : g.paths = [q])
    (hs : q.stacked = none) (ha : q.alone = false) (hw : q.waiting = false) (hz : g.size ≠ 1) :
    ∃ g', (s.splitOn gid 1 true).group? gid = some g' ∧ (∀ r ∈ g'.paths, r.halted = none) ∧ g'.priv = g.priv ∧
      ∀ j ∈ g.liveLanes, (g'.lane j).reason = 1 ∧ (j ∈ q.lanes → ∃ r, g'.pathOf? j = some r ∧ r.lanes = [j] ∧ r.pc = q.pc + 8) := by
  obtain ⟨g1, hg1, hsp, hpr, hsz, hex⟩ := State.fullSplit_one hg hp hs ha hw hz
  unfold State.splitOn
  refine ⟨_, State.group?_modGroup_same hg1 _ fun _ => rfl, fun r hr => ?_, hpr, fun j hj => ⟨?_, fun hq => ?_⟩⟩
  · obtain ⟨r0, -, rfl⟩ := List.mem_map.mp hr
    rfl
  · obtain ⟨hlt, hlive⟩ := List.mem_filter.mp hj
    have hlt : j < g1.lanes.length := by
      have : j < g.size := List.mem_range.mp hlt
      rw [← hsz] at this
      exact this
    have hlive : (g1.lane j).exited = false := by rw [hex]; simpa using hlive
    simp only [Group.lane, List.getD_eq_getElem?_getD, List.getElem?_eq_getElem hlt, Option.getD_some] at hlive
    simp [Group.lane, List.getD_eq_getElem?_getD, hlt, hlive]
  · have hmap : SplitFrom { q with pc := q.pc + 8 } (g1.paths.map (fun p => { p with pc := p.pc + 8, halted := none })) :=
      hsp.map (fun _ => rfl) rfl fun r hr => by rw [hr]
    obtain ⟨r, k1, -, k2, k3⟩ := SplitFrom.pathOf? (g := { g1 with paths := g1.paths.map (fun p => { p with pc := p.pc + 8, halted := none }) }) hmap hq
    exact ⟨r, k1, k2, k3⟩

/-! The words. -/

/-- FUSE and SPLIT of a form of one pipeline go on. -/
theorem formWord_alone {s : State} {h : Group} {p : Path} (hs : s.undivided h p) {i : Instr} {f : Group → Path → State → State}
    (hf : ∀ s0, f (h.haltsAt p i) { p with halted := some i } s0 = s0.releaseForm h.gid) :
    ∃ t, formWord i f s = .next t ∧ GoesTo t h p (p.pc + 8) ∧ SameLanes s t := by
  obtain ⟨-, -, -, -, -, -, -, -, ho⟩ := id hs
  obtain ⟨t, a, e, ht⟩ := formWord_releases (f := f) hs (g := h.haltsAt p i) rfl ho fun s0 h0 => ⟨s0, .refl h0.group, hf s0⟩
  refine ⟨t, e, ht.goesTo hs, fun n j => ?_⟩
  by_cases hn : n = h.gid
  · subst hn
    rw [State.lane_of_group? ht.group, State.lane_of_group? hs.group]
    rfl
  · unfold State.lane
    rw [ht.others n hn]

/-- FUSE of a form of several pipelines. -/
theorem fuse_unites {s : State} {h : Group} {p : Path} (hs : s.undivided h p) (hz : 1 < h.size) :
    ∃ t h' q, exec .fuse s = .next t ∧ t.group? h.gid = some h' ∧ h'.paths = [q] ∧ q.lanes = h.liveLanes ∧ q.pc = p.pc + 8 ∧
      h'.priv = false ∧ h'.qsets.map (·.quads) = [List.range ((h.size + 3) / 4)] ∧ t.mem.hbm = s.mem.hbm ∧
      ∀ i, i < h.size → (h'.lane i).reason = 0 ∧ SameRegs (h.lane i) (h'.lane i) := by
  obtain ⟨-, -, hl, hne, -, -, -, -, ho⟩ := id hs
  have hst := hs.stacked
  obtain ⟨s0, h0, hword⟩ := formWord_leaves hs .fuse fuseEff
  obtain ⟨k1, k2⟩ := State.shareBanks_spec h0.group rfl
  have hn : ({ h.haltsAt p .fuse with priv := false } : Group).noStack := fun r hr => by
    rw [List.mem_singleton.mp hr]; exact hst
  obtain ⟨a, k3, k4⟩ := State.oneForm_settle (g := { h.haltsAt p .fuse with priv := false }) k1 hn ho (by rw [hl] at hne; exact hne) (p.pc + 8)
    ((((h.haltsAt p .fuse).pathOf? (h.haltsAt p .fuse).reader).map (·.joins)).getD p.joins)
  have heff : fuseEff (h.haltsAt p .fuse) { p with halted := some .fuse } s0 = _ := if_neg (show ¬ h.size = 1 by omega)
  rw [heff] at hword
  refine ⟨_, _, _, hword _ k3 ?_, k3, rfl, rfl, rfl, rfl, rfl, k4 ▸ (k2.trans (by rw [h0.rest])), fun i hi => ?_⟩
  · intro q hq
    rw [List.mem_singleton.mp hq]
    simp [Group.formPath, Path.blank]
  · have hi' : i < h.lanes.length := hi
    simp [Group.lane, Group.withPaths, Group.asOneForm, Group.haltsAt, List.getD_eq_getElem?_getD, hi', SameRegs]

/-- SPLIT of a form that has not split. -/
theorem split_divides {s : State} {h : Group} {p : Path} (hs : s.undivided h p) (hz : 1 < h.size) (ha : p.alone = false)
    (hr : ∃ i ∈ h.liveLanes, (h.lane i).reason ≠ 1) :
    ∃ t h', exec .split s = .next t ∧ t.group? h.gid = some h' ∧ h'.priv = true ∧
      ∀ i ∈ h.liveLanes, (h'.lane i).reason = 1 ∧ ∃ q, h'.pathOf? i = some q ∧ q.lanes = [i] ∧ q.pc = p.pc + 8 := by
  obtain ⟨-, -, hl, -, -, -, -, hw, -⟩ := id hs
  have hst := hs.stacked
  obtain ⟨s0, h0, hword⟩ := formWord_leaves hs .split splitEff
  have k1 : ((s0.flushBanks (h.haltsAt p .split)).modGroup h.gid (fun g => { g with priv := true })).group? h.gid =
      some { h.haltsAt p .split with priv := true } :=
    State.group?_modGroup_same (s := s0.flushBanks (h.haltsAt p .split)) h0.group (fun g => { g with priv := true }) fun _ => rfl
  obtain ⟨g', k2, k3, k4, k5⟩ := State.splitOn_one (g := { h.haltsAt p .split with priv := true }) (q := { p with halted := some .split }) k1 rfl hst ha hw
    (show h.size ≠ 1 by omega)
  have heff : splitEff (h.haltsAt p .split) { p with halted := some .split } s0 = _ := if_neg (by
    obtain ⟨i, hi, hr⟩ := hr
    simp only [Bool.or_eq_true, decide_eq_true_eq, List.all_eq_true, beq_iff_eq, not_or]
    exact ⟨show h.size ≠ 1 by omega, fun hc => hr (hc i hi)⟩)
  rw [heff] at hword
  exact ⟨_, g', hword g' k2 (fun q hq => by rw [k3 q hq]; exact nofun), k2, k4, fun i hi => ⟨(k5 i hi).1, (k5 i hi).2 (by rw [hl]; exact hi)⟩⟩

/-- REFUSE of an undivided form: the form stands again, with result 0. -/
theorem refuse_unites {s : State} {h : Group} {p : Path} (hs : s.undivided h p) (d : XReg) :
    (h.size = 1 → ∃ t, exec (.refuse d) s = .next t ∧ GoesTo t h p (p.pc + 8) ∧ ∀ i ∈ h.liveLanes, d ≠ 0 → (t.lane h.gid i).rx d = 0) ∧
    (1 < h.size → ∃ t h' q, exec (.refuse d) s = .next t ∧ t.group? h.gid = some h' ∧ h'.paths = [q] ∧ q.lanes = h.liveLanes ∧
      q.pc = p.pc + 8 ∧ h'.priv = false ∧ ∀ i ∈ h.liveLanes, d ≠ 0 → (h'.lane i).rx d = 0) := by
  obtain ⟨⟨hc, -⟩, -, hl, hne, -, -, -, hw, ho⟩ := id hs
  have hst := hs.stacked
  rw [hl] at hne
  obtain ⟨s0, h0, harr⟩ := State.arrive_undivided hs (.refuse d) (fun s => s.refuseTry h.gid)
  have hexec : exec (.refuse d) s = .next (s.arrive h.gid p.pid (.refuse d) (fun s => s.refuseTry h.gid)) := by
    show execRefuse d s = _
    unfold execRefuse
    rw [hc]
  rw [State.refuseTry_eq h0.group hl hne] at harr
  refine ⟨fun hz => ?_, fun hz => ?_⟩
  · rw [if_pos hz] at harr
    have k1 := State.group?_modGroup_same h0.group ((h.haltsAt p (.refuse d)).refusedBy 0) fun _ => rfl
    obtain ⟨a, k2⟩ := hs.release (i := .refuse d) k1 rfl ho
    obtain ⟨-, hlane⟩ := Group.refusedBy_live (x := h.haltsAt p (.refuse d)) hl d 0 rfl
    refine ⟨_, hexec.trans (congrArg _ (harr _ k2.group (by simp [Group.withPaths]))),
      ⟨{ p with pc := p.pc + 8, halted := none, after := a }, congrArg (Option.map (·.paths)) k2.group, rfl, rfl, rfl, hw⟩, fun i hi hd => ?_⟩
    refine (congrArg (fun x : Lane => x.rx d) ((State.lane_of_group? k2.group i).trans (hlane i hi))).trans ?_
    exact Lane.rx_wx_same _ _ _ hd
  · rw [if_neg (by omega)] at harr
    obtain ⟨k1, -⟩ := State.shareBanks_spec h0.group rfl
    have k2 := State.group?_modGroup_same k1 ((h.haltsAt p (.refuse d)).refusedBy 0) fun _ => rfl
    obtain ⟨hlive, hlane⟩ := Group.refusedBy_live (x := { h.haltsAt p (.refuse d) with priv := false }) hl d 0 rfl
    obtain ⟨a, k3, -⟩ := State.oneForm_settle k2 (fun r hr => by rw [List.mem_singleton.mp hr]; exact hst) ho (by rw [hlive]; exact hne) (p.pc + 8) p.joins
    refine ⟨_, _, _, hexec.trans (congrArg _ (harr _ k3 ?_)), k3, rfl, hlive, rfl, rfl, fun i hi hd => ?_⟩
    · intro q hq
      rw [List.mem_singleton.mp hq]
      simp [Group.formPath, Path.blank]
    · have hlt : i < h.size := List.mem_range.mp (List.mem_filter.mp hi).1
      have hz' : i < ((h.haltsAt p (.refuse d)).refusedBy 0 { h.haltsAt p (.refuse d) with priv := false }).size := by
        simpa [Group.size, Group.refusedBy, Group.haltsAt, Group.withPaths] using hlt
      refine (congrArg (fun x : Lane => x.rx d) ((Group.lane_asOneForm _ (n := 0) 0 [] hz').trans
        (congrArg (fun x : Lane => { x with reason := 0, owed := 0 }) (hlane i hi)))).trans ?_
      exact Lane.rx_wx_same (h.lane i) d _ hd

/-! DIVQ.limit (13 R326). -/

theorem State.current_modGroup {s : State} {h : Group} {p : Path} (hc : s.current = some (h, p)) {f : Group → Group}
    (hf : ∀ x, (f x).gid = x.gid ∧ (f x).paths = x.paths) : (s.modGroup h.gid f).current = some (f h, p) := by
  obtain ⟨h1, h2, h3, -⟩ := State.current_some hc
  have hg : (s.modGroup h.gid f).group? s.curG = some (f h) := by
    rw [← h3]; exact State.group?_modGroup_same (by rw [h3]; exact h1) f fun x => (hf x).1
  unfold State.current
  rw [show (s.modGroup h.gid f).group? (s.modGroup h.gid f).curG = some (f h) from hg]
  dsimp only
  rw [show (f h).path? (s.modGroup h.gid f).curP = some p from by unfold Group.path?; rw [(hf h).2]; exact h2]

/-- The answer of DIVQ.limit. -/
def Group.limitAnswer (h : Group) (a : XReg) (l : Nat) : Word :=
  if limitOk ((h.lane l).rx a) then BitVec.ofNat 64 (h.dlim + 65536 * h.ovf.toNat) else -1

/-- The limits that a good word sets. -/
def Group.limitedBy (w : Word) (x : Group) : Group := { x with dlim := bitsAt w 0 13, ovf := bitsAt w 16 1 == 1 }

theorem execDivqLimit_one {s : State} {h : Group} {p : Path} {l : Nat} {g : Guard} {d a : XReg} (hr : s.runsOne h p g l) :
    execDivqLimit g d a s = groupRead g d (fun _ l => h.limitAnswer a l)
      (if limitOk ((h.lane l).rx a) then s.modGroup h.gid (Group.limitedBy ((h.lane l).rx a)) else s) := by
  obtain ⟨⟨hc, -⟩, ha, -⟩ := hr
  unfold execDivqLimit
  rw [hc]
  dsimp only
  rw [ha]
  cases hk : limitOk ((h.lane l).rx a) with
  | true => simp only [List.filter_cons, hk, if_true, List.filter_nil, List.getLast?_singleton]; rfl
  | false => simp only [List.filter_cons, hk, Bool.false_eq_true, if_false, List.filter_nil, List.getLast?_nil]; rfl

/-- Settles O33. -/
theorem formsDivideAndUnite : Obligations.FormsDivideAndUnite := by
  intro g d a s h p l
  refine ⟨fun hs hz => ⟨formWord_alone hs fun s0 => if_pos hz, formWord_alone hs fun s0 => if_pos (by simp [show (h.haltsAt p .split).size = 1 from hz]), (refuse_unites hs d).1 hz⟩,
    fun hs hz => ⟨fuse_unites hs hz, (refuse_unites hs d).2 hz⟩, fun hs hz ha hr => split_divides hs hz ha hr, fun hr h1 h2 h3 => ?_, fun hr hb => ?_⟩
  · have hk : limitOk ((h.lane l).rx a) = true := by simp [limitOk, h1, h2, h3]
    have hcur := State.current_modGroup hr.1.1 (f := Group.limitedBy ((h.lane l).rx a)) fun _ => ⟨rfl, rfl⟩
    obtain ⟨t, h', e, k1, ⟨k2, k3⟩, -, k4, -⟩ := groupRead_readsBy g d (fun _ _ l => h.limitAnswer a l)
      (s.modGroup h.gid (Group.limitedBy ((h.lane l).rx a))) (h.limitedBy ((h.lane l).rx a)) p ⟨hcur, hr.1.2⟩
    refine ⟨t, h', ?_, k1, ⟨by rw [k2]; rfl, k3⟩, by rw [k2]; rfl, by rw [k2]; rfl, ?_⟩
    · refine (execDivqLimit_one hr).trans ?_
      rw [hk, if_pos rfl]
      exact e
    · refine (k4 l hr.2.2).trans ((if_pos (by rw [show (h.limitedBy ((h.lane l).rx a)).active p g = [l] from hr.2.1]; simp)).trans ?_)
      exact congrArg ((h.lane l).wx d) (if_pos hk)
  · have hk : limitOk ((h.lane l).rx a) = false := by
      unfold limitOk
      rcases hb with h | h | h
      · simp; omega
      · simp [h]
      · simp [h]
    obtain ⟨t, h', e, k1, k2, -, k4, -⟩ := groupRead_readsBy g d (fun _ _ l => h.limitAnswer a l) s h p hr.1
    refine ⟨t, h', ?_, k1, k2, ?_⟩
    · refine (execDivqLimit_one hr).trans ?_
      rw [hk, if_neg (by decide)]
      exact e
    · refine (k4 l hr.2.2).trans ((if_pos (by rw [hr.2.1]; simp)).trans ?_)
      exact congrArg ((h.lane l).wx d) (if_neg (by rw [hk]; decide))

end Sys2Proof.Machine
end


section
/-!
FACTS. Cross-lane words of an undivided group (06 R153, R154): its lanes have all arrived, and the word is executed at once.
-/

namespace Sys2Proof.Machine

open Sys2Proof

/-! Lists of lanes, ascending. -/

theorem insertBy_last {x : Nat} {acc : List Nat} (h : ∀ a ∈ acc, a ≤ x) : insertBy id x acc = acc ++ [x] := by
  induction acc with
  | nil => rfl
  | cons a r ih =>
    have ha : a ≤ x := h a (List.mem_cons_self ..)
    rw [insertBy, if_neg (by show ¬ x < a; omega), ih fun b hb => h b (List.mem_cons_of_mem _ hb)]
    rfl

/-- A list that ascends is its own order. -/
theorem sortNat_of_sorted {l : List Nat} (h : l.Pairwise (· < ·)) : sortNat l = l := by
  have key : ∀ (r acc : List Nat), (acc ++ r).Pairwise (· < ·) → r.foldl (fun acc x => insertBy id x acc) acc = acc ++ r := by
    intro r
    induction r with
    | nil => intro acc _; simp
    | cons a r ih =>
      intro acc hs
      have hlast : ∀ b ∈ acc, b ≤ a := fun b hb => Nat.le_of_lt ((List.pairwise_append.mp hs).2.2 b hb a (List.mem_cons_self ..))
      rw [List.foldl_cons, insertBy_last hlast, ih (acc ++ [a]) (by simpa using hs)]
      simp
  exact key l [] (by simpa using h)

theorem Group.liveLanes_sorted (g : Group) : g.liveLanes.Pairwise (· < ·) := List.Pairwise.filter _ List.pairwise_lt_range

theorem State.undivided.active_sorted {s : State} {h : Group} {p : Path} (hs : s.undivided h p) (gd : Guard) :
    (h.active p gd).Pairwise (· < ·) := by
  obtain ⟨-, -, hl, -⟩ := hs
  unfold Group.active
  rw [hl]
  exact h.liveLanes_sorted.filter _

theorem State.undivided.active_lt {s : State} {h : Group} {p : Path} (hs : s.undivided h p) {gd : Guard} {l : Nat} (ha : l ∈ h.active p gd) :
    l < h.size := by
  obtain ⟨-, -, hl, -⟩ := hs
  have hmem := (List.mem_filter.mp ha).1
  rw [hl] at hmem
  exact List.mem_range.mp (List.mem_filter.mp hmem).1

/-! What an undivided group waits for at a cross-lane word: nothing. -/

/-- The mask in force where every active lane names one. -/
theorem Group.maskIn_one {g : Group} {q : Path} {gd : Guard} {c : XReg} {M : Nat} (hs : (g.active q gd).Pairwise (· < ·))
    (hne : g.active q gd ≠ []) (hM : ∀ l ∈ g.active q gd, (g.lane l).memberMask g.size c = M) :
    g.maskIn gd c [q] = M ∧ g.activeOf gd [q] = g.active q gd := by
  have ha : g.activeOf gd [q] = g.active q gd := by
    unfold Group.activeOf
    simp only [List.flatMap_cons, List.flatMap_nil, List.append_nil]
    exact sortNat_of_sorted hs
  refine ⟨?_, ha⟩
  unfold Group.maskIn
  rw [ha]
  cases hl : g.active q gd with
  | nil => exact absurd hl hne
  | cons l r => exact hM l (by rw [hl]; exact List.mem_cons_self ..)

/-- An undivided group halted at a cross-lane word is ready for it. -/
theorem Group.crossReady_one {g : Group} {q : Path} {i : Instr} {gd : Guard} {c : XReg} {M : Nat} (hp : g.paths = [q])
    (hl : q.lanes = g.liveLanes) (hh : q.halted = some i) (hs : (g.active q gd).Pairwise (· < ·)) (hne : g.active q gd ≠ [])
    (hM : ∀ l ∈ g.active q gd, (g.lane l).memberMask g.size c = M) : g.crossReady q i gd c = some (M, [q.pid], g.active q gd) := by
  obtain ⟨h1, h2⟩ := Group.maskIn_one hs hne hM
  unfold Group.crossReady
  rw [if_neg (by simp [hne])]
  by_cases hsolo : g.solo q = true
  · rw [if_pos hsolo, h1]
  · have hat : (g.haltedAt q.pc i).filter (fun r => r.pid == q.pid || !g.solo r) = [q] := by
      unfold Group.haltedAt
      simp [hp, hh]
    have hga : g.gather gd c [q] [q].length [q] = [q] := by
      show g.gather gd c [q] 1 [q] = [q]
      unfold Group.gather Group.gather
      simp
    rw [if_neg hsolo]
    simp only [hat, hga, h1, h2]
    refine if_pos (List.all_eq_true.mpr fun l hm => ?_)
    have hlt : l < g.size := List.mem_range.mp (List.mem_filter.mp hm).1
    cases hx : (g.lane l).exited with
    | true => rfl
    | false =>
      have : l ∈ q.lanes := by rw [hl]; exact List.mem_filter.mpr ⟨List.mem_range.mpr hlt, by rw [hx]; rfl⟩
      simp [this]

/-- The executing lanes of a cross-lane word and its mask (06 R152, R153). -/
structure Executing (h : Group) (act : List Nat) (M : Nat) : Prop where
  ne : act ≠ []
  named : ∀ l ∈ act, inMask M l = true
  lt : ∀ l ∈ act, l < h.size
  sorted : act.Pairwise (· < ·)

/-- The lanes after a cross-lane word of one path (06 R154, R164). -/
def Group.crossed (g : Group) (q : Path) (act : List Nat) (M : Nat) (e : CrossEff) : Group :=
  let k7 := e.k7 || (namedLanes g.size M).any (fun l => !act.contains l)
  let one (n : Nat) (x : Lane) : Lane :=
    let y := if k7 then x.wk 7 true else x
    { (e.upd n y).setFlags (e.fl n) with crossAt := none, crossOwed := none }
  let away (n : Nat) (x : Lane) : Lane :=
    if !g.solo q && x.counted q.pc [q.pid] (inMask M n) then { x with crossAt := none } else x
  { g with lanes := (g.lanes.zipIdx).map (fun x => if act.contains x.2 then one x.2 x.1 else away x.2 x.1) }

theorem Group.lane_crossed (g : Group) (q : Path) (act : List Nat) (M : Nat) (e : CrossEff) {l : Nat} (hl : l < g.size) :
    (g.crossed q act M e).lane l = if act.contains l then
      { (e.upd l (if e.k7 || (List.range g.size).any (fun n => inMask M n && !act.contains n) then (g.lane l).wk 7 true else g.lane l)).setFlags (e.fl l) with
        crossAt := none, crossOwed := none }
      else if !g.solo q && (g.lane l).counted q.pc [q.pid] (inMask M l) then { g.lane l with crossAt := none } else g.lane l := by
  have hl' : l < g.lanes.length := hl
  have hk : (namedLanes g.size M).any (fun l => !act.contains l) = (List.range g.size).any (fun n => inMask M n && !act.contains n) := by
    unfold namedLanes
    rw [List.any_filter]
  unfold Group.crossed
  rw [hk]
  simp [Group.lane, List.getD_eq_getElem?_getD, hl']

/-- The word of a path that is ready for it, with no other path at the word. -/
theorem State.crossArrive_one {s : State} {gid : Nat} {g : Group} {q : Path} {i : Instr} {gd : Guard} {c : XReg} {M : Nat} {act : List Nat}
    (hg : s.group? gid = some (g.haltsAt q i)) (hcr : (g.haltsAt q i).crossReady { q with halted := some i } i gd c = some (M, [q.pid], act))
    (hne : act ≠ []) (f : CrossFn) :
    ∃ u : State, s.crossArrive gid q.pid i gd c f = u.releaseForm gid ∧
      u.group? gid = some ((g.haltsAt q i).crossed { q with halted := some i } act M (f (g.haltsAt q i) act M)) ∧
      (∀ n, n ≠ gid → u.group? n = s.group? n) ∧ u = { s with groups := u.groups, ctxs := u.ctxs } := by
  have hpath : (g.haltsAt q i).path? q.pid = some { q with halted := some i } := by
    simp [Group.path?, Group.haltsAt, Group.withPaths]
  have hoth : ((g.haltsAt q i).haltedAt q.pc i).filter (fun r => r.pid != q.pid) = [] := by
    simp [Group.haltedAt, Group.haltsAt, Group.withPaths]
  let G := g.haltsAt q i
  let e := f G act M
  let F (r : Group) : Group := { r with lanes := (r.lanes.zipIdx).map (fun (x : Lane × Nat) => if act.contains x.2 then
      { (e.upd x.2 (if e.k7 || (namedLanes G.size M).any (fun l => !act.contains l) then x.1.wk 7 true else x.1)).setFlags (e.fl x.2) with
        crossAt := none, crossOwed := none }
    else if act.isEmpty then (if q.lanes.contains x.2 && decide (q.lanes.length < G.liveLanes.length) then { x.1 with crossAt := some (q.pc, 0) } else x.1)
    else if !G.solo q && x.1.counted q.pc [q.pid] (inMask M x.2) then { x.1 with crossAt := none } else x.1) }
  have hF : F G = G.crossed { q with halted := some i } act M e := by
    have hemp : act.isEmpty = false := by cases act with
      | nil => exact absurd rfl hne
      | cons a r => rfl
    unfold Group.crossed
    simp only [F, hemp, Bool.false_eq_true, if_false]
    rfl
  have hgu : ((s.modGroup gid F).orCl G.ctx G.site (Fl.orAll (act.map e.fl))).group? gid = some (G.crossed { q with halted := some i } act M e) := by
    rw [State.orCl_group?, State.group?_modGroup_same hg F fun _ => rfl]
    exact congrArg some hF
  refine ⟨(s.modGroup gid F).orCl G.ctx G.site (Fl.orAll (act.map e.fl)), ?_, hgu, fun n hn => ?_, ?_⟩
  · have hrel : ((s.modGroup gid F).orCl G.ctx G.site (Fl.orAll (act.map e.fl))).releaseForm gid =
        ((s.modGroup gid F).orCl G.ctx G.site (Fl.orAll (act.map e.fl))).releasePaths gid [q.pid] := by
      unfold State.releaseForm
      rw [hgu]
      rfl
    rw [hrel]
    unfold State.crossArrive
    simp only [hg, hpath, hoth, List.foldl_nil]
    unfold State.crossTry
    simp only [hg, hpath]
    rw [if_neg (by simp), hcr]
    rfl
  · rw [State.orCl_group?, State.group?_modGroup_other s gid n F (fun _ => rfl) hn]
  · rw [State.orCl_eq]
    rfl

/-- A cross-lane word whose effect is the one a statement gives acts by it. -/
theorem crossWord_acts {i : Instr} {gd : Guard} {c : XReg} {f : CrossFn} {k7 : Group → List Nat → Nat → Bool}
    {val : Group → List Nat → Nat → Nat → Lane → Lane} (hi : ∀ s, exec i s = crossWord i gd c f s)
    (hf : ∀ h p act M, Executing h act M → (f (h.haltsAt p i) act M).k7 = k7 h act M ∧
      ∀ l ∈ act, ∀ y, ((f (h.haltsAt p i) act M).upd l y).setFlags ((f (h.haltsAt p i) act M).fl l) = val h act M l y) :
    CrossActs i gd c k7 val := by
  intro s h p M hs hne hM hact act set7
  have hex : Executing h act M := ⟨hne, fun l hl => (hact l hl).2, fun l hl => hs.active_lt hl, hs.active_sorted gd⟩
  obtain ⟨hk7, hupd⟩ := hf h p act M hex
  obtain ⟨⟨hc, -⟩, hp, hl, hpl, -, -, -, hw, ho⟩ := id hs
  have htr : (h.active p gd).filterMap (fun l => ((h.lane l).maskTrap h.size l c).map (fun t => (l, t))) = [] := by
    refine List.filterMap_eq_nil_iff.mpr fun l hl => ?_
    obtain ⟨h1, h2⟩ := hact l hl
    unfold Lane.maskTrap
    rw [h1, if_neg (by simp [h2]; omega)]
    rfl
  obtain ⟨s0, h0, harr⟩ := State.arrive_undivided hs i (fun s => s.crossArrive h.gid p.pid i gd c f)
  have hword : exec i s = .next (s.arrive h.gid p.pid i (fun s => s.crossArrive h.gid p.pid i gd c f)) := by
    rw [hi]
    unfold crossWord
    rw [hc]
    simp only [htr, List.any_nil, List.isEmpty_nil, if_true, State.takeTraps, List.foldl_nil, Bool.false_and, Bool.or_false]
    refine if_neg ?_
    cases hp' : p.lanes with
    | nil => exact absurd hp' hpl
    | cons a r => simp
  have hcr : (h.haltsAt p i).crossReady { p with halted := some i } i gd c = some (M, [p.pid], act) :=
    Group.crossReady_one rfl hl rfl hex.sorted hne fun l hl => (hact l hl).1
  obtain ⟨u, hu, hgu, hou, hru⟩ := State.crossArrive_one h0.group hcr hne f
  obtain ⟨a, hrel⟩ := hs.release (i := i) hgu rfl ho
  rw [hu] at harr
  have hgt : (u.releaseForm h.gid).group? h.gid = some _ := hrel.group
  have hlen : ((h.haltsAt p i).crossed { p with halted := some i } act M (f (h.haltsAt p i) act M)).lanes.length = h.lanes.length := by
    simp [Group.crossed, Group.haltsAt, Group.withPaths]
  refine ⟨_, _, hword.trans (congrArg _ (harr _ hgt (by simp [Group.withPaths]))), hgt, ⟨rfl, fun _ => ⟨_, rfl, rfl, rfl⟩⟩,
    ⟨{ p with pc := p.pc + 8, halted := none, after := a }, by rw [hgt]; rfl, rfl, rfl, rfl, hw⟩, fun n hn => ?_, ?_, fun l hlt => ?_⟩
  · exact (hrel.others n hn).trans ((hou n hn).trans (h0.others n hn))
  · have h2 : u = { s with groups := u.groups, ctxs := u.ctxs } := hru.trans (by rw [h0.rest])
    refine hrel.rest.trans ?_
    rw [show (u.releaseForm h.gid).ctxs = u.ctxs by rw [hrel.rest]]
    exact congrArg (fun x : State => { x with groups := (u.releaseForm h.gid).groups }) h2
  · refine (Group.lane_crossed (h.haltsAt p i) { p with halted := some i } act M (f (h.haltsAt p i) act M) hlt).trans ?_
    rw [hk7]
    by_cases hm : l ∈ act
    · rw [if_pos (by simpa using hm), if_pos hm, hupd l hm]
      rfl
    · rw [if_neg (by simpa using hm), if_neg hm]
      rfl

end Sys2Proof.Machine
end


section
/-!
SETTLED. VOTE, BALLOT, ELECT, MATCH, SHFL, RED and SCAN over the named lanes (O27, O28).
-/

namespace Sys2Proof.Machine

open Sys2Proof

theorem Lane.setFlags_none (l : Lane) : l.setFlags Fl.none = l := by
  have h : Fl.none.sticky l.fpflags = l.fpflags := by simp [Fl.sticky, Fl.none, Fl.toNat]
  unfold Lane.setFlags
  rw [h]

/-- A cross-lane word that raises no flag. -/
theorem crossWord_actsPure {i : Instr} {gd : Guard} {c : XReg} {f : CrossFn} {k7 : Group → List Nat → Nat → Bool}
    {val : Group → List Nat → Nat → Nat → Lane → Lane} (hi : ∀ s, exec i s = crossWord i gd c f s)
    (hfl : ∀ g act M l, (f g act M).fl l = Fl.none) (hk : ∀ h p act M, Executing h act M → (f (h.haltsAt p i) act M).k7 = k7 h act M)
    (hu : ∀ h p act M, Executing h act M → ∀ l ∈ act, ∀ y, (f (h.haltsAt p i) act M).upd l y = val h act M l y) : CrossActs i gd c k7 val :=
  crossWord_acts hi fun h p act M hx => ⟨hk h p act M hx, fun l hl y => by rw [hfl, Lane.setFlags_none, hu h p act M hx l hl]⟩

/-! The named lanes that are present. -/

theorem Executing.present {h : Group} {act : List Nat} {M : Nat} (hx : Executing h act M) : act.filter (inMask M) = act :=
  List.filter_eq_self.mpr hx.named

theorem Executing.maskOf {h : Group} {act : List Nat} {M : Nat} (hx : Executing h act M) (q r : Nat → Bool) :
    maskOf ((act.filter q).filter r) = (((act.filter q).filter r).map (fun i => 2 ^ i)).sum := by
  have hnd : ((act.filter q).filter r).Nodup := ((hx.sorted.imp Nat.ne_of_lt).filter q).filter r
  unfold Machine.maskOf
  rw [hnd.dedup]

/-! SHFL (06 R155). -/

/-- The lane that SHFL names for lane l, none where it is absent. -/
def shflNamed (h : Group) (act : List Nat) (M : Nat) (mode : ShflMode) (b : XReg) (l : Nat) : Option (Option Nat) :=
  let z := shflSource mode l (((h.lane l).rx b).toNat % 2 ^ 32)
  if z < 0 ∨ (h.size : Int) ≤ z then some (some l)
  else if inMask M z.toNat && act.contains z.toNat then some (some z.toNat) else none

/-- What SHFL receives, by the lane named. -/
theorem shflFrom_eq (h : Group) (act : List Nat) (M : Nat) (mode : ShflMode) (b : XReg) (l : Nat) :
    (shflNamed h act M mode b l = none ∧ shflFrom h act M mode b l = .identity) ∨
    (shflNamed h act M mode b l = some (some l) ∧ shflFrom h act M mode b l = .own) ∨
    ∃ m, shflNamed h act M mode b l = some (some m) ∧ shflFrom h act M mode b l = .lane m := by
  have hb : bitsAt ((h.lane l).rx b) 0 32 = ((h.lane l).rx b).toNat % 2 ^ 32 := by simp [bitsAt, fieldAt]
  unfold shflNamed shflFrom
  rw [hb]
  generalize shflSource mode l (((h.lane l).rx b).toNat % 2 ^ 32) = z
  dsimp only
  by_cases h1 : z < 0 ∨ (h.size : Int) ≤ z
  · rw [if_pos h1, if_pos (show (decide (z < 0) || decide ((h.size : Int) ≤ z)) = true by simpa using h1)]
    exact .inr (.inl ⟨rfl, rfl⟩)
  · rw [if_neg h1, if_neg (show ¬ (decide (z < 0) || decide ((h.size : Int) ≤ z)) = true by simpa using h1)]
    split
    · exact .inr (.inr ⟨_, rfl, rfl⟩)
    · exact .inl ⟨rfl, rfl⟩

/-- Settles O27. -/
theorem votesMatchesAndShuffles : Obligations.VotesMatchesAndShuffles := by
  refine ⟨fun g d a xd xa c t => ?_, fun g d a b c t mode id v => ?_⟩
  · intro pres
    refine ⟨crossWord_actsPure (fun s => Eq.refl (execVoteAny g d a c s)) (fun _ _ _ _ => rfl) (fun _ _ _ _ _ => rfl) fun _ _ _ _ _ _ _ _ => rfl,
      crossWord_actsPure (fun s => Eq.refl (execVoteAll g d a c s)) (fun _ _ _ _ => rfl) (fun _ _ _ _ _ => rfl) fun _ _ _ _ _ _ _ _ => rfl,
      crossWord_actsPure (fun s => Eq.refl (execVoteUni g d a c s)) (fun _ _ _ _ => rfl) (fun _ _ _ _ _ => rfl) fun h p act M hx l _ y => ?_,
      crossWord_actsPure (fun s => Eq.refl (execBallot g xd a c s)) (fun _ _ _ _ => rfl) (fun _ _ _ _ _ => rfl) fun h p act M hx l _ y => ?_,
      crossWord_actsPure (fun s => Eq.refl (execElect g d c s)) (fun _ _ _ _ => rfl) (fun _ _ _ _ _ => rfl) fun h p act M hx l _ y => ?_,
      crossWord_actsPure (fun s => Eq.refl (execMatchLanes g xd xa c t s)) (fun _ _ _ _ => rfl) (fun _ _ _ _ _ => rfl) fun h p act M hx l _ y => ?_⟩
    · refine congrArg (y.wk d) ?_
      show ((act.map (fun l => (h.lane l).rk a)).all id || (act.map (fun l => (h.lane l).rk a)).all not) = _
      simp only [pres, hx.present, List.all_map]
      rfl
    · exact congrArg (fun n => y.wx xd (BitVec.ofNat 64 n)) (hx.maskOf (inMask M) (fun i => (h.lane i).rk a))
    · refine congrArg (y.wk d) ?_
      show (l == (act.filter (inMask M)).headD 64) = ((act.filter (inMask M)).head? == some l)
      rw [hx.present]
      cases act with
      | nil => exact absurd rfl hx.ne
      | cons m r => by_cases hm : l = m <;> simp [hm, eq_comm]
    · exact congrArg (fun n => y.wx xd (BitVec.ofNat 64 n))
        (hx.maskOf (inMask M) (fun i => ((h.lane i).rx xa).toNat % 2 ^ t.bits == ((h.lane l).rx xa).toNat % 2 ^ t.bits))
  · intro from_ source
    have hfrom : ∀ h act M l, from_ h act M l = shflNamed h act M mode b l := fun h act M l => by
      cases mode <;> rfl
    refine crossWord_actsPure (fun s => Eq.refl (execShfl g d a b c t mode id v s)) (fun _ _ _ _ => rfl) (fun h p act M hx => ?_) fun h p act M hx l _ y => ?_
    · show act.any (fun l => shflFrom h act M mode b l == .identity) = act.any (fun l => (from_ h act M l).isNone)
      congr 1
      funext l
      rw [hfrom]
      rcases shflFrom_eq h act M mode b l with ⟨h1, h2⟩ | ⟨h1, h2⟩ | ⟨m, h1, h2⟩ <;> rw [h1, h2] <;> rfl
    · show (match (match shflFrom h act M mode b l with
          | .lane m => some m
          | .own => some l
          | .identity => if id then some l else none), v with
        | some m, false => y.wx d (extended t ((h.lane m).rx a))
        | some m, true => y.wv (vOf d) ((h.lane m).rv (vOf a))
        | none, false => y.wx d 0
        | none, true => y.wv (vOf d) 0) = _
      simp only [source, hfrom]
      rcases shflFrom_eq h act M mode b l with ⟨h1, h2⟩ | ⟨h1, h2⟩ | ⟨m, h1, h2⟩ <;> rw [h1, h2] <;> cases v <;> cases id <;> rfl

/-- Settles O28. -/
theorem reductionsAndScans : Obligations.ReductionsAndScans := by
  intro g d a b c t rm sat op id excl
  refine ⟨crossWord_acts (fun s => Eq.refl (execRed g d a b c t rm sat op id s)) fun _ _ _ _ _ => ⟨rfl, fun _ _ _ => rfl⟩,
    crossWord_acts (fun s => Eq.refl (execScan g d a b c t rm sat op id excl s)) fun _ _ _ _ _ => ⟨rfl, fun _ _ _ => rfl⟩, fun h act M l y ht hop hall => ?_⟩
  subst hop
  have hf : (t == Ty.f32) = false := by simpa using ht
  have hv : (redVals h act (namedLanes h.size M) a t (identOf h act b id t .add (resolveRm rm (h.lane (act.headD 0)).fpctl false))).map (·.2) =
      ((List.range h.size).filter (inMask M)).map (fun n => ((h.lane n).rx a).toNat % 2 ^ t.bits) := by
    unfold redVals namedLanes
    rw [List.map_map]
    refine List.map_congr_left fun n hn => ?_
    obtain ⟨h1, h2⟩ := List.mem_filter.mp hn
    have := hall n (List.mem_range.mp h1) h2
    simp [this, lowBits]
  unfold redFn redValue redRounds
  dsimp only
  rw [hv, hf]
  rfl

end Sys2Proof.Machine
end


section
/-!
SETTLED. The control words of an undivided group with one target, and the division of a path by BRD (O18).
-/

namespace Sys2Proof.Machine

open Sys2Proof

/-! Parts of lanes that go on at one of two addresses (05 R121). -/

/-- The lanes A at a, and the lanes B, where there are any, at b. -/
def twoParts (a b : Word) (A B : List Nat) : List Part := ⟨A, a, []⟩ :: if B.isEmpty then [] else [⟨B, b, []⟩]

theorem addPart_first {a b : Word} (hab : a ≠ b) {A : List Nat} (B : List Nat) {l : Nat} (hs : (A ++ [l]).Pairwise (· < ·)) :
    addPart (twoParts a b A B) ⟨[l], a, []⟩ = twoParts a b (A ++ [l]) B := by
  cases B <;> simp [addPart, twoParts, updWhere, sortNat_of_sorted hs, hab.symm]

theorem addPart_second {a b : Word} (hab : a ≠ b) (A : List Nat) {B : List Nat} {l : Nat} (hs : (B ++ [l]).Pairwise (· < ·)) :
    addPart (twoParts a b A B) ⟨[l], b, []⟩ = twoParts a b A (B ++ [l]) := by
  cases B with
  | nil => simp [addPart, twoParts, hab]
  | cons m r =>
    have h := sortNat_of_sorted hs
    rw [List.cons_append] at h
    simp [addPart, twoParts, updWhere, hab, h]

theorem foldl_addPart_two {a b : Word} (hab : a ≠ b) (z : Nat → Bool) (r : List Nat) :
    ∀ A B : List Nat, (A ++ r).Pairwise (· < ·) → (B ++ r).Pairwise (· < ·) →
      (r.map (fun l => (l, if z l then a else b))).foldl (fun ps x => addPart ps ⟨[x.1], x.2, []⟩) (twoParts a b A B) =
        twoParts a b (A ++ r.filter z) (B ++ r.filter (fun l => !z l)) := by
  induction r with
  | nil => intro A B _ _; simp
  | cons l r ih =>
    intro A B hA hB
    have app : ∀ C : List Nat, C ++ l :: r = (C ++ [l]) ++ r := fun C => by simp
    have drop : ∀ {C : List Nat}, (C ++ l :: r).Pairwise (· < ·) → (C ++ r).Pairwise (· < ·) := fun h =>
      h.sublist (List.Sublist.append_left (List.sublist_cons_self l r) _)
    have one : ∀ {C : List Nat}, (C ++ l :: r).Pairwise (· < ·) → (C ++ [l]).Pairwise (· < ·) := fun h =>
      (List.pairwise_append.mp (app _ ▸ h)).1
    rw [List.map_cons, List.foldl_cons]
    cases hz : z l with
    | true =>
      rw [if_pos rfl, addPart_first hab B (one hA), ih _ _ (app _ ▸ hA) (drop hB)]
      simp [hz]
    | false =>
      rw [if_neg nofun, addPart_second hab A (one hB), ih _ _ (drop hA) (app _ ▸ hB)]
      simp [hz]

/-- The parts of a path of which the first lane goes on at a. -/
theorem partsOf_two {a b : Word} (hab : a ≠ b) (z : Nat → Bool) {l : Nat} {r : List Nat} (hs : (l :: r).Pairwise (· < ·))
    (hz : z l = true) :
    partsOf ((l :: r).map (fun l => (l, if z l then a else b))) = twoParts a b ((l :: r).filter z) ((l :: r).filter (fun l => !z l)) := by
  have h := foldl_addPart_two hab z r [l] [] (by simpa using hs) (by simpa using hs.tail)
  unfold partsOf
  rw [List.map_cons, List.foldl_cons, if_pos hz, show addPart [] ⟨[l], a, []⟩ = twoParts a b [l] [] from rfl, h]
  simp [hz]

/-- Lanes that go on at one address are one part. -/
theorem partsOf_all (a : Word) {ls : List Nat} (hs : ls.Pairwise (· < ·)) (hne : ls ≠ []) :
    partsOf (ls.map (fun l => (l, a))) = [⟨ls, a, []⟩] := by
  cases ls with
  | nil => exact absurd rfl hne
  | cons l r =>
    have h := partsOf_two (a := a) (b := a + 8) (by bv_omega) (fun _ => true) hs rfl
    simpa [twoParts] using h

/-- The parts of a path that a predicate divides are the lanes of the one and the other answer. -/
theorem partsOf_divided {a b : Word} (hab : a ≠ b) (z : Nat → Bool) {ls : List Nat} (hs : ls.Pairwise (· < ·))
    (hy : ls.filter z ≠ []) (hn : ls.filter (fun l => !z l) ≠ []) :
    partsOf (ls.map (fun l => (l, if z l then a else b))) = [⟨ls.filter z, a, []⟩, ⟨ls.filter (fun l => !z l), b, []⟩] ∨
    partsOf (ls.map (fun l => (l, if z l then a else b))) = [⟨ls.filter (fun l => !z l), b, []⟩, ⟨ls.filter z, a, []⟩] := by
  have two : ∀ {x y : Word} {A B : List Nat}, B ≠ [] → twoParts x y A B = [⟨A, x, []⟩, ⟨B, y, []⟩] := fun {x y A B} h => by
    unfold twoParts; rw [if_neg (by simpa using h)]
  cases ls with
  | nil => exact absurd rfl hy
  | cons l r =>
    cases hz : z l with
    | true => exact .inl ((partsOf_two hab z hs hz).trans (two hn))
    | false =>
      refine .inr (Eq.trans ?_ ((partsOf_two hab.symm (fun l => !z l) hs (by simp [hz])).trans ((two (by simpa using hy)).trans (by simp))))
      congr 2
      funext i
      cases z i <;> rfl

/-! Control words with one target (05 R124 to R126). -/

/-- The link registers of the lanes that transfer are written. -/
theorem State.linkLanes_spec {s : State} {gid : Nat} {h : Group} (hg : s.group? gid = some h) (link : Option XReg) (pc : Word) (ls : List Nat) :
    ls.Nodup → (∀ l ∈ ls, l < h.size) → ∃ g', GroupBecomes s (s.linkLanes gid link ls pc) gid g' ∧ g'.paths = h.paths ∧
      ∀ n l, (s.linkLanes gid link ls pc).lane n l =
        if n = gid ∧ l ∈ ls then (match link with | none => id | some r => fun x : Lane => x.wx r (pc + 8)) (s.lane n l) else s.lane n l := by
  cases link with
  | none => exact fun _ _ => ⟨h, GroupBecomes.refl hg, rfl, fun n l => by split <;> rfl⟩
  | some r =>
    induction ls generalizing s h with
    | nil => exact fun _ _ => ⟨h, GroupBecomes.refl hg, rfl, fun n l => by simp [State.linkLanes]⟩
    | cons a ls ih =>
      intro hnd hlt
      have h1 := GroupBecomes.modGroup hg (fun g => g.modLane a (fun x => x.wx r (pc + 8))) fun _ => rfl
      obtain ⟨hna, hnd'⟩ := List.nodup_cons.mp hnd
      obtain ⟨g', h2, hp, hl⟩ := ih h1.group hnd' fun l hl => by
        show l < (h.lanes.modify _ _).length
        rw [List.length_modify]
        exact hlt l (List.mem_cons_of_mem _ hl)
      refine ⟨g', h1.trans h2, hp, fun n l => (hl n l).trans ?_⟩
      by_cases hal : n = gid ∧ l = a
      · obtain ⟨rfl, rfl⟩ := hal
        rw [if_neg fun hc => hna hc.2, if_pos ⟨rfl, List.mem_cons_self ..⟩]
        exact State.lane_modLane_same s n l h _ hg (hlt l (List.mem_cons_self ..))
      · have e : (s.modLane gid a (fun x => x.wx r (pc + 8))).lane n l = s.lane n l := State.lane_modLane_other s gid a n l _ hal
        refine (if_congr (and_congr_right fun hn => ?_) (congrArg _ e) e)
        exact ⟨List.mem_cons_of_mem _, fun hm => (List.mem_cons.mp hm).resolve_left fun hla => hal ⟨hn, hla⟩⟩

/-- An undivided group's path transfers to one target. -/
theorem State.transfer_one {s : State} {h : Group} {p : Path} (hs : s.undivided h p) (pc : Word) (join fall : Option Word) (link : Option XReg) :
    ∃ t, s.transfer h p [] [⟨p.lanes, pc, []⟩] join fall link p.lanes = t ∧ GoesTo t h p pc ∧ t = { s with groups := t.groups } ∧
      ∀ n l, t.lane n l = if n = h.gid ∧ l ∈ p.lanes then
        (match link with | none => id | some r => fun x : Lane => x.wx r (p.pc + 8)) (s.lane n l) else s.lane n l := by
  obtain ⟨⟨hc, hn⟩, hp, hl, hne, hpid, hel, hh, hw, ho⟩ := id hs
  have hsort : p.lanes.Pairwise (· < ·) := hl ▸ h.liveLanes_sorted
  have hlt : ∀ l ∈ p.lanes, l < h.size := fun l hm => List.mem_range.mp (List.mem_filter.mp (hl ▸ hm)).1
  obtain ⟨g', h1, hp', hlane⟩ := State.linkLanes_spec hs.group link p.pc p.lanes (hsort.imp Nat.ne_of_lt) hlt
  have e : s.transfer h p [] [⟨p.lanes, pc, []⟩] join fall link p.lanes =
      (s.linkLanes h.gid link p.lanes p.pc).control h.gid p.pid p.pc [] [⟨p.lanes, pc, []⟩] join fall := by
    have hd : s.divide h.gid p.pid [⟨p.lanes, pc, []⟩] join =
        .done (s.modPath h.gid p.pid (fun q => { q with pc := pc, election := [], lanes := p.lanes })) := by
      unfold State.divide
      rw [hs.group]
      simp only [Group.path?, hp, List.find?_cons, BEq.rfl]
    unfold State.transfer
    simp only [State.takeTraps, List.foldl_nil, hd]
  obtain ⟨a, hG, hother, heq⟩ := State.control_one (pc := pc) (fall := fall) (join := join) h1.group (hp'.trans hp) hne hs.stacked p.pc
  refine ⟨_, e, ⟨{ p with pc := pc, election := [], after := a }, by rw [hG]; rfl, rfl, rfl, hh, hw⟩, by rw [heq, h1.rest], fun n l => ?_⟩
  refine Eq.trans ?_ (hlane n l)
  by_cases hn : n = h.gid
  · subst hn
    rw [State.lane_of_group? hG, State.lane_of_group? h1.group]
    rfl
  · exact State.lane_of_other hother hn l

/-- Every lane of an undivided path is active where the guard holds in each. -/
theorem Group.active_all {h : Group} {p : Path} {gd : Guard} (hg : ∀ i ∈ p.lanes, guardHolds gd (h.lane i) = true) : h.active p gd = p.lanes :=
  List.filter_eq_self.mpr hg

theorem branchWord_one {s : State} {h : Group} {p : Path} (hs : s.undivided h p) {gd : Guard} (hg : ∀ i ∈ p.lanes, guardHolds gd (h.lane i) = true)
    {disp : BitVec 24} (ht : (p.pc + 8 * disp.signExtend 64).toNat / 2 ^ 56 = 0) (join : BitVec 14) (link : Option XReg) :
    branchWord gd disp join link s =
      .next (s.transfer h p [] [⟨p.lanes, p.pc + 8 * disp.signExtend 64, []⟩] (joinTarget p.pc join) (some (p.pc + 8)) link p.lanes) := by
  obtain ⟨⟨hc, -⟩, -, hl, hne, -⟩ := id hs
  have hparts : p.lanes.map (fun l => (l, if p.lanes.contains l then branchTarget p.pc disp else p.pc + 8)) =
      p.lanes.map (fun l => (l, branchTarget p.pc disp)) := List.map_congr_left fun l hm => by rw [if_pos (by simpa using hm)]
  unfold branchWord
  rw [hc]
  simp only [Group.active_all hg, hparts, partsOf_all (branchTarget p.pc disp) (hl ▸ h.liveLanes_sorted) hne]
  exact if_neg (by rw [branchTarget, ht]; exact fun h => h rfl)

/-- All active lanes of an undivided path name one target. -/
theorem electWord_one {s : State} {h : Group} {p : Path} (hs : s.undivided h p) {gd : Guard} (hg : ∀ i ∈ p.lanes, guardHolds gd (h.lane i) = true)
    {target : Lane → Word} {w : Word} (hw : ∀ i ∈ p.lanes, target (h.lane i) = w) (h0 : w.toNat / 2 ^ 56 = 0) (h8 : w.toNat % 8 = 0)
    (join : BitVec 14) (link : Option XReg) :
    electWord gd target join link s = .next (s.transfer h p [] [⟨p.lanes, w, []⟩] (joinTarget p.pc join) none link p.lanes) := by
  obtain ⟨⟨hc, -⟩, -, hl, hne, -, hel, -⟩ := id hs
  have hall : p.lanes.map (fun l => (⟨l, target (h.lane l)⟩ : Elect)) = p.lanes.map (fun l => ⟨l, w⟩) :=
    List.map_congr_left fun l hm => by rw [hw l hm]
  have htt : targetTrap w = none := by
    unfold targetTrap
    rw [if_neg (fun hc => hc h0), if_neg fun hc => hc h8]
  have hrest : p.lanes.filter (fun l => !p.lanes.contains l) = [] := by simp
  have htraps : (p.lanes.map (fun l => (⟨l, w⟩ : Elect))).filterMap (fun e => (targetTrap e.target).map (fun t => (e.lane, t))) = [] := by
    simp [List.filterMap_map, Function.comp_def, htt]
  have hpend : (p.lanes.map (fun l => (⟨l, w⟩ : Elect))).filter (fun e => (targetTrap e.target).isNone) = p.lanes.map (fun l => ⟨l, w⟩) := by
    simp [List.filter_map, Function.comp_def, htt]
  have hchosen : (p.lanes.map (fun l => (⟨l, w⟩ : Elect))).filter (fun x => x.target == w) = p.lanes.map (fun l => ⟨l, w⟩) := by
    simp [List.filter_map, Function.comp_def]
  have hlater : (p.lanes.map (fun l => (⟨l, w⟩ : Elect))).filter (fun x => x.target != w) = [] := by
    simp [List.filter_map, Function.comp_def]
  have hlanes : (p.lanes.map (fun l => (⟨l, w⟩ : Elect))).map (·.lane) = p.lanes := by simp [Function.comp_def]
  have hcons : ∃ r, p.lanes.map (fun l => (⟨l, w⟩ : Elect)) = ⟨p.lanes.headD 0, w⟩ :: r := by
    cases hp : p.lanes with
    | nil => exact absurd hp hne
    | cons a r => exact ⟨_, rfl⟩
  obtain ⟨r, hcons⟩ := hcons
  have hemp : p.lanes.isEmpty = false := by simpa using hne
  unfold electWord
  rw [hc]
  simp only [hel, List.isEmpty_nil, if_true, Group.active_all hg, hall, htraps, hpend]
  rw [hcons]
  simp only
  rw [← hcons]
  simp only [hchosen, hlater, hrest, hlanes, List.map_nil, List.foldl_nil]
  simp [addPart, hemp]

/-! The division of a path of one quad (13 R314). -/

/-- Settling a group whose paths have lanes and cannot merge changes at most what they are held after. -/
theorem Group.tidy_unmerged {g : Group} (hl : ∀ p ∈ g.paths, p.lanes ≠ []) (hm : ∀ p ∈ g.paths, ∀ q ∈ g.paths, p.mergeable q = false) :
    ∃ f : Path → Option Nat, g.tidy = g.withPaths (g.paths.map (fun p => { p with after := f p })) := by
  have hf : ({ g with paths := g.paths.filter (fun p => !p.lanes.isEmpty || p.stacked.isSome) } : Group) = g := by
    have : g.paths.filter (fun p => !p.lanes.isEmpty || p.stacked.isSome) = g.paths :=
      List.filter_eq_self.mpr fun p hp => by simp [hl p hp]
    rw [this]
  have hone : g.mergeOnce = none := by
    have hnone : g.paths.find? (fun p => g.live p && g.paths.any (fun q => g.live q && decide (p.pid < q.pid) && p.mergeable q)) = none :=
      List.find?_eq_none.mpr fun p hp => by
        simp only [Bool.and_eq_true, List.any_eq_true, not_and, not_exists]
        rintro - q hq - hpq
        exact absurd hpq (by simp [hm p hp q hq])
    unfold Group.mergeOnce
    rw [hnone]
  have ha : g.mergeAll 32 = g := by unfold Group.mergeAll; rw [hone]
  let f (p : Path) : Option Nat :=
    match p.after with
    | none => none
    | some q => match g.path? q with
      | none => none
      | some r => if g.live r && r.halted.isNone && !r.waiting && !r.frozen then p.after else none
  refine ⟨f, ?_⟩
  unfold Group.tidy Group.withPaths
  rw [hf, ha]
  unfold Group.clearAfter
  refine congrArg (fun ps => { g with paths := ps }) (List.map_congr_left fun p _ => ?_)
  dsimp only [f]
  cases hpa : p.after with
  | none => exact congrArg (fun a => { p with after := a }) hpa
  | some q =>
    dsimp only
    cases g.path? q with
    | none => rfl
    | some r =>
      dsimp only
      split_ifs
      · exact congrArg (fun a => { p with after := a }) hpa
      · rfl

/-- A part of a path as a path of its own, in the set of the path. -/
def Path.ofPart (p : Path) (x : Part) (pid : Nat) (joins : List Nat) : Path :=
  { p with pid := pid, lanes := x.lanes, pc := x.pc, joins := joins, since := pid, after := none, halted := none,
           election := x.election.filter (fun e => x.lanes.contains e.lane), fbuf := [] }

theorem quadGroups_quad0 (parts : List Part) : quadGroups parts [0] = [[0]] := by
  unfold quadGroups
  exact if_pos ((List.dedup_sublist _).length_le.trans (List.length_filter_le _ _))

/-- The only path of a group of one quad becomes two in the set in which it is. -/
theorem State.placeParts_two {s : State} {gid : Nat} {g : Group} {p : Path} {x y : Part} (hg : s.group? gid = some g) (hp : g.paths = [p])
    (ha : p.alone = false) (hq : g.qsets = [⟨p.qset, [0], 0⟩]) (hx : x.lanes ≠ []) (hy : y.lanes ≠ []) (js : List Nat) :
    s.placeParts gid p [x, y] (fun _ => js) true =
      ({ s.modGroup gid (fun g => { g with
          paths := [p.ofPart x s.nextId js, p.ofPart y (s.nextId + 1) js], qsets := [⟨p.qset, [0], 0⟩] }) with nextId := s.nextId + 2000 },
        [s.nextId, s.nextId + 1], false) := by
  have hset : g.qset? p.qset = some ⟨p.qset, [0], 0⟩ := by simp [Group.qset?, hq]
  have one : ∀ {l : List Nat}, l ≠ [] → (List.replicate l.length p.qset).dedup = [p.qset] := fun h =>
    List.replicate_dedup (by simpa using h)
  unfold State.placeParts
  simp [hg, hset, ha, quadGroups_quad0, hp, hq, one hx, one hy, Path.ofPart]

/-- The parts stand in live slots at once. -/
theorem State.spread_two {s : State} {gid : Nat} {g : Group} {p : Path} {x y : Part} (hg : s.group? gid = some g) (hp : g.paths = [p])
    (hn : p.stacked = none) (ha : p.alone = false) (hq : g.qsets = [⟨p.qset, [0], 0⟩]) (hx : x.lanes ≠ []) (hy : y.lanes ≠ []) (js : List Nat) :
    ∃ u, s.spread gid p [x, y] (fun _ => js) true = .done u ∧
      u.group? gid = some { g with paths := [p.ofPart x s.nextId js, p.ofPart y (s.nextId + 1) js] } := by
  have hset : g.qset? p.qset = some ⟨p.qset, [0], 0⟩ := by simp [Group.qset?, hq]
  obtain ⟨u, hu, hG⟩ : ∃ u, s.placeParts gid p [x, y] (fun _ => js) true = (u, [s.nextId, s.nextId + 1], false) ∧
      u.group? gid = some { g with paths := [p.ofPart x s.nextId js, p.ofPart y (s.nextId + 1) js] } := by
    refine ⟨_, State.placeParts_two hg hp ha hq hx hy js, ?_⟩
    refine (State.group?_modGroup_same hg (fun g => { g with
      paths := [p.ofPart x s.nextId js, p.ofPart y (s.nextId + 1) js], qsets := [⟨p.qset, [0], 0⟩] }) fun _ => rfl).trans ?_
    rw [← hq]
  have hslots : u.enforceSlots gid [s.nextId, s.nextId + 1] true 40 = .done u := by
    unfold State.enforceSlots
    rw [hG]
    dsimp only
    rw [List.find?_eq_none.mpr fun k _ => by
      have : (Group.liveIn { g with paths := [p.ofPart x s.nextId js, p.ofPart y (s.nextId + 1) js] } k).length ≤ 2 :=
        List.length_filter_le _ _
      simpa using this]
  refine ⟨u, ?_, hG⟩
  unfold State.spread
  simp [hg, hset, ha, quadGroups_quad0, hu, hG, State.restack, StackRes.bind, hslots]

theorem Group.holdAfter_eq (g : Group) (base : Nat) (fall : Word) :
    ∃ f : Path → Option Nat, g.holdAfter base fall = g.withPaths (g.paths.map (fun p => { p with after := f p })) := by
  let new (p : Path) : Bool := decide (base ≤ p.since) && !p.alone
  let f (p : Path) : Option Nat :=
    if !new p || p.pc == fall then p.after
    else match g.paths.find? (fun (q : Path) => new q && q.pc == fall && q.pid != p.pid && p.quads.any q.quads.contains) with
      | some q => some q.pid
      | none => p.after
  refine ⟨f, congrArg (fun ps => { g with paths := ps }) (List.map_congr_left fun p _ => ?_)⟩
  dsimp only [f, new]
  split_ifs
  · rfl
  · generalize g.paths.find? _ = o
    cases o <;> rfl

/-- Two paths that stand at two addresses settle as they are. -/
theorem Group.tidy_two {g : Group} {a b : Path} (hp : g.paths = [a, b]) (ha : a.lanes ≠ []) (hb : b.lanes ≠ []) (hpc : a.pc ≠ b.pc) :
    ∃ x y, g.tidy = g.withPaths [{ a with after := x }, { b with after := y }] := by
  obtain ⟨f, hf⟩ := g.tidy_unmerged (by simp [hp, ha, hb]) (by simp [hp, Path.mergeable, hpc, hpc.symm])
  exact ⟨f a, f b, by rw [hf, hp]; rfl⟩

/-- A path of one quad divides in two, with a join pending for both parts. -/
theorem State.control_two {s : State} {h : Group} {p : Path} {x y : Part} (hs : s.undivided h p) (ha : p.alone = false) (hj : p.joins = [])
    (hq : h.qsets = [⟨p.qset, [0], 0⟩]) (hx : x.lanes ≠ []) (hy : y.lanes ≠ []) (hpc : x.pc ≠ y.pc) (addr fall : Word) :
    ∃ h' a b, (s.control h.gid p.pid p.pc [] [x, y] (some addr) (some fall)).group? h.gid = some h' ∧
      h'.joins = ⟨s.nextId, addr, p.lanes⟩ :: h.joins ∧ h'.paths = [a, b] ∧ h'.lanes = h.lanes ∧
      (a.lanes = x.lanes ∧ a.pc = x.pc ∧ a.joins = [s.nextId]) ∧ b.lanes = y.lanes ∧ b.pc = y.pc ∧ b.joins = [s.nextId] := by
  obtain ⟨⟨hc, -⟩, hp, -⟩ := id hs
  have hg1 : (s.fresh.2.modGroup h.gid (fun g => { g with joins := ⟨s.nextId, addr, p.lanes⟩ :: g.joins })).group? h.gid =
      some { h with joins := ⟨s.nextId, addr, p.lanes⟩ :: h.joins } :=
    State.group?_modGroup_same (s := s.fresh.2) hs.group (fun g => { g with joins := ⟨s.nextId, addr, p.lanes⟩ :: g.joins }) fun _ => rfl
  obtain ⟨u, hu, hG⟩ := State.spread_two (x := x) (y := y) hg1 hp hs.stacked ha hq hx hy [s.nextId]
  have hd : s.divide h.gid p.pid [x, y] (some addr) = .done u := by
    unfold State.divide
    rw [hs.group]
    simp only [Group.path?, hp, List.find?_cons, BEq.rfl, hj, List.length_nil, Option.isSome_some, Option.getD_some]
    simp only [show (true && decide (0 < 16)) = true from rfl, if_true, show s.fresh.1 = s.nextId from rfl, hu]
  have e : s.control h.gid p.pid p.pc [] [x, y] (some addr) (some fall) = (u.modGroup h.gid (fun g => g.holdAfter s.nextId fall)).settle h.gid := by
    unfold State.control
    simp only [State.takeTraps, List.foldl_nil, hd]
  have hH := State.group?_modGroup_same hG (fun g => g.holdAfter s.nextId fall) fun _ => rfl
  obtain ⟨f, hf⟩ := Group.holdAfter_eq { h with
    joins := ⟨s.nextId, addr, p.lanes⟩ :: h.joins,
    paths := [p.ofPart x s.fresh.2.nextId [s.nextId], p.ofPart y (s.fresh.2.nextId + 1) [s.nextId]] } s.nextId fall
  have hpaths := congrArg Group.paths hf
  obtain ⟨i, j, hij⟩ := Group.tidy_two hpaths hx hy hpc
  have hgl : (Group.holdAfter { h with
      joins := ⟨s.nextId, addr, p.lanes⟩ :: h.joins,
      paths := [p.ofPart x s.fresh.2.nextId [s.nextId], p.ofPart y (s.fresh.2.nextId + 1) [s.nextId]] } s.nextId fall).noStack := fun q hq => by
    rw [hpaths] at hq
    rcases List.mem_cons.mp hq with rfl | hq
    · exact hs.stacked
    · rw [List.mem_singleton.mp hq]; exact hs.stacked
  rw [e, State.settle_noStack _ _ _ hH hgl]
  refine ⟨_, _, _, (State.group?_modGroup_same hH Group.tidy Group.tidy_gid).trans (congrArg some hij), rfl, rfl, rfl,
    ⟨rfl, rfl, rfl⟩, rfl, rfl, rfl⟩

theorem eight_mul_signExtend_ne {disp : BitVec 24} (h : disp ≠ 1) (pc : Word) : pc + 8 * disp.signExtend 64 ≠ pc + 8 := by
  intro he
  have hb := disp.toInt_lt
  have hb' := disp.le_toInt
  have h8 : (8 * disp.signExtend 64).toInt = (8 : Word).toInt := congrArg _ (by
    have := congrArg (fun w => w - pc) he
    simpa [BitVec.add_comm pc, BitVec.add_sub_cancel] using this)
  rw [BitVec.toInt_mul, BitVec.toInt_signExtend_of_le (by decide)] at h8
  have h1 : disp.toInt = 1 := by
    rw [Int.bmod_eq_of_le (by simp; omega) (by simp; omega)] at h8
    simp at h8
    omega
  exact h (BitVec.toInt_inj.mp (h1.trans (by decide)))

/-- Settles O18: a control word with one target moves the path there; a division by BRD has a part for either answer of the guard. -/
theorem branchesAndDivisions : Obligations.BranchesAndDivisions := by
  refine ⟨fun g disp join r a s h p w hs hg => ?_, fun g disp join s h p => ?_⟩
  · intro link Goes
    have go : ∀ {i : Instr} {pc : Word} {j fall : Option Word} {lk : Option XReg},
        exec i s = .next (s.transfer h p [] [⟨p.lanes, pc, []⟩] j fall lk p.lanes) →
          Goes i pc (match lk with | none => id | some r => fun x : Lane => x.wx r (p.pc + 8)) := fun {i pc j fall lk} e => by
      obtain ⟨t, ht, h1, h2, h3⟩ := State.transfer_one hs pc j fall lk
      exact ⟨t, ht ▸ e, h1, h2, h3⟩
    refine ⟨fun ht => ⟨go (i := .br g disp) (lk := none) (branchWord_one hs hg ht 0 none), go (i := .brd g disp join) (lk := none) (branchWord_one hs hg ht join none),
        go (i := .call g r disp) (lk := some r) (branchWord_one hs hg ht 0 (some r))⟩,
      fun hw h0 h8 => ⟨go (i := .ret g a) (lk := none) (electWord_one hs hg (target := fun l => l.rx a) hw h0 h8 0 none), go (i := .jind g a join) (lk := none) (electWord_one hs hg (target := fun l => l.rx a) hw h0 h8 join none),
        go (i := .callind g r a join) (lk := some r) (electWord_one hs hg (target := fun l => l.rx a) hw h0 h8 join (some r))⟩,
      fun hw h0 h8 => go (i := .jmp g a disp) (lk := none) (electWord_one hs hg (target := fun l => l.jumpTarget a disp) hw h0 h8 0 none)⟩
  · intro tgt yes no hs ha hj hhj hq hsz hyes hno htgt hd hjoin
    obtain ⟨⟨hc, -⟩, hp, hl, hne, -⟩ := id hs
    have hpc : tgt ≠ p.pc + 8 := eight_mul_signExtend_ne hd p.pc
    have hsort : p.lanes.Pairwise (· < ·) := hl ▸ h.liveLanes_sorted
    have hmap : p.lanes.map (fun l => (l, if (h.active p g).contains l then tgt else p.pc + 8)) =
        p.lanes.map (fun l => (l, if guardHolds g (h.lane l) then tgt else p.pc + 8)) := List.map_congr_left fun l hm => by
      simp [Group.active, hm]
    have hexec : ∀ {parts : List Part}, partsOf (p.lanes.map (fun l => (l, if guardHolds g (h.lane l) then tgt else p.pc + 8))) = parts →
        exec (.brd g disp join) s = .next (s.control h.gid p.pid p.pc [] parts (some (p.pc + 8 * join.zeroExtend 64)) (some (p.pc + 8))) :=
      fun {parts} hparts => by
        have ht : ¬ (branchTarget p.pc disp).toNat / 2 ^ 56 ≠ 0 := fun hc => hc htgt
        have hlink : ∀ d : DivRes, (match d with | .overflow _ | .held => s | _ => s.linkLanes h.gid none (h.active p g) p.pc) = s :=
          fun d => by cases d <;> rfl
        show branchWord g disp join none s = _
        unfold branchWord State.transfer
        rw [hc]
        simp only [if_neg ht, joinTarget, if_neg hjoin]
        rw [show branchTarget p.pc disp = tgt from rfl, hmap, hparts]
        exact congrArg (fun u : State => Host.Outcome.next (u.control h.gid p.pid p.pc [] parts (some (p.pc + 8 * join.zeroExtend 64)) (some (p.pc + 8))))
          (hlink _)
    rcases partsOf_divided hpc (fun l => guardHolds g (h.lane l)) hsort hyes hno with hparts | hparts
    · obtain ⟨h', a, b, k1, k2, k3, k4, ⟨a1, a2, a3⟩, b1, b2, b3⟩ :=
        State.control_two hs ha hj hq (x := ⟨yes, tgt, []⟩) (y := ⟨no, p.pc + 8, []⟩) hyes hno hpc (p.pc + 8 * join.zeroExtend 64) (p.pc + 8)
      exact ⟨_, h', s.nextId, a, b, hexec hparts, k1, by rw [k2, hhj], by rw [k3]; rfl, by simp [k3], by simp [k3], a1, a2, a3, b1, b2, b3, k4⟩
    · obtain ⟨h', b, a, k1, k2, k3, k4, ⟨b1, b2, b3⟩, a1, a2, a3⟩ :=
        State.control_two hs ha hj hq (x := ⟨no, p.pc + 8, []⟩) (y := ⟨yes, tgt, []⟩) hno hyes hpc.symm (p.pc + 8 * join.zeroExtend 64) (p.pc + 8)
      exact ⟨_, h', s.nextId, a, b, hexec hparts, k1, by rw [k2, hhj], by rw [k3]; rfl, by simp [k3], by simp [k3], a1, a2, a3, b1, b2, b3, k4⟩

end Sys2Proof.Machine
end


section
/-!
SETTLED. YIELD and JOIN of an undivided group, and the steps that reunite, rotate and release paths (O19).
-/

namespace Sys2Proof.Machine

open Sys2Proof

/-- A group whose lanes stay as they are. -/
theorem GroupBecomes.sameLanes {s t : State} {gid : Nat} {g h : Group} (ht : GroupBecomes s t gid g) (hg : s.group? gid = some h)
    (hl : g.lanes = h.lanes) : SameLanes s t := fun n i => by
  by_cases hn : n = gid
  · subst hn
    rw [State.lane_of_group? ht.group, State.lane_of_group? hg]
    unfold Group.lane
    rw [hl]
  · exact State.lane_of_other ht.others hn i

/-! YIELD and JOIN (05 R127, R128). -/

/-- No path stacked, there is none to yield to. -/
theorem yield_goes {s : State} {h : Group} {p : Path} (hs : s.undivided h p) (gd : Guard) :
    execYield gd s = .next (s.modGroup h.gid (fun x => x.goOn p.pid (p.pc + 8))) := by
  obtain ⟨⟨hc, hn⟩, -⟩ := id hs
  have hwait : ((h.stackOf p.qset).any fun x => x.quads.any fun q => p.quads.contains q) = false := by rw [h.stackOf_noStack hn]; rfl
  unfold execYield
  rw [hc]
  simp only [hwait, Bool.not_false, Bool.or_true, if_true]
  exact congrArg Host.Outcome.next (State.goTo_settle s h.gid p.pid _ h hs.group hn)

/-- Outside every pending join, the only path of a group completes its JOIN. -/
theorem State.tryJoin_one {s : State} {gid : Nat} {g : Group} {p : Path} (hg : s.group? gid = some g) (hp : g.paths = [p])
    (hh : p.halted = some .join) (hl : p.lanes = g.liveLanes) (hj : p.joins = []) :
    s.tryJoin gid p.pid = (s.modPath gid p.pid (fun p => { p with pc := p.pc + 8, halted := none })).settle gid := by
  have hpath : g.path? p.pid = some p := by simp [Group.path?, hp]
  have hat : g.haltedAt p.pc .join = [p] := by simp [Group.haltedAt, hp, hh]
  have hset : (g.joinSet p).filter (fun l => !(g.lane l).exited) = p.lanes := by
    unfold Group.joinSet
    rw [hj, hl]
    rfl
  have hfull : (p.lanes.all fun l => [p].any fun r => r.lanes.contains l) = true := by simp
  unfold State.tryJoin
  simp only [hg, hpath, hat, hset, hh, List.filter_cons, List.filter_nil, hfull, BEq.rfl, Bool.and_self, if_true, List.flatMap_cons,
    List.flatMap_nil, List.append_nil]
  exact if_pos (by simp)

theorem join_goes {s : State} {h : Group} {p : Path} (hs : s.undivided h p) (hj : p.joins = []) :
    ∃ t a, execJoin s = .next t ∧ GroupBecomes s t h.gid (h.withPaths [{ p with pc := p.pc + 8, halted := none, after := a }]) := by
  obtain ⟨⟨hc, -⟩, hp, hl, hne, -⟩ := id hs
  have h1 := GroupBecomes.modGroup hs.group (fun g => g.modPath p.pid (fun p => { p with halted := some .join })) fun _ => rfl
  have hp1 := Group.modPath_one h p hp (fun p => { p with halted := some .join })
  have h2 := GroupBecomes.modGroup h1.group (fun g => g.modPath p.pid (fun p => { p with pc := p.pc + 8, halted := none })) fun _ => rfl
  have hp2 := Group.modPath_one (h.modPath p.pid (fun p => { p with halted := some .join })) { p with halted := some .join } hp1
    (fun p => { p with pc := p.pc + 8, halted := none })
  obtain ⟨a, h3⟩ := GroupBecomes.settle h2.group hp2 hne hs.stacked
  have ht := (h1.trans h2).trans h3
  have htry := State.tryJoin_one (p := { p with halted := some .join }) h1.group hp1 rfl hl hj
  refine ⟨_, a, ?_, ht⟩
  unfold execJoin
  rw [hc]
  have hjoin : (s.modPath h.gid p.pid (fun p => { p with halted := some .join })).tryJoin h.gid p.pid =
      ((s.modGroup h.gid (fun g => g.modPath p.pid (fun p => { p with halted := some .join }))).modGroup h.gid
        (fun g => g.modPath p.pid (fun p => { p with pc := p.pc + 8, halted := none }))).settle h.gid := htry
  simp only [hjoin, ht.group]
  refine if_neg ?_
  simp [Group.path?, Group.withPaths]

/-! A pending join completes (05 R122). -/

theorem insertBy_perm {α : Type} (key : α → Nat) (x : α) (l : List α) : (insertBy key x l).Perm (x :: l) := by
  induction l with
  | nil => exact .refl _
  | cons y r ih =>
    unfold insertBy
    split
    · exact .refl _
    · exact (ih.cons y).trans (.swap x y r)

theorem sortBy_perm {α : Type} (key : α → Nat) (l : List α) : (sortBy key l).Perm l := by
  have h : ∀ (l acc : List α), (l.foldl (fun acc x => insertBy key x acc) acc).Perm (l ++ acc) := by
    intro l
    induction l with
    | nil => exact fun _ => .refl _
    | cons x r ih => exact fun acc => (ih _).trans (((insertBy_perm key x acc).append_left r).trans List.perm_middle)
  have h0 := h l []
  rwa [List.append_nil] at h0

/-- A list without repetitions sorts to the sorted list of its members. -/
theorem sortNat_eq_of_mem {l m : List Nat} (hl : l.Nodup) (hm : m.Pairwise (· < ·)) (h : ∀ x, x ∈ l ↔ x ∈ m) : sortNat l = m := by
  have hp : (sortNat l).Perm m := (sortBy_perm id l).trans ((List.perm_ext_iff_of_nodup hl (hm.imp Nat.ne_of_lt)).mpr h)
  exact hp.eq_of_pairwise (fun _ _ _ _ => Nat.le_antisymm) (sortBy_sorted id l) (hm.imp Nat.le_of_lt)

/-- All lanes of a group's paths, none of them stacked, go on as one path. -/
theorem State.regang_all {s : State} {gid : Nat} {g : Group} (hg : s.group? gid = some g) (hn : g.noStack) (ho : g.owedEntries = [])
    {lanes : List Nat} (hall : ∀ q ∈ g.paths, ∀ l ∈ q.lanes, l ∈ lanes) (pc : Word) (joins : List Nat) :
    ∃ g' q, (s.regang gid lanes pc joins).group? gid = some g' ∧ g'.paths = [q] ∧ q.lanes = sortNat lanes ∧ q.pc = pc ∧ q.joins = joins ∧
      q.stacked = none := by
  have hgone : g.paths.filter (fun x => x.stacked.isSome && x.lanes.all lanes.contains) = [] :=
    List.filter_eq_nil_iff.mpr fun q hq => by rw [hn q hq]; exact Bool.false_ne_true
  have hold : ∀ f : Path → Bool, g.paths.filter (fun x => x.stacked.isSome && !x.lanes.all lanes.contains && f x) = [] := fun f =>
    List.filter_eq_nil_iff.mpr fun q hq => by rw [hn q hq]; exact Bool.false_ne_true
  have hleft : ∀ f : Path → Path, (∀ x, (f x).lanes = x.lanes.filter (fun l => !lanes.contains l)) →
      (g.paths.map f).filter (fun x => !x.lanes.isEmpty) = [] := fun f hf => List.filter_eq_nil_iff.mpr fun q hq => by
    obtain ⟨x, hx, rfl⟩ := List.mem_map.mp hq
    rw [hf, List.filter_eq_nil_iff.mpr fun l hl => by simp [hall x hx l hl]]
    exact Bool.false_ne_true
  unfold State.regang
  simp only [hg, hgone, hold, List.foldl_nil]
  have hone : ∀ (u : State) (n : Nat), u.oneStack gid n [] = .done u := fun u n => if_pos (by decide)
  simp only [hone, StackRes.bind]
  have end_ : ∀ (F : Group → Group) (q : Path) (n : Nat), (∀ x, (F x).gid = x.gid) → (F g).paths = [q] → (F g).owedEntries = [] →
      ((match (s.fresh.2.modGroup gid F).enforceSlots gid [n] false 40 with
        | .done s3 => s3
        | _ => (s.fresh.2.modGroup gid F).fullSplit gid).allJoined gid).group? gid = some (F g) := fun F q n hF hp ho => by
    have hG : (s.fresh.2.modGroup gid F).group? gid = some (F g) := State.group?_modGroup_same (s := s.fresh.2) hg F hF
    rw [State.enforceSlots_one hG hp]
    exact (congrArg (fun u : State => u.group? gid) (State.allJoined_none hG ho)).trans hG
  exact ⟨_, _, end_ _ _ _ (fun _ => rfl) (congrArg (· ++ [_]) (hleft _ fun _ => rfl)) ho, congrArg (· ++ [_]) (hleft _ fun _ => rfl), rfl, rfl, rfl, rfl⟩

/-- A pending join at which every lane of its group stands completes. -/
theorem State.completeJoin_all {s : State} {h : Group} {j : Join} (hg : s.group? h.gid = some h) (hn : h.noStack) (ho : h.owedEntries = [])
    (hj : h.join? j.jid = some j) (hmask : j.mask = h.liveLanes) (hne : j.mask ≠ []) (hin : ∀ l ∈ j.mask, ∃ q ∈ h.paths, l ∈ q.lanes)
    (hall : ∀ q ∈ h.paths, q.joins = [j.jid] ∧ q.pc = j.addr ∧ q.lanes ≠ [] ∧ ∀ l ∈ q.lanes, l ∈ j.mask) :
    ∃ t q, s.completeJoin h.gid j.jid = t ∧ (t.group? h.gid).map (·.paths) = some [q] ∧ q.lanes = j.mask ∧ q.pc = j.addr ∧ q.joins = [] := by
  have harrived : ∀ q ∈ h.paths, h.arrived q = true := fun q hq => by
    obtain ⟨hqj, hqpc, -⟩ := hall q hq
    simp [Group.arrived, Group.joinAddr, hn q hq, hqj, hj, hqpc]
  have hready : h.joinReady j = true := List.all_eq_true.mpr fun l hl => by
    obtain ⟨q, hq, hlq⟩ := hin l hl
    obtain ⟨hqj, -⟩ := hall q hq
    exact Bool.or_eq_true_iff.mpr (.inr (List.any_eq_true.mpr ⟨q, hq, by simp [hlq, hqj, harrived q hq]⟩))
  obtain ⟨r, hr, hrj⟩ : ∃ r, h.paths.find? (fun p => p.joins.head? == some j.jid) = some r ∧ r.joins = [j.jid] := by
    obtain ⟨l, hl⟩ := List.exists_mem_of_ne_nil _ hne
    obtain ⟨q, hq, -⟩ := hin l hl
    obtain ⟨r, hr⟩ := Option.isSome_iff_exists.mp (List.find?_isSome (p := fun p : Path => p.joins.head? == some j.jid).mpr
      ⟨q, hq, by rw [(hall q hq).1]; exact BEq.rfl⟩)
    exact ⟨r, hr, (hall r (List.mem_of_find?_eq_some hr)).1⟩
  have hlive : j.mask.filter (fun l => !(h.lane l).exited) = j.mask := by
    rw [hmask]
    exact List.filter_eq_self.mpr fun l hl => (List.mem_filter.mp hl).2
  obtain ⟨came, hcame⟩ : ∃ came, (h.paths.filter (fun p => p.joins.head? == some j.jid && h.arrived p)).flatMap (·.lanes) = came := ⟨_, rfl⟩
  have hmem : ∀ l, l ∈ (j.mask ++ came).dedup ↔ l ∈ j.mask := fun l => by
    rw [List.mem_dedup, List.mem_append]
    refine ⟨fun hl => hl.elim id fun hl => ?_, .inl⟩
    rw [← hcame] at hl
    obtain ⟨q, hq, hlq⟩ := List.mem_flatMap.mp hl
    exact (hall q (List.mem_filter.mp hq).1).2.2.2 l hlq
  have hsort : sortNat (j.mask ++ came).dedup = j.mask := sortNat_eq_of_mem (List.nodup_dedup _) (hmask ▸ h.liveLanes_sorted) hmem
  have h1 := GroupBecomes.modGroup hg (fun g => { g with
    joins := g.joins.filter (fun x => x.jid != j.jid),
    paths := g.paths.map (fun p => { p with joins := p.joins.filter (· ≠ j.jid) }) }) fun _ => rfl
  obtain ⟨g', q, hg', hp', hl', hpc', hj', hs'⟩ := State.regang_all h1.group (fun q hq => by
      obtain ⟨r, hr, rfl⟩ := List.mem_map.mp hq
      exact hn r hr) ho (lanes := (j.mask ++ came).dedup) (fun q hq l hl => by
      obtain ⟨r, hr, rfl⟩ := List.mem_map.mp hq
      exact (hmem l).mpr ((hall r hr).2.2.2 l hl)) j.addr []
  obtain ⟨a, hset, -⟩ := State.settle_one hg' hp' (by rw [hl', hsort]; exact hne) hs'
  refine ⟨_, { q with after := a }, ?_, by rw [hset]; rfl, hl'.trans hsort, hpc', hj'⟩
  unfold State.completeJoin
  simp only [hg, hj, hready, if_true, hlive, hcame, hr, hrj, List.tail_cons]
  refine if_neg fun hemp => hne ?_
  rw [List.isEmpty_iff.mp hemp] at hsort
  exact hsort.symm

/-- Settles O19. -/
theorem pathsYieldAndReunite : Obligations.PathsYieldAndReunite := by
  intro g s h p
  refine ⟨fun hs => ?_, fun hs hj => ?_, fun j hg h0 h1 hn ho hjid hmask hne hin hall => ?_,
    fun q rest x more hg h0 hst hclk hcand => ?_, fun hg h0 h1 hp hl hne hh hst hw hf hm ho => ?_⟩
  · obtain ⟨-, hp, -⟩ := id hs
    have ht := GroupBecomes.modGroup hs.group (fun x => x.goOn p.pid (p.pc + 8)) fun x => Group.goOn_gid x _ _
    exact ⟨_, yield_goes hs g, hs.goesTo hp ht.group, ht.sameLanes hs.group (Group.goOn_lanes _ _ _), ht.rest⟩
  · obtain ⟨t, a, e, ht⟩ := join_goes hs hj
    exact ⟨t, e, ht.goesTo hs, ht.sameLanes hs.group rfl, ht.rest⟩
  · obtain ⟨t, q, e, ht⟩ := State.completeJoin_all hg hn ho hjid hmask hne hin hall
    refine ⟨t, q, ?_, ht⟩
    show Host.Outcome.next (s.completeJoin (s.arg 0) (s.arg 1)) = _
    rw [h0, h1, e]
  · show execStackRotation s = _
    unfold execStackRotation
    simp only [h0, hg, hst, hcand]
    exact if_neg (by bv_omega)
  · obtain ⟨f, hfun⟩ : ∃ f : Lane → Lane, (fun l => if (false && !l.exited) = true then { l with pts := max l.pts h.acqPts } else l) = f := ⟨_, rfl⟩
    have hb := GroupBecomes.modGroup hg (fun g => { g with lanes := g.lanes.map f }) fun _ => rfl
    obtain ⟨a, hr⟩ := GroupBecomes.release hb.group hp hne hst ho (by rw [hh]; rfl)
    refine ⟨_, ?_, ⟨{ p with pc := p.pc + 8, halted := none, after := a }, by rw [hr.group]; rfl, rfl, rfl, rfl, hw⟩, (hb.trans hr).rest⟩
    have hpath : h.path? p.pid = some p := by simp [Group.path?, hp]
    have hready : h.formReady p.pc .mwait = true := by
      unfold Group.formReady Group.haltedAt
      refine List.all_eq_true.mpr fun l hl' => ?_
      have hmem : l ∈ p.lanes := by rw [hl]; exact hl'
      simp [hp, hh, hmem]
    have heff : s.releaseAt h.gid p.pid .mwait = (s.modGroup h.gid (fun g => { g with lanes := g.lanes.map f })).releaseForm h.gid := by
      show s.formTry h.gid p.pid .mwait (mwaitEff false) = _
      unfold State.formTry mwaitEff
      simp only [hg, hpath, hh, hready, hm]
      rw [← hfun]
      rfl
    show execConvergentRelease s = _
    unfold execConvergentRelease
    simp only [h0, h1, hg, hpath, Option.bind_some, hh, hf]
    exact congrArg Host.Outcome.next heff

end Sys2Proof.Machine
end


section
/-!
SETTLED. The dual word: both slots read before either writes, a memory slot among them (O21).
-/

namespace Sys2Proof.Machine

open Sys2Proof

/-! What the writes of a lane's slots leave. -/

/-- One lane's registers and flags, with the flags of its context, have changed. -/
structure LaneFlags (s t : State) (gid : Nat) (g : Group) (l : Nat) (f : Lane → Lane) : Prop where
  group : t.group? gid = some (g.modLane l f)
  others : ∀ n, n ≠ gid → t.group? n = s.group? n
  rest : t = { s with groups := t.groups, ctxs := t.ctxs }

theorem State.modLane_raiseFlags {s : State} {gid l : Nat} {g : Group} (hg : s.group? gid = some g) (f : Lane → Lane) (fl : Fl) :
    LaneFlags s ((s.modLane gid l f).raiseFlags gid l fl) gid g l (fun y => (f y).setFlags fl) := by
  have h1 : (s.modLane gid l f).group? gid = some (g.modLane l f) := State.group?_modGroup_same hg _ fun _ => rfl
  have h2 : ((s.modLane gid l f).modLane gid l (fun x => x.setFlags fl)).group? gid = some ((g.modLane l f).modLane l (fun x => x.setFlags fl)) :=
    State.group?_modGroup_same h1 _ fun _ => rfl
  have hl : (g.modLane l f).modLane l (fun x => x.setFlags fl) = g.modLane l (fun y => (f y).setFlags fl) :=
    congrArg (fun ls => { g with lanes := ls }) (List.modify_modify_eq f (fun x => x.setFlags fl) l g.lanes)
  unfold State.raiseFlags
  rw [h1]
  dsimp only
  refine ⟨(State.orCl_group? _ _ _ _ _).trans (h2.trans (congrArg some hl)), fun n hn => (State.orCl_group? _ _ _ _ _).trans ?_, ?_⟩
  · exact (State.group?_modGroup_other (s.modLane gid l f) gid n (fun g => g.modLane l (fun x => x.setFlags fl)) (fun _ => rfl) hn).trans
      (State.group?_modGroup_other s gid n (fun g => g.modLane l f) (fun _ => rfl) hn)
  · rw [State.orCl_eq]
    rfl

/-- A lane after both register slots. -/
def Lane.dual (s0 s1 : Slot) (x : Lane) : Lane :=
  ((slotReg s1 x).1 ((slotReg s0 x).1 x)).setFlags ((slotReg s0 x).2.or (slotReg s1 x).2)

theorem State.slotMem_none {s : State} {gid l : Nat} {sl : Slot} {x : Lane} (h1 : slotLd sl.op = none) (h2 : slotSt sl.op = none) :
    s.slotMem gid l sl x = .ok () s := by
  unfold State.slotMem
  simp only [h1, h2]

/-- Two register slots in one lane. -/
theorem State.dualLane_regs {s : State} {gid l : Nat} {g : Group} {s0 s1 : Slot} (hg : s.group? gid = some g) (hl : l < g.size)
    (h0 : slotLd s0.op = none) (h0' : slotSt s0.op = none) (h1 : slotLd s1.op = none) (h1' : slotSt s1.op = none) :
    ∃ u, s.dualLane gid l s0 s1 = .ok () u ∧ LaneFlags s u gid g l (Lane.dual s0 s1) := by
  have hx := State.lane_of_group? hg l
  have hu := State.modLane_raiseFlags (l := l) hg (fun y => (slotReg s1 (g.lane l)).1 ((slotReg s0 (g.lane l)).1 y))
    ((slotReg s0 (g.lane l)).2.or (slotReg s1 (g.lane l)).2)
  refine ⟨_, ?_, ⟨hu.group.trans (congrArg some ?_), hu.others, hu.rest⟩⟩
  · unfold State.dualLane
    rw [hx]
    simp only [State.slotMem_none h0 h0', State.slotMem_none h1 h1', LRes.bind]
  · have hl' : l < g.lanes.length := hl
    refine congrArg (fun ls => { g with lanes := ls }) ?_
    rw [List.modify_eq_set_getElem?, List.modify_eq_set_getElem?]
    simp [Group.lane, Lane.dual, List.getD_eq_getElem?_getD, hl']

/-- The lanes of a path, each after both register slots. -/
theorem laneFold_dual {gid : Nat} {s0 s1 : Slot} (h0 : slotLd s0.op = none) (h0' : slotSt s0.op = none) (h1 : slotLd s1.op = none)
    (h1' : slotSt s1.op = none) (ls : List Nat) : ∀ (s : State) (g : Group), s.group? gid = some g → ls.Nodup → (∀ l ∈ ls, l < g.size) →
      ∃ u g', laneFold (fun s l => s.dualLane gid l s0 s1) ls s = ⟨u, [], [], false⟩ ∧ u.group? gid = some g' ∧
        g' = { g with lanes := g'.lanes } ∧ (∀ l, g'.lane l = if l ∈ ls then (g.lane l).dual s0 s1 else g.lane l) ∧
        (∀ n, n ≠ gid → u.group? n = s.group? n) ∧ u = { s with groups := u.groups, ctxs := u.ctxs } := by
  induction ls with
  | nil => exact fun s g hg _ _ => ⟨s, g, rfl, hg, rfl, fun _ => rfl, fun _ _ => rfl, rfl⟩
  | cons a r ih =>
    intro s g hg hnd hlt
    obtain ⟨hna, hnd'⟩ := List.nodup_cons.mp hnd
    have hlt' := hlt a (List.mem_cons_self ..)
    obtain ⟨u1, e1, k1⟩ := State.dualLane_regs hg hlt' h0 h0' h1 h1'
    obtain ⟨u, g', e, hg', heq, hl, ho, hrest⟩ := ih u1 (g.modLane a (Lane.dual s0 s1)) k1.group hnd' fun l hl => by
      rw [Group.modLane_size]
      exact hlt l (List.mem_cons_of_mem _ hl)
    refine ⟨u, g', ?_, hg', heq, fun l => ?_, fun n hn => (ho n hn).trans (k1.others n hn), by rw [hrest, k1.rest]⟩
    · unfold laneFold
      rw [e1]
      exact e
    · rw [hl l]
      by_cases hla : l = a
      · subst hla
        rw [if_neg hna, if_pos (List.mem_cons_self ..)]
        exact Group.lane_modLane_same g l _ hlt'
      · have : (g.modLane a (Lane.dual s0 s1)).lane l = g.lane l := Group.lane_modLane_other g a l _ hla
        simp [this, hla]

/-! The word's end. -/

/-- A dual word that no lane is held or trapped in goes on. -/
theorem execDualWord_ends {s u : State} {h g' : Group} {p : Path} {s0 s1 : Slot} (hs : s.undivided h p)
    (ht : (slotTarget p.pc s1).toNat / 2 ^ 56 = 0) (hf : laneFold (fun s l => s.dualLane h.gid l s0 s1) p.lanes s = ⟨u, [], [], false⟩)
    (hg : u.group? h.gid = some g') (hp : g'.paths = [p]) :
    ∃ t, exec (.dualWord s0 s1) s = .next t ∧ GoesTo t h p (slotTarget p.pc s1) ∧ t.group? h.gid = some (g'.goOn p.pid (slotTarget p.pc s1)) ∧
      (∀ n, n ≠ h.gid → t.group? n = u.group? n) ∧ (∀ n i, t.lane n i = u.lane n i) ∧ t = { u with groups := t.groups } := by
  obtain ⟨⟨hc, -⟩, -⟩ := id hs
  have hn : g'.noStack := fun q hq => by rw [hp] at hq; rw [List.mem_singleton.mp hq]; exact hs.stacked
  have hG := State.group?_modGroup_same hg (fun x => x.goOn p.pid (slotTarget p.pc s1)) fun x => Group.goOn_gid x _ _
  refine ⟨u.modGroup h.gid (fun x => x.goOn p.pid (slotTarget p.pc s1)), ?_, hs.goesTo hp hG, hG,
    fun n hn => State.group?_modGroup_other u h.gid n _ (fun x => Group.goOn_gid x _ _) hn, fun n i => State.lane_goOn u h.gid p.pid n i _, rfl⟩
  show execDualWord s0 s1 s = _
  unfold execDualWord
  rw [hc]
  simp only [hf, ht]
  exact (if_neg (by simp)).trans (congrArg Host.Outcome.next (State.goTo_settle u h.gid p.pid _ g' hg hn))

/-! A memory slot. -/

/-- A lane with one register slot after the memory access of the other. -/
theorem State.dualLane_access {s u : State} {gid l : Nat} {g : Group} {s0 s1 acc reg : Slot} (hu : u.group? gid = some g) (hl : l < g.size)
    (hsl : s0 = acc ∧ s1 = reg ∨ s0 = reg ∧ s1 = acc) (h1 : slotLd reg.op = none) (h2 : slotSt reg.op = none)
    (hacc : slotLd acc.op ≠ none ∨ slotSt acc.op ≠ none) (hm : s.slotMem gid l acc (s.lane gid l) = .ok () u) :
    ∃ t, s.dualLane gid l s0 s1 = .ok () t ∧ LaneFlags u t gid g l (fun y =>
      ((slotReg reg (s.lane gid l)).1 y).setFlags ((slotReg s0 (s.lane gid l)).2.or (slotReg s1 (s.lane gid l)).2)) := by
  have hid : (slotReg acc (s.lane gid l)).1 = id := by
    cases hop : acc.op <;> simp [hop, slotLd, slotSt] at hacc <;> simp only [slotReg, hop]
  refine ⟨_, ?_, State.modLane_raiseFlags hu (slotReg reg (s.lane gid l)).1 _⟩
  unfold State.dualLane
  rcases hsl with ⟨rfl, rfl⟩ | ⟨rfl, rfl⟩
  · simp only [hm, LRes.bind, State.slotMem_none h1 h2, hid]
    rfl
  · simp only [State.slotMem_none h1 h2, LRes.bind, hm, hid]
    rfl

/-- A short load from a scratchpad of the class. -/
theorem State.slotMem_load {s : State} {h : Group} {l i o n : Nat} {pd : Pad} {acc : Slot} {sx : Bool} (hg : s.group? h.gid = some h)
    (hop : slotLd acc.op = some (n, sx)) (hpl : s.placed h l ((h.lane l).rx acc.a + SOpnd.x (h.lane l) acc.s) n i o pd) :
    ∃ u, s.slotMem h.gid l acc (h.lane l) = .ok () u ∧ u.group? h.gid = some (h.modLane l (fun y =>
        ({ y with pts := max (h.lane l).pts (pd.tsOf (o / 128)).wts } : Lane).wx acc.d (loadValue sx n (fromBytes (cellsRead pd.bytes o n))))) ∧
      u.mem = s.mem ∧ SamePads s u ∧ ∀ k, k ≠ h.gid → u.group? k = s.group? k := by
  obtain ⟨ha, hal, hp, hb, h1, -, h3⟩ := hpl
  have hload := State.load_pad (s := s) (sub := 1) hg ha hal hp hb h1 h3
  have e : s.slotMem h.gid l acc (h.lane l) = .ok () (((s.modPad h.cls i (fun _ => (pd.load o n (h.lane l).pts).2.2)).setPts h.gid l
      (pd.load o n (h.lane l).pts).2.1).modLane h.gid l (fun x => x.wx acc.d (loadValue sx n (pd.load o n (h.lane l).pts).1))) := by
    unfold State.slotMem
    simp only [hop, State.laneLoad, State.ordOpen, shortMod, LRes.bind, hload, Lane.acquired]
  refine ⟨_, e, ?_, rfl, ?_, fun k hk => ?_⟩
  · have k1 : ((s.modPad h.cls i (fun _ => (pd.load o n (h.lane l).pts).2.2)).setPts h.gid l (pd.load o n (h.lane l).pts).2.1).group? h.gid =
        some (h.modLane l (fun y => { y with pts := (pd.load o n (h.lane l).pts).2.1 })) :=
      State.group?_modGroup_same (s := s.modPad h.cls i _) hg _ fun _ => rfl
    refine (State.group?_modGroup_same k1 (fun g => g.modLane l (fun x => x.wx acc.d (loadValue sx n (pd.load o n (h.lane l).pts).1)))
      fun _ => rfl).trans (congrArg some ?_)
    exact congrArg (fun ls => { h with lanes := ls }) (List.modify_modify_eq _ _ l h.lanes)
  · exact samePads_setTs hp _
  · exact (State.group?_modGroup_other _ h.gid k (fun g => g.modLane l _) (fun _ => rfl) hk).trans
      (State.group?_modGroup_other (s.modPad h.cls i _) h.gid k (fun g => g.modLane l _) (fun _ => rfl) hk)

/-- A short store to a scratchpad of the class. -/
theorem State.slotMem_store {s : State} {h : Group} {l i o n : Nat} {pd : Pad} {acc : Slot} (hg : s.group? h.gid = some h) (hn : h.noStack)
    (hld : slotLd acc.op = none) (hop : slotSt acc.op = some n) (hpl : s.placed h l ((h.lane l).rx acc.a + SOpnd.x (h.lane l) acc.s) n i o pd)
    (hw : (h.lane l).wait = none) :
    ∃ u g pd', s.slotMem h.gid l acc (h.lane l) = .ok () u ∧ u.group? h.gid = some g ∧ g.paths = h.paths ∧ g.size = h.size ∧
      SameRegs (h.lane l) (g.lane l) ∧ u.mem = s.mem ∧ u.pad? h.cls i = some pd' ∧
      pd'.bytes = cellsWrite pd.bytes o (toBytes n ((h.lane l).rx acc.d).toNat) ∧
      ∀ k j, ¬(k = h.cls ∧ j = i) → u.pad? k j = s.pad? k j := by
  obtain ⟨ha, hal, hp, hb, -, h2, h3⟩ := hpl
  have hlen := toBytes_length n ((h.lane l).rx acc.d).toNat
  have hst : slotSt acc.op = some n := hop
  obtain ⟨bs, hbs⟩ : ∃ bs, toBytes n ((h.lane l).rx acc.d).toNat = bs := ⟨_, rfl⟩
  rw [hbs] at hlen ⊢
  subst hlen
  have hstore := State.store_pad (s := s) (bs := bs) hg ha hal hp hb h2 h3
  obtain ⟨q, hq⟩ : ∃ q, pd.store (h.writer l i) o (h.lane l).pts bs = q := ⟨_, rfl⟩
  rw [hq] at hstore
  let u1 := s.modPad h.cls i (fun _ => q.2)
  let u2 := (u1.fireWatches (.pad h.cls i (o / 128)) q.1).setPts h.gid l q.1
  let u3 := u2.noteSend h.gid l ((h.lane l).rx acc.a + SOpnd.x (h.lane l) acc.s) bs
  have e : s.slotMem h.gid l acc (h.lane l) = .ok () u3 := by
    unfold State.slotMem
    simp only [hld, hop, State.laneStore, State.ordOpen, shortMod, LRes.bind, hbs, hstore]
    exact congrArg (LRes.ok ()) (State.modLane_id u3 h.gid l)
  obtain ⟨g2, hg2, -, hp2, hz2⟩ := State.noStack_fireWatches (a := .pad h.cls i (o / 128)) (ts := q.1) (s := u1) hg hn
  have hg2' : u2.group? h.gid = some (g2.modLane l (fun y => { y with pts := q.1 })) := State.group?_modGroup_same hg2 _ fun _ => rfl
  have hg3 : u3.group? h.gid = some (g2.modLane l (fun y => { y with pts := q.1 })) := by
    refine Eq.trans ?_ hg2'
    unfold State.group?
    rw [State.noteSend_groups]
  have hx : s.lane h.gid l = h.lane l := State.lane_of_group? hg l
  have hregs := (State.lane_stored u1 (.pad h.cls i (o / 128)) q.1 h.gid l q.1 h.gid l ((congrArg Lane.wait hx).trans hw)).1
  have hpads : ∀ k j, u3.pad? k j = u1.pad? k j := fun k j => by
    show State.pad? (u2.noteSend h.gid l _ bs) k j = _
    rw [State.noteSend_eq]
    rfl
  refine ⟨u3, _, q.2, e, hg3, hp2, (Group.modLane_size _ _ _).trans hz2, ?_, ?_, (hpads _ _).trans (State.pad?_stored hp).1,
    by rw [← hq]; rfl, fun k j hkj => (hpads k j).trans ((State.pad?_stored hp).2 k j hkj)⟩
  · rw [← State.lane_of_group? hg2' l, ← hx]
    exact hregs
  · show (u2.noteSend h.gid l _ bs).mem = _
    rw [State.noteSend_eq]
    rfl

/-! Register writes of lanes that agree in their registers. -/

theorem SameRegs.wx {a b : Lane} (h : SameRegs a b) (d : XReg) (v : Word) : SameRegs (a.wx d v) (b.wx d v) := by
  obtain ⟨h1, h2, h3, h4, h5, h6, h7, h8, h9, h10, h11, h12, h13, h14, h15⟩ := h
  by_cases h0 : d.val = 0
  · simp only [Lane.wx, h0, if_true]
    exact ⟨h1, h2, h3, h4, h5, h6, h7, h8, h9, h10, h11, h12, h13, h14, h15⟩
  by_cases hS : a.privS = true ∧ 60 ≤ d.val
  · have hS' : b.privS = true ∧ 60 ≤ d.val := h14 ▸ hS
    simp only [Lane.wx, h0, if_false, dif_pos hS, dif_pos hS']
    exact ⟨h1, by rw [h2], h3, h4, h5, h6, h7, h8, h9, h10, h11, h12, h13, h14, h15⟩
  · have hS' : ¬ (b.privS = true ∧ 60 ≤ d.val) := h14 ▸ hS
    simp only [Lane.wx, h0, if_false, dif_neg hS, dif_neg hS']
    exact ⟨by rw [h1], h2, h3, h4, h5, h6, h7, h8, h9, h10, h11, h12, h13, h14, h15⟩

theorem SameRegs.wk {a b : Lane} (h : SameRegs a b) (d : KReg) (v : Bool) : SameRegs (a.wk d v) (b.wk d v) := by
  obtain ⟨h1, h2, h3, h4, h5⟩ := h
  unfold Lane.wk
  rw [h4]
  split_ifs
  · exact ⟨h1, h2, h3, h4, h5⟩
  · exact ⟨h1, h2, h3, rfl, h5⟩

theorem SameRegs.wv {a b : Lane} (h : SameRegs a b) (d : VReg) (v : BitVec 128) : SameRegs (a.wv d v) (b.wv d v) := by
  obtain ⟨h1, h2, h3, h4⟩ := h
  unfold Lane.wv
  rw [h3]
  exact ⟨h1, h2, rfl, h4⟩

theorem SameRegs.setFlags {a b : Lane} (h : SameRegs a b) (f : Fl) : SameRegs (a.setFlags f) (b.setFlags f) := by
  obtain ⟨h1, h2, h3, h4, h5, h6, h7, h8⟩ := h
  unfold Lane.setFlags
  rw [h7]
  exact ⟨h1, h2, h3, h4, h5, h6, rfl, h8⟩

theorem SameRegs.slotReg {a b : Lane} (h : SameRegs a b) (sl : Slot) (x : Lane) : SameRegs ((slotReg sl x).1 a) ((slotReg sl x).1 b) := by
  have packed : ∀ r : VRes, SameRegs { a.wv (vOf sl.d) r.v with srstate := r.sr } { b.wv (vOf sl.d) r.v with srstate := r.sr } := fun r => by
    obtain ⟨h1, h2, h3, h4, h5, h6, h7, h8, h9, h10, h11, -, h13⟩ := h.wv (vOf sl.d) r.v
    exact ⟨h1, h2, h3, h4, h5, h6, h7, h8, h9, h10, h11, rfl, h13⟩
  unfold Machine.slotReg
  cases sl.op
  case cmpEq | cmpNe | cmpLtI | cmpGeI | cmpLtN | cmpGeN => exact h.wk _ _
  case vaddI32 | vsubI32 => exact h.wv _ _
  case faddF32 | fmulF32 => exact packed _
  case nop | ldN8 | ldN16 | ldN32 | ldB64 | ldI8 | ldI16 | ldI32 | stB8 | stB16 | stB32 | stB64 | br => exact h
  all_goals exact h.wx _ _

/-- Settles O21: the fold over the lanes with register slots; the one lane's access before its register slot otherwise. -/
theorem dualWordReadsBeforeWrites : Obligations.DualWordReadsBeforeWrites := by
  intro s0 s1 s h p hs ht
  obtain ⟨⟨-, hn⟩, hp, hlive, -⟩ := id hs
  have hlt : ∀ i ∈ p.lanes, i < h.size := fun i hi => List.mem_range.mp (List.mem_filter.mp (hlive ▸ hi)).1
  refine ⟨fun h0 h0' h1 h1' => ?_, fun l i o pd acc reg hl hsl hr1 hr2 => ?_⟩
  · obtain ⟨u, g', e, hg, heq, hlanes, ho, hrest⟩ := laneFold_dual h0 h0' h1 h1' p.lanes s h hs.group
      ((hlive ▸ h.liveLanes_sorted).imp Nat.ne_of_lt) hlt
    obtain ⟨t, et, hgo, hG, hother, -, htr⟩ := execDualWord_ends hs ht e hg (by rw [heq]; exact hp)
    refine ⟨t, _, et, hgo, hG, by rw [htr, hrest], fun k hk => (hother k hk).trans (ho k hk), fun i hi => ?_⟩
    rw [Group.goOn_lane, hlanes, if_pos hi]
    rfl
  · intro x A ends
    have hxl : s.lane h.gid l = x := State.lane_of_group? hs.group l
    have hll : l < h.size := hlt l (by rw [hl]; exact List.mem_singleton_self l)
    have fold : ∀ {t : State}, s.dualLane h.gid l s0 s1 = .ok () t →
        laneFold (fun s l => s.dualLane h.gid l s0 s1) p.lanes s = ⟨t, [], [], false⟩ := fun e => by
      rw [hl]
      exact laneFold_one _ l s _ e
    refine ⟨fun n sx hop hpl => ?_, fun n hop hpl hw => ?_⟩
    · obtain ⟨u, eu, hg, hm, hpads, ho⟩ := State.slotMem_load hs.group hop hpl
      obtain ⟨v, ev, hv⟩ := State.dualLane_access hg (by rw [Group.modLane_size]; exact hll) hsl hr1 hr2 (.inl (by rw [hop]; nofun))
        (by rw [hxl]; exact eu)
      rw [hxl] at hv
      obtain ⟨t, et, hgo, hG, hother, hlane, htr⟩ := execDualWord_ends hs ht (fold ev) hv.group hp
      refine ⟨t, et, hgo, by rw [htr, hv.rest]; exact hm, fun k j => ?_, fun k j hkj => ?_, ?_⟩
      · rw [htr, hv.rest]
        exact hpads k j
      · rw [hlane]
        by_cases hk : k = h.gid
        · subst hk
          have hj : j ≠ l := fun hj => hkj ⟨rfl, hj⟩
          rw [State.lane_of_group? hv.group, Group.lane_modLane_other _ _ _ _ hj, Group.lane_modLane_other _ _ _ _ hj, State.lane_of_group? hs.group]
        · exact State.lane_of_other (fun n hn => (hv.others n hn).trans (ho n hn)) hk j
      · rw [hlane, State.lane_of_group? hv.group, Group.lane_modLane_same _ _ _ (by rw [Group.modLane_size]; exact hll),
          Group.lane_modLane_same _ _ _ hll]
    · have hld : slotLd acc.op = none := by cases hop' : acc.op <;> simp_all [slotLd, slotSt]
      obtain ⟨u, g, pd', eu, hg, hp', hz, hregs, hm, hpd, hbytes, hpads⟩ := State.slotMem_store hs.group hn hld hop hpl hw
      obtain ⟨v, ev, hv⟩ := State.dualLane_access hg (by rw [hz]; exact hll) hsl hr1 hr2 (.inr (by rw [hop]; nofun))
        (by rw [hxl]; exact eu)
      rw [hxl] at hv
      obtain ⟨t, et, hgo, hG, hother, hlane, htr⟩ := execDualWord_ends hs ht (fold ev) hv.group (hp'.trans hp)
      have hpad : ∀ k j, t.pad? k j = u.pad? k j := fun k j => by rw [htr, hv.rest]; rfl
      refine ⟨t, pd', et, hgo, by rw [htr, hv.rest]; exact hm, (hpad _ _).trans hpd, hbytes,
        fun k j hkj => by rw [hpad, hpads k j hkj], ?_⟩
      rw [hlane, State.lane_of_group? hv.group, Group.lane_modLane_same _ _ _ (by rw [hz]; exact hll)]
      exact (hregs.slotReg reg x).setFlags _

end Sys2Proof.Machine
end


section
/-!
SETTLED. Exchanges (O29): refuted by a group in which three paths bear one number.
-/

namespace Sys2Proof.Machine

open Sys2Proof

/-! Nothing in the statement asks that the paths of a group bear different numbers, by which the rules tell them apart (05 R121). Where
three paths of quads 0 and 1 bear number 1, the merge of one of them with path 2 gives its lanes to all three: quad 0, which held two
live paths, holds three, and the release of the EXCH stacks a path. That store wakes lane 0, which waits on a barrier word of the line,
and the result of the barrier goes to the register where the status of the EXCH stands. -/

/-- The exchange of lane 0, with its status in x7. -/
def twinExch : Exch := ⟨1, [0], 5, 6, 1, 7, false, 0⟩

/-- Lane 0 has its divergence stack in line 0 of its scratchpad and waits on a barrier word there with its result in x7. -/
def twinLane : Lane := { Lane.zero with kstack := 0xFC00000000000040, wait := some ⟨.bar (.pad 2 0 0) 64 1 false, 7, none, 0, false⟩ }

/-- A path of the group at the word after its EXCH. -/
def twinPath (pid l : Nat) : Path := { Path.blank pid with lanes := [l], pc := 0x1008, qset := 4 }

/-- A group of six lanes: three paths of number 1 on lanes 0, 1 and 4, and path 2 on lane 5. -/
def twinGroup : Group :=
  { newGroup 3 4 1 2 ⟨0, 0⟩ ⟨List.range 6, 0, [], []⟩ 0 0 (twinLane :: List.replicate 5 Lane.zero) 0x1000 false .held 0 with
    started := true, dlim := 8, exch := some twinExch, paths := [twinPath 1 0, twinPath 1 1, twinPath 1 4, twinPath 2 5] }

/-- The state of EXCH_BREAK for that group, alone in a context whose exchanges break after 1 us. -/
def twinState : State :=
  { State.reset with
    clk := 3600, nextId := 10, groups := [twinGroup], pick := [3],
    ctxs := [{ bootCtx 1 with desc := { (bootCtx 1).desc with exTimeout := 1 } }],
    classes := [{ bootKlass 1 2 with pads := (List.range 6).map (fun i => ⟨i, 38, 2, [], [], [], [], []⟩) }] }

theorem twinGroup_calm : twinGroup.calm := by
  refine ⟨by decide +kernel, fun n => ?_⟩
  match n with
  | 0 => decide +kernel
  | 1 => decide +kernel
  | n + 2 => simp [twinGroup, twinPath, Path.blank, quadOf]

/-- The exchange is broken, and EXCH_BREAK leaves the result of the barrier in x7. -/
theorem twinState_breaks : twinState.exchBroken twinGroup twinExch = true ∧ ((twinState.dropExch 3 1).lane 3 0).rx 7 = 131072 := by
  decide +kernel

theorem exchBreak_twinState : exec .exchBreak twinState = .next (twinState.dropExch 3 1) := by
  have hg : twinState.group? (twinState.arg 0) = some twinGroup := by decide +kernel
  show execExchBreak twinState = _
  unfold execExchBreak
  simp only [hg, show twinGroup.exch = some twinExch from rfl]
  rw [if_pos twinState_breaks.1]
  rfl

/-- Refutes O29: of a group with three paths of one number, an EXCH that breaks can leave another status than 1. -/
theorem not_exchanges : ¬ Obligations.Exchanges := by
  intro h
  obtain ⟨-, -, hbreak⟩ := h ⟨false, 0⟩ 0 0 0 0 0 false twinState twinGroup twinGroup (twinPath 1 0) 0 twinExch twinExch
  have hn : twinGroup.noStack := by unfold Group.noStack; decide +kernel
  obtain ⟨t, h', e, hg, -, hst⟩ := hbreak (by decide +kernel) (by decide +kernel) hn twinGroup_calm rfl twinState_breaks.1 (by decide)
  rw [exchBreak_twinState] at e
  cases Host.Outcome.next.inj e
  have h7 := (hst 0 (List.mem_singleton_self 0) (by decide)).1
  have hl : ((twinState.dropExch 3 1).lane 3 0) = h'.lane 0 := State.lane_of_group? hg 0
  rw [← hl] at h7
  have h8 := twinState_breaks.2
  exact absurd (h7.symm.trans h8) (by decide)

end Sys2Proof.Machine
end


section
/-!
FACTS. What paths that are settled, stacked, popped and released leave of every group: all but its paths and their sets, and of its
lanes all but x registers, PTS, watches and waits.
-/

namespace Sys2Proof.Machine

open Sys2Proof

/-- What of a lane neither a store that it sees nor a change of its path touches. -/
def Lane.still (x : Lane) : Lane :=
  { x with x := Lane.zero.x, sx := Lane.zero.sx, pts := 0, watch := none, wait := none, reason := 0, owed := 0 }

/-- What of a group no change of its paths touches. -/
def Group.still (g : Group) : Group :=
  { g with lanes := g.lanes.map Lane.still, paths := [], qsets := [], owedEntries := [] }

theorem Group.still_modLane (g : Group) (l : Nat) {f : Lane → Lane} (hf : ∀ x, (f x).still = x.still) : (g.modLane l f).still = g.still := by
  refine congrArg (fun ls => { g with lanes := ls, paths := [], qsets := [], owedEntries := [] }) ?_
  refine List.ext_getElem? fun n => ?_
  simp only [Group.modLane, List.getElem?_map, List.getElem?_modify]
  cases g.lanes[n]? with
  | none => rfl
  | some x =>
    refine congrArg some ?_
    dsimp only
    split
    · exact hf x
    · rfl

/-- What of the groups no change of paths touches is as it was. -/
structure Still (s t : State) : Prop where
  groups : ∀ n, (t.group? n).map Group.still = (s.group? n).map Group.still

namespace Still

theorem refl (s : State) : Still s s := ⟨fun _ => rfl⟩
theorem trans {s t u : State} (h : Still s t) (k : Still t u) : Still s u := ⟨fun n => (k.groups n).trans (h.groups n)⟩
theorem of_groups {s t : State} (h : t.groups = s.groups) : Still s t := ⟨fun n => by unfold State.group?; rw [h]⟩
theorem after {s u t : State} (k : Still u t) (h : u.groups = s.groups) : Still s t := (of_groups h).trans k

theorem modGroup (s : State) (gid : Nat) {f : Group → Group} (hf : ∀ g, (f g).still = g.still) : Still s (s.modGroup gid f) := by
  have hgid : ∀ g, (f g).gid = g.gid := fun g =>
    show (f g).still.gid = g.still.gid from congrArg Group.gid (hf g)
  refine ⟨fun n => ?_⟩
  rw [State.group?_modGroup s gid n f hgid]
  cases s.group? n with
  | none => rfl
  | some g =>
    simp only [Option.map_some]
    split
    · rw [hf]
    · rfl

theorem modGroup_of {s : State} {gid : Nat} {g : Group} {f : Group → Group} (hg : s.group? gid = some g) (hgid : ∀ x, (f x).gid = x.gid)
    (hf : (f g).still = g.still) : Still s (s.modGroup gid f) := by
  refine ⟨fun n => ?_⟩
  by_cases hn : n = gid
  · subst hn
    rw [State.group?_modGroup_same hg f hgid, hg, Option.map_some, Option.map_some, hf]
  · rw [State.group?_modGroup_other s gid n f hgid hn]

theorem modLane (s : State) (gid l : Nat) {f : Lane → Lane} (hf : ∀ x, (f x).still = x.still) : Still s (s.modLane gid l f) :=
  modGroup s gid fun g => g.still_modLane l hf

theorem modPath (s : State) (gid pid : Nat) (f : Path → Path) : Still s (s.modPath gid pid f) := modGroup s gid fun _ => rfl

theorem withNext {s t : State} (n : Nat) (h : Still s t) : Still s { t with nextId := n } := h.trans (of_groups rfl)

theorem setPts (s : State) (gid l p : Nat) : Still s (s.setPts gid l p) := modLane s gid l fun _ => rfl

theorem foldl {α : Type} {f : State → α → State} (hf : ∀ s a, Still s (f s a)) (l : List α) (s : State) : Still s (l.foldl f s) := by
  induction l generalizing s with
  | nil => exact refl s
  | cons a r ih => exact (hf s a).trans (ih (f s a))

end Still

theorem Lane.still_wx (x : Lane) (d : XReg) (v : Word) : (x.wx d v).still = x.still := by
  unfold Lane.wx; split_ifs <;> rfl

theorem Lane.still_seeStore (x : Lane) (a : LineAt) (ts : Nat) (w : Nat → Nat) : (x.seeStore a ts w).still = x.still := by
  have h1 : (match x.watch with
      | some w => if w.at_ = a && w.fired.isNone then { x with watch := some { w with fired := some .store } } else x
      | none => x).still = x.still := by
    split
    · split <;> rfl
    · rfl
  unfold Lane.seeStore
  dsimp only
  refine Eq.trans ?_ h1
  split
  · split
    · split
      · split
        · exact Lane.still_wx _ _ _
        · rfl
      · rfl
    · rfl
  · rfl

theorem State.fireWatches_still (s : State) (a : LineAt) (ts : Nat) : Still s (s.fireWatches a ts) := by
  refine ⟨fun n => ?_⟩
  rw [s.group?_fireWatches a ts n]
  cases s.group? n with
  | none => rfl
  | some g =>
    have hl : (g.lanes.map (fun l => l.seeStore a ts (s.padWord a))).map Lane.still = g.lanes.map Lane.still := by
      rw [List.map_map]
      exact List.map_congr_left fun x _ => x.still_seeStore a ts _
    exact congrArg (fun ls => some { g with lanes := ls, paths := [], qsets := [], owedEntries := [] }) hl

theorem State.stored_still {s u : State} (a : LineAt) (ts gid l p : Nat) (h : u.groups = s.groups) :
    Still s ((u.fireWatches a ts).setPts gid l p) :=
  (Still.after (u.fireWatches_still a ts) h).trans (.setPts _ gid l p)

/-! Accesses of a lane. -/

/-- The states that a lane's access may answer differ from s so. -/
def LRes.Still {α : Type} (s : State) : LRes α → Prop
  | .ok _ t | .trapIn _ t => Machine.Still s t
  | _ => True

theorem State.accessTrap_still {α β : Type} (s : State) (gid l : Nat) (r : MRes β) (p : Nat) (m : MemSys) (sub : Nat) (addr : Word) :
    (s.accessTrap gid l r p m sub addr : LRes α).Still s := by
  unfold State.accessTrap
  split
  · exact Still.after (.setPts _ gid l p) rfl
  · exact Still.after (.setPts _ gid l p) rfl
  · trivial

theorem State.farAccess_still (s : State) (gid l : Nat) (addr : Word) (n sub : Nat) : (s.farAccess gid l addr n sub).Still s := by
  unfold State.farAccess
  split
  · trivial
  · have h : Still s (s.farAnswer (s.lane gid l).pts).2.2 := .of_groups rfl
    generalize s.farAnswer (s.lane gid l).pts = q at h
    obtain ⟨r, p, t⟩ := q
    cases r with
    | ok v => exact h.trans (.setPts t gid l p)
    | _ => trivial

theorem State.loadRaw_still (s : State) (gid l : Nat) (loc : Loc) (addr : Word) (n sub : Nat) : (s.loadRaw gid l loc addr n sub).Still s := by
  unfold State.loadRaw
  split
  · trivial
  · split
    · split
      · exact s.farAccess_still gid l addr n sub
      · dsimp only
        split
        · exact Still.after (.setPts _ gid l _) rfl
        · exact s.accessTrap_still gid l _ _ _ sub addr
    · split
      · trivial
      · dsimp only
        exact Still.after (.setPts _ gid l _) rfl

theorem State.storeRaw_still (s : State) (gid l : Nat) (loc : Loc) (addr : Word) (bs : List Byte) : (s.storeRaw gid l loc addr bs).Still s := by
  unfold State.storeRaw
  split
  · trivial
  · split
    · split
      · have h := s.farAccess_still gid l addr bs.length 2
        generalize s.farAccess gid l addr bs.length 2 = r at h
        cases r <;> exact h
      · dsimp only
        split
        · exact State.stored_still _ _ gid l _ rfl
        · exact s.accessTrap_still gid l _ _ _ 2 addr
    · split
      · trivial
      · dsimp only
        exact State.stored_still _ _ gid l _ rfl

theorem State.storeAt_still (s : State) (gid l : Nat) (loc : Loc) (addr : Word) (bs : List Byte) : (s.storeAt gid l loc addr bs).Still s := by
  unfold State.storeAt
  split
  · trivial
  · split
    · trivial
    · exact s.storeRaw_still gid l loc addr bs

/-! The divergence stack (13 R315 to R317, R321). -/

/-- The state that a change of the stack came to. -/
def StackRes.Still (s : State) : StackRes → Prop
  | .done t => Machine.Still s t
  | _ => True

theorem StackRes.Still.bind {s : State} {r : StackRes} {f : State → StackRes} (h : r.Still s) (hf : ∀ t, (f t).Still t) : (r.bind f).Still s := by
  cases r with
  | done t =>
    have k := hf t
    unfold StackRes.bind
    dsimp only
    generalize f t = q at k
    cases q with
    | done u => exact Machine.Still.trans h k
    | _ => trivial
  | _ => trivial

theorem State.clearValid_still (s : State) (gid l : Nat) (addr : Word) : Still s (s.clearValid gid l addr) := by
  unfold State.clearValid
  split
  · exact .refl s
  · rename_i g _
    split
    · exact .refl s
    · rename_i loc _
      have h := s.storeRaw_still gid (g.stackLaneOf l) loc (addr + 13) [0]
      generalize s.storeRaw gid (g.stackLaneOf l) loc (addr + 13) [0] = r at h
      cases r with
      | ok _ t => exact h
      | trapIn _ t => exact h
      | _ => exact .refl s

theorem State.readEntry_still (s : State) (gid : Nat) (p : Path) : Still s (s.readEntry gid p).2.2 := by
  unfold State.readEntry
  dsimp only
  split
  · exact .refl s
  · rename_i g _
    split
    · exact .refl s
    · rename_i loc _
      have h := s.loadRaw_still gid (g.stackLaneOf p.slotLane) loc p.slotAddr 16 1
      generalize s.loadRaw gid (g.stackLaneOf p.slotLane) loc p.slotAddr 16 1 = r at h
      cases r with
      | ok _ t => exact h
      | trapIn _ t => exact h
      | _ => exact .refl s

theorem State.soloLane_still (s : State) (gid l : Nat) (pc : Word) (reason owed : Nat) : Still s (s.soloLane gid l pc reason owed) := by
  unfold State.soloLane
  split
  · exact .refl s
  · split
    · exact .refl s
    · rename_i p _
      split
      · exact .modPath s gid _ _
      · refine Still.after (.modGroup s.fresh.2 gid fun g => ?_) rfl
        exact Group.still_modLane _ l fun _ => rfl

theorem State.takeEntry_still (s : State) (gid pid : Nat) : Still s (s.takeEntry gid pid) := by
  unfold State.takeEntry
  split
  · exact .refl s
  · split
    · exact .refl s
    · exact (((s.readEntry_still gid _).trans (State.clearValid_still _ gid _ _)).trans (.modPath _ gid _ _)).trans
        (Still.foldl (fun s l => s.soloLane_still gid l _ 2 0) _ _)

theorem State.pop_still (s : State) (gid q : Nat) : Still s (s.pop gid q) := by
  unfold State.pop
  split
  · exact .refl s
  · split
    · exact (s.takeEntry_still gid _).trans (Still.after (.modGroup (State.fresh _).2 gid fun _ => rfl) rfl)
    · exact .refl s

theorem Group.still_tidy (g : Group) : g.tidy.still = g.still := by rw [g.tidy_eq]; rfl

theorem State.popFree_still (gid n : Nat) (s : State) : Still s (s.popFree gid n) := by
  induction n generalizing s with
  | zero => exact .refl s
  | succ n ih =>
    unfold State.popFree
    split
    · exact .refl s
    · split
      · exact .refl s
      · exact ((s.pop_still gid _).trans (.modGroup _ gid Group.still_tidy)).trans (ih _)

theorem State.settle_still (s : State) (gid : Nat) : Still s (s.settle gid) :=
  (Still.modGroup s gid Group.still_tidy).trans (State.popFree_still gid 32 _)

theorem StackRes.still_of_access {s : State} {r : LRes Unit} {f : State → State} {wait : Bool} (h : r.Still s) (hf : ∀ t, Machine.Still t (f t)) :
    StackRes.Still s (match (generalizing := false) r with
      | .ok _ s1 => .done (f s1)
      | .hold => if wait then .held else .overflow
      | _ => .overflow) := by
  cases r with
  | ok _ t => exact Machine.Still.trans h (hf t)
  | hold => dsimp only; split <;> trivial
  | _ => trivial

theorem State.push_still (s : State) (gid pid : Nat) (wait : Bool) : (s.push gid pid wait).Still s := by
  unfold State.push
  split
  · trivial
  · split
    · trivial
    · split
      · trivial
      · split
        · trivial
        · dsimp only
          split
          · trivial
          · rename_i loc _
            refine StackRes.still_of_access ?_ (fun t => .modGroup t gid fun _ => rfl)
            split
            · exact s.storeAt_still ..
            · exact s.storeRaw_still ..

theorem State.enforceSlots_still (gid : Nat) (new : List Nat) (wait : Bool) (n : Nat) (s : State) : (s.enforceSlots gid new wait n).Still s := by
  induction n generalizing s with
  | zero => exact Still.refl s
  | succ n ih =>
    unfold State.enforceSlots
    split
    · exact Still.refl s
    · split
      · exact Still.refl s
      · dsimp only
        split
        · exact Still.refl s
        · exact (s.push_still gid _ wait).bind fun t => ih t

theorem State.readEntries_still (s : State) (gid : Nat) : Still s (s.readEntries gid) := by
  unfold State.readEntries
  split
  · exact .refl s
  · exact Still.foldl (fun s p => (s.readEntry_still gid p).trans (.modPath _ gid _ _)) _ _

theorem State.fullSplit_still (s : State) (gid : Nat) : Still s (s.fullSplit gid) := by
  unfold State.fullSplit
  dsimp only
  refine (s.readEntries_still gid).trans ?_
  split
  · exact .refl _
  · split
    · exact .refl _
    · rename_i g hg _
      refine Still.withNext _ (.modGroup_of hg (fun _ => rfl) ?_)
      have hl : ((g.lanes.zipIdx).map (fun x =>
          if x.1.exited || x.1.reason ≠ 0 then x.1
          else match g.pathOf? x.2 with
            | some p => { x.1 with reason := 2, owed := if p.alone then 0 else (g.stackOf p.qset).length }
            | none => x.1)).map Lane.still = g.lanes.map Lane.still := by
        rw [List.map_map]
        refine Eq.trans (List.map_congr_left (g := Lane.still ∘ Prod.fst) fun x _ => ?_)
          ((List.map_map ..).symm.trans (congrArg _ (List.zipIdx_map_fst 0 g.lanes)))
        dsimp only [Function.comp_apply]
        split
        · rfl
        · split <;> rfl
      exact congrArg (fun ls => { g with lanes := ls, paths := [], qsets := [], owedEntries := [] }) hl

theorem State.clearOwed_still (s : State) (gid : Nat) : Still s (s.clearOwed gid) := by
  unfold State.clearOwed
  split
  · exact .refl s
  · refine (Still.foldl (fun s (e : Nat × Word) => s.clearValid_still gid e.1 e.2) _ s).trans (.modGroup _ gid fun g => ?_)
    have hl : (g.lanes.map (fun l => { l with owed := 0 })).map Lane.still = g.lanes.map Lane.still := List.map_map ..
    exact congrArg (fun ls => { g with lanes := ls, paths := [], qsets := [], owedEntries := [] }) hl

theorem State.allJoined_still (s : State) (gid : Nat) : Still s (s.allJoined gid) := by
  unfold State.allJoined
  split
  · exact .refl s
  · split
    · exact s.clearOwed_still gid
    · exact .refl s

theorem Group.still_rejoin (g : Group) (pids : List Nat) (l : Nat) : (g.rejoin pids l).still = g.still := by
  unfold Group.rejoin
  split
  · rfl
  · split
    · dsimp only
      split
      · rfl
      · exact Group.still_modLane _ l fun _ => rfl
    · rfl

/-- Live slots are held, or where a stack fails the group splits. -/
theorem State.slotted_still (s : State) (gid : Nat) (new : List Nat) (wait : Bool) (n : Nat) :
    Still s (match s.enforceSlots gid new wait n with
      | .done t => t
      | _ => s.fullSplit gid) := by
  have h := State.enforceSlots_still gid new wait n s
  generalize s.enforceSlots gid new wait n = r at h
  cases r with
  | done t => exact h
  | _ => exact s.fullSplit_still gid

theorem State.releasePaths_still (s : State) (gid : Nat) (pids : List Nat) : Still s (s.releasePaths gid pids) := by
  have hrejoin : ∀ (ls : List Nat) (g : Group), (ls.foldl (fun g l => g.rejoin pids l) g).still = g.still := by
    intro ls
    induction ls with
    | nil => exact fun _ => rfl
    | cons a r ih => exact fun g => (ih _).trans (g.still_rejoin pids a)
  unfold State.releasePaths
  dsimp only
  have h := ((Still.modGroup s gid fun g => hrejoin (List.range g.size) g).trans
    (Still.foldl (fun s pid => .modPath s gid pid (fun p =>
      if p.halted.isNone then p
      else if p.stacked.isSome then { p with halted := none, waiting := true }
      else { p with pc := p.pc + 8, halted := none })) pids _)).trans (.modGroup _ gid Group.still_tidy)
  refine Still.trans ?_ (State.settle_still _ gid)
  refine Still.trans ?_ (State.allJoined_still _ gid)
  exact h.trans (State.slotted_still _ gid pids false 40)

theorem State.releaseForm_still (s : State) (gid : Nat) : Still s (s.releaseForm gid) := by
  unfold State.releaseForm
  split
  · exact .refl s
  · exact s.releasePaths_still gid _

/-! What a group that changes only so keeps. -/

/-- Of a group that only such changes have met, all but its paths and lanes is as it was, and of each lane what they leave. -/
theorem Still.group {s t : State} (h : Still s t) {n : Nat} {g : Group} (hg : s.group? n = some g) :
    ∃ g', t.group? n = some g' ∧ g'.still = g.still := by
  have := h.groups n
  rw [hg] at this
  obtain ⟨g', hg', he⟩ := Option.map_eq_some_iff.mp this
  exact ⟨g', hg', he⟩

theorem Group.size_of_still {g g' : Group} (h : g'.still = g.still) : g'.size = g.size := by
  have := congrArg (fun x : Group => x.lanes.length) h
  simpa [Group.still, Group.size] using this

theorem Group.lane_of_still {g g' : Group} (h : g'.still = g.still) (l : Nat) : (g'.lane l).still = (g.lane l).still := by
  have := congrArg (fun x : Group => x.lanes[l]?) h
  simp only [Group.still, List.getElem?_map] at this
  unfold Group.lane
  rw [List.getD_eq_getElem?_getD, List.getD_eq_getElem?_getD]
  generalize g'.lanes[l]? = a at this ⊢
  generalize g.lanes[l]? = b at this ⊢
  cases a with
  | none => cases b with
    | none => rfl
    | some y => cases this
  | some x => cases b with
    | none => cases this
    | some y => exact Option.some.inj this

end Sys2Proof.Machine
end


section
/-!
SETTLED. An MMA's start, row steps, completion and stop, and the hall pass (O31).
-/

namespace Sys2Proof.Machine

open Sys2Proof

/-! The start (07 R172). -/

/-- A group none of whose paths is stacked has none to exchange. -/
theorem State.exchangeOr_noStack {s before : State} {gid pid : Nat} {g : Group} (hg : s.group? gid = some g) (hn : g.noStack) :
    s.exchangeOr before gid pid = s := by
  unfold State.exchangeOr State.exchangeStack
  simp only [hg]
  cases g.path? pid with
  | none => rfl
  | some p =>
    simp only [g.stackOf_noStack hn]
    split <;> rfl

/-- The group with an MMA more. -/
def Group.withMma (g : Group) (m : Mma) : Group := { g with mmas := g.mmas ++ [m] }

/-- An MMA whose format block is read and sound starts. -/
theorem mmaEff_starts {d : MReg} {a b c : XReg} {kq : Fin 1024} {s s1 : State} {g : Group} {p : Path} {us : List Nat} {oa ob : MmaOperand}
    (hpass : s.holdsPass g = true) (hlen : g.mmas.length < 4) (hread : g.mmas.any (·.reading) = false) (hstep : g.firstStep < 8)
    (hal : ((g.lane g.reader).rx c).toNat % 32 = 0)
    (hsp : ((g.lane g.reader).rx c).toNat / 2 ^ 56 = 0xFC ∨ ((g.lane g.reader).rx c).toNat / 2 ^ 56 = 0xFD)
    (hload : s.load16s g.gid g.reader ((g.lane g.reader).rx c) 4 2 = .ok us s1)
    (hoa : mmaOperand ((g.lane g.reader).rx a) ((g.lane g.reader).rx (XReg.succ a)) (us.getD 0 0) = oa)
    (hob : mmaOperand ((g.lane g.reader).rx b) ((g.lane g.reader).rx (XReg.succ b)) (us.getD 1 0) = ob)
    (hba : oa.bad (us.getD 0 0) = false) (hbb : ob.bad (us.getD 1 0) = false) (hpair : pairOk oa.fmt ob.fmt = true)
    (hmis : mmaMisaligned ((g.lane g.reader).rx a) ((g.lane g.reader).rx (XReg.succ a)) ((g.lane g.reader).rx b)
      ((g.lane g.reader).rx (XReg.succ b)) oa ob = none) :
    mmaEff d a b c kq g p s =
      s1.fresh.2.modGroup g.gid (fun x => x.withMma ⟨d.val, oa, ob, 4 * (kq.val + 1), g.firstStep, s1.nextId, true, 0⟩) := by
  have hc1 : ¬ (!s.holdsPass g || decide (4 ≤ g.mmas.length) || g.mmas.any (·.reading)) = true := by
    rw [hpass, hread, decide_eq_false (by omega)]
    decide
  have hc2 : ¬ (decide (((g.lane g.reader).rx c).toNat % 32 ≠ 0) || !(((g.lane g.reader).rx c).toNat / 2 ^ 56 == 0xFC ||
      ((g.lane g.reader).rx c).toNat / 2 ^ 56 == 0xFD)) = true := by
    rw [hal]
    rcases hsp with hsp | hsp <;> rw [hsp] <;> decide
  have hc3 : ¬ (oa.bad (us.getD 0 0) || ob.bad (us.getD 1 0) || !pairOk oa.fmt ob.fmt) = true := by
    rw [hba, hbb, hpair]
    decide
  unfold mmaEff
  refine (if_neg hc1).trans ((if_neg hc2).trans ?_)
  simp only [hload, State.formRead, hoa, hob]
  refine (if_neg hc3).trans ?_
  rw [hmis]
  exact if_neg (by omega)

theorem mma_starts {d : MReg} {a b c : XReg} {kq : Fin 1024} {hint : Hint} {seg : Bool} {s s1 : State} {h h1 : Group} {p : Path}
    {m : Mma} (hs : s.undivided h p) (hpass : s.holdsPass h = true) (hg1 : s1.group? h.gid = some h1) (hn1 : h1.noStack)
    (heff : (s.modPath h.gid p.pid (fun q => { q with halted := some (.mma d a b c kq hint seg) })).holdsPass
        (h.haltsAt p (.mma d a b c kq hint seg)) = true →
      mmaEff d a b c kq (h.haltsAt p (.mma d a b c kq hint seg)) { p with halted := some (.mma d a b c kq hint seg) }
        (s.modPath h.gid p.pid (fun q => { q with halted := some (.mma d a b c kq hint seg) })) =
          s1.fresh.2.modGroup h.gid (fun x => x.withMma m)) :
    ∃ t, exec (.mma d a b c kq hint seg) s = .next t ∧ t.group? h.gid = some (h1.withMma m) := by
  have hpr : (s.modPath h.gid p.pid (fun q => { q with halted := some (.mma d a b c kq hint seg) })).holdsPass
      (h.haltsAt p (.mma d a b c kq hint seg)) = true := by
    unfold State.holdsPass at hpass ⊢
    rw [State.pairOf?_eq] at hpass ⊢
    have hf := (hs.halts (.mma d a b c kq hint seg)).find?_others (fun x => x.ctx == h.ctx && x.site == h.site && x.pipes == h.pipes)
    exact (congrArg (fun o : Option Group => o.isNone || h.pass == .held) hf).trans hpass
  have hu : (s1.fresh.2.modGroup h.gid (fun x => x.withMma m)).group? h.gid = some (h1.withMma m) :=
    State.group?_modGroup_same (s := s1.fresh.2) hg1 _ fun _ => rfl
  refine ⟨_, (formWord_at hs _ (mmaEff d a b c kq) (heff hpr)).trans ?_, hu⟩
  rw [State.exchangeOr_noStack hu hn1, ite_self]

/-! A row step commits (07 R172). -/

theorem Lane.rm_wm_same (x : Lane) {r i : Nat} (w : BitVec 32) (hr : r < 8) (hi : i < 64) : (x.wm r i w).rm r i = w := by
  simp [Lane.rm, Lane.wm, hr, hi, List.getD_eq_getElem?_getD]

theorem Lane.rm_wm_other (x : Lane) (r : Nat) {i j : Nat} (w : BitVec 32) (hij : j ≠ i) : (x.wm r i w).rm r j = x.rm r j := by
  unfold Lane.wm
  split
  · rename_i h
    simp [Lane.rm, h.1, List.getD_eq_getElem?_getD, List.getElem?_set, hij.symm]
  · rfl

theorem Lane.m_wm_other (x : Lane) (r i : Nat) (w : BitVec 32) {q : Fin 8} (hq : q.val ≠ r) : (x.wm r i w).m[q] = x.m[q] := by
  unfold Lane.wm
  split
  · simp [Vector.getElem_set, hq.symm]
  · rfl

/-- Elements of m register d written: the lane, the place in its block and the value of each. -/
def Group.writeTiles (g : Group) (d : Nat) (es : List (Nat × Nat × Nat × Fl)) : Group :=
  es.foldl (fun g e => g.modLane e.1 (fun l => l.wm d e.2.1 (BitVec.ofNat 32 e.2.2.1))) g

theorem Group.writeTiles_eq (g : Group) (d : Nat) (es : List (Nat × Nat × Nat × Fl)) :
    g.writeTiles d es = { g with lanes := (g.writeTiles d es).lanes } ∧ (g.writeTiles d es).size = g.size := by
  unfold Group.writeTiles
  induction es generalizing g with
  | nil => exact ⟨rfl, rfl⟩
  | cons e r ih =>
    obtain ⟨h1, h2⟩ := ih (g.modLane e.1 (fun l => l.wm d e.2.1 (BitVec.ofNat 32 e.2.2.1)))
    exact ⟨h1.trans rfl, h2.trans (Group.modLane_size _ _ _)⟩

/-- An element that is not written stays. -/
theorem Group.writeTiles_rm_other (g : Group) (d : Nat) (es : List (Nat × Nat × Nat × Fl)) {l i : Nat} (h : ∀ e ∈ es, ¬ (e.1 = l ∧ e.2.1 = i)) :
    ((g.writeTiles d es).lane l).rm d i = (g.lane l).rm d i := by
  unfold Group.writeTiles
  induction es generalizing g with
  | nil => rfl
  | cons e r ih =>
    rw [List.foldl_cons, ih _ fun x hx => h x (List.mem_cons_of_mem _ hx)]
    have he := h e (List.mem_cons_self ..)
    by_cases hl : l = e.1
    · subst hl
      by_cases hlt : e.1 < g.size
      · rw [Group.lane_modLane_same _ _ _ hlt]
        exact Lane.rm_wm_other _ _ _ fun hi => he ⟨rfl, hi.symm⟩
      · have : e.1 ≥ g.lanes.length := Nat.not_lt.mp hlt
        simp [Group.lane, Group.modLane, List.getD_eq_getElem?_getD, this]
    · rw [Group.lane_modLane_other _ _ _ _ hl]

/-- An element that is written takes the value, where every write of it has the same. -/
theorem Group.writeTiles_rm (g : Group) {d : Nat} (hd : d < 8) (es : List (Nat × Nat × Nat × Fl)) {l i v : Nat} (hl : l < g.size) (hi : i < 64)
    (hex : ∃ e ∈ es, e.1 = l ∧ e.2.1 = i) (hval : ∀ e ∈ es, e.1 = l → e.2.1 = i → e.2.2.1 = v) :
    ((g.writeTiles d es).lane l).rm d i = BitVec.ofNat 32 v := by
  induction es generalizing g with
  | nil => obtain ⟨e, he, -⟩ := hex; cases he
  | cons e r ih =>
    have hcons : g.writeTiles d (e :: r) = (g.modLane e.1 (fun l => l.wm d e.2.1 (BitVec.ofNat 32 e.2.2.1))).writeTiles d r := rfl
    rw [hcons]
    by_cases hr : ∃ x ∈ r, x.1 = l ∧ x.2.1 = i
    · exact ih _ (by rw [Group.modLane_size]; exact hl) hr fun x hx => hval x (List.mem_cons_of_mem _ hx)
    · rw [Group.writeTiles_rm_other _ _ _ fun x hx hc => hr ⟨x, hx, hc⟩]
      obtain ⟨x, hx, h1, h2⟩ := hex
      have hxe : x = e := (List.mem_cons.mp hx).resolve_right fun hxr => hr ⟨x, hxr, h1, h2⟩
      subst hxe
      rw [← hval x (List.mem_cons_self ..) h1 h2, ← h1, Group.lane_modLane_same _ _ _ (by rw [h1]; exact hl), ← h2]
      exact Lane.rm_wm_same _ _ hd (by rw [h2]; exact hi)

theorem Group.writeTiles_m_other (g : Group) (d : Nat) (es : List (Nat × Nat × Nat × Fl)) (l : Nat) {q : Fin 8} (hq : q.val ≠ d) :
    ((g.writeTiles d es).lane l).m[q] = (g.lane l).m[q] := by
  unfold Group.writeTiles
  induction es generalizing g with
  | nil => rfl
  | cons e r ih =>
    rw [List.foldl_cons, ih]
    by_cases hl : l = e.1
    · subst hl
      by_cases hlt : e.1 < g.size
      · rw [Group.lane_modLane_same _ _ _ hlt]
        exact Lane.m_wm_other _ _ _ _ hq
      · have : e.1 ≥ g.lanes.length := Nat.not_lt.mp hlt
        simp [Group.lane, Group.modLane, List.getD_eq_getElem?_getD, this]
    · rw [Group.lane_modLane_other _ _ _ _ hl]

/-- A tile's columns are eight to a block. -/
theorem tileShape_cols (n : Nat) : (tileShape n).2.1 = 8 * (tileShape n).2.2 := by
  unfold tileShape
  split_ifs <;> rfl

/-- Elements of a tile stand in different places. -/
theorem tilePlace_inj {n i j i' j' : Nat} (hj : j < (tileShape n).2.1) (hj' : j' < (tileShape n).2.1) (h : tilePlace n i j = tilePlace n i' j') :
    i = i' ∧ j = j' := by
  rw [tileShape_cols] at hj hj'
  unfold tilePlace at h
  generalize (tileShape n).2.2 = nb at *
  simp only [Prod.mk.injEq] at h
  obtain ⟨h1, h2⟩ := h
  have hb : j / 8 < nb := Nat.div_lt_of_lt_mul hj
  have hb' : j' / 8 < nb := Nat.div_lt_of_lt_mul hj'
  have hmod : j / 8 = j' / 8 := by
    have := congrArg (· % nb) h1
    simpa [Nat.mul_add_mod_of_lt, Nat.add_mod, Nat.mod_eq_of_lt hb, Nat.mod_eq_of_lt hb'] using this
  have hdiv : i / 8 = i' / 8 := by
    rw [hmod] at h1
    exact Nat.eq_of_mul_eq_mul_right (by omega) (Nat.add_right_cancel h1)
  omega

/-- The elements that a row step writes. -/
def Group.stepElements (g : Group) (m : Mma) (r : StepReads) : List (Nat × Nat × Nat × Fl) :=
  (r.rows.zipIdx).flatMap (fun x => (List.range r.n).map (fun j =>
    let pl := tilePlace g.size x.1 j
    let v := m.element r x.2 j ((g.lane pl.1).rm m.d pl.2).toNat
    (pl.1, pl.2, v.1, v.2)))

theorem Group.commitStep_eq (g : Group) (m : Mma) (r : StepReads) : (g.commitStep m r).1 = g.writeTiles m.d (g.stepElements m r) := rfl

/-- Each element of the step's rows takes its new value. -/
theorem Group.commitStep_rm (g : Group) (m : Mma) (r : StepReads) (hn : r.n = (tileShape g.size).2.1) (hrows : r.rows.Nodup) (hd : m.d < 8)
    {u j : Nat} (hu : u < r.rows.length) (hj : j < r.n) (hl : (tilePlace g.size r.rows[u] j).1 < g.size) :
    ((g.commitStep m r).1.lane (tilePlace g.size r.rows[u] j).1).rm m.d (tilePlace g.size r.rows[u] j).2 =
      BitVec.ofNat 32 (m.element r u j ((g.lane (tilePlace g.size r.rows[u] j).1).rm m.d (tilePlace g.size r.rows[u] j).2).toNat).1 := by
  rw [Group.commitStep_eq]
  refine Group.writeTiles_rm g hd _ hl (by unfold tilePlace; dsimp only; omega) ⟨_, List.mem_flatMap.mpr ⟨(r.rows[u], u), ?_, List.mem_map.mpr
    ⟨j, List.mem_range.mpr hj, rfl⟩⟩, rfl, rfl⟩ fun e he h1 h2 => ?_
  · exact List.mk_mem_zipIdx_iff_getElem?.mpr (List.getElem?_eq_getElem hu)
  · obtain ⟨⟨i, u'⟩, hx, he⟩ := List.mem_flatMap.mp he
    obtain ⟨j', hj', rfl⟩ := List.mem_map.mp he
    obtain ⟨hi, hjj⟩ := tilePlace_inj (hn ▸ List.mem_range.mp hj') (hn ▸ hj) (Prod.ext h1 h2)
    have hx := List.mk_mem_zipIdx_iff_getElem?.mp hx
    obtain ⟨hu', hiu⟩ := List.getElem?_eq_some_iff.mp hx
    dsimp only at hi hjj
    have huu : u' = u := (List.Nodup.getElem_inj_iff hrows).mp (hiu.trans hi)
    subst hjj huu hi
    rfl

theorem Group.commitStep_m_other (g : Group) (m : Mma) (r : StepReads) (l : Nat) {q : Fin 8} (hq : q.val ≠ m.d) :
    ((g.commitStep m r).1.lane l).m[q] = (g.lane l).m[q] := by
  rw [Group.commitStep_eq]
  exact Group.writeTiles_m_other g m.d _ l hq

/-- A group after a row step of an MMA. -/
def Group.stepped (g : Group) (m : Mma) (r : StepReads) : Group :=
  { (g.commitStep m r).1 with
    mrp := if m.step == 7 then 0 else (g.commitStep m r).1.mrp,
    mmas := updWhere (fun x => x.ord == m.ord)
      (fun x => { x with step := x.step + 1, reading := !(m.step == 7), flags := Nat.lor x.flags (g.commitStep m r).2.toNat })
      (g.commitStep m r).1.mmas }

theorem Group.stepped_eq (g : Group) (m : Mma) (r : StepReads) :
    g.stepped m r = { g with
      lanes := (g.commitStep m r).1.lanes,
      mrp := if m.step = 7 then 0 else g.mrp,
      mmas := g.mmas.map (fun y => if y.ord = m.ord then { y with
        step := y.step + 1, reading := decide (m.step ≠ 7), flags := Nat.lor y.flags (g.commitStep m r).2.toNat } else y) } := by
  have he : (g.commitStep m r).1 = { g with lanes := (g.commitStep m r).1.lanes } := (Group.writeTiles_eq g m.d _).1
  unfold Group.stepped updWhere
  generalize (g.commitStep m r).1 = c at he ⊢
  rw [he]
  have hr : (!(m.step == 7)) = decide (m.step ≠ 7) := by by_cases h7 : m.step = 7 <;> simp [h7]
  simp only [beq_iff_eq, hr]

theorem State.formRead_ok {α : Type} {s s1 : State} {r : LRes α} {v : α} (h : r = .ok v s1) (g : Group) (pc : Word) (ok : α → State → State)
    (stop : State → State) : s.formRead g pc r ok stop = ok v s1 := by
  rw [h]
  rfl

/-- A group after its row step, and after its release where that was the last. -/
theorem State.stepped_ends {s1 : State} {gid : Nat} {h1 : Group} (hg1 : s1.group? gid = some h1) (m : Mma) (r : StepReads) :
    ∃ h', (if m.step == 7 then (s1.modGroup gid (fun g => g.stepped m r)).releaseForm gid
        else s1.modGroup gid (fun g => g.stepped m r)).group? gid = some h' ∧ h'.still = (h1.stepped m r).still := by
  have hgid : ∀ x : Group, (x.stepped m r).gid = x.gid := fun x => by rw [Group.stepped_eq]
  have h2 := State.group?_modGroup_same hg1 (fun g => g.stepped m r) hgid
  split
  · exact (State.releaseForm_still _ gid).group h2
  · exact ⟨_, h2, rfl⟩

theorem Group.mmas_of_still {g g' : Group} (h : g'.still = g.still) : g'.mmas = g.mmas :=
  show g'.still.mmas = g.still.mmas by rw [h]
theorem Group.mrp_of_still {g g' : Group} (h : g'.still = g.still) : g'.mrp = g.mrp :=
  show g'.still.mrp = g.still.mrp by rw [h]
theorem Group.m_of_still {g g' : Group} (h : g'.still = g.still) (l : Nat) : (g'.lane l).m = (g.lane l).m :=
  show (g'.lane l).still.m = (g.lane l).still.m by rw [Group.lane_of_still h]

/-! Flags of an MMA that ends (07 R174). -/

theorem State.raiseAll_spec {gid : Nat} (f : Fl) (ls : List Nat) : ∀ {s : State} {g : Group}, s.group? gid = some g → ls.Nodup →
    (∀ l ∈ ls, l < g.size) → ∃ g', (ls.foldl (fun s l => s.raiseFlags gid l f) s).group? gid = some g' ∧ g' = { g with lanes := g'.lanes } ∧
      (∀ l ∈ ls, (g'.lane l).fpflags = f.sticky (g.lane l).fpflags) ∧ (∀ l, l ∉ ls → g'.lane l = g.lane l) ∧
      (ls.foldl (fun s l => s.raiseFlags gid l f) s).mem = s.mem := by
  induction ls with
  | nil => exact fun {s g} hg _ _ => ⟨g, hg, rfl, nofun, fun _ _ => rfl, rfl⟩
  | cons a r ih =>
    intro s g hg hnd hlt
    obtain ⟨hna, hnd'⟩ := List.nodup_cons.mp hnd
    have hla := hlt a (List.mem_cons_self ..)
    have h1 := State.modLane_raiseFlags (l := a) hg id f
    have hid : s.modLane gid a id = s := State.modLane_id s gid a
    rw [hid] at h1
    obtain ⟨g', k1, k2, k3, k4, k5⟩ := ih h1.group hnd' fun l hl => by
      rw [Group.modLane_size]
      exact hlt l (List.mem_cons_of_mem _ hl)
    refine ⟨g', k1, k2.trans rfl, fun l hl => ?_, fun l hl => ?_, k5.trans (by rw [h1.rest])⟩
    · rcases List.mem_cons.mp hl with rfl | hl
      · rw [k4 _ hna, Group.lane_modLane_same _ _ _ hla]
        rfl
      · rw [k3 l hl, Group.lane_modLane_other _ _ _ _ fun hc => hna (by rw [← hc]; exact hl)]
    · obtain ⟨h2, h3⟩ := not_or.mp (fun hc => hl (List.mem_cons.mpr hc))
      rw [k4 l h3, Group.lane_modLane_other _ _ _ _ h2]

/-- The flags of an MMA in every lane of its form. -/
theorem State.mmaFlags_spec {s : State} {gid : Nat} {g : Group} (hg : s.group? gid = some g) (n : Nat) :
    ∃ g', (s.mmaFlags gid n).group? gid = some g' ∧ g' = { g with lanes := g'.lanes } ∧
      (∀ l ∈ g.liveLanes, (g'.lane l).fpflags = (g.lane l).fpflags ||| BitVec.ofNat 64 (Fl.ofNat n).toNat) ∧
      (s.mmaFlags gid n).mem = s.mem := by
  obtain ⟨g', h1, h2, h3, -, h5⟩ := State.raiseAll_spec (Fl.ofNat n) g.liveLanes hg (g.liveLanes_sorted.imp Nat.ne_of_lt)
    fun l hl => List.mem_range.mp (List.mem_filter.mp hl).1
  unfold State.mmaFlags
  rw [hg]
  exact ⟨g', h1, h2, h3, h5⟩

/-- Settles O31. -/
theorem mmaAndPass : Obligations.MmaAndPass := by
  refine ⟨fun d a b c kq hint seg s s1 h h1 p us => ?_, fun s h k m n hg h0 => ?_⟩
  · intro x fa oa ob s0
    refine ⟨fun hs hpass hlen hread hstep hal hsp hload hg1 hmm hn1 hba hbb hpair hmis => ?_, fun m vs h0 hg hm hf hpf hb hd => ?_⟩
    · obtain ⟨t, e, ht⟩ := mma_starts (hint := hint) (seg := seg) hs hpass hg1 hn1 fun hpr =>
        mmaEff_starts (oa := oa) (ob := ob) hpr hlen hread hstep hal hsp hload rfl rfl hba hbb hpair hmis
      exact ⟨t, _, e, ht, congrArg (· ++ _) hmm⟩
    · intro sh n rows la lb lsa lsb r hload hg1 hz hmm hn1 hcalm
      have e : exec .mmaRowStep s = .next (if m.step == 7 then (s1.modGroup h.gid (fun g => g.stepped m r)).releaseForm h.gid
          else s1.modGroup h.gid (fun g => g.stepped m r)) := by
        show execMmaRowStep s = _
        unfold execMmaRowStep
        simp only [h0, hg, hm, hf, hpf, hb, hd]
        exact congrArg Host.Outcome.next (State.formRead_ok hload _ _ _ _)
      obtain ⟨h', ht, hst⟩ := State.stepped_ends hg1 m r
      have hmm' : h'.mmas = (h1.stepped m r).mmas := Group.mmas_of_still hst
      have hmrp : h'.mrp = (h1.stepped m r).mrp := Group.mrp_of_still hst
      have hlane : ∀ l, (h'.lane l).m = ((h1.commitStep m r).1.lane l).m := fun l => Group.m_of_still hst l
      rw [Group.stepped_eq] at hmm' hmrp
      refine ⟨_, h', e, ht, hmm'.trans (by rw [← hmm]), hmrp, fun u j hu hj hd8 => ?_, fun l _ q hq => ?_, fun q h7 hq hh hw hl => ?_⟩
      · intro pl hpl
        have hrm : ∀ l i, (h'.lane l).rm m.d i = ((h1.commitStep m r).1.lane l).rm m.d i := fun l i => by
          unfold Lane.rm
          rw [hlane]
        rw [hrm]
        have hpl1 : pl = tilePlace h1.size rows[u] j := by rw [hz]
        rw [hpl1] at hpl ⊢
        exact h1.commitStep_rm m r (show n = _ by rw [hz]) (List.nodup_range.filter _) hd8 hu hj (by rw [hz] at hpl ⊢; exact hpl)
      · rw [hlane]
        exact Group.commitStep_m_other h1 m r l hq
      · have hlast : (m.step == 7) = true := by simp [h7]
        have hgid : h1.gid = h.gid := State.gid_of_group? hg1
        have h2 := State.group?_modGroup_same hg1 (fun g => g.stepped m r) fun x => by rw [Group.stepped_eq]
        have hp2 : (h1.stepped m r).paths = [q] := by rw [Group.stepped_eq]; exact hq
        obtain ⟨a, hrel⟩ := GroupBecomes.release h2 hp2 hl (hn1 q (by rw [hq]; exact List.mem_singleton_self q))
          (by rw [Group.stepped_eq]; exact hcalm.1) hh
        rw [if_pos hlast]
        exact ⟨{ q with pc := q.pc + 8, halted := none, after := a }, by rw [hgid, hrel.group]; rfl, rfl, rfl, rfl, hw⟩
  · intro Flagged
    refine ⟨fun hp hm hk hgk hne => ?_, fun hp hm hk => ?_, fun hm => ?_, fun hm hstop hclk => ?_⟩
    · have e : exec .passArrival s = .next ((s.modGroup h.gid (fun g => { g with pass := .away })).modGroup k.gid (fun g => { g with pass := .held })) := by
        show execPassArrival s = _
        unfold execPassArrival
        simp only [h0, hg, hp, hm, hk]
        rfl
      have k1 := State.group?_modGroup_same hg (fun g => { g with pass := .away }) fun _ => rfl
      have k2 := (State.group?_modGroup_other s h.gid k.gid (fun g => { g with pass := .away }) (fun _ => rfl) hne).trans hgk
      exact ⟨_, e, (State.group?_modGroup_other _ k.gid h.gid (fun g => { g with pass := .held }) (fun _ => rfl) hne.symm).trans k1,
        State.group?_modGroup_same k2 (fun g => { g with pass := .held }) fun _ => rfl, rfl⟩
    · have e : exec .passArrival s = .next (s.modGroup h.gid (fun g => { g with pass := .held })) := by
        show execPassArrival s = _
        unfold execPassArrival
        simp only [h0, hg, hp, hm, hk]
        rfl
      exact ⟨_, e, State.group?_modGroup_same hg (fun g => { g with pass := .held }) fun _ => rfl, rfl⟩
    · obtain ⟨g', k1, k2, k3, k4⟩ := State.mmaFlags_spec hg m.flags
      refine ⟨_, _, ?_, State.group?_modGroup_same k1 (fun g => { g with mmas := g.mmas.filter (fun x => x.ord != m.ord) }) fun _ => rfl,
        by rw [k2], by rw [k2], k3, k4⟩
      show execMmaComplete s = _
      unfold execMmaComplete
      simp only [h0, hg, Option.bind_some, hm]
    · obtain ⟨g', k1, k2, k3, -⟩ := State.mmaFlags_spec hg m.flags
      obtain ⟨w, hw⟩ : ∃ w, owedAt m.step = w := ⟨_, rfl⟩
      have k4 : (s.stopMma h.gid m).group? h.gid = some { g' with mrp := w, mmas := g'.mmas.filter (fun x => x.ord != m.ord) } := by
        unfold State.stopMma
        rw [hw]
        exact State.group?_modGroup_same k1 _ fun _ => rfl
      refine ⟨s.stopMma h.gid m, _, ?_, k4, k3, hw.symm, by rw [k2]⟩
      show execMmaPreemptStop s = _
      unfold execMmaPreemptStop
      simp only [h0, hg, hm, hstop]
      exact if_pos hclk

end Sys2Proof.Machine
end


section
/-!
SETTLED. Placement and counters (O45) and the moves of records (O44): both refuted by a newcomer that takes the hall pass.
-/

namespace Sys2Proof.Machine

open Sys2Proof

/-! Both statements say that a placement adds groups to those of the state. A newcomer in slot 0 whose pair was placed in the same clk
takes the hall pass from it (07 R183): the group of slot 1, which held the pass alone, is not what it was. -/

/-- The grant of pipeline 0 and slot `slot`, with a scratchpad of no unit. -/
def lonePipe (slot : Nat) : Grant := ⟨[0], slot, [⟨0, 0, 0, [], [], [], [], []⟩], []⟩

/-- A launch of one class on die 0, not placed yet: one group of one thread. -/
def loneLaunch : Launch :=
  { lid := 2, ctx := 1, queue := 0, entry := 0x1000, gsize := 1, stages := 1, scratch := 0, gpc := 1, job := 1, cx := 1, cy := 1,
    cz := 1, tscratch := 0, arg := 0, seed := 0, part := [0, 1, 1, 1, 1, 1, 1, 1, 1], trows := 0, tcols := 0, tiler := 0, tilec := 0,
    routes := [⟨none, none⟩], doneAddr := 0, pts := 0, endPts := 0, waiting := false, unplaced := [0], left := 1, tt := none }

/-- The context of that launch, with a shell of 16 MiB. -/
def loneCtx (ls : List Launch) : Ctx := { bootCtx 1 with launches := ls, desc := { (bootCtx 1).desc with shellSize := 2 ^ 24 } }

/-- A thread in slot 1 of pipeline 0 of cluster 0, placed in this clk, which holds the hall pass. -/
def slotOneGroup : Group := newGroup 3 4 1 5 ⟨0, 0⟩ (lonePipe 1) 0 0 [Lane.zero] 0x1000 false .held 0

/-- That thread in a context with the launches given, records in the inbox, and the picks of a step. -/
def passState (ls : List Launch) (rs : List TaskRec) (pick : List Nat) : State :=
  { State.reset with
    nextId := 10, pick := pick, ctxs := [loneCtx ls], classes := [bootKlass 1 5], groups := [slotOneGroup],
    jobs := [⟨1, 1, 2, [], [], 0, 0, 0, false, false⟩], eng := { Engines.empty with inbox := rs },
    plat := { State.reset.plat with ready := true, clusters := [⟨0, 0⟩] } }

/-- The hall pass of the first group after a step. -/
def firstPass : Out → Option Pass
  | .next t => t.groups.head?.map (·.pass)
  | _ => none

theorem firstPass_of_append {o : Out} {t : State} {s : State} {gs : List Group} {g : Group} (e : o = .next t) (ht : t.groups = s.groups ++ gs)
    (hs : s.groups = [g]) : firstPass o = some g.pass := by
  rw [e]
  show t.groups.head?.map (·.pass) = _
  rw [ht, hs]
  rfl

/-! The placement of a class. -/

theorem firstPass_placement : firstPass (execPlacement (passState [loneLaunch] [] [0, 1, 2, 0])) = some .away := by decide +kernel

/-- Refutes O45: the class placed in slot 0 takes the hall pass of the group that was placed in slot 1 in the same clk. -/
theorem not_placementAndCounters : ¬ Obligations.PlacementAndCounters := by
  intro h
  obtain ⟨hplace, -⟩ := h (passState [loneLaunch] [] [0, 1, 2, 0])
  obtain ⟨t, news, e, ht, -⟩ := hplace (loneCtx [loneLaunch]) loneLaunch 0 ⟨0, 0⟩ [lonePipe 0] (by decide) (by decide +kernel)
    (by decide +kernel) (by decide +kernel) (by decide) (by decide +kernel) (by decide +kernel) (by decide +kernel)
  have hp := firstPass_of_append e ht rfl
  exact absurd (hp.symm.trans firstPass_placement) (by decide)

/-! The dispatch of a record. -/

/-- A lane task of job 1 at entry 0x2000. -/
def loneRec : TaskRec :=
  { words := [0x2000, 0x0001000000000000, 0, 0, 0, 0, 0, 0], ctx := 1, pts := 0, idStage := 0, idLogical := 0, mail := none, fault := false,
    tag := 0, site := ⟨0, 0⟩, seq := 6, issuer := none, src := none }

theorem firstPass_dispatch : firstPass (execDispatch (passState [] [loneRec] [0, 0])) = some .away := by decide +kernel

theorem passState_noStacks (ls : List Launch) (rs : List TaskRec) (pick : List Nat) : (passState ls rs pick).noStacks := by
  intro g hg
  rw [show g = slotOneGroup from List.mem_singleton.mp hg]
  unfold Group.noStack
  decide +kernel

/-- Refutes O44: the group of a record dispatched to slot 0 takes the hall pass of the group that was placed in slot 1 in the same
clk. -/
theorem not_recordsMove : ¬ Obligations.RecordsMove := by
  intro h
  obtain ⟨-, -, -, hdispatch, -⟩ := h (passState [] [loneRec] [0, 0]) loneRec (passState_noStacks [] [loneRec] [0, 0]) rfl
  obtain ⟨-, -, -, hstart⟩ := hdispatch [] (by decide +kernel)
  obtain ⟨t, g, e, -, ht, -⟩ := hstart (loneCtx []) [lonePipe 0] (by decide +kernel) (by decide +kernel) (by decide +kernel) (by decide +kernel)
    (by decide +kernel) (Or.inl (by decide +kernel)) (by decide +kernel)
  have hp := firstPass_of_append e ht rfl
  exact absurd (hp.symm.trans firstPass_dispatch) (by decide)

end Sys2Proof.Machine
end


section
/-!
SETTLED. Barrier words (O34): refuted by a scratchpad whose bytes are not in canonical form.
-/

namespace Sys2Proof.Machine

open Sys2Proof

/-! The statement does not ask that the bytes of the scratchpad are in canonical form, and one that lists an address twice does not keep
the zero that is written there: the next entry shows. The last arrival at such a word leaves reserved bits behind, so that the waiting lane
finds the word invalid, not turned. -/

/-- A barrier word of one arrival at offset 64, with byte 71 listed twice. -/
def twiceListed : Pad := ⟨0, 38, 2, [(64, 1), (71, 0), (71, 0xFF)], [], [], [], []⟩

/-- A group of one lane, at 0x1000. -/
def barGroup (gid pid pipe : Nat) (x : Lane) (waits : Bool) : Group :=
  { newGroup gid pid 1 2 ⟨0, 0⟩ ⟨[pipe], 0, [], []⟩ 0 0 [x] 0x1000 false .held 0 with
    started := true, paths := [{ Path.blank pid with lanes := [0], pc := 0x1000, qset := pid, waiting := waits }] }

/-- The lane that arrives: x1 is the address of the word. -/
def arriver : Group := barGroup 3 4 0 (Lane.zero.wx 1 0xFC00000000000040) false

/-- What the other lane waits for, with its result in x7. -/
def oneWait : Wait := ⟨.bar (.pad 2 0 0) 64 0 true, 7, none, 0, false⟩

/-- The lane that waits at the word. -/
def waiter : Group := barGroup 5 6 1 { Lane.zero with wait := some oneWait } true

/-- The two groups, with the first at its word. -/
def barState : State :=
  { State.reset with
    nextId := 10, curG := 3, curP := 4, ctxs := [bootCtx 1], groups := [arriver, waiter],
    classes := [{ bootKlass 1 2 with pads := [twiceListed] }] }

/-- The path of the lane that arrives. -/
def arriverPath : Path := { Path.blank 4 with lanes := [0], pc := 0x1000, qset := 4 }

theorem barState_single : barState.single arriver arriverPath 0 := by
  simp only [State.single, State.undivided, State.runs, Group.noStack]
  and_intros <;> decide +kernel

theorem barState_noStacks : barState.noStacks := by
  unfold State.noStacks Group.noStack
  decide +kernel

theorem barState_placed : barState.placed arriver 0 ((arriver.lane 0).rx 1) 8 0 64 twiceListed := by
  unfold State.placed
  and_intros <;> decide +kernel

/-- x7 of the lane that waits, after a step. -/
def waiterResult : Out → Option Word
  | .next t => some ((t.lane 5 0).rx 7)
  | _ => none

/-- The arrival wakes the waiting lane with INVALID. -/
theorem waiterResult_barState : waiterResult (execBarr ⟨false, 0⟩ 2 1 false barState) = some (barResult 1 2 false) := by decide +kernel

/-- Refutes O34: in a scratchpad whose bytes are not canonical, the last arrival can wake a lane with INVALID. -/
theorem not_barrierWords : ¬ Obligations.BarrierWords := by
  intro h
  obtain ⟨-, -, hwakes⟩ := h ⟨false, 0⟩ 2 1 0 .cl false barState arriver arriverPath 0 0 64 twiceListed barState_single (by decide +kernel)
    barState_noStacks barState_placed
  obtain ⟨t, e, -, hx⟩ := hwakes waiter 0 oneWait true (by decide +kernel) (by decide) (by decide) rfl (by decide +kernel) (by decide +kernel)
    (by decide +kernel) (by decide +kernel)
  have hr : waiterResult (execBarr ⟨false, 0⟩ 2 1 false barState) = some ((t.lane 5 0).rx 7) := congrArg waiterResult e
  have hx7 : (t.lane 5 0).rx 7 = _ := hx (by decide)
  rw [waiterResult_barState, hx7] at hr
  exact absurd hr (by decide +kernel)

end Sys2Proof.Machine
end


section
/-!
SETTLED. Accesses of global memory that this package performs (O14).
-/

namespace Sys2Proof.Machine

open Sys2Proof

/-! What the checks of 08 R207 answer for a global address, and the state that a load, a store and an atomic leave. -/

/-- An aligned address of space 0 resolves to itself. -/
theorem resolve_glob {s : State} {g : Group} {l n : Nat} {A : Word} (h0 : A.toNat / 2 ^ 56 = 0) (hal : A.toNat % n = 0) :
    resolve s g l A n n = .ok (.glob A.toNat) := by
  have hA : A.toNat % 2 ^ 56 = A.toNat := Nat.mod_eq_of_lt ((Nat.div_eq_zero_iff_lt (by decide)).mp h0)
  unfold resolve
  simp only [h0, hal, hA, if_true]

theorem State.load_glob {s : State} {g : Group} {gid l n sub v pt : Nat} {A : Word} {m' : MemSys} (hg : s.group? gid = some g)
    (h0 : A.toNat / 2 ^ 56 = 0) (hal : A.toNat % n = 0) (hfar : s.far g.ctx A.toNat = false)
    (hd : s.drainHeld g (.glob A.toNat) n = false) (hm : s.mem.l1Load (s.req g l A.toNat) A.toNat n = (.ok v, pt, m')) :
    s.load gid l A n sub = .ok v ((s.setMem m').setPts gid l (max pt (s.observedPts g l A.toNat n false))) := by
  have hld : s.loadHeld (.glob A.toNat) n = false := rfl
  unfold State.load
  simp only [hg, resolve_glob h0 hal]
  unfold State.loadAt
  simp only [hg, hld, hd]
  unfold State.loadRaw
  simp only [hg, hfar, hm]
  rfl

/-- The state of a write to a physical line by lane l. -/
def State.wroteLine (s : State) (gid l pa : Nat) (r : Nat × MemSys) : State :=
  ((s.setMem r.2).fireWatches (.phys (pa / 128)) r.1).setPts gid l r.1

theorem State.store_glob {s : State} {g : Group} {gid l pa pt : Nat} {A : Word} {bs : List Byte} {m' : MemSys} (hg : s.group? gid = some g)
    (h0 : A.toNat / 2 ^ 56 = 0) (hal : A.toNat % bs.length = 0) (hfar : s.far g.ctx A.toNat = false)
    (hs : s.storeHeld g l (.glob A.toNat) bs.length = false) (hd : s.drainHeld g (.glob A.toNat) bs.length = false)
    (hm : s.mem.l1Own (s.req g l A.toNat) A.toNat needW = (.ok pa, pt, m')) :
    s.store gid l A bs = .ok () (s.wroteLine gid l pa (m'.l1Write (s.req g l A.toNat) A.toNat pa pt bs)) := by
  unfold State.store
  simp only [hg, resolve_glob h0 hal]
  unfold State.storeAt
  simp only [hg, hs, hd]
  unfold State.storeRaw
  simp only [hg, hfar, hm]
  rfl

/-- What an atomic leaves: `got` is the state after a comparison that fails, `put` a write that keeps the value's bytes. -/
def AtomicLeaves (s : State) (gid l n pa old : Nat) (f : Nat → Option Nat) (r : LRes Nat) : Prop :=
  match f old with
  | none => ∃ m p, r = .ok old ((s.setMem m).setPts gid l p) ∧ m.hbm = s.mem.hbm
  | some w => ∃ x : Nat × MemSys, r = .ok old (s.wroteLine gid l pa x) ∧ x.2.hbm = cellsWrite s.mem.hbm pa (toBytes n w)

theorem MemSys.read_of_hbm {m m' : MemSys} (h : m.hbm = m'.hbm) (pa n : Nat) : m.read pa n = m'.read pa n := by
  unfold MemSys.read
  rw [h]

/-- An atomic in the L1 of the pipeline (08 R213). -/
theorem State.rmw_near {s : State} {g : Group} {gid l n pa pt : Nat} {A : Word} {m' : MemSys} (f : Nat → Option Nat)
    (hg : s.group? gid = some g) (h0 : A.toNat / 2 ^ 56 = 0) (hal : A.toNat % n = 0) (hfar : s.far g.ctx A.toNat = false)
    (hs : s.storeHeld g l (.glob A.toNat) n = false) (hd : s.drainHeld g (.glob A.toNat) n = false) (hp : m'.poisoned pa n = false)
    (hm : s.mem.l1Own (s.req g l A.toNat) A.toNat needRW = (.ok pa, pt, m')) :
    AtomicLeaves s gid l n pa (s.mem.read pa n) f (s.rmw gid l A n false f) := by
  have hld : s.loadHeld (.glob A.toNat) n = false := rfl
  have hh : m'.hbm = s.mem.hbm := by rw [← s.mem.l1Own_hbm (s.req g l A.toNat) A.toNat needRW, hm]
  have hr := MemSys.read_of_hbm hh pa n
  unfold AtomicLeaves State.rmw
  simp only [hg, resolve_glob h0 hal]
  unfold State.rmwAt
  simp only [hg, hld, hs, hd, hfar, hm, hp, hr, Bool.or_self, Bool.false_eq_true, if_false]
  cases f (s.mem.read pa n) with
  | none => exact ⟨_, _, rfl, hh⟩
  | some w => exact ⟨_, rfl, by rw [MemSys.l1Write_hbm, hh]⟩

/-- An atomic at the home of the line. -/
theorem State.rmw_home {s : State} {g : Group} {gid l n pa perm pt : Nat} {A : Word} {m' : MemSys} (f : Nat → Option Nat)
    (hg : s.group? gid = some g) (h0 : A.toNat / 2 ^ 56 = 0) (hal : A.toNat % n = 0) (hfar : s.far g.ctx A.toNat = false)
    (hs : s.storeHeld g l (.glob A.toNat) n = false) (hd : s.drainHeld g (.glob A.toNat) n = false) (hp : m'.poisoned pa n = false)
    (hm : let r := s.req g l A.toNat
      MemSys.translateAt (fun m q => m.translate r.ptRoot r.die r.ctx r.privS A.toNat needRW q) MemSys.atomicPlace 3 s.mem r.pts =
        (.ok (pa, perm), pt, m')) :
    AtomicLeaves s gid l n pa (s.mem.read pa n) f (s.rmw gid l A n true f) := by
  have hld : s.loadHeld (.glob A.toNat) n = false := rfl
  have hh : m'.hbm = s.mem.hbm := by
    have := MemSys.translateAt_hbm (fun m q => m.translate (s.req g l A.toNat).ptRoot (s.req g l A.toNat).die (s.req g l A.toNat).ctx
      (s.req g l A.toNat).privS A.toNat needRW q) MemSys.atomicPlace (by simp) 3 s.mem (s.req g l A.toNat).pts
    rw [hm] at this
    exact this
  have hr : (m'.homeRead pa n pt).1 = s.mem.read pa n := by
    refine Eq.trans ?_ (MemSys.read_of_hbm hh pa n)
    exact MemSys.read_of_hbm (m'.homeRead_hbm pa n pt) pa n
  have hh1 : (m'.homeRead pa n pt).2.hbm = s.mem.hbm := (m'.homeRead_hbm pa n pt).trans hh
  dsimp only at hm
  unfold AtomicLeaves State.rmw
  simp only [hg, resolve_glob h0 hal]
  unfold State.rmwAt
  simp only [hg, hld, hs, hd, hfar, hm, hp, hr, Bool.or_self, Bool.false_eq_true, if_false, if_true]
  cases f (s.mem.read pa n) with
  | none => exact ⟨_, _, rfl, hh1⟩
  | some w => exact ⟨_, rfl, by rw [MemSys.homeWrite_hbm, hh1]⟩

/-! What a word with such an access leaves. -/

/-- The group after a write of a physical line. -/
theorem State.wroteLine_group? {s : State} {gid l pa : Nat} {r : Nat × MemSys} {g : Group} (hg : s.group? gid = some g) (hn : g.noStack) :
    ∃ h', (s.wroteLine gid l pa r).group? gid = some h' ∧ h'.noStack ∧ h'.size = g.size := by
  obtain ⟨g2, hg2, hn2, -, hz2⟩ := State.noStack_fireWatches (a := .phys (pa / 128)) (ts := r.1)
    (show (s.setMem r.2).group? gid = some g from hg) hn
  exact ⟨_, State.group?_modGroup_same hg2 (fun g => g.modLane l _) fun _ => rfl, hn2, (Group.modLane_size ..).trans hz2⟩

/-- The one active lane ends its part by a write of its own registers, in a state whose groups hold no path on a stack. -/
theorem laneWord_ends {s u : State} {g : Guard} {h g' : Group} {p : Path} {l : Nat} {F : State → Nat → Nat → LRes Unit} {f : Lane → Lane}
    (hr : s.runsOne h p g l) (hF : F s h.gid l = .ok () (u.modLane h.gid l f)) (hg : u.group? h.gid = some g') (hn : g'.noStack)
    (hz : g'.size = h.size) :
    ∃ t, laneWord g F s = .next t ∧ t.lane h.gid l = f (u.lane h.gid l) ∧ OtherLanes u t h.gid l ∧ t = { u with groups := t.groups } := by
  have hg1 : (u.modLane h.gid l f).group? h.gid = some (g'.modLane l f) := State.group?_modGroup_same hg _ fun _ => rfl
  obtain ⟨t, e, -, hlanes, -, heq⟩ := laneWord_ok hr hF hg1 hn
  refine ⟨t, e, ?_, fun n i hni => ?_, heq⟩
  · rw [hlanes, State.lane_modLane_same _ _ _ _ _ hg (by rw [hz]; exact hr.2.2)]
  · rw [hlanes, State.lane_modLane_other _ _ _ _ _ _ hni]

/-- The FENCE before an access leaves the contexts and the domain's tables. -/
theorem State.far_opened {s : State} {gid l : Nat} {m : MMod} {g : Group} (hg : s.group? gid = some g) (ctx va : Nat) :
    (s.opened gid l m).far ctx va = s.far ctx va := by
  obtain ⟨φ, -, -, -, -, he⟩ := State.opened_spec (l := l) (m := m) hg
  rw [he]
  rfl

/-- A load of global memory. -/
theorem laneWord_load_glob {s : State} {g : Guard} {h h0 : Group} {p : Path} {l : Nat} {A : Word} {m : MMod} {n v pt : Nat} {m' : MemSys}
    (f : Nat → Lane → Lane) (F : State → Nat → Nat → LRes Unit) (hF : F s h.gid l = s.laneLoad h.gid l m A n f)
    (hr : s.runsOne h p g l) (hf : m.ord.releases = true → s.fenceReady h.gid l = true)
    (hh0 : (s.opened h.gid l m).group? h.gid = some h0) (ha : A.toNat / 2 ^ 56 = 0) (hfar : s.far h.ctx A.toNat = false)
    (hal : A.toNat % n = 0) (hd : s.drainHeld h (.glob A.toNat) n = false)
    (hm : s.mem.l1Load ((s.opened h.gid l m).req h0 l A.toNat) A.toNat n = (.ok v, pt, m')) :
    ∃ t, laneWord g F s = .next t ∧ t.mem = m' ∧ t.mem.hbm = s.mem.hbm ∧ OtherLanes s t h.gid l ∧ SamePads s t ∧
      t = { s with groups := t.groups, classes := t.classes, mem := t.mem } ∧
      t.lane h.gid l = (f v { h0.lane l with pts := max pt ((s.opened h.gid l m).observedPts h0 l A.toNat n false) }).acquired m := by
  have hg := hr.group
  have hl := hr.2.2
  obtain ⟨φ, -, hg0, hother, -, heq⟩ := State.opened_spec (l := l) (m := m) hg
  cases Option.some.inj (hh0.symm.trans hg0)
  have hpads := State.opened_pads (l := l) (m := m) hg
  have k1 := (State.drainHeld_opened (m := m) (loc := .glob A.toNat) (n := n) (l := l) (f := φ) hg).trans hd
  have k2 := (State.far_opened (l := l) (m := m) hg h.ctx A.toNat).trans hfar
  have hhbm : m'.hbm = s.mem.hbm := by rw [← s.mem.l1Load_hbm _ A.toNat n, hm]
  rw [← (State.opened_eng (l := l) (m := m) hg).2.1] at hm
  have hopen := State.ordOpen_ok hf
  generalize s.opened h.gid l m = s0 at *
  have hload := State.load_glob (sub := 1) hg0 ha hal k2 k1 hm
  let P := max pt (s0.observedPts (h.modLane l φ) l A.toNat n false)
  let u := (s0.setMem m').setPts h.gid l P
  have e : F s h.gid l = .ok () (u.modLane h.gid l (fun x => (f v x).acquired m)) := by
    rw [hF]; unfold State.laneLoad
    rw [hopen]; simp only [LRes.bind]
    rw [hload]
  have hgu : u.group? h.gid = some ((h.modLane l φ).modLane l (fun y => { y with pts := P })) :=
    State.group?_modGroup_same (s := s0.setMem m') hg0 _ fun _ => rfl
  obtain ⟨t, et, hlane, ho, hteq⟩ := laneWord_ends hr e hgu hr.1.2 (by simp)
  have htm : t.mem = m' := by rw [hteq]; rfl
  refine ⟨t, et, htm, by rw [htm]; exact hhbm, fun n' i hni => ?_, ?_, ?_, ?_⟩
  · rw [ho n' i hni, ← hother n' i hni]
    exact State.lane_modLane_other _ _ _ _ _ _ hni
  · intro k i
    rw [hteq]
    exact hpads k i
  · rw [hteq]
    show ({ u with groups := t.groups } : State) = { s with groups := t.groups, classes := u.classes, mem := u.mem }
    show ({ s0 with groups := t.groups, mem := m' } : State) = { s with groups := t.groups, classes := s0.classes, mem := m' }
    rw [heq]
  · rw [hlane, State.lane_of_group? hgu, Group.lane_modLane_same _ _ _ (by simpa using hl)]

/-- What a write of global memory leaves: its bytes at the place, every other byte, and the registers of lanes that do not wait. -/
def WroteGlobal (s t : State) (pa n v : Nat) : Prop :=
  cellsWf t.mem.hbm = true ∧ SamePads s t ∧ (∀ k, k < n → cellAt t.mem.hbm (pa + k) = BitVec.ofNat 8 (v / 256 ^ k)) ∧
    ∀ c, c < pa ∨ pa + n ≤ c → cellAt t.mem.hbm c = cellAt s.mem.hbm c

theorem WroteGlobal.of_hbm {s t : State} {pa n v : Nat} (hwf : cellsWf s.mem.hbm = true) (ht : t.mem.hbm = cellsWrite s.mem.hbm pa (toBytes n v))
    (hp : SamePads s t) : WroteGlobal s t pa n v := by
  have hlen := toBytes_length n v
  refine ⟨ht ▸ cellsWf_cellsWrite _ _ _ hwf, hp, fun k hk => ?_, fun c hc => ?_⟩
  · have hk' : k < (toBytes n v).length := hlen.symm ▸ hk
    rw [ht, cellAt_cellsWrite_same _ _ _ _ hwf hk', toBytes_get]
  · rw [ht, cellAt_cellsWrite_other _ _ _ _ hwf (hlen.symm ▸ hc)]

/-- A store of global memory. -/
theorem laneWord_store_glob {s : State} {g : Guard} {h h0 : Group} {p : Path} {l : Nat} {A : Word} {m : MMod} {n v pa pt : Nat} {m' : MemSys}
    (F : State → Nat → Nat → LRes Unit) (hF : F s h.gid l = s.laneStore h.gid l m A (toBytes n v))
    (hr : s.runsOne h p g l) (hf : m.ord.releases = true → s.fenceReady h.gid l = true)
    (hh0 : (s.opened h.gid l m).group? h.gid = some h0) (ha : A.toNat / 2 ^ 56 = 0) (hfar : s.far h.ctx A.toNat = false)
    (hal : A.toNat % n = 0) (hs : s.storeHeld h l (.glob A.toNat) n = false) (hd : s.drainHeld h (.glob A.toNat) n = false)
    (hwf : cellsWf s.mem.hbm = true) (hm : s.mem.l1Own ((s.opened h.gid l m).req h0 l A.toNat) A.toNat needW = (.ok pa, pt, m')) :
    ∃ t, laneWord g F s = .next t ∧ WroteGlobal s t pa n v ∧ ∀ n j, (s.lane n j).wait = none → SameRegs (s.lane n j) (t.lane n j) := by
  have hg := hr.group
  obtain ⟨φ, -, hg0, -, -, -⟩ := State.opened_spec (l := l) (m := m) hg
  cases Option.some.inj (hh0.symm.trans hg0)
  have hpads := State.opened_pads (l := l) (m := m) hg
  have hregs := State.opened_regs (m := m) hg hr.2.2
  have hlen := toBytes_length n v
  have k0 := (State.storeHeld_opened (m := m) (loc := .glob A.toNat) (n := n) (l := l) (f := φ) hg).trans hs
  have k1 := (State.drainHeld_opened (m := m) (loc := .glob A.toNat) (n := n) (l := l) (f := φ) hg).trans hd
  have k2 := (State.far_opened (l := l) (m := m) hg h.ctx A.toNat).trans hfar
  have hhbm : m'.hbm = s.mem.hbm := by rw [← s.mem.l1Own_hbm _ A.toNat needW, hm]
  rw [← (State.opened_eng (l := l) (m := m) hg).2.1] at hm
  have hopen := State.ordOpen_ok hf
  generalize s.opened h.gid l m = s0 at *
  have hstore := State.store_glob (bs := toBytes n v) hg0 ha (hlen.symm ▸ hal) k2 (hlen.symm ▸ k0) (hlen.symm ▸ k1) hm
  generalize hx : m'.l1Write (s0.req (h.modLane l φ) l A.toNat) A.toNat pa pt (toBytes n v) = x at hstore
  have hxh : x.2.hbm = cellsWrite s.mem.hbm pa (toBytes n v) := by rw [← hx, MemSys.l1Write_hbm, hhbm]
  let u := (s0.wroteLine h.gid l pa x).noteSend h.gid l A (toBytes n v)
  have e : F s h.gid l = .ok () (u.modLane h.gid l (fun y => y.acquired m)) := by
    rw [hF]; unfold State.laneStore
    rw [hopen]; simp only [LRes.bind]
    rw [hstore]
  have hu : u = { s0.wroteLine h.gid l pa x with link := u.link } := State.noteSend_eq _ _ _ _ _
  obtain ⟨g', hg', hn', hz'⟩ := State.wroteLine_group? (l := l) (pa := pa) (r := x) hg0 (show (h.modLane l φ).noStack from hr.1.2)
  have hgu : u.group? h.gid = some g' := by rw [hu]; exact hg'
  obtain ⟨t, et, hlane, ho, hteq⟩ := laneWord_ends hr e hgu hn' (hz'.trans (Group.modLane_size ..))
  have hlu : ∀ n i, u.lane n i = (s0.wroteLine h.gid l pa x).lane n i := fun n i => by rw [hu]; rfl
  refine ⟨t, et, WroteGlobal.of_hbm hwf ?_ ?_, fun k i hw => ?_⟩
  · rw [hteq, hu]
    exact hxh
  · intro k i
    rw [hteq, hu]
    exact hpads k i
  · have h1 := (hregs k i).1.trans (State.lane_stored (s0.setMem x.2) (.phys (pa / 128)) x.1 h.gid l x.1 k i ((hregs k i).2.trans hw)).1
    by_cases hki : k = h.gid ∧ i = l
    · obtain ⟨rfl, rfl⟩ := hki
      rw [hlane, hlu]
      exact h1.trans (Lane.acquired_spec _ m).1
    · rw [ho k i hki, hlu]
      exact h1

/-- An atomic of global memory, near or at the home. -/
theorem laneWord_rmw_glob {s : State} {g : Guard} {h h0 : Group} {p : Path} {l : Nat} {A : Word} {m : MMod} {n pa pt : Nat} {d : XReg}
    {m' : MemSys} (f : Nat → Option Nat) (F : State → Nat → Nat → LRes Unit) (hF : F s h.gid l = s.laneAtomic h.gid l m A n d f)
    (hr : s.runsOne h p g l) (hf : m.ord.releases = true → s.fenceReady h.gid l = true)
    (hh0 : (s.opened h.gid l m).group? h.gid = some h0) (ha : A.toNat / 2 ^ 56 = 0) (hfar : s.far h.ctx A.toNat = false)
    (hal : A.toNat % n = 0) (hs : s.storeHeld h l (.glob A.toNat) n = false) (hd : s.drainHeld h (.glob A.toNat) n = false)
    (hw : (h.lane l).wait = none) (hp : m'.poisoned pa n = false)
    (hm : let r := (s.opened h.gid l m).req h0 l A.toNat
      if scopeNear m.scope then s.mem.l1Own r A.toNat needRW = (.ok pa, pt, m')
      else ∃ perm, MemSys.translateAt (fun m q => m.translate r.ptRoot r.die r.ctx r.privS A.toNat needRW q) MemSys.atomicPlace 3 s.mem
        r.pts = (.ok (pa, perm), pt, m')) :
    let old := s.mem.read pa n
    ∃ t x, laneWord g F s = .next t ∧ SamePads s t ∧
      t.mem.hbm = (match f old with | some w => cellsWrite s.mem.hbm pa (toBytes n w) | none => s.mem.hbm) ∧
      SameRegs (h.lane l) x ∧ t.lane h.gid l = (x.wx d (BitVec.ofNat 64 old)).acquired m ∧
      ∀ k j, ¬(k = h.gid ∧ j = l) → (s.lane k j).wait = none → SameRegs (s.lane k j) (t.lane k j) := by
  intro old
  have hg := hr.group
  obtain ⟨φ, hφ, hg0, hother, -, -⟩ := State.opened_spec (l := l) (m := m) hg
  cases Option.some.inj (hh0.symm.trans hg0)
  have hpads := State.opened_pads (l := l) (m := m) hg
  have hregs := State.opened_regs (m := m) hg hr.2.2
  have k0 := (State.storeHeld_opened (m := m) (loc := .glob A.toNat) (n := n) (l := l) (f := φ) hg).trans hs
  have k1 := (State.drainHeld_opened (m := m) (loc := .glob A.toNat) (n := n) (l := l) (f := φ) hg).trans hd
  have k2 := (State.far_opened (l := l) (m := m) hg h.ctx A.toNat).trans hfar
  have hmem := (State.opened_eng (l := l) (m := m) hg).2.1
  have hopen := State.ordOpen_ok hf
  have hlane0 : SameRegs (h.lane l) ((s.opened h.gid l m).lane h.gid l) ∧ ((s.opened h.gid l m).lane h.gid l).wait = none := by
    have := hregs h.gid l
    rw [State.lane_of_group? hg] at this
    exact ⟨this.1, this.2.trans hw⟩
  rw [← hmem] at hm
  have hold : old = (s.opened h.gid l m).mem.read pa n := by rw [hmem]
  have hleaves : AtomicLeaves (s.opened h.gid l m) h.gid l n pa old f ((s.opened h.gid l m).rmw h.gid l A n (!scopeNear m.scope) f) := by
    rw [hold]
    cases hsc : scopeNear m.scope with
    | true => exact State.rmw_near f hg0 ha hal k2 k0 k1 hp (by simpa [hsc] using hm)
    | false =>
      obtain ⟨perm, hm⟩ : ∃ perm, _ := by simpa [hsc] using hm
      exact State.rmw_home f hg0 ha hal k2 k0 k1 hp hm
  rw [← hmem]
  generalize s.opened h.gid l m = s0 at *
  have e0 : F s h.gid l = (s0.rmw h.gid l A n (!scopeNear m.scope) f).bind (fun v s2 =>
      .ok () (s2.modLane h.gid l (fun x => (x.wx d (BitVec.ofNat 64 v)).acquired m))) := by
    rw [hF]; unfold State.laneAtomic
    rw [hopen]; rfl
  unfold AtomicLeaves at hleaves
  cases hv : f old with
  | none =>
    rw [hv] at hleaves
    obtain ⟨m1, P, er, hh⟩ := hleaves
    let u := (s0.setMem m1).setPts h.gid l P
    have e : F s h.gid l = .ok () (u.modLane h.gid l (fun x => (x.wx d (BitVec.ofNat 64 old)).acquired m)) := by rw [e0, er]; rfl
    have hgu : u.group? h.gid = some ((h.modLane l φ).modLane l (fun y => { y with pts := P })) :=
      State.group?_modGroup_same (s := s0.setMem m1) hg0 _ fun _ => rfl
    obtain ⟨t, et, hlane, ho, hteq⟩ := laneWord_ends hr e hgu hr.1.2 (by simp)
    refine ⟨t, u.lane h.gid l, et, fun k i => ?_, by rw [hteq]; exact hh, hlane0.1.trans ?_, hlane, fun k i hki _ => ?_⟩
    · rw [hteq]
      exact hpads k i
    · rw [State.lane_of_group? hgu, Group.lane_modLane_same _ _ _ (by simpa using hr.2.2), State.lane_of_group? hg0]
      exact ⟨rfl, rfl, rfl, rfl, rfl, rfl, rfl, rfl, rfl, rfl, rfl, rfl, rfl, rfl, rfl⟩
    · rw [ho k i hki, show u.lane k i = s0.lane k i from State.lane_modLane_other _ _ _ _ _ _ hki]
      exact (hregs k i).1
  | some w =>
    rw [hv] at hleaves
    obtain ⟨x, er, hh⟩ := hleaves
    let u := s0.wroteLine h.gid l pa x
    have e : F s h.gid l = .ok () (u.modLane h.gid l (fun x => (x.wx d (BitVec.ofNat 64 old)).acquired m)) := by rw [e0, er]; rfl
    obtain ⟨g', hg', hn', hz'⟩ := State.wroteLine_group? (l := l) (pa := pa) (r := x) hg0 (show (h.modLane l φ).noStack from hr.1.2)
    obtain ⟨t, et, hlane, ho, hteq⟩ := laneWord_ends hr e hg' hn' (hz'.trans (Group.modLane_size ..))
    have hstored := State.lane_stored (s0.setMem x.2) (.phys (pa / 128)) x.1 h.gid l x.1
    refine ⟨t, u.lane h.gid l, et, fun k i => ?_, by rw [hteq]; exact hh, hlane0.1.trans (hstored h.gid l hlane0.2).1, hlane,
      fun k i hki hwk => ?_⟩
    · rw [hteq]
      exact hpads k i
    · rw [ho k i hki]
      exact (hregs k i).1.trans (hstored k i ((hregs k i).2.trans hwk)).1

/-- Settles O14: a load, a store and an atomic of global memory with their address checked, in the L1 or at the home. -/
theorem globalAccesses : Obligations.GlobalAccesses := by
  refine ⟨fun g d a b dv bv off sx m sz s h h0 p l => ?_, fun g d a b off m sz s h h0 p l pa pt mem' => ?_⟩
  · intro s0 hr hf hh0
    have hl := State.lane_of_group? hr.group l
    refine ⟨fun v pt mem' => ?_, fun pa pt mem' => ?_⟩
    · intro A Done ha hfar hal hd hm
      have hA : (s.lane h.gid l).addrIndexed a b off = A := by rw [hl]
      have load := fun f : Nat → Lane → Lane => laneWord_load_glob f
        (fun s gid l => s.laneLoad gid l m ((s.lane gid l).addrIndexed a b off) sz.bytes f) (by rw [hA]) hr hf hh0 ha hfar hal hd hm
      exact ⟨load fun v x => x.wx d (loadValue sx sz.bytes v), load fun v x => x.wv dv (BitVec.ofNat 128 v)⟩
    · intro A Done ha hfar hal hs hd hwf hm
      have store : ∀ (w : Instr) (v : Nat) (F : State → Nat → Nat → LRes Unit), exec w s = laneWord g F s →
          F s h.gid l = s.laneStore h.gid l m A (toBytes sz.bytes v) → Done w v := fun w v F hw hF => by
        obtain ⟨t, e, ⟨h1, h2, h3, h4⟩, h5⟩ := laneWord_store_glob F hF hr hf hh0 ha hfar hal hs hd hwf hm
        exact ⟨t, hw.trans e, h1, h2, h3, h4, h5⟩
      exact ⟨store _ _ (fun s gid l => s.laneStore gid l m ((s.lane gid l).addrData a off) (toBytes sz.bytes ((s.lane gid l).rx b).toNat))
          rfl (by rw [hl]),
        store _ _ (fun s gid l => s.laneStore gid l m ((s.lane gid l).addrData a off) (toBytes sz.bytes ((s.lane gid l).rv bv).toNat))
          rfl (by rw [hl])⟩
  · intro A n s0 r old hr hf hh0 ha hfar hal hs hd hwf hw hp hm x hx
    have hl := State.lane_of_group? hr.group l
    rw [← hl] at hx
    obtain ⟨F, f, e, hv, hF⟩ := exec_atomicWords hx
    obtain ⟨t, y, et, hpads, hhbm, hy, hlane, hother⟩ :=
      laneWord_rmw_glob (A := A) f F (by rw [hF, hl]) hr hf hh0 ha hfar hal hs hd hw hp hm
    have hrx : ∀ q, (t.lane h.gid l).rx q = (y.wx d (BitVec.ofNat 64 old)).rx q := fun q => by
      rw [hlane]; exact (Lane.acquired_spec _ m).1.rx q
    have hbytes : cellsWf t.mem.hbm = true ∧ (∀ k, k < n → cellAt t.mem.hbm (pa + k) =
        match x.2 with | some v => BitVec.ofNat 8 (v / 256 ^ k) | none => cellAt s.mem.hbm (pa + k)) ∧
        ∀ c, c < pa ∨ pa + n ≤ c → cellAt t.mem.hbm c = cellAt s.mem.hbm c := by
      rw [← hv]
      change t.mem.hbm = (match f old with | some w => cellsWrite s.mem.hbm pa (toBytes n w) | none => s.mem.hbm) at hhbm
      cases hfo : f old with
      | none =>
        rw [hfo] at hhbm
        dsimp only at hhbm ⊢
        rw [hhbm]
        exact ⟨hwf, fun _ _ => rfl, fun _ _ => rfl⟩
      | some w =>
        rw [hfo] at hhbm
        obtain ⟨h1, -, h3, h4⟩ := WroteGlobal.of_hbm hwf hhbm hpads
        exact ⟨h1, h3, h4⟩
    refine ⟨t, e.trans et, hbytes.1, hpads, hbytes.2.1, hbytes.2.2, ?_, fun q hq => ?_, hother⟩
    · rw [hrx]
      by_cases h0 : d = 0
      · subst h0; simp
      · rw [Lane.rx_wx_same _ _ _ h0, if_neg h0]
    · rw [hrx, Lane.rx_wx_other _ _ _ _ hq, hy.rx]

end Sys2Proof.Machine
end


section
/-!
FACTS. The parts of a copy step: an engine's update of a word does not see commands and job counts, a chunk's completion, the end of a
command.
-/

namespace Sys2Proof.Machine

open Sys2Proof

/-! The accesses of an engine do not see the engines' commands and the counts of jobs. -/

/-- The translation that an engine's access makes. -/
def State.pageWalk (s : State) (c : Ctx) (a : Actor) (va need : Nat) : MRes (Nat × Nat) × Nat × MemSys :=
  let tr (m : MemSys) (q : Nat) := m.translate c.desc.ptRoot a.site.die a.ctx a.privS va need q
  if need = needR then tr s.mem a.pts else MemSys.translateAt tr MemSys.writePlace 3 s.mem a.pts

/-- What a translation answers an engine. -/
def State.pageAnswer (s : State) (q : MRes (Nat × Nat) × Nat × MemSys) : MRes Nat × Nat × State :=
  match q.1 with
  | .ok x => (.ok x.1, q.2.1, s.setMem q.2.2)
  | .pageFault => (.pageFault, q.2.1, s.setMem q.2.2)
  | .protect => (.protect, q.2.1, s.setMem q.2.2)
  | .poisoned => (.poisoned, q.2.1, s.setMem q.2.2)

theorem State.engPage_none {s : State} {a : Actor} {va need : Nat} (hc : s.ctx? a.ctx = none) :
    s.engPage a va need = (.pageFault, a.pts, s) := by
  unfold State.engPage
  rw [hc]

theorem State.engPage_far {s : State} {a : Actor} {va need : Nat} {c : Ctx} (hc : s.ctx? a.ctx = some c) (hf : s.far a.ctx va = true) :
    s.engPage a va need = s.farAnswer a.pts := by
  unfold State.engPage
  rw [hc]
  exact if_pos hf

theorem State.engPage_near {s : State} {a : Actor} {va need : Nat} {c : Ctx} (hc : s.ctx? a.ctx = some c) (hf : s.far a.ctx va = false) :
    s.engPage a va need = s.pageAnswer (s.pageWalk c a va need) := by
  unfold State.engPage
  rw [hc]
  refine (if_neg (by rw [hf]; decide)).trans ?_
  show (match s.pageWalk c a va need with
    | (t, p, m) => match t with
      | .ok (pa, _) => (.ok pa, p, s.setMem m)
      | .pageFault => (.pageFault, p, s.setMem m)
      | .protect => (.protect, p, s.setMem m)
      | .poisoned => (.poisoned, p, s.setMem m) : MRes Nat × Nat × State) = _
  unfold State.pageAnswer
  obtain ⟨t, p, m⟩ := s.pageWalk c a va need
  cases t <;> rfl

/-- The state with other commands and counts. -/
def State.withUnits (s : State) (e : Engines) (j : List Job) : State := { s with eng := e, jobs := j }

theorem State.engPage_withUnits (s : State) (e : Engines) (j : List Job) (a : Actor) (va need : Nat) :
    (s.withUnits e j).engPage a va need =
      ((s.engPage a va need).1, (s.engPage a va need).2.1, (s.engPage a va need).2.2.withUnits e j) := by
  cases hc : s.ctx? a.ctx with
  | none => rw [State.engPage_none hc, State.engPage_none (s := s.withUnits e j) hc]
  | some c =>
    cases hf : s.far a.ctx va with
    | true => rw [State.engPage_far hc hf, State.engPage_far (s := s.withUnits e j) hc hf]; rfl
    | false =>
      rw [State.engPage_near hc hf, State.engPage_near (s := s.withUnits e j) hc hf,
        show (s.withUnits e j).pageWalk c a va need = s.pageWalk c a va need from rfl]
      unfold State.pageAnswer
      split <;> rfl

theorem State.engRead_withUnits (s : State) (e : Engines) (j : List Job) (a : Actor) (loc : Loc) (n : Nat) :
    (s.withUnits e j).engRead a loc n = ((s.engRead a loc n).1, (s.engRead a loc n).2.withUnits e j) := by
  unfold State.engRead
  cases loc with
  | glob va =>
    dsimp only
    rw [State.engPage_withUnits, show (s.withUnits e j).far a.ctx va = s.far a.ctx va from rfl]
    generalize s.engPage a va needR = q
    obtain ⟨r, p, s1⟩ := q
    cases r with
    | ok pa =>
      dsimp only
      rw [show (s1.withUnits e j).mem = s1.mem from rfl]
      split
      · rfl
      · split <;> rfl
    | pageFault => rfl
    | protect => rfl
    | poisoned => rfl
  | pad k m off =>
    dsimp only
    rw [show (s.withUnits e j).pad? k m = s.pad? k m from rfl]
    cases s.pad? k m with
    | none => rfl
    | some pd =>
      dsimp only
      split <;> rfl

theorem State.engWrite_withUnits (s : State) (e : Engines) (j : List Job) (a : Actor) (loc : Loc) (bs : List Byte) :
    (s.withUnits e j).engWrite a loc bs = ((s.engWrite a loc bs).1, (s.engWrite a loc bs).2.withUnits e j) := by
  unfold State.engWrite
  cases loc with
  | glob va =>
    dsimp only
    rw [State.engPage_withUnits, show (s.withUnits e j).far a.ctx va = s.far a.ctx va from rfl]
    generalize s.engPage a va needW = q
    obtain ⟨r, p, s1⟩ := q
    cases r with
    | ok pa =>
      dsimp only
      split <;> rfl
    | pageFault => rfl
    | protect => rfl
    | poisoned => rfl
  | pad k m off =>
    dsimp only
    rw [show (s.withUnits e j).pad? k m = s.pad? k m from rfl]
    cases s.pad? k m with
    | none => rfl
    | some pd =>
      dsimp only
      split <;> rfl

theorem State.engUpdate_withUnits (s : State) (e : Engines) (j : List Job) (a : Actor) (loc : Loc) (f : Nat → Nat) :
    (s.withUnits e j).engUpdate a loc f = ((s.engUpdate a loc f).1, (s.engUpdate a loc f).2.withUnits e j) := by
  unfold State.engUpdate
  rw [State.engRead_withUnits]
  generalize s.engRead a loc 8 = q
  obtain ⟨r, s1⟩ := q
  cases r with
  | ok bs =>
    dsimp only
    rw [State.engWrite_withUnits]
    generalize s1.engWrite a loc (toBytes 8 (f (fromBytes bs))) = w
    obtain ⟨v, s2⟩ := w
    cases v <;> rfl
  | pageFault => rfl
  | protect => rfl
  | poisoned => rfl

/-! Of memory they do not see the classes. -/

/-- The state with other classes. -/
def State.withClasses (s : State) (k : List Klass) : State := { s with classes := k }

theorem State.engPage_withClasses (s : State) (k : List Klass) (a : Actor) (va need : Nat) :
    (s.withClasses k).engPage a va need =
      ((s.engPage a va need).1, (s.engPage a va need).2.1, (s.engPage a va need).2.2.withClasses k) := by
  cases hc : s.ctx? a.ctx with
  | none => rw [State.engPage_none hc, State.engPage_none (s := s.withClasses k) hc]
  | some c =>
    cases hf : s.far a.ctx va with
    | true => rw [State.engPage_far hc hf, State.engPage_far (s := s.withClasses k) hc hf]; rfl
    | false =>
      rw [State.engPage_near hc hf, State.engPage_near (s := s.withClasses k) hc hf,
        show (s.withClasses k).pageWalk c a va need = s.pageWalk c a va need from rfl]
      unfold State.pageAnswer
      split <;> rfl

theorem State.engUpdate_pad_mem (s : State) (a : Actor) (k m off : Nat) (f : Nat → Nat) : (s.engUpdate a (.pad k m off) f).2.mem = s.mem := by
  have hr : ∀ (s : State) n, (s.engRead a (.pad k m off) n).2.mem = s.mem := fun s n => by
    unfold State.engRead
    dsimp only
    split
    · rfl
    · split <;> rfl
  have hw : ∀ (s : State) bs, (s.engWrite a (.pad k m off) bs).2.mem = s.mem := fun s bs => by
    unfold State.engWrite
    dsimp only
    split
    · rfl
    · split <;> rfl
  unfold State.engUpdate
  have h1 := hr s 8
  generalize s.engRead a (.pad k m off) 8 = q at h1
  obtain ⟨r, s1⟩ := q
  cases r with
  | ok bs =>
    have h2 := hw s1 (toBytes 8 (f (fromBytes bs)))
    dsimp only
    generalize s1.engWrite a (.pad k m off) (toBytes 8 (f (fromBytes bs))) = w at h2
    obtain ⟨v, s2⟩ := w
    cases v <;> exact h2.trans h1
  | pageFault => exact h1
  | protect => exact h1
  | poisoned => exact h1

theorem State.engUpdate_withClasses_mem (s : State) (k : List Klass) (a : Actor) (loc : Loc) (f : Nat → Nat) :
    ((s.withClasses k).engUpdate a loc f).2.mem = (s.engUpdate a loc f).2.mem := by
  cases loc with
  | pad k' m off => rw [State.engUpdate_pad_mem, State.engUpdate_pad_mem]; rfl
  | glob va =>
    have hr : ∀ s : State, (s.withClasses k).engRead a (.glob va) 8 =
        ((s.engRead a (.glob va) 8).1, (s.engRead a (.glob va) 8).2.withClasses k) := fun s => by
      unfold State.engRead
      dsimp only
      rw [State.engPage_withClasses, show (s.withClasses k).far a.ctx va = s.far a.ctx va from rfl]
      generalize s.engPage a va needR = q
      obtain ⟨r, p, s1⟩ := q
      cases r with
      | ok pa =>
        dsimp only
        rw [show (s1.withClasses k).mem = s1.mem from rfl]
        split
        · rfl
        · split <;> rfl
      | pageFault => rfl
      | protect => rfl
      | poisoned => rfl
    have hw : ∀ (s : State) bs, ((s.withClasses k).engWrite a (.glob va) bs).1 = (s.engWrite a (.glob va) bs).1 ∧
        ((s.withClasses k).engWrite a (.glob va) bs).2.mem = (s.engWrite a (.glob va) bs).2.mem := fun s bs => by
      unfold State.engWrite
      dsimp only
      rw [State.engPage_withClasses, show (s.withClasses k).far a.ctx va = s.far a.ctx va from rfl]
      generalize s.engPage a va needW = q
      obtain ⟨r, p, s1⟩ := q
      cases r with
      | ok pa =>
        dsimp only
        split <;> exact ⟨rfl, rfl⟩
      | pageFault => exact ⟨rfl, rfl⟩
      | protect => exact ⟨rfl, rfl⟩
      | poisoned => exact ⟨rfl, rfl⟩
    unfold State.engUpdate
    rw [hr]
    generalize s.engRead a (.glob va) 8 = q
    obtain ⟨r, s1⟩ := q
    cases r with
    | ok bs =>
      obtain ⟨h1, h2⟩ := hw s1 (toBytes 8 (f (fromBytes bs)))
      dsimp only
      generalize (s1.withClasses k).engWrite a (.glob va) (toBytes 8 (f (fromBytes bs))) = w at h1 h2
      generalize s1.engWrite a (.glob va) (toBytes 8 (f (fromBytes bs))) = w' at h1 h2
      obtain ⟨v, s2⟩ := w
      obtain ⟨v', s2'⟩ := w'
      cases h1
      cases v <;> exact h2
    | pageFault => rfl
    | protect => rfl
    | poisoned => rfl

/-! Commands by number. -/

theorem State.copy?_modCopy (s : State) (cid : Nat) (f : CopyCmd → CopyCmd) (hf : ∀ c, (f c).cid = c.cid) :
    (s.modCopy cid f).copy? cid = (s.copy? cid).map f :=
  find?_updWhere_self (p := fun c : CopyCmd => c.cid == cid) (f := f) (fun c => by rw [hf]) s.eng.copies

/-- Counts of a chunk's way change the jobs alone. -/
theorem State.countHops_jobs (s : State) (ctx job a b : Nat) : s.countHops ctx job a b = { s with jobs := (s.countHops ctx job a b).jobs } := by
  unfold State.countHops
  dsimp only
  generalize (dieHops a b).2 = l
  generalize (dieHops a b).1 = w
  induction l generalizing s with
  | nil => rfl
  | cons x r ih =>
    rw [List.foldl_cons, ih]
    rfl

theorem State.countWay_jobs (s : State) (ctx job a b : Nat) (port : Option Nat) (back : Bool) :
    s.countWay ctx job a b port back = { s with jobs := (s.countWay ctx job a b port back).jobs } := by
  have h : ∀ u : State, u = { s with jobs := u.jobs } → ∀ a b, u.countHops ctx job a b = { s with jobs := (u.countHops ctx job a b).jobs } :=
    fun u hu a b => by rw [State.countHops_jobs, hu]
  have h1 := h s rfl a (port.elim b (· / 6))
  unfold State.countWay
  dsimp only
  generalize s.countHops ctx job a (port.elim b (· / 6)) = s1 at h1
  have h2 : ∀ u : State, u = { s with jobs := u.jobs } → ∀ at_ i n, u.count ctx job at_ i n = { s with jobs := (u.count ctx job at_ i n).jobs } :=
    fun u hu at_ i n => by rw [hu]; rfl
  cases port with
  | none =>
    cases back with
    | false => exact h1
    | true => exact h _ h1 _ _
  | some p =>
    cases back with
    | false => exact h2 _ h1 _ _ _
    | true => exact h _ (h2 _ (h2 _ h1 _ _ _) _ _ _) _ _

theorem State.countChunk_jobs (s : State) (c : CopyCmd) (i : Nat) : s.countChunk c i = { s with jobs := (s.countChunk c i).jobs } := by
  have h : ∀ (u : State) ctx job at_ n m, u = { s with jobs := u.jobs } →
      u.count ctx job at_ n m = { s with jobs := (u.count ctx job at_ n m).jobs } := fun u ctx job at_ n m hu => by rw [hu]; rfl
  unfold State.countChunk
  cases c.kind <;> exact h _ _ _ _ _ _ (s.countWay_jobs ..)

/-! The end of a command. -/

theorem State.reap_mem (s : State) : s.reap.mem = s.mem := rfl

/-- The range of a command is no longer tracked. -/
def State.closeRange (s : State) (c : CopyCmd) (cid : Nat) : State :=
  match c.dst with
  | .glob _ => s
  | .pad k m _ => s.modPad k m (fun p => { p with incoming := p.incoming.filter (fun r => r.cid != cid) })

/-- An update that keeps its bytes changes no byte of any scratchpad. -/
theorem samePads_modPad (s : State) (k m : Nat) {f : Pad → Pad} (hf : ∀ p, (f p).bytes = p.bytes) : SamePads s (s.modPad k m f) := by
  intro k' m'
  by_cases h : k' = k ∧ m' = m
  · obtain ⟨rfl, rfl⟩ := h
    cases hp : s.pad? k' m' with
    | some pd => rw [State.pad?_modPad_same _ _ _ _ _ hp]; exact congrArg some (hf pd)
    | none =>
      have : (s.modPad k' m' f).pad? k' m' = none := by
        unfold State.pad? State.klass? at hp ⊢
        unfold State.modPad State.modKlass
        dsimp only
        rw [find?_updWhere_self (p := fun c : Klass => c.kid == k') (f := fun c => { c with pads := c.pads.modify m' f }) (fun _ => rfl)]
        cases hk : s.classes.find? (fun c => c.kid == k') with
        | none => rfl
        | some c =>
          rw [hk] at hp
          simpa using hp
      rw [this]
  · rw [State.pad?_modPad_other _ _ _ _ _ _ h]

theorem State.closeRange_spec (s : State) (c : CopyCmd) (cid : Nat) :
    (s.closeRange c cid).mem = s.mem ∧ (s.closeRange c cid).eng = s.eng ∧ SamePads s (s.closeRange c cid) := by
  unfold State.closeRange
  split
  · exact ⟨rfl, rfl, fun _ _ => rfl⟩
  · exact ⟨rfl, rfl, samePads_modPad s _ _ fun _ => rfl⟩

theorem State.closeCopy_eq {s : State} {cid : Nat} {c : CopyCmd} (hc : s.copy? cid = some c) :
    s.closeCopy cid = if c.done.length < c.chunks then s
      else if c.released then (State.reap { s.closeRange c cid with
        eng := { (s.closeRange c cid).eng with copies := (s.closeRange c cid).eng.copies.filter (fun x => x.cid != cid) } })
      else s.closeRange c cid := by
  unfold State.closeCopy
  rw [hc]
  rfl

theorem State.closeCopy_mem (s : State) (cid : Nat) : (s.closeCopy cid).mem = s.mem := by
  cases hc : s.copy? cid with
  | none => unfold State.closeCopy; rw [hc]
  | some c =>
    rw [State.closeCopy_eq hc]
    split
    · rfl
    · split
      · exact (s.closeRange_spec c cid).1
      · exact (s.closeRange_spec c cid).1

/-- A command all of whose chunks are done, with its source released, is no more. -/
theorem State.closeCopy_gone {s : State} {cid : Nat} {c : CopyCmd} (hc : s.copy? cid = some c) (hd : c.chunks ≤ c.done.length)
    (hr : c.released = true) : (s.closeCopy cid).copy? cid = none := by
  rw [State.closeCopy_eq hc, if_neg (by omega), if_pos hr]
  exact List.find?_eq_none.mpr fun x hx => by simpa using (List.mem_filter.mp hx).2

/-- A command whose source is not released stays, and no byte of a scratchpad changes. -/
theorem State.closeCopy_kept {s : State} {cid : Nat} {c : CopyCmd} (hc : s.copy? cid = some c) (hr : c.released = false) :
    SamePads s (s.closeCopy cid) := by
  rw [State.closeCopy_eq hc]
  split
  · exact fun _ _ => rfl
  · rw [if_neg (by simp [hr])]
    exact (s.closeRange_spec c cid).2.2

theorem State.copy?_closeCopy {s : State} {cid : Nat} {c n : CopyCmd} (hc : s.copy? cid = some c) (hn : (s.closeCopy cid).copy? cid = some n) :
    n = c := by
  have he : ((s.closeRange c cid).copy? cid) = s.copy? cid := by
    unfold State.copy?
    rw [(s.closeRange_spec c cid).2.1]
  by_cases hd : c.done.length < c.chunks
  · rw [State.closeCopy_eq hc, if_pos hd, hc] at hn
    exact (Option.some.inj hn).symm
  · by_cases hr : c.released = true
    · rw [State.closeCopy_gone hc (by omega) hr] at hn
      cases hn
    · rw [State.closeCopy_eq hc, if_neg hd, if_neg hr, he, hc] at hn
      exact (Option.some.inj hn).symm

/-! The completion of a chunk. -/

theorem State.chunkEnd_withUnits (s : State) (e : Engines) (j : List Job) (c : CopyCmd) (i p : Nat) :
    (s.withUnits e j).chunkEnd c i p = (s.chunkEnd c i p).withUnits e j := by
  have h := fun (a : Actor) loc f => congrArg Prod.snd (s.engUpdate_withUnits e j a loc f)
  unfold State.chunkEnd
  cases c.obj with
  | none => cases c.kind <;> rfl
  | some o => cases c.kind <;> exact h _ _ _

theorem State.chunkEnd_withClasses_mem (s : State) (k : List Klass) (c : CopyCmd) (i p : Nat) :
    ((s.withClasses k).chunkEnd c i p).mem = (s.chunkEnd c i p).mem := by
  unfold State.chunkEnd
  cases c.obj with
  | none => cases c.kind <;> rfl
  | some o => cases c.kind <;> exact s.engUpdate_withClasses_mem k _ _ _

theorem State.chunkEnd_memOnly (s : State) (c : CopyCmd) (i p : Nat) : MemOnly s (s.chunkEnd c i p) := by
  unfold State.chunkEnd
  cases c.obj with
  | none => cases c.kind <;> exact .refl s
  | some o => cases c.kind <;> exact s.engUpdate_memOnly _ _ _

/-- The place that the completion of a chunk takes. -/
def State.endPts (s : State) (c : CopyCmd) (ts : Nat) (loose : Bool) : Nat :=
  if loose = true ∧ (s.looseCounter c).isSome = true then c.pts else max c.pts ts

/-- The completion of a chunk is its completion write, what is noted of it, and the end of the command. -/
theorem State.completeChunk_eq (s : State) (c : CopyCmd) (i ts : Nat) (loose : Bool) :
    ∃ os p, s.completeChunk c i ts loose =
      (((({ s.chunkEnd c i (s.endPts c ts loose) with
        eng := { (s.chunkEnd c i (s.endPts c ts loose)).eng with observed := os } } : State).noteCmd c.gid c.lane p).modCopy c.cid
          (fun c => { c with done := i :: c.done })).countChunk c i).closeCopy c.cid := by
  unfold State.completeChunk State.endPts
  dsimp only
  have hw : (if loose = true ∧ (s.looseCounter c).isSome = true then c.pts else max c.pts ts) =
      if (if loose then s.looseCounter c else none).isSome = true then c.pts else max c.pts ts := by
    cases loose <;> simp
  rw [hw]
  generalize (if loose then s.looseCounter c else none) = weak
  generalize (if weak.isSome = true then c.pts else max c.pts ts) = P
  unfold State.chunkEnd CopyCmd.bitWord
  cases c.kind <;> cases c.obj <;> cases weak <;> exact ⟨_, _, rfl⟩

/-- What the completion of a chunk leaves. -/
theorem State.completeChunk_spec {s : State} {c c1 : CopyCmd} {i ts : Nat} {loose : Bool} (hc : s.copy? c.cid = some c1) :
    (s.completeChunk c i ts loose).mem = (s.chunkEnd c i (s.endPts c ts loose)).mem ∧
      (c1.done.length + 1 < c1.chunks → (s.completeChunk c i ts loose).classes = (s.chunkEnd c i (s.endPts c ts loose)).classes ∧
        (s.completeChunk c i ts loose).copy? c.cid = some { c1 with done := i :: c1.done }) ∧
      (c1.chunks ≤ c1.done.length + 1 → c1.released = true → (s.completeChunk c i ts loose).copy? c.cid = none) := by
  obtain ⟨os, p, e⟩ := s.completeChunk_eq c i ts loose
  rw [e]
  have heng := (s.chunkEnd_memOnly c i (s.endPts c ts loose)).eng
  generalize s.chunkEnd c i (s.endPts c ts loose) = u at heng
  let v : State := ({ u with eng := { u.eng with observed := os } } : State).noteCmd c.gid c.lane p
  let x := (v.modCopy c.cid (fun c => { c with done := i :: c.done })).countChunk c i
  have hx : x = { v.modCopy c.cid (fun c => { c with done := i :: c.done }) with jobs := x.jobs } := State.countChunk_jobs _ c i
  have hv : v.copy? c.cid = some c1 := by
    show u.eng.copies.find? _ = _
    rw [heng]
    exact hc
  have hcopy : x.copy? c.cid = some { c1 with done := i :: c1.done } := by
    rw [hx]
    refine (v.copy?_modCopy c.cid (fun c => { c with done := i :: c.done }) fun _ => rfl).trans ?_
    rw [hv]
    rfl
  have hmem : x.mem = u.mem := by rw [hx]; rfl
  have hcls : x.classes = u.classes := by rw [hx]; rfl
  refine ⟨(x.closeCopy_mem c.cid).trans hmem, fun h => ?_, fun h hr => State.closeCopy_gone hcopy h hr⟩
  have hk : x.closeCopy c.cid = x := (State.closeCopy_eq hcopy).trans (if_pos h)
  show (x.closeCopy c.cid).classes = _ ∧ (x.closeCopy c.cid).copy? c.cid = _
  rw [hk]
  exact ⟨hcls, hcopy⟩

end Sys2Proof.Machine
end


section
/-!
SETTLED. The steps of a copy command (O37).
-/

namespace Sys2Proof.Machine

open Sys2Proof

/-! The accesses of the engine leave its commands. -/

theorem State.engTranslate_memOnly (s : State) (a : Actor) (va need : Nat) : MemOnly s (s.engTranslate a va need).2 :=
  s.engPage_memOnly a va need

theorem State.engReach_memOnly (s : State) (a : Actor) (loc : Loc) (n need : Nat) : MemOnly s (s.engReach a loc n need).2 := by
  unfold State.engReach
  cases loc with
  | pad k m off =>
    dsimp only
    split
    · exact .refl s
    · exact .refl s
  | glob va =>
    dsimp only
    have h1 := s.engTranslate_memOnly a va need
    generalize s.engTranslate a va need = q at h1
    obtain ⟨r, s1⟩ := q
    cases r with
    | ok pa =>
      dsimp only
      split
      · exact h1
      · have h2 := s1.engTranslate_memOnly a ((va + n - 1) / 2 ^ 21 * 2 ^ 21) need
        generalize s1.engTranslate a ((va + n - 1) / 2 ^ 21 * 2 ^ 21) need = q at h2
        obtain ⟨r, s2⟩ := q
        cases r <;> exact h1.trans h2
    | pageFault => exact h1
    | protect => exact h1
    | poisoned => exact h1

theorem State.engPut_memOnly (s : State) (a : Actor) (loc : Loc) (w : Nat) (bss : List (List Byte)) : MemOnly s (s.engPut a loc w bss).2 :=
  (State.engPut_wrote a w bss s loc).mem

theorem State.sendaApply_memOnly (a : Actor) (op : SendOp) (et : SendTy) (bss : List (List Byte)) (s : State) (loc : Loc) :
    MemOnly s (s.sendaApply a loc op et bss).2 := by
  induction bss generalizing s loc with
  | nil => exact .refl s
  | cons bs r ih =>
    unfold State.sendaApply
    have h1 := s.engRead_memOnly a loc et.bytes
    generalize s.engRead a loc et.bytes = q at h1
    obtain ⟨v, s1⟩ := q
    cases v with
    | ok old =>
      dsimp only
      generalize toBytes et.bytes (sendaElt op et (fromBytes old) (fromBytes bs)) = b
      have h2 := s1.engWrite_memOnly a loc b
      generalize s1.engWrite a loc b = q at h2
      obtain ⟨v, s2⟩ := q
      cases v with
      | ok t => exact (h1.trans h2).trans (ih s2 (loc.plus et.bytes))
      | pageFault => exact h1.trans h2
      | protect => exact h1.trans h2
      | poisoned => exact h1.trans h2
    | pageFault => exact h1
    | protect => exact h1
    | poisoned => exact h1

theorem State.writeTile_memOnly (a : Actor) (dst : Loc) (xs : List (Nat × List Byte)) (s : State) : MemOnly s (s.writeTile a dst xs).2 := by
  induction xs generalizing s with
  | nil => exact .refl s
  | cons x r ih => exact (s.engPut_memOnly a (dst.plus (512 * x.1)) 16 (chunksOf 16 x.2)).trans (ih _)

theorem State.engOr_memOnly (s : State) (a : Actor) (loc : Loc) (bit : Nat) : MemOnly s (s.engOr a loc bit).2 :=
  s.engUpdate_memOnly a loc _

/-- A command's number names it in a state that has its commands. -/
theorem MemOnly.copy? {s t : State} (h : MemOnly s t) (cid : Nat) : t.copy? cid = s.copy? cid := by
  unfold State.copy?
  rw [h.eng]

/-! A chunk is read, written and completed. -/

/-- The state in which a chunk read is counted and noted. -/
def State.chunkRead (s : State) (c : CopyCmd) (i : Nat) : State :=
  (if c.kind = .sendv then s else s.count c.ctx c.job (cniOf c.site) 1 0).modCopy c.cid (fun x => { x with readChunks := i :: x.readChunks })

theorem State.chunkRead_eq (s : State) (c : CopyCmd) (i : Nat) :
    s.chunkRead c i = s.withUnits (s.chunkRead c i).eng (s.chunkRead c i).jobs := by
  unfold State.chunkRead
  split <;> rfl

theorem State.chunkRead_copy? {s : State} {c : CopyCmd} (hc : s.copy? c.cid = some c) (i : Nat) :
    (s.chunkRead c i).copy? c.cid = some { c with readChunks := i :: c.readChunks } := by
  have h : ∀ u : State, u.eng = s.eng → (u.modCopy c.cid (fun x => { x with readChunks := i :: x.readChunks })).copy? c.cid =
      some { c with readChunks := i :: c.readChunks } := fun u hu => by
    rw [u.copy?_modCopy c.cid (fun x => { x with readChunks := i :: x.readChunks }) fun _ => rfl]
    unfold State.copy? at hc ⊢
    rw [hu, hc]
    rfl
  unfold State.chunkRead
  split
  · exact h s rfl
  · exact h _ rfl

/-- The bytes of a chunk as the engine reads them (09 R236). -/
def State.chunkBytes (s : State) (c : CopyCmd) (i : Nat) (bs : List Byte) : List Byte :=
  if s.arg 2 = 1 && !c.acq then s.gatherBehind c.actor c.site (c.src.plus (512 * i)) (c.chunkLen i / 16) else bs

/-- The engine may work on a chunk that it has not read, and no commit owns a line of it. -/
def State.chunkFree (s : State) (c : CopyCmd) (i : Nat) : Prop :=
  s.copyReady c = true ∧ i < c.chunks ∧ c.readChunks.contains i = false ∧ s.ownedFor c.cid (c.src.plus (512 * i)) 512 = false ∧
    s.ownedFor c.cid (c.dst.plus (512 * i)) 512 = false

theorem State.chunkFree.passes {s : State} {c : CopyCmd} {i : Nat} (h : s.chunkFree c i) :
    (!s.copyReady c || decide (c.chunks ≤ i) || c.readChunks.contains i || s.ownedFor c.cid (c.src.plus (512 * i)) 512 ||
      s.ownedFor c.cid (c.dst.plus (512 * i)) 512) = false := by
  obtain ⟨h1, h2, h3, h4, h5⟩ := h
  rw [h1, h3, h4, h5]
  simpa using h2

/-- A chunk of a SENDA or SENDV is read and sent on. -/
theorem execCopyChunk_sends {s s1 : State} {c : CopyCmd} {bs : List Byte} (h0 : s.arg 0 = c.cid) (hc : s.copy? c.cid = some c)
    (hf : s.chunkFree c (s.arg 1)) (hg : s.engGather c.actor (c.src.plus (512 * s.arg 1)) 16 (c.chunkLen (s.arg 1) / 16) = (.ok bs, s1))
    (hk : c.kind = .senda ∨ c.kind = .sendv) :
    exec .copyChunk s = .next (((s1.fresh.2).chunkRead c (s.arg 1)).modCopy c.cid (fun x => { x with
      payload := (s.arg 1, s.chunkBytes c (s.arg 1) bs) :: x.payload, sent := (s.arg 1, s1.nextId) :: x.sent })) := by
  have hp := hf.passes
  show execCopyChunk s = _
  unfold execCopyChunk
  simp only [h0, hc, hg]
  refine (if_neg (by simpa using hp)).trans ?_
  rcases hk with hk | hk <;> rw [hk] <;> unfold State.chunkRead <;> rw [hk] <;> rfl

/-- A chunk of a GET, PUT or SEND is read, written and completed once its writes are checked. -/
theorem execCopyChunk_writes {s s1 s2 : State} {c : CopyCmd} {bs : List Byte} (h0 : s.arg 0 = c.cid) (hc : s.copy? c.cid = some c)
    (hf : s.chunkFree c (s.arg 1)) (hg : s.engGather c.actor (c.src.plus (512 * s.arg 1)) 16 (c.chunkLen (s.arg 1) / 16) = (.ok bs, s1))
    (hk : c.kind = .get ∨ c.kind = .put ∨ c.kind = .send)
    (hr : s1.engReach c.actor (c.dst.plus (512 * s.arg 1)) (c.chunkLen (s.arg 1)) needW = (none, s2)) {s3 : State}
    (h3 : (c.kind ≠ .put ∨ c.obj = none) ∧ s3 = s2 ∨
      ∃ o v sa, c.kind = .put ∧ c.obj = some o ∧ s2.engRead c.actor o 8 = (.ok v, sa) ∧ sa.engReach c.actor o 8 needRW = (none, s3)) :
    let w := s3.engPut c.actor (c.dst.plus (512 * s.arg 1)) 16 (chunksOf 16 (s.chunkBytes c (s.arg 1) bs))
    exec .copyChunk s = .next ((w.2.chunkRead c (s.arg 1)).completeChunk c (s.arg 1) w.1 (s.arg 3 = 1)) := by
  intro w
  have hp := hf.passes
  show execCopyChunk s = _
  unfold execCopyChunk
  simp only [h0, hc, hg]
  refine (if_neg (by simpa using hp)).trans ?_
  rcases h3 with ⟨h, rfl⟩ | ⟨o, v, sa, hput, ho, he, hreach⟩
  · rcases hk with hk | hk | hk
    · rw [hk]; simp only [hr]; unfold State.chunkRead; rw [hk]; rfl
    · rw [hk]; simp only [hr, h.resolve_left (fun h => h hk)]; unfold State.chunkRead; rw [hk]; rfl
    · rw [hk]; simp only [hr]; unfold State.chunkRead; rw [hk]; rfl
  · rw [hput]; simp only [hr, ho, he, hreach]; unfold State.chunkRead; rw [hput]; rfl

/-- What a chunk written and completed leaves. -/
theorem chunkRead_completes {s w : State} {c : CopyCmd} {i ts : Nat} {loose : Bool} (hc : s.copy? c.cid = some c) (hw : MemOnly s w) :
    let t := (w.chunkRead c i).completeChunk c i ts loose
    let u := w.chunkEnd c i (w.endPts c ts loose)
    t.mem = u.mem ∧ (c.done.length + 1 < c.chunks → t.classes = u.classes ∧
      ∃ n, t.copy? c.cid = some n ∧ n.done = i :: c.done ∧ n.readChunks = i :: c.readChunks) ∧
    (c.chunks ≤ c.done.length + 1 → c.released = true → t.copy? c.cid = none) := by
  intro t u
  have hcw := (hw.copy? c.cid).trans hc
  obtain ⟨h1, h2, h3⟩ := State.completeChunk_spec (i := i) (ts := ts) (loose := loose) (State.chunkRead_copy? hcw i)
  have he : (w.chunkRead c i).chunkEnd c i ((w.chunkRead c i).endPts c ts loose) =
      u.withUnits (w.chunkRead c i).eng (w.chunkRead c i).jobs := by
    rw [State.chunkRead_eq w c i]
    exact State.chunkEnd_withUnits w _ _ c i _
  rw [he] at h1 h2
  refine ⟨h1, fun h => ?_, h3⟩
  obtain ⟨k1, k2⟩ := h2 h
  exact ⟨k1, _, k2, rfl, rfl⟩

theorem State.endPts_decide (s : State) (c : CopyCmd) (ts : Nat) (p : Prop) [Decidable p] :
    s.endPts c ts (decide p) = if p ∧ (s.looseCounter c).isSome = true then c.pts else max c.pts ts := by
  unfold State.endPts
  simp only [decide_eq_true_eq]

/-! A chunk of a SENDA is applied. -/

/-- The destination expects the next SEQ after the last chunk of an ordered command. -/
def State.seqsOn (s : State) (c : CopyCmd) : State :=
  if c.ordered && c.done.length + 1 = c.chunks then
    match c.dst with
    | .pad k m _ => s.modPad k m (fun p =>
        { p with seqs := (c.member, (c.seq + 1) % 2 ^ 16) :: p.seqs.filter (fun x => x.1 != c.member) })
    | .glob _ => s
  else s

theorem State.seqsOn_eq (s : State) (c : CopyCmd) : s.seqsOn c = s.withClasses (s.seqsOn c).classes := by
  unfold State.seqsOn
  split
  · split <;> rfl
  · rfl

theorem State.seqsOn_of_more (s : State) {c : CopyCmd} (h : c.done.length + 1 < c.chunks) : s.seqsOn c = s :=
  if_neg (by simp; omega)

theorem execSendaApply_applies {s : State} {c : CopyCmd} {bs : List Byte} (h0 : s.arg 0 = c.cid) (hc : s.copy? c.cid = some c)
    (hk : c.kind = .senda) (hp : c.payload.find? (fun x => x.1 == s.arg 1) = some (s.arg 1, bs)) (ha : s.applies c = true)
    (hd : c.done.contains (s.arg 1) = false) (ht : s.sendaTurn c = true) (hb : s.sentBefore c (s.arg 1) = false)
    (ho : s.ownedFor c.cid (c.dst.plus (512 * s.arg 1)) 512 = false) :
    let w := s.sendaApply c.actor (c.dst.plus (512 * s.arg 1)) c.op c.et (chunksOf c.et.bytes bs)
    exec .sendaApply s = .next (((w.2.modCopy c.cid (fun x => { x with payload := x.payload.filter (fun y => y.1 != s.arg 1) })).seqsOn
      c).completeChunk c (s.arg 1) w.1 false) := by
  show execSendaApply s = _
  unfold execSendaApply
  simp only [h0, hc, hp]
  exact if_neg (by rw [hk, ha, hd, ht, hb, ho]; decide)

theorem seqsOn_completes {s w : State} {c : CopyCmd} {i ts : Nat} (hc : s.copy? c.cid = some c) (hw : MemOnly s w) :
    let t := ((w.modCopy c.cid (fun x => { x with payload := x.payload.filter (fun y => y.1 != i) })).seqsOn c).completeChunk c i ts false
    let u := w.chunkEnd c i (max c.pts ts)
    t.mem = u.mem ∧ (c.done.length + 1 < c.chunks → t.classes = u.classes ∧ ∃ n, t.copy? c.cid = some n ∧
      n.done = i :: c.done ∧ n.payload = c.payload.filter (fun x => x.1 != i)) ∧
    (c.chunks ≤ c.done.length + 1 → c.released = true → t.copy? c.cid = none) := by
  intro t u
  let v := w.modCopy c.cid (fun x => { x with payload := x.payload.filter (fun y => y.1 != i) })
  have hcv : v.copy? c.cid = some { c with payload := c.payload.filter (fun x => x.1 != i) } := by
    rw [w.copy?_modCopy c.cid (fun x => { x with payload := x.payload.filter (fun y => y.1 != i) }) fun _ => rfl, hw.copy?, hc]
    rfl
  have hcs : (v.seqsOn c).copy? c.cid = some { c with payload := c.payload.filter (fun x => x.1 != i) } := by
    rw [State.seqsOn_eq]
    exact hcv
  have hu : v.chunkEnd c i (max c.pts ts) = u.withUnits v.eng v.jobs := State.chunkEnd_withUnits w v.eng v.jobs c i _
  have hP : ∀ x : State, x.endPts c ts false = max c.pts ts := fun x => by simp [State.endPts]
  obtain ⟨h1, h2, h3⟩ := State.completeChunk_spec (i := i) (ts := ts) (loose := false) hcs
  rw [hP] at h1 h2
  refine ⟨h1.trans ?_, fun h => ?_, h3⟩
  · rw [State.seqsOn_eq, State.chunkEnd_withClasses_mem, hu]
    rfl
  · obtain ⟨k1, k2⟩ := h2 h
    refine ⟨k1.trans ?_, _, k2, rfl, rfl⟩
    rw [State.seqsOn_of_more _ h, hu]
    rfl

/-! A SENDV is committed. -/

theorem State.setOwner_spec (s : State) (o : Loc) (owner : Option Nat) :
    (s.setOwner o owner).mem = s.mem ∧ (s.setOwner o owner).eng = s.eng ∧ SamePads s (s.setOwner o owner) := by
  unfold State.setOwner
  split
  · exact ⟨rfl, rfl, fun _ _ => rfl⟩
  · exact ⟨rfl, rfl, samePads_modPad s _ _ fun _ => rfl⟩

/-- The end of a commit whose status is written. -/
def State.endCommit (s : State) (c : CopyCmd) (o : Loc) (p : Nat) : State :=
  ((((s.noteCmd c.gid c.lane p).modCopy c.cid (fun x => { x with done := List.range x.chunks, payload := [] })).countChunk c 0).setOwner o
    none).closeCopy c.cid

theorem State.endCommit_spec {s : State} {c : CopyCmd} (hc : s.copy? c.cid = some c) (o : Loc) (p : Nat) :
    (s.endCommit c o p).mem = s.mem ∧ (c.released = false → SamePads s (s.endCommit c o p)) ∧
      ∀ n, (s.endCommit c o p).copy? c.cid = some n → n.done = List.range c.chunks ∧ n.payload = [] := by
  let x := (s.noteCmd c.gid c.lane p).modCopy c.cid (fun x => { x with done := List.range x.chunks, payload := [] })
  let y := (x.countChunk c 0).setOwner o none
  obtain ⟨hm, he, hp⟩ := (x.countChunk c 0).setOwner_spec o none
  have hx : x.countChunk c 0 = { x with jobs := (x.countChunk c 0).jobs } := x.countChunk_jobs c 0
  have hcx : x.copy? c.cid = some { c with done := List.range c.chunks, payload := [] } :=
    (State.copy?_modCopy _ c.cid (fun x => { x with done := List.range x.chunks, payload := [] }) fun _ => rfl).trans (congrArg _ hc)
  have hcy : y.copy? c.cid = some { c with done := List.range c.chunks, payload := [] } := by
    refine Eq.trans ?_ hcx
    show y.eng.copies.find? _ = _
    rw [he, hx]
    rfl
  refine ⟨(y.closeCopy_mem c.cid).trans (hm.trans (by rw [hx]; rfl)), fun hr k m => ?_, fun n hn => ?_⟩
  · refine (State.closeCopy_kept hcy hr k m).trans ((hp k m).trans ?_)
    rw [hx]
    rfl
  · rw [State.copy?_closeCopy hcy hn]
    exact ⟨rfl, rfl⟩

/-- A commit may be made: the tile is there and the version word is free. -/
structure CommitReady (s : State) (c : CopyCmd) (o st : Loc) : Prop where
  arg0 : s.arg 0 = c.cid
  copy : s.copy? c.cid = some c
  kind : c.kind = .sendv
  obj : c.obj = some o
  status : c.status = some st
  ready : s.copyReady c = true
  read : c.chunks ≤ c.readChunks.length
  done : c.done = []
  free : s.ownedFor c.cid o 16 = false

theorem CommitReady.passes {s : State} {c : CopyCmd} {o st : Loc} (h : CommitReady s c o st) :
    (c.kind != .sendv || !s.copyReady c || decide (c.readChunks.length < c.chunks) || !c.done.isEmpty || s.ownedFor c.cid o 16) = false := by
  rw [h.kind, h.ready, h.done, h.free, decide_eq_false (by have := h.read; omega)]
  rfl

theorem execSendvCommit_owns {s : State} {c : CopyCmd} {o st : Loc} (h : CommitReady s c o st) (h1 : s.arg 1 = 1) :
    exec .sendvCommit s = .next (s.setOwner o (some c.cid)) := by
  show execSendvCommit s = _
  unfold execSendvCommit
  simp only [h.arg0, h.copy, h.obj, h.status]
  exact (if_neg (by rw [h.passes]; decide)).trans (if_pos h1)

/-- One bit of a commit is set, and the largest timestamp so far. -/
def setBit (a : Actor) (o : Loc) (x : Nat × State) (k : Nat) : Nat × State :=
  (max x.1 (x.2.engOr a (o.plus (16 + 8 * (k / 64))) (k % 64)).1, (x.2.engOr a (o.plus (16 + 8 * (k / 64))) (k % 64)).2)

theorem setBit_memOnly (a : Actor) (o : Loc) (x : Nat × State) (k : Nat) : MemOnly x.2 (setBit a o x k).2 := x.2.engOr_memOnly _ _ _

/-- The tile, the version and the bits of a commit whose version matches: the timestamp and the state. -/
def State.commitTile (s : State) (c : CopyCmd) (o : Loc) (v : Nat) : Nat × State :=
  let w := s.writeTile c.actor c.dst (sortBy (fun x => x.1) c.payload)
  let a : Actor := { c.actor with pts := max c.pts w.1 }
  let u := w.2.engUpdate a o (fun _ => (v + 1) % 2 ^ 64)
  (List.range c.chunks).foldl (setBit a o) (max a.pts u.1, u.2)

theorem State.commitTile_memOnly (s : State) (c : CopyCmd) (o : Loc) (v : Nat) : MemOnly s (s.commitTile c o v).2 := by
  have hw := s.writeTile_memOnly c.actor c.dst (sortBy (fun x => x.1) c.payload)
  unfold State.commitTile
  generalize s.writeTile c.actor c.dst (sortBy (fun x => x.1) c.payload) = w at hw
  have hu := w.2.engUpdate_memOnly { c.actor with pts := max c.pts w.1 } o (fun _ => (v + 1) % 2 ^ 64)
  exact (hw.trans hu).trans (MemOnly.foldl_snd (setBit_memOnly _ o) (List.range c.chunks)
    (max (max c.pts w.1) (w.2.engUpdate { c.actor with pts := max c.pts w.1 } o (fun _ => (v + 1) % 2 ^ 64)).1,
      (w.2.engUpdate { c.actor with pts := max c.pts w.1 } o (fun _ => (v + 1) % 2 ^ 64)).2))

theorem execSendvCommit_commits {s s1 : State} {c : CopyCmd} {o st : Loc} {v : List Byte} (h : CommitReady s c o st) (h1 : s.arg 1 ≠ 1)
    (hr : s.engRead c.actor o 8 = (.ok v, s1)) :
    let E (x : Nat × State) (code : Nat) : State :=
      ((x.2.engWrite { c.actor with pts := max c.pts x.1 } st (toBytes 8 code)).2).endCommit c o (max c.pts x.1)
    (BitVec.ofNat 64 (fromBytes v) = c.version → exec .sendvCommit s = .next (E (s1.commitTile c o (fromBytes v)) 1)) ∧
    (BitVec.ofNat 64 (fromBytes v) ≠ c.version → exec .sendvCommit s = .next (E (s1.engOr c.actor (o.plus 8) 0) 2)) := by
  intro E
  refine ⟨fun hv => ?_, fun hv => ?_⟩
  all_goals
    show execSendvCommit s = _
    unfold execSendvCommit
    simp only [h.arg0, h.copy, h.obj, h.status]
    refine (if_neg (by rw [h.passes]; decide)).trans ((if_neg h1).trans ?_)
    simp only [hr, hv, if_true, if_false]
    rfl

/-- A commit leaves what its status write leaves, with the command's record ended. -/
theorem commit_ends {s y : State} {c : CopyCmd} (hc : s.copy? c.cid = some c) (hy : MemOnly s y) (o st : Loc) (x code : Nat) :
    let u := (y.engWrite { c.actor with pts := max c.pts x } st (toBytes 8 code)).2
    let t := u.endCommit c o (max c.pts x)
    t.mem = u.mem ∧ (c.released = false → SamePads u t) ∧ ∀ n, t.copy? c.cid = some n → n.done = List.range c.chunks ∧ n.payload = [] :=
  State.endCommit_spec (((hy.trans (y.engWrite_memOnly _ st _)).copy? c.cid).trans hc) o (max c.pts x)

/-- The line of a version word that a command owns holds a load off. -/
theorem State.setOwner_loadHeld {s : State} {c : CopyCmd} {k m off : Nat} {pd : Pad} (hc : s.copy? c.cid = some c) (h0 : c.cid ≠ 0)
    (hp : s.pad? k m = some pd) : (s.setOwner (.pad k m off) (some c.cid)).loadHeld (.pad k m off) 8 = true := by
  have hpad : (s.setOwner (.pad k m off) (some c.cid)).pad? k m = some (pd.setTs { pd.tsOf (off / 128) with owner := some c.cid }) :=
    State.pad?_modPad_same s k m pd _ hp
  have hl : (pd.tsOf (off / 128)).line = off / 128 := by
    unfold Pad.tsOf
    cases hf : pd.ts.find? (fun t => t.line == off / 128) with
    | none => rfl
    | some t => simpa using List.find?_some hf
  have hcopy : s.eng.copies.any (fun x => x.cid == c.cid) = true :=
    List.any_eq_true.mpr ⟨c, List.mem_of_find?_eq_some hc, by simp⟩
  have hover : overlaps off 8 (off / 128 * 128) 128 = true := by
    unfold overlaps
    have := Nat.div_add_mod off 128
    have := Nat.mod_lt off (show 0 < 128 by decide)
    simp
    omega
  unfold State.loadHeld
  simp only [hpad]
  have hown : (s.setOwner (.pad k m off) (some c.cid)).ownedFor 0 (.pad k m off) 8 = true := by
    unfold State.ownedFor
    dsimp only
    rw [hpad]
    simp only [Pad.setTs, Option.any_some, List.any_cons, hl, hover, Bool.true_and]
    rw [show (s.setOwner (.pad k m off) (some c.cid)).eng = s.eng from ((s.setOwner_spec (.pad k m off) (some c.cid)).2.1), hcopy]
    simp [h0]
  rw [hown]
  rfl

/-! Ranges. -/

theorem execDestRangeAck_records {s : State} {c : CopyCmd} (h0 : s.arg 0 = c.cid) (hc : s.copy? c.cid = some c) (h1 : c.ranged = false)
    (h2 : s.ctxRuns c.ctx = true) (h3 : s.rangeRoom c.dst = true) (h4 : s.askedBefore c = false) :
    exec .destRangeAck s = .next (s.recordRange c) := by
  show execDestRangeAck s = _
  unfold execDestRangeAck
  simp only [h0, hc]
  exact if_neg (by rw [h1, h2, h3, h4]; decide)

theorem execSourceRangeRelease_releases {s : State} {c : CopyCmd} (h0 : s.arg 0 = c.cid) (hc : s.copy? c.cid = some c)
    (h1 : c.released = false) (h2 : c.chunks ≤ c.readChunks.length) :
    exec .sourceRangeRelease s = .next ((s.modCopy c.cid (fun x => { x with released := true })).closeCopy c.cid) := by
  show execSourceRangeRelease s = _
  unfold execSourceRangeRelease
  simp only [h0, hc]
  exact if_neg (by rw [h1, decide_eq_false (by omega)]; decide)

/-- Settles O37: each step of the copy engine by its own lemmas. -/
theorem copySteps : Obligations.CopySteps := by
  intro s s1 s2 c bs h0 hc i
  refine ⟨?_, ?_, ?_, ?_, ?_⟩
  · intro hready hi hread hsrc hdst hg got Written
    have hf : s.chunkFree c (s.arg 1) := ⟨hready, hi, hread, hsrc, hdst⟩
    have hm1 : MemOnly s s1 := MemOnly.of_eq (State.engGather_memOnly c.actor 16 (c.chunkLen (s.arg 1) / 16) s (c.src.plus (512 * s.arg 1))) hg
    have written : ∀ s3, MemOnly s s3 → exec .copyChunk s = .next (((s3.engPut c.actor (c.dst.plus (512 * s.arg 1)) 16
        (chunksOf 16 (s.chunkBytes c (s.arg 1) bs))).2.chunkRead c (s.arg 1)).completeChunk c (s.arg 1)
        (s3.engPut c.actor (c.dst.plus (512 * s.arg 1)) 16 (chunksOf 16 (s.chunkBytes c (s.arg 1) bs))).1 (s.arg 3 = 1)) → Written s3 :=
      fun s3 h3 e => by
        obtain ⟨k1, k2, k3⟩ := chunkRead_completes (i := s.arg 1) (loose := decide (s.arg 3 = 1))
          (ts := (s3.engPut c.actor (c.dst.plus (512 * s.arg 1)) 16 (chunksOf 16 (s.chunkBytes c (s.arg 1) bs))).1) hc
          (h3.trans (s3.engPut_memOnly c.actor (c.dst.plus (512 * s.arg 1)) 16 (chunksOf 16 (s.chunkBytes c (s.arg 1) bs))))
        rw [State.endPts_decide] at k1 k2
        exact ⟨_, e, k1, k2, k3⟩
    refine ⟨fun hk hr => ?_, fun hk => ⟨_, execCopyChunk_sends h0 hc hf hg hk, ?_⟩⟩
    · have hm2 : MemOnly s s2 := hm1.trans (MemOnly.of_eq (s1.engReach_memOnly _ _ _ _) hr)
      refine ⟨fun h => written s2 hm2 (execCopyChunk_writes h0 hc hf hg hk hr (.inl ⟨h, rfl⟩)), fun o v sa sb hput ho he hb => ?_⟩
      exact written sb ((hm2.trans (MemOnly.of_eq (s2.engRead_memOnly _ _ _) he)).trans (MemOnly.of_eq (sa.engReach_memOnly _ _ _ _) hb))
        (execCopyChunk_writes h0 hc hf hg hk hr (.inr ⟨o, v, sa, hput, ho, he, hb⟩))
    · rw [State.copy?_modCopy _ c.cid (fun x => { x with
        payload := (s.arg 1, s.chunkBytes c (s.arg 1) bs) :: x.payload, sent := (s.arg 1, s1.nextId) :: x.sent }) fun _ => rfl,
        State.chunkRead_copy? (s := s1.fresh.2) ((hm1.copy? c.cid).trans hc)]
      rfl
  · intro hk hp ha hd ht hb ho w u
    obtain ⟨k1, k2, k3⟩ := seqsOn_completes (i := s.arg 1) (ts := w.1) hc (State.sendaApply_memOnly c.actor c.op c.et (chunksOf c.et.bytes bs)
      s (c.dst.plus (512 * s.arg 1)))
    exact ⟨_, execSendaApply_applies h0 hc hk hp ha hd ht hb ho, k1, k2, k3⟩
  · intro o st v hk hobj hst hready hread hd hfree
    have hr : CommitReady s c o st := ⟨h0, hc, hk, hobj, hst, hready, hread, hd, hfree⟩
    refine ⟨fun k m off pd h1 hcid ho hp => ?_, fun h1 he => ?_⟩
    · subst ho
      obtain ⟨k1, -, k3⟩ := s.setOwner_spec (.pad k m off) (some c.cid)
      exact ⟨_, execSendvCommit_owns hr h1, k1, k3, State.setOwner_loadHeld hc hcid hp⟩
    · intro w a u set miss Ends
      obtain ⟨hyes, hno⟩ := execSendvCommit_commits hr h1 he
      have hm1 : MemOnly s s1 := MemOnly.of_eq (s.engRead_memOnly _ _ _) he
      refine ⟨fun hv => ?_, fun hv => ?_⟩
      · obtain ⟨k1, k2, k3⟩ := commit_ends hc (hm1.trans (s1.commitTile_memOnly c o (fromBytes v))) o st
          (s1.commitTile c o (fromBytes v)).1 1
        exact ⟨_, hyes hv, k1, k2, k3⟩
      · obtain ⟨k1, k2, k3⟩ := commit_ends hc (hm1.trans (s1.engOr_memOnly c.actor (o.plus 8) 0)) o st
          (s1.engOr c.actor (o.plus 8) 0).1 2
        exact ⟨_, hno hv, k1, k2, k3⟩
  · intro k m off pd hdst hp h1 h2 h3 h4
    have e : s.recordRange c = (s.modCopy c.cid (fun x => { x with ranged := true })).modPad k m
        (fun p => { p with incoming := p.incoming ++ [⟨c.cid, off, c.len⟩] }) := by
      unfold State.recordRange
      rw [hdst]
    refine ⟨_, _, (execDestRangeAck_records h0 hc h1 h2 h3 h4).trans (congrArg _ e), ?_,
      State.pad?_modPad_same (s.modCopy c.cid _) k m pd _ hp, rfl, rfl⟩
    refine (s.copy?_modCopy c.cid (fun x => { x with ranged := true }) fun _ => rfl).trans ?_
    rw [hc]
    rfl
  · intro h1 h2
    have hcm : (s.modCopy c.cid (fun x => { x with released := true })).copy? c.cid = some { c with released := true } := by
      rw [s.copy?_modCopy c.cid (fun x => { x with released := true }) fun _ => rfl, hc]
      rfl
    have e := execSourceRangeRelease_releases h0 hc h1 h2
    refine ⟨fun hd => ⟨_, e.trans (congrArg _ ((State.closeCopy_eq hcm).trans (if_pos hd))), hcm, rfl⟩,
      fun hd => ⟨_, e, State.closeCopy_gone hcm hd rfl, State.closeCopy_mem _ _⟩⟩

end Sys2Proof.Machine
end


section
/-!
SETTLED. The steps of a ring (O39): refuted by a step whose operands name no tile.
-/

namespace Sys2Proof.Machine

open Sys2Proof

/-! TILE_ARRIVAL takes the numbers of its tiles from the operands after the second, and an operand that is not there reads as 0. Where the
step has two operands and a tile has number 0, the statement takes that tile for the one named; the step lands none. -/

/-- A tile on its way into slot 0 of station 1. -/
def tileZero : Tile :=
  { tid := 0, ccw := false, num := 0, len := 64, homest := 0, lap := 0, pins := 0, home := 0, doneBits := [], station := 1, slot := 0,
    resident := false, image := [], left := true, dwelling := false, arrivedAt := 0, order := 0, pts := 0, pending := none, missing := [],
    missDone := 0, issuer := none, held := 0 }

/-- A ring of two stations that holds that tile alone. -/
def ringOfZero : Ring :=
  { ctx := 1, num := 5, st := 2, lslot := 10, laps := 3, gcode := 0, prio := 0, job := 1, task := 0x2000, miss := 0x2008, arg := 0,
    mlist := 0, mcap := 4, stations := [⟨2, ⟨0, 0⟩, 0, 0⟩, ⟨3, ⟨0, 1⟩, 0, 0⟩], chart := [1], ncw := 1, nccw := 1, tiles := [tileZero],
    encs := [], seenCw := [], seenCcw := [], injected := 1, retired := 0, encounters := 0, missed := 0, lost := 0, order := 4 }

/-- A step of ring 5 of context 1 without further operands. -/
def zeroState : State := { State.reset with pick := [1, 5], ctxs := [bootCtx 1], rings := [ringOfZero] }

/-- The ring's tile is not resident after the step. -/
def landed : Out → Option Bool
  | .next t => ((t.ring? 1 5).bind (·.tile? 0)).map (·.resident)
  | _ => none

theorem landed_zeroState : landed (execTileArrival zeroState) = some false := by decide +kernel

/-- Refutes O39: a TILE_ARRIVAL of two operands lands no tile, and a tile of number 0 stays on its way. -/
theorem not_ringSteps : ¬ Obligations.RingSteps := by
  intro h
  have hn : zeroState.noStacks := fun g hg => by cases hg
  obtain ⟨htile, -⟩ := h zeroState ringOfZero tileZero (by decide +kernel) hn
  obtain ⟨-, harrive, -⟩ := htile (by decide +kernel)
  obtain ⟨hlands, -⟩ := harrive (.pad 3 0 0) (by decide) rfl (by decide +kernel) rfl rfl (by decide +kernel) (by decide) (Or.inl (by decide))
  obtain ⟨u, r', e, hr, ht⟩ := hlands (by decide +kernel)
  have hl : landed (execTileArrival zeroState) = some true := by
    refine (congrArg landed e).trans ?_
    show ((u.ring? 1 5).bind (·.tile? 0)).map (·.resident) = some true
    rw [show u.ring? 1 5 = some r' from hr, Option.bind_some, show r'.tile? 0 = _ from ht]
    rfl
  rw [landed_zeroState] at hl
  exact absurd hl (by decide)

end Sys2Proof.Machine
end


section
/-!
SETTLED. The steps of event banks (O42): refuted by the number of a spilled event.
-/

namespace Sys2Proof.Machine

open Sys2Proof

/-! An event that arrives takes a fresh number, and one that goes to a spill slot takes a second one for its place in the sequence: the
slot does not have the number that is next before the step. -/

/-- An event for accumulator 0 of bank 0 of cluster 0 of die 0, at tick 0. -/
def eventZero : QEvent := { bits := 0, ctx := 1, arr := 7, passed := false, pts := 0, issuer := none, src := none }

/-- That bank, with 1,024 events queued. -/
def fullBank : Bank :=
  { die := 0, cluster := 0, num := 0, site := ⟨0, 0⟩, ctx := 1, job := 0, frontier := 0, f0 := 0, accs := [],
    queue := List.replicate 1024 eventZero, delivered := 0, fired := 0, late := 0, dropped := 0, reordered := 0, emit := none }

/-- A context whose husk has one spill slot for each cluster. -/
def huskCtx : Ctx := { bootCtx 1 with desc := { (bootCtx 1).desc with husk := 0x300000, huskSize := 155648 } }

/-- The event is about to arrive at the bank. -/
def spillState : State :=
  { State.reset with nextId := 10, pick := [7], ctxs := [huskCtx], banks := [fullBank], eng := { Engines.empty with events := [eventZero] } }

/-- The places in the sequence of what is spilled after a step. -/
def spilledSeqs : Out → Option (List Nat)
  | .next t => some (t.eng.spill.map (·.seq))
  | _ => none

theorem spilledSeqs_spillState : spilledSeqs (execEventArrival spillState) = some [11] := by decide +kernel

/-- Refutes O42: the slot of an event that meets a full queue takes the number after the event's own. -/
theorem not_eventSteps : ¬ Obligations.EventSteps := by
  intro h
  obtain ⟨harrive, -⟩ := h spillState fullBank
  obtain ⟨-, hspill⟩ := harrive eventZero (by decide) (by decide +kernel) (by decide +kernel) (by decide +kernel) (by decide +kernel)
  obtain ⟨hfull, -⟩ := hspill huskCtx (by decide +kernel)
  obtain ⟨t, q, ⟨e, -⟩, -, -, -, hs⟩ := hfull (by decide +kernel) (by decide +kernel) (by decide +kernel) (by decide +kernel) (by decide +kernel)
    (by decide +kernel) (by decide +kernel)
  have hl : spilledSeqs (execEventArrival spillState) = some [10] := by
    refine (congrArg spilledSeqs e).trans ?_
    show some (t.eng.spill.map (·.seq)) = _
    rw [hs]
    rfl
  rw [spilledSeqs_spillState] at hl
  exact absurd hl (by decide)

end Sys2Proof.Machine
end
